-- ==== Sys2Proof/Word.lean ====
section
/-! DEFINITION. The word types of the Izris: general registers (64 bits), vector registers (1024 bits),
predicates (128 bits), bins (32 bits) and memory bytes (R10, R36). -/

namespace Sys2Proof

/-- A general register, an address, a special register (R10, R17). -/
abbrev W64 := BitVec 64
/-- A bin, an immediate (R10, R78). -/
abbrev W32 := BitVec 32
/-- A vector register (R10). -/
abbrev VWord := BitVec 1024
/-- A predicate register (R10). -/
abbrev PWord := BitVec 128
/-- One byte of memory (R36). -/
abbrev Byte := BitVec 8
/-- An earmark: FMT in [15:8], SCALE in [7:0] (R50). -/
abbrev Mark := BitVec 16
/-- The 64 bytes of one line or block, byte i in bits [8i+7:8i] (R36, R50). -/
abbrev LineWord := BitVec 512

/-- Register names (R15): the class is the type, the number the value. -/
abbrev GReg := Fin 64
abbrev VReg := Fin 32
abbrev PReg := Fin 8
abbrev BReg := Fin 8

end Sys2Proof
end

