-- ==== Sys2Proof/Syntax.lean ====
section
/-! DEFINITION. The steps of the Izris: the 166 Kazkai instructions, the package's events, the mill
micro-operations, the command packets, the mailbox requests and the Lomwen custom instructions, one
constructor for each row of the opcode table. -/

namespace Sys2Proof

/-- Element type codes (R84). -/
inductive ElemType where
  | s8 | s16 | s32 | s64 | n8 | n16 | n32 | n64 | e4 | e5 | h | bf | f | d | s4 | t2 | bf2 | f2
  deriving DecidableEq, Repr

/-- Condition codes (R85). -/
inductive Cond where
  | eq | ne | lt | le | gt | ge | ltn | len | gtn | gen
  deriving DecidableEq, Repr

/-- Scopes (R73, R231). -/
inductive Scope where
  | lane | core | quad | field | die | pkg | pod
  deriving DecidableEq, Repr

/-- The space field of format M (R79, R147). -/
inductive Space where
  | virt | own | rem
  deriving DecidableEq, Repr

/-- The instruction header but for op, fn and SCOPE: guard and gate (R73). -/
structure Hdr where
  gp : PReg
  gn : Bool
  gate : Fin 4
  deriving DecidableEq, Repr

/-- Field b of format A or S: a register, or 0x7F and imm32 (R15). -/
inductive Src where
  | reg (r : GReg) | imm (i : W32)
  deriving DecidableEq, Repr

/-- A vector operand that may be the instruction's imm32 (R122). -/
inductive VSrc where
  | reg (r : VReg) | imm (i : W32)
  deriving DecidableEq, Repr

/-- Base, index, shift and displacement of format M, and its space (R79). -/
structure Addr where
  base : GReg
  index : GReg
  xs : Fin 4
  disp : BitVec 39
  space : Space
  deriving DecidableEq, Repr

/-- Op 0x10, binary (R96). -/
structure Alu where
  chk : Bool
  w : Bool
  d : GReg
  a : GReg
  b : Src
  deriving DecidableEq, Repr
/-- ABS (R96). -/
structure AluU where
  chk : Bool
  w : Bool
  d : GReg
  a : GReg
  deriving DecidableEq, Repr
/-- CMPP (R99). -/
structure CmpP where
  c : Cond
  d : PReg
  a : GReg
  b : Src
  deriving DecidableEq, Repr
/-- SETC (R99). -/
structure CmpG where
  c : Cond
  d : GReg
  a : GReg
  b : Src
  deriving DecidableEq, Repr
/-- CLZ to BSWAP (R101). -/
structure BitU where
  w : Bool
  d : GReg
  a : GReg
  deriving DecidableEq, Repr
/-- Jumps of format J (R114 to R117). -/
structure JCond where
  c : Cond
  a : GReg
  b : GReg
  disp : BitVec 50
  deriving DecidableEq, Repr
/-- Element-wise binary vector operations (R124, R127). -/
structure VBin where
  t : ElemType
  d : VReg
  a : VReg
  b : VSrc
  deriving DecidableEq, Repr
/-- Fused forms (R124). -/
structure VTri where
  t : ElemType
  d : VReg
  a : VReg
  b : VSrc
  c : VReg
  deriving DecidableEq, Repr
/-- Unary forms (R124), VMOV. -/
structure VUn where
  t : ElemType
  d : VReg
  a : VReg
  deriving DecidableEq, Repr
/-- VCMP (R128). -/
structure VCmp where
  c : Cond
  t : ElemType
  d : PReg
  a : VReg
  b : VSrc
  deriving DecidableEq, Repr
/-- VSEL (R130). -/
structure VSelO where
  t : ElemType
  d : VReg
  a : VReg
  b : VSrc
  c : PReg
  deriving DecidableEq, Repr
/-- Predicate logic (R131). -/
structure PBin where
  d : PReg
  a : PReg
  b : PReg
  deriving DecidableEq, Repr
/-- VCNT, VFIRST (R132). -/
structure VCount where
  t : ElemType
  d : GReg
  a : PReg
  deriving DecidableEq, Repr
/-- VPERM, VSHUF, VSLIDE: register forms (R133). -/
structure VPermO where
  t : ElemType
  d : VReg
  a : VReg
  b : VReg
  deriving DecidableEq, Repr
/-- VBCAST, VIDX: a scalar to a vector (R133). -/
structure VFromG where
  t : ElemType
  d : VReg
  b : Src
  deriving DecidableEq, Repr
/-- VEXT (R133). -/
structure VExtO where
  t : ElemType
  d : GReg
  a : VReg
  b : Src
  deriving DecidableEq, Repr
/-- VINS (R133). -/
structure VInsO where
  t : ElemType
  d : VReg
  a : GReg
  b : Src
  deriving DecidableEq, Repr
/-- Reduction operations (R138). -/
inductive RedOp where
  | add | min | max | and | or | xor
  deriving DecidableEq, Repr
/-- VCVT: destination type in t, source type in s (R145). -/
structure VCvtO where
  t : ElemType
  s : ElemType
  inf : Bool
  part : Fin 32
  d : VReg
  a : VReg
  deriving DecidableEq, Repr

/-- LD: size codes 0x0 to 0x6 (R156). -/
structure LdO where
  d : GReg
  a : Addr
  size : Fin 7
  na : Bool
  deriving DecidableEq, Repr
/-- ST: size codes 0x0 to 0x3; em the earmark register of a .mk store (R156, R168). -/
structure StO where
  d : GReg
  a : Addr
  size : Fin 4
  em : Option GReg
  deriving DecidableEq, Repr
structure LdqO where
  d : GReg
  a : Addr
  na : Bool
  deriving DecidableEq, Repr
structure StqO where
  d : GReg
  a : Addr
  em : Option GReg
  deriving DecidableEq, Repr
/-- Vector element size codes 0x8 to 0xC (R158). -/
inductive VSize where
  | b8 | b16 | b32 | b64 | vr
  deriving DecidableEq, Repr
structure LdvO where
  d : VReg
  a : Addr
  size : VSize
  na : Bool
  deriving DecidableEq, Repr
structure StvO where
  d : VReg
  a : Addr
  size : VSize
  em : Option GReg
  deriving DecidableEq, Repr
/-- LDVS, STVS: the stride register stands in the index of a (R158). -/
structure VsO where
  d : VReg
  a : Addr
  size : VSize
  na : Bool
  deriving DecidableEq, Repr
/-- GATH, SCAT: v[x] holds the offsets (R160). -/
structure GsO where
  d : VReg
  base : GReg
  x : VReg
  xs : Fin 4
  disp : BitVec 39
  space : Space
  size : VSize
  na : Bool
  deriving DecidableEq, Repr
/-- LDFE, STFE, FESTAT, SETMARK, GETMARK, LEA: a g register and an address. -/
structure GAddr where
  d : GReg
  a : Addr
  deriving DecidableEq, Repr
/-- Ordering of an atomic (R175). -/
inductive Ord where
  | none | acq (s : Scope) | rel (s : Scope) | ar (s : Scope)
  deriving DecidableEq, Repr
/-- Integer atomic operations, aop 0 to 8 (R176). -/
inductive AOp where
  | add | and | or | xor | min | max | minn | maxn | xchg
  deriving DecidableEq, Repr
/-- Floating atomic operations (R176). -/
inductive FOp where
  | fadd | fmin | fmax
  deriving DecidableEq, Repr
/-- Integer atomic sizes 0x2, 0x6, 0x3 (R176). -/
inductive ASize where
  | n32 | s32 | b64
  deriving DecidableEq, Repr
/-- AMOF element types (R176). -/
inductive FSize where
  | bf | f | bf2 | d | f2
  deriving DecidableEq, Repr
structure AmoO where
  op : AOp
  size : ASize
  nr : Bool
  ord : Ord
  d : GReg
  base : GReg
  x : GReg
  disp : BitVec 32
  deriving DecidableEq, Repr
structure AmofO where
  op : FOp
  size : FSize
  nr : Bool
  ord : Ord
  d : GReg
  base : GReg
  x : GReg
  disp : BitVec 32
  deriving DecidableEq, Repr
structure CasO where
  size : ASize
  ord : Ord
  d : GReg
  base : GReg
  x : GReg
  disp : BitVec 32
  deriving DecidableEq, Repr
structure Cas2O where
  ord : Ord
  d : GReg
  base : GReg
  x : GReg
  disp : BitVec 32
  deriving DecidableEq, Repr
/-- VAMO operations: integer on 32 or 64 bits, or floating by R176. -/
inductive VOp where
  | int (o : AOp) (wide : Bool) | flt (o : FOp) (z : FSize)
  deriving DecidableEq, Repr
structure VamoO where
  op : VOp
  nr : Bool
  ord : Ord
  d : VReg
  base : GReg
  x : VReg
  xs : Fin 4
  disp : BitVec 32
  deriving DecidableEq, Repr

/-- Fence kinds (R172). -/
inductive FenceKind where
  | acq | rel | full
  deriving DecidableEq, Repr

/-- HIRE (R81, R197): floor 0 hashed, 1 floor 0, 2 floor 1. -/
structure HireO where
  d : GReg
  s : GReg
  bin : BReg
  pri : Fin 4
  floor : Fin 3
  wf : Fin 4
  yf : Fin 4
  ord : Bool
  chain : Bool
  land : Bool
  m : Fin 512
  k : Fin 512
  n : Fin 256
  deriving DecidableEq, Repr

/-- STC: 8 bytes from g, 16 from a pair, 64 from v (R203). -/
inductive StcData where
  | g (r : GReg) | pair (r : GReg) | v (r : VReg)
  deriving DecidableEq, Repr
structure StcO where
  data : StcData
  base : GReg
  x : GReg
  disp : BitVec 39
  space : Space
  deriving DecidableEq, Repr
/-- STCM: 8 bytes from g or 64 from v, own space (R203). -/
inductive StcmData where
  | g (r : GReg) | v (r : VReg)
  deriving DecidableEq, Repr
structure StcmO where
  data : StcmData
  base : GReg
  x : GReg
  disp : BitVec 39
  deriving DecidableEq, Repr

/-- The masters of the management block (R389, R390). -/
inductive Port where
  | host | board | fabric
  deriving DecidableEq, Repr

/-- What a REGISTER_WRITE writes: registers of the package that have no row of their own. -/
inductive RegWrite where
  /-- A field of the debug window of the croft that hosts a tenant: offset, length, little-endian value (R379). -/
  | debug (core off len : Nat) (v : Nat)
  /-- The control store and entry table of a mill, by privileged firmware (R282). -/
  | millWord (g upc : Nat) (w : BitVec 128)
  | millEntry (g e : Nat) (v : Bool) (upc : Nat)
  /-- The two words of two paddocks' records, written together (R365). -/
  | paddocks (a : Nat) (fa : BitVec 72) (b : Nat) (fb : BitVec 72)
  | paddockService (a target : Nat) (en : Bool)
  /-- A fair's key for a paddock (R263). -/
  | fairKey (floor pad : Nat) (key : BitVec 12)
  /-- The page-table root of a set (R333), a tenant's hcap, pool, image area (R353). -/
  | root (set pa : Nat)
  /-- A firmware binding of a crib as a tenant's continuation queue (R228). -/
  | contq (ten crib : Nat)
  /-- The watchdog period of a die (R386). -/
  | watchdog (die period : Nat)
  /-- The management block, by port, offset and value (R389). -/
  | mgmt (p : Port) (off : Nat) (v : W64)
  /-- A word of the mailbox request area (R312). -/
  | mailbox (i : Nat) (v : W64)
  deriving DecidableEq, Repr

/-- What a soft error meets (R383). -/
inductive SoftError where
  | corrected (die : Nat)
  | croft (ten off : Nat)
  | barnLine (bank i : Nat)
  | rick (floor i : Nat)
  | link (i : Nat)
  | fetch (core i bit : Nat)
  | dram (pa : Nat)
  deriving DecidableEq, Repr

/-- What the hayward is given for one tenant of a new set (R353, R354). -/
structure TenantSpec where
  core : Nat
  pool : Nat
  steward : Nat
  wain : Nat
  save : Nat
  hcap : W64
  priv : Bool
  sbud : BitVec 14
  deriving DecidableEq, Repr

/-- What the hayward gives a new set, and each of its tenants, from BASE on (R352): every tenant of a set has its croft for the life
of the set. -/
structure SetSpec where
  set : Nat
  asid : Nat
  root : Nat
  paddock : Nat
  tenants : List TenantSpec
  deriving DecidableEq, Repr

/-- A mill micro-word's operands (R283). -/
structure Micro where
  ty : Option ElemType
  cond : Fin 5
  tgt : BitVec 8
  rd : Fin 8
  ra : Fin 8
  rb : Fin 8
  imm : W64
  deriving DecidableEq, Repr

/-- A command packet: its header flags and its payload words, word 0 first (R309). -/
structure Packet where
  nr : Bool
  wait : Bool
  kf : BitVec 8
  words : List W64
  deriving DecidableEq, Repr

/-- R-type fields of a Lomwen custom instruction (R319). -/
structure LmO where
  d : Fin 32
  a : Fin 32
  b : Fin 32
  deriving DecidableEq, Repr

/-- Every step of the opcode table. -/
inductive Instr where
  -- 0x00, 0x01
  | nop | brk (h : Hdr) (code : W32) | trap (h : Hdr) (code : W32)
  -- 0x10
  | add (h : Hdr) (o : Alu) | sub (h : Hdr) (o : Alu) | mul (h : Hdr) (o : Alu)
  | mulh (h : Hdr) (o : Alu) | mulhn (h : Hdr) (o : Alu)
  | div (h : Hdr) (o : Alu) | divn (h : Hdr) (o : Alu) | rem (h : Hdr) (o : Alu) | remn (h : Hdr) (o : Alu)
  | and (h : Hdr) (o : Alu) | or (h : Hdr) (o : Alu) | xor (h : Hdr) (o : Alu) | andn (h : Hdr) (o : Alu)
  | shl (h : Hdr) (o : Alu) | shr (h : Hdr) (o : Alu) | sha (h : Hdr) (o : Alu) | rol (h : Hdr) (o : Alu)
  | min (h : Hdr) (o : Alu) | max (h : Hdr) (o : Alu) | minn (h : Hdr) (o : Alu) | maxn (h : Hdr) (o : Alu)
  | abs (h : Hdr) (o : AluU)
  -- 0x11
  | cmpp (h : Hdr) (o : CmpP) | setc (h : Hdr) (o : CmpG)
  -- 0x12
  | clz (h : Hdr) (o : BitU) | ctz (h : Hdr) (o : BitU) | popc (h : Hdr) (o : BitU) | brev (h : Hdr) (o : BitU)
  | bswap (h : Hdr) (o : BitU)
  | bfx (h : Hdr) (d a : GReg) (b : Src) | bfxn (h : Hdr) (d a : GReg) (b : Src)
  | bfi (h : Hdr) (d a : GReg) (b : Src) (c : GReg)
  | sel (h : Hdr) (d a : GReg) (b : Src) (c : PReg)
  -- 0x13
  | mov (h : Hdr) (d a : GReg) | li (h : Hdr) (d : GReg) (i : W32) | lih (h : Hdr) (d : GReg) (i : W32)
  | mfs (h : Hdr) (d : GReg) (n : Fin 32) | mts (h : Hdr) (n : Fin 32) (a : GReg)
  | mfb (h : Hdr) (d : GReg) (a : BReg) | mtb (h : Hdr) (d : BReg) (b : Src)
  | mfp (h : Hdr) (hi : Bool) (d : GReg) (a : PReg) | mtp (h : Hdr) (hi : Bool) (d : PReg) (a : GReg)
  -- 0x14
  | lea (h : Hdr) (d : GReg) (base index : GReg) (xs : Fin 4) (disp : BitVec 39)
  -- 0x18
  | br (h : Hdr) (disp : BitVec 50) | bc (h : Hdr) (c : Cond) (a : GReg) (disp : BitVec 50)
  | bcmp (h : Hdr) (o : JCond) | loop (h : Hdr) (a : GReg) (disp : BitVec 50)
  | call (h : Hdr) (b : GReg) (disp : BitVec 50)
  | jmp (h : Hdr) (a : GReg) | jmpl (h : Hdr) (a b : GReg) | ret (h : Hdr) (a : GReg)
  -- 0x20
  | vadd (h : Hdr) (o : VBin) | vsub (h : Hdr) (o : VBin) | vmul (h : Hdr) (o : VBin)
  | vfma (h : Hdr) (o : VTri) | vfms (h : Hdr) (o : VTri) | vfnma (h : Hdr) (o : VTri)
  | vdiv (h : Hdr) (o : VBin) | vsqrt (h : Hdr) (o : VUn) | vrcp (h : Hdr) (o : VUn) | vrsq (h : Hdr) (o : VUn)
  | vmin (h : Hdr) (o : VBin) | vmax (h : Hdr) (o : VBin) | vabs (h : Hdr) (o : VUn) | vneg (h : Hdr) (o : VUn)
  | vmulh (h : Hdr) (o : VBin) | vadds (h : Hdr) (o : VBin) | vsubs (h : Hdr) (o : VBin)
  -- 0x21
  | vand (h : Hdr) (o : VBin) | vor (h : Hdr) (o : VBin) | vxor (h : Hdr) (o : VBin) | vandn (h : Hdr) (o : VBin)
  | vshl (h : Hdr) (o : VBin) | vshr (h : Hdr) (o : VBin) | vsha (h : Hdr) (o : VBin)
  -- 0x22
  | vcmp (h : Hdr) (o : VCmp) | vsel (h : Hdr) (o : VSelO)
  | pand (h : Hdr) (o : PBin) | por (h : Hdr) (o : PBin) | pxor (h : Hdr) (o : PBin) | pnot (h : Hdr) (d a : PReg)
  | vcnt (h : Hdr) (o : VCount) | vfirst (h : Hdr) (o : VCount)
  -- 0x23
  | vpermb (h : Hdr) (d a : VReg) (b : VSrc) | vperm (h : Hdr) (o : VPermO)
  | vshuf (h : Hdr) (mode : Fin 4) (o : VPermO)
  | vbcast (h : Hdr) (o : VFromG) | vext (h : Hdr) (o : VExtO) | vins (h : Hdr) (o : VInsO)
  | vidx (h : Hdr) (o : VFromG) | vmov (h : Hdr) (o : VUn) | vslide (h : Hdr) (o : VPermO) (c : GReg)
  -- 0x24
  | vred (h : Hdr) (op : RedOp) (t : ElemType) (d : GReg) (a : VReg) (c : PReg)
  | vscan (h : Hdr) (op : RedOp) (t : ElemType) (d : VReg) (a : VReg) (c : PReg)
  | vdot4 (h : Hdr) (uns su : Bool) (d a : VReg) (b : VSrc) (c : VReg)
  | vxaccClr (h : Hdr) (d : VReg) | vxaccAdd (h : Hdr) (d a : VReg) (b : VSrc)
  | vxaccRd (h : Hdr) (t : ElemType) (d a : VReg)
  -- 0x25
  | vcvt (h : Hdr) (o : VCvtO)
  -- 0x30, 0x31
  | ld (h : Hdr) (o : LdO) | st (h : Hdr) (o : StO) | ldq (h : Hdr) (o : LdqO) | stq (h : Hdr) (o : StqO)
  | ldv (h : Hdr) (o : LdvO) | stv (h : Hdr) (o : StvO) | ldvs (h : Hdr) (o : VsO) | stvs (h : Hdr) (o : VsO)
  | gath (h : Hdr) (o : GsO) | scat (h : Hdr) (o : GsO)
  -- 0x32, 0x33, 0x34
  | ldfe (h : Hdr) (keep : Bool) (o : GAddr) | stfe (h : Hdr) (force : Bool) (o : GAddr) | festat (h : Hdr) (o : GAddr)
  | setmark (h : Hdr) (o : GAddr) | getmark (h : Hdr) (o : GAddr)
  | pref (h : Hdr) (na : Bool) (a : Addr) | invl (h : Hdr) (i : Bool) (a : Addr)
  | fence (h : Hdr) (k : FenceKind) (s : Scope) | drain (h : Hdr) (m : Fin 8)
  -- 0x38 to 0x3B
  | amo (h : Hdr) (o : AmoO) | amof (h : Hdr) (o : AmofO) | cas (h : Hdr) (o : CasO) | cas2 (h : Hdr) (o : Cas2O)
  | vamo (h : Hdr) (o : VamoO)
  -- 0x40, 0x41
  | waitb (h : Hdr) (a : BReg) (b : Src)
  | bar (h : Hdr) (s : Scope) (id : Fin 16) (d : GReg) (b : Src)
  | bara (h : Hdr) (s : Scope) (id : Fin 16) (bin : Option BReg) (b : Src)
  | barw (h : Hdr) (s : Scope) (id : Fin 16) (d : GReg)
  -- 0x42, 0x43
  | cradd (h : Hdr) (a : GReg) (b : VReg) | crtake (h : Hdr) (d : VReg) (a : GReg)
  | crtry (h : Hdr) (d : VReg) (a : GReg) (b : PReg) | crstat (h : Hdr) (d a : GReg)
  | crinit (h : Hdr) (a b : GReg) (size : Fin 16777216) | crinitUnbind (h : Hdr) (a : GReg)
  | chsend (h : Hdr) (a b : GReg) | chnext (h : Hdr) (d a : GReg)
  | chhold (h : Hdr) (set : Bool) (a : GReg) | chready (h : Hdr) (set : Bool) (a : GReg)
  | chbind (h : Hdr) (hold ready : Bool) (a b : GReg) | chbindUnbind (h : Hdr) (hold ready : Bool) (a : GReg)
  -- 0x50, 0x51, 0x52
  | hire (h : Hdr) (o : HireO) | hstat (h : Hdr) (d a : GReg) | hdrop (h : Hdr) (d a : GReg)
  | shpush (h : Hdr) (d : VReg) (base x : GReg)
  | stc (h : Hdr) (o : StcO) | stcm (h : Hdr) (o : StcmO)
  | freeb (h : Hdr) (a : GReg) (tag : BitVec 8) | glean (h : Hdr) (e : Fin 8) (a : GReg) (bin : BReg)
  | wkick (h : Hdr) (d : GReg) (base : GReg) (disp : BitVec 39) (own : Bool)
  | mcall (h : Hdr) (e : Fin 32) (a : GReg) (bin : BReg)
  -- 0x60, 0x70
  | spawn (h : Hdr) (d a b : GReg) (budget : BitVec 14) | reap (h : Hdr) (d a : GReg) | exit (h : Hdr) (a : GReg)
  | susp (h : Hdr) (tag : BitVec 8) | resume (h : Hdr) (a : GReg) (tag : BitVec 8) | yield (h : Hdr)
  | shoot (h : Hdr) (d a b : GReg)
  | fairctlResume (h : Hdr) (d a : GReg) (floor : Bool) | fairctlDrop (h : Hdr) (d a : GReg) (floor : Bool)
  | fairctlStat (h : Hdr) (d : GReg) (floor : Bool)
  | swapctlWindow (h : Hdr) (d b : GReg) (die : Fin 8) | swapctlTheta (h : Hdr) (d b : GReg) (die : Fin 8)
  | swapctlEnable (h : Hdr) (d b : GReg) (die : Fin 8) | swapctlRead (h : Hdr) (d : GReg) (die : Fin 8)
  -- mill micro-operations
  | millEnd (m : Micro) | millBr (m : Micro) | millLi (m : Micro) | millAdd (m : Micro)
  | lfill (m : Micro) | lcopy (m : Micro) | lfma (m : Micro) | lscal (m : Micro) | lred (m : Micro) | ltz (m : Micro)
  | lzmk (m : Micro) | stw (m : Micro)
  -- command packets
  | packetNop (p : Packet) | launch (p : Packet) | copyPacket (p : Packet) | millPacket (p : Packet) | waitmem (p : Packet)
  | ib (p : Packet) | loopPacket (p : Packet) | ffence (p : Packet) | signal (p : Packet)
  -- mailbox requests
  | qconfig (f q : Nat) (base size vec : W64) | qenable (f q : Nat) | qdisable (f q : Nat)
  | mrconfig (f : Nat) (base size vec : W64) | irqroute (f vec : Nat) (addr : W64) (data : W64)
  | fbind (f : Nat) (set : W64) | qpreempt (f q : Nat) | qrestore (f q : Nat) | ashoot (f : Nat) (va len : W64)
  -- Lomwen
  | lmRfetch (o : LmO) | lmBext (o : LmO) | lmSwait (d a : Fin 32) | lmDisp (o : LmO) | lmdoneRead (rd : Fin 32)
  -- host accesses, host and hayward requests, hardware conditions that carry data
  | registerWrite (w : RegWrite)
  | apertureRead (f addr len : Nat) | apertureWrite (f addr : Nat) (bytes : List Byte)
  | hostAtomic (f addr : Nat) (expect new : W64)
  | kickWrite (f off : Nat) (v : W64) | millRingKick (f : Nat) (v : W64) | mailboxDoorbell (v : W64)
  | lockInterface (f : Nat) | startInterface (f : Nat) | stopInterface (f : Nat)
  | getDeviceInterfaceState (f : Nat) | getDeviceInterfaceReport (f : Nat) | spdmMeasurementRequest (i : Nat)
  | tdispInterfaceError (f : Nat)
  | ownerClaim (p : Port) (v : W64) | handoverRelease (p : Port) | handoverWithdraw (p : Port)
  | handoverOffer (p : Port) (target : Fin 4)
  | activate (p : Port) (v : W64) | logposWrite (p : Port) (v : W64) | plimitWrite (p : Port) (v : W64)
  | tlimitWrite (p : Port) (v : W64)
  | throttle (watts : Nat) (temps : List Nat) | thermalTrip (temp : Nat)
  | softError (e : SoftError) | tenantCreate (x : SetSpec) | tenantSetDeletion (set : Nat)
  | stageCDone (trained : Nat) (floors : Nat) (failed0 failed1 : List Nat) (dwy : Bool)
  | laneRepair (module lane : Nat) (ok : Bool)
  -- events that act at a place the schedule names (State.arg: a context, a position in the list of packets in
  -- flight, a unit): runs and contexts
  | runSeal | park | postedStoreAck | accessReply | faultAnswer | abortWaitEnd | landing | parkedWake | eviction
  | recordTake | launchSow
  -- homes
  | homeStore | homeLoad | homeAtomic | barnFill | droveCombine | droveSplit
  | remoteCroftAccess | remoteFeRequest | feRetry | channelMessage | resumeArrival | barrierArrival | podCollectiveAbort
  | cribAppend | cribTake | cribStat | cribBind | crtakeRetry | stcmDelivery | multicastFree
  -- fairs and threshers
  | fairRegister | fairGrant | sheafArrival | lastSegment | landingEngineGrant | landingFault | rickPreempt
  | landingPacketIssue
  -- weighbridges, mills, meadow, reports
  | translationWalk | millCallAccept | routerPowerDown | routerWake | packetDrop | lossReport
  | faultPacketReoffer | haywardPacketDelivery
  -- swaps, tenants, borders, debug commands
  | swapWindowClose | swapStateCrossed | routersSwitched | drainMarker | relocate | servicePeriodEnd
  | borderQuiesced | borderRelocated | borderBanksEmpty | borderShootsDone
  | debugRelease | debugKill | debugFreeze | debugZeroCounts | debugEvict
  -- front ends, start
  | queueSaveWrite | pollTick | watchdogExpiry
  | powerGood | stageADone | stageBDone | powerLoss
  deriving DecidableEq, Repr

end Sys2Proof
end

