-- ==== Sys2Proof/WellFormed.lean ====
section
/-! DEFINITION. Which instruction terms have an encoding: the operand limits of the instruction reference. -/

namespace Sys2Proof

/-- Type sets of R121. -/
def ElemType.inI : ElemType → Bool
  | .s8 | .s16 | .s32 | .s64 | .n8 | .n16 | .n32 | .n64 => true
  | _ => false
def ElemType.inS : ElemType → Bool
  | .s8 | .s16 | .s32 | .s64 => true
  | _ => false
def ElemType.inFS : ElemType → Bool
  | .h | .bf | .f | .d => true
  | _ => false
def ElemType.inF : ElemType → Bool
  | .h | .bf | .f | .d | .bf2 | .f2 => true
  | _ => false
def ElemType.inW : ElemType → Bool
  | .s4 | .t2 => false
  | _ => true

/-- Element width in bits (R11). -/
def ElemType.width : ElemType → Nat
  | .t2 => 2 | .s4 => 4
  | .s8 | .n8 | .e4 | .e5 => 8
  | .s16 | .n16 | .h | .bf => 16
  | .s32 | .n32 | .f | .bf2 => 32
  | .s64 | .n64 | .d | .f2 => 64

/-- Conditions 0x0 to 0x5 (R85). -/
def Cond.signed : Cond → Bool
  | .ltn | .len | .gtn | .gen => false
  | _ => true

def even (r : GReg) : Bool := r.val % 2 == 0

/-- A .mk form takes its earmark from the index field: no index, no shift (R168). -/
def emOk (a : Addr) : Option GReg → Bool
  | none => true
  | some _ => a.index == 0 && a.xs == 0

/-- The scope of an ordered atomic is 1 to 6 (R175). -/
def Ord.ok : Ord → Bool
  | .none => true
  | .acq s | .rel s | .ar s => s != .lane

/-- NR excludes .acq and .ar (R176). -/
def Ord.nrOk : Ord → Bool
  | .none | .rel _ => true
  | _ => false

/-- A budget: GB 1 to 64 in [6:0], VB at most 32 in [13:8], bit 7 zero (R21, R212). -/
def budgetOk (b : BitVec 14) : Bool :=
  let gb := b.toNat % 128
  let vb := b.toNat / 256
  1 ≤ gb && gb ≤ 64 && vb ≤ 32 && b.toNat / 128 % 2 == 0

def scopeOk : Scope → Bool
  | .lane | .core => false
  | _ => true

/-- TYPE of a micro-word: an element type for line arithmetic, else zero (R283). -/
def microTy (arith : Bool) : Option ElemType → Bool
  | none => !arith
  | some t => arith && (t == .bf || t == .f || t == .d || t == .s64)

def Micro.ok (arith br : Bool) (m : Micro) : Bool :=
  microTy arith m.ty && (br || (m.cond == 0 && m.tgt == 0))

/-- The header's KF allows bit 31, and bits 24 and 25 on SIGNAL; LEN is the number of words (R309, R310, R314). -/
def Packet.ok (opc len : Nat) (sig : Bool) (p : Packet) : Bool :=
  p.words.length == len && (p.kf.toNat % 128 < (if sig then 4 else 1)) &&
  (match p.words with
   | w :: _ => w.toNat % 256 == opc && w.toNat / 256 % 256 == len && (w.toNat / 2 ^ 16 % 2 == 1) == p.nr &&
      (w.toNat / 2 ^ 17 % 2 == 1) == p.wait && w.toNat / 2 ^ 18 % 64 == 0 && w.toNat / 2 ^ 24 % 256 == p.kf.toNat
   | [] => false)

/-- Bits [hi:lo] of word i of a packet. -/
def Packet.f (p : Packet) (i lo n : Nat) : Nat := (p.words.getD i 0).toNat / 2 ^ lo % 2 ^ n

/-- A ring or mill ring: its base, its size, its vector and interrupt enable (R312). -/
def ringOk (base size vec : W64) : Bool :=
  base.toNat / 2 ^ 58 == 0 && base.toNat % 4096 == 0 && 12 ≤ size.toNat && size.toNat ≤ 24 && vec.toNat < 512

/-- Instructions that their encodings admit (R76, R83 and each entry). -/
def wf : Instr → Bool
  | .mulh _ o | .mulhn _ o => !o.chk && !o.w
  | .and _ o | .or _ o | .xor _ o | .andn _ o | .shr _ o | .sha _ o | .rol _ o
  | .min _ o | .max _ o | .minn _ o | .maxn _ o => !o.chk
  | .loop _ a _ => a != 0
  | .vadd _ o | .vsub _ o | .vmul _ o | .vmin _ o | .vmax _ o => o.t.inI || o.t.inF
  | .vfma _ o | .vfms _ o | .vfnma _ o => o.t.inF
  | .vdiv _ o => o.t.inF
  | .vsqrt _ o | .vrcp _ o | .vrsq _ o => o.t.inF
  | .vabs _ o | .vneg _ o => o.t.inS || o.t.inF
  | .vmulh _ o | .vadds _ o | .vsubs _ o | .vshl _ o | .vshr _ o | .vsha _ o => o.t.inI
  | .vcmp _ o => (o.t.inI || o.t.inFS || o.t == .e4 || o.t == .e5) && (o.t.inI || o.c.signed)
  | .vperm _ o => o.t.inW
  | .vshuf _ _ o => o.t.inW
  | .vslide _ o _ => o.t.inW
  | .vidx _ o => o.t.inI
  | .vred _ op t _ _ _ => t.inI || (t.inFS && (op == .add || op == .min || op == .max))
  | .vscan _ op t _ _ _ => (t.inI || t.inFS) && (op == .add || op == .min || op == .max)
  | .vdot4 _ uns su _ _ _ _ => !(uns && su)
  | .vxaccRd _ t _ _ => t == .f || t == .bf || t == .d || t == .s32
  | .vcvt _ o => o.s != o.t && o.s != .bf2 && o.s != .f2 && o.t != .bf2 && o.t != .f2 &&
      (!o.inf || o.t == .e5) &&
      o.part.val < Nat.max o.s.width o.t.width / Nat.min o.s.width o.t.width
  | .st _ o => emOk o.a o.em
  | .ldq _ o => even o.d
  | .stq _ o => even o.d && emOk o.a o.em
  | .stv _ o => emOk o.a o.em
  | .ldvs _ o => o.size != .vr && o.a.index != 0
  | .stvs _ o => o.size != .vr && o.a.index != 0 && !o.na
  | .gath _ o => o.size == .b32 || o.size == .b64
  | .scat _ o => (o.size == .b32 || o.size == .b64) && !o.na
  | .fence _ _ s => s != .lane
  | .drain _ m => m != 0
  | .amo _ o => o.ord.ok && (!o.nr || (o.ord.nrOk && o.d == 0))
  | .amof _ o => o.ord.ok && (!o.nr || (o.ord.nrOk && o.d == 0))
  | .cas _ o => o.ord.ok
  | .cas2 _ o => o.ord.ok && even o.d && even o.x
  | .vamo _ o => o.ord.ok && (!o.nr || o.ord.nrOk) && (match o.op with | .flt _ .bf => false | _ => true)
  | .bar _ s _ _ _ | .barw _ s _ _ => scopeOk s
  | .bara _ s _ bin _ => scopeOk s && (bin.isNone || s == .pod)
  | .chsend _ _ b => even b
  | .chnext _ d _ => even d
  | .hire _ o => o.s.val ≤ 0x3C
  | .stc _ o => (match o.data with | .pair r => even r | _ => true)
  | .spawn _ _ _ _ b => budgetOk b
  | .millEnd m | .millLi m | .millAdd m | .lfill m | .lcopy m | .ltz m | .lzmk m | .stw m => m.ok false false
  | .millBr m => m.ok false true
  | .lfma m | .lscal m | .lred m => m.ok true false
  | .packetNop p => p.words.length ≥ 1 && Packet.ok 0 p.words.length false p
  | .launch p => p.ok 1 5 false && p.f 1 57 7 == 0 && p.f 3 53 11 == 0 && p.f 4 14 50 == 0 &&
      1 ≤ p.f 0 32 32 && 1 ≤ p.f 3 24 24 && 1 ≤ p.f 3 48 4 && p.f 3 48 4 ≤ 14 && budgetOk (BitVec.ofNat 14 (p.f 4 0 14))
  | .copyPacket p => p.ok 2 4 false && p.f 0 32 32 == 0 && p.f 1 0 6 == 0 && p.f 2 0 6 == 0 && p.f 3 0 6 == 0
  | .millPacket p => p.ok 3 5 false && p.f 0 37 27 == 0
  | .waitmem p => p.ok 4 4 false && p.f 0 34 30 == 0 && p.f 1 0 3 == 0
  | .ib p => p.ok 5 3 false && p.f 0 32 32 == 0 && p.f 1 0 3 == 0 && p.f 2 0 3 == 0 &&
      8 ≤ p.f 2 0 64 && p.f 2 0 64 ≤ 2 ^ 24
  | .loopPacket p => p.ok 6 1 false && 1 ≤ p.f 0 32 16
  | .ffence p => p.ok 7 1 false && p.f 0 32 32 == 0
  | .signal p => p.ok 8 3 true && p.f 0 32 32 == 0 && p.f 1 0 3 == 0
  | .qconfig f q base size vec => f ≤ 64 && q < 4096 && ringOk base size vec
  | .qenable f q | .qdisable f q | .qpreempt f q | .qrestore f q => f ≤ 64 && q < 4096
  | .mrconfig f base size vec => f ≤ 64 && ringOk base size vec
  | .irqroute f vec _ data => f ≤ 64 && vec < 256 && data.toNat < 2 ^ 33
  | .fbind f set => f ≤ 64 && set.toNat < 2 ^ 24
  | .ashoot f _ _ => f ≤ 64
  | _ => true

end Sys2Proof
end

