-- ==== Sys2Proof/Decode.lean ====
section
/-! DEFINITION. Decoding of Kazkai slots, mill micro-words, command packets, management requests and Lomwen custom
words, and the encoders written from the same tables. -/

namespace Sys2Proof

/-! ## Fields -/

/-- Fields of the given widths, the first at the least significant end. -/
def unpackN : List Nat → Nat → List Nat
  | [], _ => []
  | w :: ws, x => x % 2 ^ w :: unpackN ws (x / 2 ^ w)

def packN : List Nat → List Nat → Nat
  | w :: ws, v :: vs => v + 2 ^ w * packN ws vs
  | _, _ => 0

/-- Body widths of formats A, M, J, H, S, then SCOPE, GATE, GN, GP, fn, op (R73, R78 to R82). -/
def hdrW : List Nat := [3, 2, 1, 3, 8, 8]
def widthsA : List Nat := [32, 5, 6, 7, 7, 7, 7] ++ hdrW
def widthsM : List Nat := [39, 1, 1, 3, 4, 2, 7, 7, 7] ++ hdrW
def widthsJ : List Nat := [50, 3, 4, 7, 7] ++ hdrW
def widthsH : List Nat := [16, 8, 9, 9, 3, 2, 3, 2, 2, 3, 7, 7] ++ hdrW
def widthsS : List Nat := [32, 8, 10, 7, 7, 7] ++ hdrW

/-- Register fields (R15). -/
def gOf (x : Nat) : Option GReg := if h : x < 64 then some ⟨x, h⟩ else none
def vOf (x : Nat) : Option VReg := if 64 ≤ x then (if h : x - 64 < 32 then some ⟨x - 64, h⟩ else none) else none
def pOf (x : Nat) : Option PReg := if 96 ≤ x then (if h : x - 96 < 8 then some ⟨x - 96, h⟩ else none) else none
def bOf (x : Nat) : Option BReg := if 104 ≤ x then (if h : x - 104 < 8 then some ⟨x - 104, h⟩ else none) else none
def gC (r : GReg) : Nat := r.val
def vC (r : VReg) : Nat := 64 + r.val
def pC (r : PReg) : Nat := 96 + r.val
def bC (r : BReg) : Nat := 104 + r.val

/-- A number below n. -/
def finOf (n x : Nat) : Option (Fin n) := if h : x < n then some ⟨x, h⟩ else none

/-- Proceed when b holds. -/
def need {α : Type} (b : Bool) (x : Option α) : Option α := if b then x else none

/-- Field b with imm32 (R15, R78). -/
def srcOf (b imm : Nat) : Option Src :=
  if b = 0x7F then some (.imm (BitVec.ofNat 32 imm)) else need (imm == 0) ((gOf b).map .reg)
def vsrcOf (b imm : Nat) : Option VSrc :=
  if b = 0x7F then some (.imm (BitVec.ofNat 32 imm)) else need (imm == 0) ((vOf b).map .reg)
def srcB : Src → Nat
  | .reg r => gC r | .imm _ => 0x7F
def srcI : Src → Nat
  | .reg _ => 0 | .imm i => i.toNat
def vsrcB : VSrc → Nat
  | .reg r => vC r | .imm _ => 0x7F
def vsrcI : VSrc → Nat
  | .reg _ => 0 | .imm i => i.toNat

def ElemType.code : ElemType → Nat
  | .s8 => 0 | .s16 => 1 | .s32 => 2 | .s64 => 3 | .n8 => 4 | .n16 => 5 | .n32 => 6 | .n64 => 7 | .e4 => 8 | .e5 => 9
  | .h => 10 | .bf => 11 | .f => 12 | .d => 13 | .s4 => 14 | .t2 => 15 | .bf2 => 16 | .f2 => 17
def tyOf : Nat → Option ElemType
  | 0 => some .s8 | 1 => some .s16 | 2 => some .s32 | 3 => some .s64 | 4 => some .n8 | 5 => some .n16
  | 6 => some .n32 | 7 => some .n64 | 8 => some .e4 | 9 => some .e5 | 10 => some .h | 11 => some .bf
  | 12 => some .f | 13 => some .d | 14 => some .s4 | 15 => some .t2 | 16 => some .bf2 | 17 => some .f2 | _ => none
def Cond.code : Cond → Nat
  | .eq => 0 | .ne => 1 | .lt => 2 | .le => 3 | .gt => 4 | .ge => 5 | .ltn => 6 | .len => 7 | .gtn => 8 | .gen => 9
def condOf : Nat → Option Cond
  | 0 => some .eq | 1 => some .ne | 2 => some .lt | 3 => some .le | 4 => some .gt | 5 => some .ge
  | 6 => some .ltn | 7 => some .len | 8 => some .gtn | 9 => some .gen | _ => none
def Scope.code : Scope → Nat
  | .lane => 0 | .core => 1 | .quad => 2 | .field => 3 | .die => 4 | .pkg => 5 | .pod => 6
def scopeOf : Nat → Option Scope
  | 0 => some .lane | 1 => some .core | 2 => some .quad | 3 => some .field | 4 => some .die | 5 => some .pkg
  | 6 => some .pod | _ => none
def Space.code : Space → Nat
  | .virt => 0 | .own => 1 | .rem => 2
def spaceOf : Nat → Option Space
  | 0 => some .virt | 1 => some .own | 2 => some .rem | _ => none
def VSize.code : VSize → Nat
  | .b8 => 8 | .b16 => 9 | .b32 => 10 | .b64 => 11 | .vr => 12
def vsizeOf : Nat → Option VSize
  | 8 => some .b8 | 9 => some .b16 | 10 => some .b32 | 11 => some .b64 | 12 => some .vr | _ => none
def RedOp.code : RedOp → Nat
  | .add => 0 | .min => 1 | .max => 2 | .and => 3 | .or => 4 | .xor => 5
def redOf : Nat → Option RedOp
  | 0 => some .add | 1 => some .min | 2 => some .max | 3 => some .and | 4 => some .or | 5 => some .xor | _ => none
def AOp.code : AOp → Nat
  | .add => 0 | .and => 1 | .or => 2 | .xor => 3 | .min => 4 | .max => 5 | .minn => 6 | .maxn => 7 | .xchg => 8
def aopOf : Nat → Option AOp
  | 0 => some .add | 1 => some .and | 2 => some .or | 3 => some .xor | 4 => some .min | 5 => some .max
  | 6 => some .minn | 7 => some .maxn | 8 => some .xchg | _ => none
def FOp.code : FOp → Nat
  | .fadd => 0 | .fmin => 1 | .fmax => 2
def fopOf : Nat → Option FOp
  | 0 => some .fadd | 1 => some .fmin | 2 => some .fmax | _ => none
def ASize.code : ASize → Nat
  | .n32 => 2 | .s32 => 6 | .b64 => 3
def asizeOf : Nat → Option ASize
  | 2 => some .n32 | 6 => some .s32 | 3 => some .b64 | _ => none
/-- AMOF size code and PK (R176). -/
def FSize.code : FSize → Nat × Nat
  | .bf => (9, 0) | .f => (10, 0) | .bf2 => (10, 1) | .d => (11, 0) | .f2 => (11, 1)
def fsizeOf : Nat → Nat → Option FSize
  | 9, 0 => some .bf | 10, 0 => some .f | 10, 1 => some .bf2 | 11, 0 => some .d | 11, 1 => some .f2 | _, _ => none
/-- ord and SCOPE (R175). -/
def Ord.code : Ord → Nat × Nat
  | .none => (0, 0) | .acq s => (1, s.code) | .rel s => (2, s.code) | .ar s => (3, s.code)
def ordOf (o sc : Nat) : Option Ord :=
  match o with
  | 0 => need (sc == 0) (some .none)
  | 1 => (scopeOf sc).map .acq
  | 2 => (scopeOf sc).map .rel
  | 3 => (scopeOf sc).map .ar
  | _ => none
def FenceKind.code : FenceKind → Nat
  | .acq => 0 | .rel => 1 | .full => 2
def fenceOf : Nat → Option FenceKind
  | 0 => some .acq | 1 => some .rel | 2 => some .full | _ => none

/-! ## Format A -/

/-- The constructors of op 0x10 (R96). -/
def aluOf : Nat → Option (Hdr → Alu → Instr)
  | 0x00 => some .add | 0x01 => some .sub | 0x02 => some .mul | 0x03 => some .mulh | 0x04 => some .mulhn
  | 0x05 => some .div | 0x06 => some .divn | 0x07 => some .rem | 0x08 => some .remn | 0x09 => some .and
  | 0x0A => some .or | 0x0B => some .xor | 0x0C => some .andn | 0x0D => some .shl | 0x0E => some .shr
  | 0x0F => some .sha | 0x10 => some .rol | 0x11 => some .min | 0x12 => some .max | 0x13 => some .minn
  | 0x14 => some .maxn | _ => none
/-- The unary bit operations of op 0x12 (R101). -/
def bitOf : Nat → Option (Hdr → BitU → Instr)
  | 0 => some .clz | 1 => some .ctz | 2 => some .popc | 3 => some .brev | 4 => some .bswap | _ => none
/-- Op 0x20: binary, fused, unary (R124). -/
def vbinOf : Nat → Option (Hdr → VBin → Instr)
  | 0x00 => some .vadd | 0x01 => some .vsub | 0x02 => some .vmul | 0x06 => some .vdiv | 0x0A => some .vmin
  | 0x0B => some .vmax | 0x0E => some .vmulh | 0x0F => some .vadds | 0x10 => some .vsubs | _ => none
def vtriOf : Nat → Option (Hdr → VTri → Instr)
  | 0x03 => some .vfma | 0x04 => some .vfms | 0x05 => some .vfnma | _ => none
def vunOf : Nat → Option (Hdr → VUn → Instr)
  | 0x07 => some .vsqrt | 0x08 => some .vrcp | 0x09 => some .vrsq | 0x0C => some .vabs | 0x0D => some .vneg | _ => none
/-- Op 0x21 (R127). -/
def vbitOf : Nat → Option (Hdr → VBin → Instr)
  | 0 => some .vand | 1 => some .vor | 2 => some .vxor | 3 => some .vandn | 4 => some .vshl | 5 => some .vshr
  | 6 => some .vsha | _ => none

/-- Format A bodies by op and fn (R86, R96 to R146). -/
def decA (op fn : Nat) (h : Hdr) (d a b c ty md imm : Nat) : Option Instr :=
  match op with
  | 0x10 => need (c == 0 && ty == 0 && md < 4) <|
      if fn = 0x15 then need (b == 0 && imm == 0) do
        some (.abs h ⟨md % 2 == 1, md / 2 == 1, ← gOf d, ← gOf a⟩)
      else do some ((← aluOf fn) h ⟨md % 2 == 1, md / 2 == 1, ← gOf d, ← gOf a, ← srcOf b imm⟩)
  | 0x11 => need (c == 0 && ty == 0) <|
      match fn with
      | 0 => do some (.cmpp h ⟨← condOf md, ← pOf d, ← gOf a, ← srcOf b imm⟩)
      | 1 => do some (.setc h ⟨← condOf md, ← gOf d, ← gOf a, ← srcOf b imm⟩)
      | _ => none
  | 0x12 =>
      match fn with
      | 5 => need (c == 0 && ty == 0 && md == 0) do some (.bfx h (← gOf d) (← gOf a) (← srcOf b imm))
      | 6 => need (c == 0 && ty == 0 && md == 0) do some (.bfxn h (← gOf d) (← gOf a) (← srcOf b imm))
      | 7 => need (ty == 0 && md == 0) do some (.bfi h (← gOf d) (← gOf a) (← srcOf b imm) (← gOf c))
      | 8 => need (ty == 0 && md == 0) do some (.sel h (← gOf d) (← gOf a) (← srcOf b imm) (← pOf c))
      | _ => need (b == 0 && c == 0 && ty == 0 && imm == 0 && (md == 0 || md == 2)) do
          some ((← bitOf fn) h ⟨md == 2, ← gOf d, ← gOf a⟩)
  | 0x13 => need (ty == 0 && c == 0) <|
      match fn with
      | 0 => need (b == 0 && imm == 0 && md == 0) do some (.mov h (← gOf d) (← gOf a))
      | 1 => need (a == 0 && b == 0x7F && md == 0) do some (.li h (← gOf d) (BitVec.ofNat 32 imm))
      | 2 => need (a == 0 && b == 0x7F && md == 0) do some (.lih h (← gOf d) (BitVec.ofNat 32 imm))
      | 3 => need (a == 0 && b == 0x7F && md == 0) do some (.mfs h (← gOf d) (← finOf 32 imm))
      | 4 => need (d == 0 && b == 0x7F && md == 0) do some (.mts h (← finOf 32 imm) (← gOf a))
      | 5 => need (b == 0 && imm == 0 && md == 0) do some (.mfb h (← gOf d) (← bOf a))
      | 6 => need (a == 0 && md == 0) do some (.mtb h (← bOf d) (← srcOf b imm))
      | 7 => need (b == 0 && imm == 0 && md < 2) do some (.mfp h (md == 1) (← gOf d) (← pOf a))
      | 8 => need (b == 0 && imm == 0 && md < 2) do some (.mtp h (md == 1) (← pOf d) (← gOf a))
      | _ => none
  | 0x20 => need (md == 0) do
      let t ← tyOf ty
      match vbinOf fn, vtriOf fn, vunOf fn with
      | some k, _, _ => need (c == 0) do some (k h ⟨t, ← vOf d, ← vOf a, ← vsrcOf b imm⟩)
      | _, some k, _ => do some (k h ⟨t, ← vOf d, ← vOf a, ← vsrcOf b imm, ← vOf c⟩)
      | _, _, some k => need (b == 0 && c == 0 && imm == 0) do some (k h ⟨t, ← vOf d, ← vOf a⟩)
      | _, _, _ => none
  | 0x21 => need (md == 0 && c == 0) do some ((← vbitOf fn) h ⟨← tyOf ty, ← vOf d, ← vOf a, ← vsrcOf b imm⟩)
  | 0x22 => do
      let t ← tyOf ty
      match fn with
      | 0 => need (c == 0) do some (.vcmp h ⟨← condOf md, t, ← pOf d, ← vOf a, ← vsrcOf b imm⟩)
      | 1 => need (md == 0) do some (.vsel h ⟨t, ← vOf d, ← vOf a, ← vsrcOf b imm, ← pOf c⟩)
      | 2 => need (md == 0 && c == 0 && ty == 0 && imm == 0) do some (.pand h ⟨← pOf d, ← pOf a, ← pOf b⟩)
      | 3 => need (md == 0 && c == 0 && ty == 0 && imm == 0) do some (.por h ⟨← pOf d, ← pOf a, ← pOf b⟩)
      | 4 => need (md == 0 && c == 0 && ty == 0 && imm == 0) do some (.pxor h ⟨← pOf d, ← pOf a, ← pOf b⟩)
      | 5 => need (md == 0 && c == 0 && ty == 0 && imm == 0 && b == 0) do some (.pnot h (← pOf d) (← pOf a))
      | 6 => need (md == 0 && c == 0 && imm == 0 && b == 0) do some (.vcnt h ⟨t, ← gOf d, ← pOf a⟩)
      | 7 => need (md == 0 && c == 0 && imm == 0 && b == 0) do some (.vfirst h ⟨t, ← gOf d, ← pOf a⟩)
      | _ => none
  | 0x23 => do
      let t ← tyOf ty
      match fn with
      | 0 => need (md == 0 && c == 0 && ty == 0) do some (.vpermb h (← vOf d) (← vOf a) (← vsrcOf b imm))
      | 1 => need (md == 0 && c == 0 && imm == 0) do some (.vperm h ⟨t, ← vOf d, ← vOf a, ← vOf b⟩)
      | 2 => need (c == 0 && imm == 0) do some (.vshuf h (← finOf 4 md) ⟨t, ← vOf d, ← vOf a, ← vOf b⟩)
      | 3 => need (md == 0 && c == 0 && a == 0) do some (.vbcast h ⟨t, ← vOf d, ← srcOf b imm⟩)
      | 4 => need (md == 0 && c == 0) do some (.vext h ⟨t, ← gOf d, ← vOf a, ← srcOf b imm⟩)
      | 5 => need (md == 0 && c == 0) do some (.vins h ⟨t, ← vOf d, ← gOf a, ← srcOf b imm⟩)
      | 6 => need (md == 0 && c == 0 && a == 0) do some (.vidx h ⟨t, ← vOf d, ← srcOf b imm⟩)
      | 7 => need (md == 0 && c == 0 && b == 0 && imm == 0) do some (.vmov h ⟨t, ← vOf d, ← vOf a⟩)
      | 8 => need (md == 0 && imm == 0) do some (.vslide h ⟨t, ← vOf d, ← vOf a, ← vOf b⟩ (← gOf c))
      | _ => none
  | 0x24 => do
      let t ← tyOf ty
      match fn with
      | 0 => need (b == 0 && imm == 0) do some (.vred h (← redOf md) t (← gOf d) (← vOf a) (← pOf c))
      | 1 => need (b == 0 && imm == 0) do some (.vscan h (← redOf md) t (← vOf d) (← vOf a) (← pOf c))
      | 2 => need (md < 2 && (ty == 0 || ty == 4)) do
          some (.vdot4 h (ty == 4) (md == 1) (← vOf d) (← vOf a) (← vsrcOf b imm) (← vOf c))
      | 3 => need (c == 0) <|
          match md with
          | 0 => need (ty == 3 && a == 0 && b == 0 && imm == 0) do some (.vxaccClr h (← vOf d))
          | 1 => need (ty == 3) do some (.vxaccAdd h (← vOf d) (← vOf a) (← vsrcOf b imm))
          | 2 => need (b == 0 && imm == 0) do some (.vxaccRd h t (← vOf d) (← vOf a))
          | _ => none
      | _ => none
  | 0x25 => need (fn == 0 && b == 0 && c == 0 && md == 0) <|
      match unpackN [6, 2, 1, 1, 5, 17] imm with
      | [s, z0, inf, z1, part, z2] => need (z0 == 0 && z1 == 0 && z2 == 0) do
          some (.vcvt h ⟨← tyOf ty, ← tyOf s, inf == 1, ← finOf 32 part, ← vOf d, ← vOf a⟩)
      | _ => none
  | _ => none

/-! ## Format M -/

def addrOf (base index xs disp sp : Nat) : Option Addr := do
  some ⟨← gOf base, ← gOf index, ← finOf 4 xs, BitVec.ofNat 39 disp, ← spaceOf sp⟩

/-- The earmark register of a .mk store stands in the index field (R168). -/
def emOf (mk index : Nat) : Option (Option GReg) := if mk = 1 then (gOf index).map some else some none

/-- Format M bodies (R86, R113, R156 to R171, R175, R203). -/
def decM (op fn : Nat) (h : Hdr) (sc data base index xs size sp mk na disp : Nat) : Option Instr :=
  match op with
  | 0x14 => need (fn == 0 && sc == 0 && size == 3 && sp == 0 && mk == 0 && na == 0) do
      some (.lea h (← gOf data) (← gOf base) (← gOf index) (← finOf 4 xs) (BitVec.ofNat 39 disp))
  | 0x30 => need (sc == 0) <|
      match fn with
      | 0 => need (mk == 0) do some (.ld h ⟨← gOf data, ← addrOf base index xs disp sp, ← finOf 7 size, na == 1⟩)
      | 1 => need (na == 0) do
          some (.st h ⟨← gOf data, ← addrOf base (if mk = 1 then 0 else index) xs disp sp, ← finOf 4 size,
            ← emOf mk index⟩)
      | 2 => need (mk == 0 && size == 7) do some (.ldq h ⟨← gOf data, ← addrOf base index xs disp sp, na == 1⟩)
      | 3 => need (na == 0 && size == 7) do
          some (.stq h ⟨← gOf data, ← addrOf base (if mk = 1 then 0 else index) xs disp sp, ← emOf mk index⟩)
      | _ => none
  | 0x31 => need (sc == 0) <|
      match fn with
      | 0 => need (mk == 0) do some (.ldv h ⟨← vOf data, ← addrOf base index xs disp sp, ← vsizeOf size, na == 1⟩)
      | 1 => need (na == 0) do
          some (.stv h ⟨← vOf data, ← addrOf base (if mk = 1 then 0 else index) xs disp sp, ← vsizeOf size,
            ← emOf mk index⟩)
      | 2 => need (mk == 0) do some (.ldvs h ⟨← vOf data, ← addrOf base index xs disp sp, ← vsizeOf size, na == 1⟩)
      | 3 => need (mk == 0) do some (.stvs h ⟨← vOf data, ← addrOf base index xs disp sp, ← vsizeOf size, na == 1⟩)
      | 4 => need (mk == 0) do
          some (.gath h ⟨← vOf data, ← gOf base, ← vOf index, ← finOf 4 xs, BitVec.ofNat 39 disp, ← spaceOf sp,
            ← vsizeOf size, na == 1⟩)
      | 5 => need (mk == 0) do
          some (.scat h ⟨← vOf data, ← gOf base, ← vOf index, ← finOf 4 xs, BitVec.ofNat 39 disp, ← spaceOf sp,
            ← vsizeOf size, na == 1⟩)
      | _ => none
  | 0x32 => need (sc == 0 && size == 3 && mk == 0) <|
      match fn with
      | 0 => do some (.ldfe h (na == 1) ⟨← gOf data, ← addrOf base index xs disp sp⟩)
      | 1 => do some (.stfe h (na == 1) ⟨← gOf data, ← addrOf base index xs disp sp⟩)
      | 2 => need (na == 0) do some (.festat h ⟨← gOf data, ← addrOf base index xs disp sp⟩)
      | _ => none
  | 0x33 => need (sc == 0 && mk == 0) <|
      match fn with
      | 0 => need (size == 3 && na == 0) do some (.setmark h ⟨← gOf data, ← addrOf base index xs disp sp⟩)
      | 1 => need (size == 3 && na == 0) do some (.getmark h ⟨← gOf data, ← addrOf base index xs disp sp⟩)
      | 2 => need (data == 0 && size == 3) do some (.pref h (na == 1) (← addrOf base index xs disp sp))
      | 3 => need (data == 0 && size < 2 && na == 0) do some (.invl h (size == 1) (← addrOf base index xs disp sp))
      | _ => none
  | 0x51 => need (sc == 0 && mk == 0 && na == 0 && xs == 0) <|
      match fn with
      | 0 => need (size == 8 && sp == 0 && disp == 0) do some (.shpush h (← vOf data) (← gOf base) (← gOf index))
      | 1 => do
          let dt ← (match size with
            | 3 => (gOf data).map .g | 7 => (gOf data).map .pair | 8 => (vOf data).map .v | _ => none)
          some (.stc h ⟨dt, ← gOf base, ← gOf index, BitVec.ofNat 39 disp, ← spaceOf sp⟩)
      | 2 => need (sp == 1) do
          let dt ← (match size with | 3 => (gOf data).map .g | 8 => (vOf data).map .v | _ => none)
          some (.stcm h ⟨dt, ← gOf base, ← gOf index, BitVec.ofNat 39 disp⟩)
      | 5 => need (size == 3 && index == 0 && sp < 2) do
          some (.wkick h (← gOf data) (← gOf base) (BitVec.ofNat 39 disp) (sp == 1))
      | _ => none
  | _ =>
      -- the atomics: disp39 is [38:35] aop, [34] PK, [33:32] ord, [31:0] disp32; NA is NR (R175)
      match unpackN [32, 2, 1, 4] disp with
      | [d32, o, pk, aop] => need (mk == 0 && sp == 0) do
          let ord ← ordOf o sc
          match op, fn with
          | 0x38, 0 => need (xs == 0 && pk == 0) do
              some (.amo h ⟨← aopOf aop, ← asizeOf size, na == 1, ord, ← gOf data, ← gOf base, ← gOf index,
                BitVec.ofNat 32 d32⟩)
          | 0x39, 0 => need (xs == 0) do
              some (.amof h ⟨← fopOf aop, ← fsizeOf size pk, na == 1, ord, ← gOf data, ← gOf base, ← gOf index,
                BitVec.ofNat 32 d32⟩)
          | 0x3A, 0 => need (xs == 0 && pk == 0 && na == 0 && aop == 0) do
              some (.cas h ⟨← asizeOf size, ord, ← gOf data, ← gOf base, ← gOf index, BitVec.ofNat 32 d32⟩)
          | 0x3A, 1 => need (xs == 0 && pk == 0 && na == 0 && aop == 0 && size == 7) do
              some (.cas2 h ⟨ord, ← gOf data, ← gOf base, ← gOf index, BitVec.ofNat 32 d32⟩)
          | 0x3B, 0 => do
              let vop ← (if aop < 9 then need (pk == 0 && (size == 10 || size == 11))
                  ((aopOf aop).map fun o => VOp.int o (size == 11))
                else do some (VOp.flt (← fopOf (aop - 9)) (← fsizeOf size pk)))
              some (.vamo h ⟨vop, na == 1, ord, ← vOf data, ← gOf base, ← vOf index, ← finOf 4 xs,
                BitVec.ofNat 32 d32⟩)
          | _, _ => none
      | _ => none

/-! ## Formats J, H, S -/

/-- Format J (R114 to R117). -/
def decJ (fn : Nat) (h : Hdr) (a b cond disp : Nat) : Option Instr :=
  let ds := BitVec.ofNat 50 disp
  match fn with
  | 0 => need (a == 0 && b == 0 && cond == 0) (some (.br h ds))
  | 1 => need (b == 0) do some (.bc h (← condOf cond) (← gOf a) ds)
  | 2 => do some (.bcmp h ⟨← condOf cond, ← gOf a, ← gOf b, ds⟩)
  | 3 => need (a == 0 && cond == 0) do some (.call h (← gOf b) ds)
  | 4 => need (b == 0 && cond == 0 && disp == 0) do some (.jmp h (← gOf a))
  | 5 => need (cond == 0 && disp == 0) do some (.jmpl h (← gOf a) (← gOf b))
  | 6 => need (b == 0 && cond == 0 && disp == 0) do some (.ret h (← gOf a))
  | 7 => need (b == 0 && cond == 0) do some (.loop h (← gOf a) ds)
  | _ => none

/-- Format H (R81, R197). -/
def decH (h : Hdr) (d s bin pri fl wf yf flags m k n : Nat) : Option Instr := do
  some (.hire h ⟨← gOf d, ← gOf s, ← finOf 8 bin, ← finOf 4 pri, ← finOf 3 fl, ← finOf 4 wf, ← finOf 4 yf,
    flags % 2 == 1, flags / 2 % 2 == 1, flags / 4 % 2 == 1, ← finOf 512 m, ← finOf 512 k, ← finOf 256 n⟩)

/-- Format S (R172, R188 to R216). -/
def decS (op fn : Nat) (h : Hdr) (sc d a b id sub imm : Nat) : Option Instr :=
  match op with
  | 0x01 => need (sc == 0 && d == 0 && a == 0 && b == 0 && id == 0 && sub == 0) <|
      match fn with
      | 0 => some (.brk h (BitVec.ofNat 32 imm))
      | 1 => some (.trap h (BitVec.ofNat 32 imm))
      | _ => none
  | 0x34 => need (d == 0 && a == 0 && b == 0 && id == 0 && imm == 0) <|
      match fn with
      | 0 => do some (.fence h (← fenceOf sub) (← scopeOf sc))
      | 1 => need (sc == 0) do some (.drain h (← finOf 8 sub))
      | _ => none
  | 0x40 => need (fn == 0 && sc == 0 && d == 0 && id == 0 && sub == 0) do
      some (.waitb h (← bOf a) (← srcOf b imm))
  | 0x41 => need (a == 0) do
      let s ← scopeOf sc
      let i ← finOf 16 id
      match fn with
      | 0 => need (sub == 0) do some (.bar h s i (← gOf d) (← srcOf b imm))
      | 1 => need (d == 0) <|
          if sub = 0 then do some (.bara h s i none (← srcOf b imm))
          else need (8 ≤ sub && sub < 16) do some (.bara h s i (some (← finOf 8 (sub - 8))) (← srcOf b imm))
      | 2 => need (sub == 0 && b == 0 && imm == 0) do some (.barw h s i (← gOf d))
      | _ => none
  | 0x42 => need (sc == 0 && id == 0) <|
      match fn with
      | 0 => need (d == 0 && sub == 0 && imm == 0) do some (.cradd h (← gOf a) (← vOf b))
      | 1 => need (b == 0 && sub == 0 && imm == 0) do some (.crtake h (← vOf d) (← gOf a))
      | 2 => need (sub == 0 && imm == 0) do some (.crtry h (← vOf d) (← gOf a) (← pOf b))
      | 3 => need (b == 0 && sub == 0 && imm == 0) do some (.crstat h (← gOf d) (← gOf a))
      | 4 => need (d == 0) <|
          match sub with
          | 0 => do some (.crinit h (← gOf a) (← gOf b) (← finOf 16777216 imm))
          | 1 => need (b == 0 && imm == 0) do some (.crinitUnbind h (← gOf a))
          | _ => none
      | _ => none
  | 0x43 => need (sc == 0 && id == 0 && imm == 0) <|
      match fn with
      | 0 => need (d == 0 && sub == 0) do some (.chsend h (← gOf a) (← gOf b))
      | 1 => need (b == 0 && sub == 0) do some (.chnext h (← gOf d) (← gOf a))
      | 2 => need (d == 0 && b == 0 && sub < 2) do some (.chhold h (sub == 1) (← gOf a))
      | 3 => need (d == 0 && b == 0 && sub < 2) do some (.chready h (sub == 1) (← gOf a))
      | 4 => need (d == 0 && sub < 8) <|
          if sub < 4 then do some (.chbind h (sub % 2 == 1) (sub / 2 == 1) (← gOf a) (← gOf b))
          else need (b == 0) do some (.chbindUnbind h (sub % 2 == 1) (sub / 2 % 2 == 1) (← gOf a))
      | _ => none
  | 0x50 => need (sc == 0 && b == 0 && id == 0 && sub == 0 && imm == 0) <|
      match fn with
      | 1 => do some (.hstat h (← gOf d) (← gOf a))
      | 2 => do some (.hdrop h (← gOf d) (← gOf a))
      | _ => none
  | 0x51 => need (sc == 0 && d == 0) <|
      match fn with
      | 3 => need (b == 0x7F && id == 0 && sub == 0 && imm < 256) do some (.freeb h (← gOf a) (BitVec.ofNat 8 imm))
      | 4 => need (b == 0 && imm == 0) do some (.glean h (← finOf 8 id) (← gOf a) (← finOf 8 sub))
      | _ => none
  | 0x52 => need (fn == 0 && sc == 0 && d == 0 && b == 0 && imm == 0) do
      some (.mcall h (← finOf 32 id) (← gOf a) (← finOf 8 sub))
  | 0x60 => need (sc == 0 && id == 0 && sub == 0) <|
      match fn with
      | 0 => need (imm < 16384) do some (.spawn h (← gOf d) (← gOf a) (← gOf b) (BitVec.ofNat 14 imm))
      | 1 => need (b == 0 && imm == 0) do some (.reap h (← gOf d) (← gOf a))
      | 2 => need (d == 0 && b == 0 && imm == 0) do some (.exit h (← gOf a))
      | 3 => need (d == 0 && a == 0 && b == 0x7F && imm < 256) (some (.susp h (BitVec.ofNat 8 imm)))
      | 4 => need (d == 0 && b == 0x7F && imm < 256) do some (.resume h (← gOf a) (BitVec.ofNat 8 imm))
      | 5 => need (d == 0 && a == 0 && b == 0 && imm == 0) (some (.yield h))
      | _ => none
  | 0x70 => need (sc == 0 && imm == 0) <|
      match fn with
      | 0 => need (id == 0 && sub == 0) do some (.shoot h (← gOf d) (← gOf a) (← gOf b))
      | 1 => need (b == 0 && id < 2) <|
          match sub with
          | 0 => do some (.fairctlResume h (← gOf d) (← gOf a) (id == 1))
          | 1 => do some (.fairctlDrop h (← gOf d) (← gOf a) (id == 1))
          | 2 => need (a == 0) do some (.fairctlStat h (← gOf d) (id == 1))
          | _ => none
      | 2 => need (a == 0) <|
          match sub with
          | 0 => do some (.swapctlWindow h (← gOf d) (← gOf b) (← finOf 8 id))
          | 1 => do some (.swapctlTheta h (← gOf d) (← gOf b) (← finOf 8 id))
          | 2 => do some (.swapctlEnable h (← gOf d) (← gOf b) (← finOf 8 id))
          | 3 => need (b == 0) do some (.swapctlRead h (← gOf d) (← finOf 8 id))
          | _ => none
      | _ => none
  | _ => none

/-- The format of an op and fn (R86). -/
inductive Format where
  | a | m | j | h | s | none
  deriving DecidableEq, Repr

def formatOf (op fn : Nat) : Format :=
  if op = 0x01 then .s
  else if 0x10 ≤ op && op ≤ 0x13 || 0x20 ≤ op && op ≤ 0x25 then .a
  else if op = 0x14 || 0x30 ≤ op && op ≤ 0x33 || 0x38 ≤ op && op ≤ 0x3B then .m
  else if op = 0x18 then .j
  else if op = 0x50 then (if fn = 0 then .h else .s)
  else if op = 0x51 then (if fn = 3 || fn = 4 then .s else .m)
  else if op = 0x34 || 0x40 ≤ op && op ≤ 0x43 || op = 0x52 || op = 0x60 || op = 0x70 then .s
  else .none

def hdrOf (gate gn gp : Nat) : Option Hdr := do some ⟨← finOf 8 gp, gn == 1, ← finOf 4 gate⟩

/-- A slot's fields to an instruction, before the operand limits. -/
def decRaw (w : Nat) : Option Instr :=
  let op := w / 2 ^ 88 % 2 ^ 8
  let fn := w / 2 ^ 80 % 2 ^ 8
  match formatOf op fn with
  | .a => match unpackN widthsA w with
    | [imm, md, ty, c, b, a, d, sc, gate, gn, gp, fn, op] =>
        need (sc == 0) do decA op fn (← hdrOf gate gn gp) d a b c ty md imm
    | _ => none
  | .m => match unpackN widthsM w with
    | [disp, na, mk, sp, size, xs, index, base, data, sc, gate, gn, gp, fn, op] => do
        decM op fn (← hdrOf gate gn gp) sc data base index xs size sp mk na disp
    | _ => none
  | .j => match unpackN widthsJ w with
    | [disp, z, cond, b, a, sc, gate, gn, gp, fn, _] =>
        need (z == 0 && sc == 0) do decJ fn (← hdrOf gate gn gp) a b cond disp
    | _ => none
  | .h => match unpackN widthsH w with
    | [z, n, k, m, flags, yf, wf, fl, pri, bin, s, d, sc, gate, gn, gp, _, _] =>
        need (z == 0 && sc == 0) do decH (← hdrOf gate gn gp) d s bin pri fl wf yf flags m k n
    | _ => none
  | .s => match unpackN widthsS w with
    | [imm, sub, id, b, a, d, sc, gate, gn, gp, fn, op] => do
        decS op fn (← hdrOf gate gn gp) sc d a b id sub imm
    | _ => none
  | .none => none

/-- The instruction in a 96-bit slot; none is ILL (R87). -/
def decode (w : Nat) : Option Instr :=
  if w = 0 then some .nop
  else match decRaw w with
    | some i => if wf i then some i else none
    | none => none

/-! ## Encoder -/

def hdrN (h : Hdr) (sc fn op : Nat) : List Nat := [sc, h.gate.val, h.gn.toNat, h.gp.val, fn, op]

def encA (op fn : Nat) (h : Hdr) (d a b c ty md imm : Nat) : Option Nat :=
  some (packN widthsA ([imm, md, ty, c, b, a, d] ++ hdrN h 0 fn op))
def encM (op fn : Nat) (h : Hdr) (sc data base index xs size sp mk na disp : Nat) : Option Nat :=
  some (packN widthsM ([disp, na, mk, sp, size, xs, index, base, data] ++ hdrN h sc fn op))
def encJ (fn : Nat) (h : Hdr) (a b cond disp : Nat) : Option Nat :=
  some (packN widthsJ ([disp, 0, cond, b, a] ++ hdrN h 0 fn 0x18))
def encS (op fn : Nat) (h : Hdr) (sc d a b id sub imm : Nat) : Option Nat :=
  some (packN widthsS ([imm, sub, id, b, a, d] ++ hdrN h sc fn op))

def encAlu (fn : Nat) (h : Hdr) (o : Alu) : Option Nat :=
  encA 0x10 fn h (gC o.d) (gC o.a) (srcB o.b) 0 0 (o.chk.toNat + 2 * o.w.toNat) (srcI o.b)
def encBit (fn : Nat) (h : Hdr) (o : BitU) : Option Nat :=
  encA 0x12 fn h (gC o.d) (gC o.a) 0 0 0 (2 * o.w.toNat) 0
def encVBin (op fn : Nat) (h : Hdr) (o : VBin) : Option Nat :=
  encA op fn h (vC o.d) (vC o.a) (vsrcB o.b) 0 o.t.code 0 (vsrcI o.b)
def encVTri (fn : Nat) (h : Hdr) (o : VTri) : Option Nat :=
  encA 0x20 fn h (vC o.d) (vC o.a) (vsrcB o.b) (vC o.c) o.t.code 0 (vsrcI o.b)
def encVUn (op fn : Nat) (h : Hdr) (o : VUn) : Option Nat := encA op fn h (vC o.d) (vC o.a) 0 0 o.t.code 0 0
def encP (fn : Nat) (h : Hdr) (o : PBin) : Option Nat := encA 0x22 fn h (pC o.d) (pC o.a) (pC o.b) 0 0 0 0
def encVPerm (fn : Nat) (h : Hdr) (o : VPermO) (c md : Nat) : Option Nat :=
  encA 0x23 fn h (vC o.d) (vC o.a) (vC o.b) c o.t.code md 0
def encAddr (op fn : Nat) (h : Hdr) (data : Nat) (a : Addr) (em : Option GReg) (size na : Nat) : Option Nat :=
  encM op fn h 0 data (gC a.base) (match em with | some r => gC r | none => gC a.index) a.xs.val size a.space.code
    (match em with | some _ => 1 | none => 0) na a.disp.toNat
def encGs (fn : Nat) (h : Hdr) (o : GsO) : Option Nat :=
  encM 0x31 fn h 0 (vC o.d) (gC o.base) (vC o.x) o.xs.val o.size.code o.space.code 0 o.na.toNat o.disp.toNat
def encAtom (op fn : Nat) (h : Hdr) (o : Ord) (data base index xs size nr aop pk disp : Nat) : Option Nat :=
  encM op fn h o.code.2 data base index xs size 0 0 nr (packN [32, 2, 1, 4] [disp, o.code.1, pk, aop])

/-- The 96-bit word of an instruction (R78 to R83 and each entry's Encoding). -/
def encode : Instr → Option Nat
  | .nop => some 0
  | .brk h c => encS 0x01 0 h 0 0 0 0 0 0 c.toNat
  | .trap h c => encS 0x01 1 h 0 0 0 0 0 0 c.toNat
  | .add h o => encAlu 0x00 h o | .sub h o => encAlu 0x01 h o | .mul h o => encAlu 0x02 h o
  | .mulh h o => encAlu 0x03 h o | .mulhn h o => encAlu 0x04 h o | .div h o => encAlu 0x05 h o
  | .divn h o => encAlu 0x06 h o | .rem h o => encAlu 0x07 h o | .remn h o => encAlu 0x08 h o
  | .and h o => encAlu 0x09 h o | .or h o => encAlu 0x0A h o | .xor h o => encAlu 0x0B h o
  | .andn h o => encAlu 0x0C h o | .shl h o => encAlu 0x0D h o | .shr h o => encAlu 0x0E h o
  | .sha h o => encAlu 0x0F h o | .rol h o => encAlu 0x10 h o | .min h o => encAlu 0x11 h o
  | .max h o => encAlu 0x12 h o | .minn h o => encAlu 0x13 h o | .maxn h o => encAlu 0x14 h o
  | .abs h o => encA 0x10 0x15 h (gC o.d) (gC o.a) 0 0 0 (o.chk.toNat + 2 * o.w.toNat) 0
  | .cmpp h o => encA 0x11 0 h (pC o.d) (gC o.a) (srcB o.b) 0 0 o.c.code (srcI o.b)
  | .setc h o => encA 0x11 1 h (gC o.d) (gC o.a) (srcB o.b) 0 0 o.c.code (srcI o.b)
  | .clz h o => encBit 0 h o | .ctz h o => encBit 1 h o | .popc h o => encBit 2 h o
  | .brev h o => encBit 3 h o | .bswap h o => encBit 4 h o
  | .bfx h d a b => encA 0x12 5 h (gC d) (gC a) (srcB b) 0 0 0 (srcI b)
  | .bfxn h d a b => encA 0x12 6 h (gC d) (gC a) (srcB b) 0 0 0 (srcI b)
  | .bfi h d a b c => encA 0x12 7 h (gC d) (gC a) (srcB b) (gC c) 0 0 (srcI b)
  | .sel h d a b c => encA 0x12 8 h (gC d) (gC a) (srcB b) (pC c) 0 0 (srcI b)
  | .mov h d a => encA 0x13 0 h (gC d) (gC a) 0 0 0 0 0
  | .li h d i => encA 0x13 1 h (gC d) 0 0x7F 0 0 0 i.toNat
  | .lih h d i => encA 0x13 2 h (gC d) 0 0x7F 0 0 0 i.toNat
  | .mfs h d n => encA 0x13 3 h (gC d) 0 0x7F 0 0 0 n.val
  | .mts h n a => encA 0x13 4 h 0 (gC a) 0x7F 0 0 0 n.val
  | .mfb h d a => encA 0x13 5 h (gC d) (bC a) 0 0 0 0 0
  | .mtb h d b => encA 0x13 6 h (bC d) 0 (srcB b) 0 0 0 (srcI b)
  | .mfp h hi d a => encA 0x13 7 h (gC d) (pC a) 0 0 0 hi.toNat 0
  | .mtp h hi d a => encA 0x13 8 h (pC d) (gC a) 0 0 0 hi.toNat 0
  | .lea h d b i xs ds => encM 0x14 0 h 0 (gC d) (gC b) (gC i) xs.val 3 0 0 0 ds.toNat
  | .br h ds => encJ 0 h 0 0 0 ds.toNat
  | .bc h c a ds => encJ 1 h (gC a) 0 c.code ds.toNat
  | .bcmp h o => encJ 2 h (gC o.a) (gC o.b) o.c.code o.disp.toNat
  | .call h b ds => encJ 3 h 0 (gC b) 0 ds.toNat
  | .jmp h a => encJ 4 h (gC a) 0 0 0
  | .jmpl h a b => encJ 5 h (gC a) (gC b) 0 0
  | .ret h a => encJ 6 h (gC a) 0 0 0
  | .loop h a ds => encJ 7 h (gC a) 0 0 ds.toNat
  | .vadd h o => encVBin 0x20 0x00 h o | .vsub h o => encVBin 0x20 0x01 h o | .vmul h o => encVBin 0x20 0x02 h o
  | .vfma h o => encVTri 0x03 h o | .vfms h o => encVTri 0x04 h o | .vfnma h o => encVTri 0x05 h o
  | .vdiv h o => encVBin 0x20 0x06 h o | .vsqrt h o => encVUn 0x20 0x07 h o | .vrcp h o => encVUn 0x20 0x08 h o
  | .vrsq h o => encVUn 0x20 0x09 h o | .vmin h o => encVBin 0x20 0x0A h o | .vmax h o => encVBin 0x20 0x0B h o
  | .vabs h o => encVUn 0x20 0x0C h o | .vneg h o => encVUn 0x20 0x0D h o | .vmulh h o => encVBin 0x20 0x0E h o
  | .vadds h o => encVBin 0x20 0x0F h o | .vsubs h o => encVBin 0x20 0x10 h o
  | .vand h o => encVBin 0x21 0 h o | .vor h o => encVBin 0x21 1 h o | .vxor h o => encVBin 0x21 2 h o
  | .vandn h o => encVBin 0x21 3 h o | .vshl h o => encVBin 0x21 4 h o | .vshr h o => encVBin 0x21 5 h o
  | .vsha h o => encVBin 0x21 6 h o
  | .vcmp h o => encA 0x22 0 h (pC o.d) (vC o.a) (vsrcB o.b) 0 o.t.code o.c.code (vsrcI o.b)
  | .vsel h o => encA 0x22 1 h (vC o.d) (vC o.a) (vsrcB o.b) (pC o.c) o.t.code 0 (vsrcI o.b)
  | .pand h o => encP 2 h o | .por h o => encP 3 h o | .pxor h o => encP 4 h o
  | .pnot h d a => encA 0x22 5 h (pC d) (pC a) 0 0 0 0 0
  | .vcnt h o => encA 0x22 6 h (gC o.d) (pC o.a) 0 0 o.t.code 0 0
  | .vfirst h o => encA 0x22 7 h (gC o.d) (pC o.a) 0 0 o.t.code 0 0
  | .vpermb h d a b => encA 0x23 0 h (vC d) (vC a) (vsrcB b) 0 0 0 (vsrcI b)
  | .vperm h o => encVPerm 1 h o 0 0 | .vshuf h m o => encVPerm 2 h o 0 m.val
  | .vbcast h o => encA 0x23 3 h (vC o.d) 0 (srcB o.b) 0 o.t.code 0 (srcI o.b)
  | .vext h o => encA 0x23 4 h (gC o.d) (vC o.a) (srcB o.b) 0 o.t.code 0 (srcI o.b)
  | .vins h o => encA 0x23 5 h (vC o.d) (gC o.a) (srcB o.b) 0 o.t.code 0 (srcI o.b)
  | .vidx h o => encA 0x23 6 h (vC o.d) 0 (srcB o.b) 0 o.t.code 0 (srcI o.b)
  | .vmov h o => encVUn 0x23 7 h o
  | .vslide h o c => encVPerm 8 h o (gC c) 0
  | .vred h op t d a c => encA 0x24 0 h (gC d) (vC a) 0 (pC c) t.code op.code 0
  | .vscan h op t d a c => encA 0x24 1 h (vC d) (vC a) 0 (pC c) t.code op.code 0
  | .vdot4 h u su d a b c => encA 0x24 2 h (vC d) (vC a) (vsrcB b) (vC c) (4 * u.toNat) su.toNat (vsrcI b)
  | .vxaccClr h d => encA 0x24 3 h (vC d) 0 0 0 3 0 0
  | .vxaccAdd h d a b => encA 0x24 3 h (vC d) (vC a) (vsrcB b) 0 3 1 (vsrcI b)
  | .vxaccRd h t d a => encA 0x24 3 h (vC d) (vC a) 0 0 t.code 2 0
  | .vcvt h o => encA 0x25 0 h (vC o.d) (vC o.a) 0 0 o.t.code 0
      (packN [6, 2, 1, 1, 5, 17] [o.s.code, 0, o.inf.toNat, 0, o.part.val, 0])
  | .ld h o => encAddr 0x30 0 h (gC o.d) o.a none o.size.val o.na.toNat
  | .st h o => encAddr 0x30 1 h (gC o.d) o.a o.em o.size.val 0
  | .ldq h o => encAddr 0x30 2 h (gC o.d) o.a none 7 o.na.toNat
  | .stq h o => encAddr 0x30 3 h (gC o.d) o.a o.em 7 0
  | .ldv h o => encAddr 0x31 0 h (vC o.d) o.a none o.size.code o.na.toNat
  | .stv h o => encAddr 0x31 1 h (vC o.d) o.a o.em o.size.code 0
  | .ldvs h o => encAddr 0x31 2 h (vC o.d) o.a none o.size.code o.na.toNat
  | .stvs h o => encAddr 0x31 3 h (vC o.d) o.a none o.size.code o.na.toNat
  | .gath h o => encGs 4 h o | .scat h o => encGs 5 h o
  | .ldfe h k o => encAddr 0x32 0 h (gC o.d) o.a none 3 k.toNat
  | .stfe h k o => encAddr 0x32 1 h (gC o.d) o.a none 3 k.toNat
  | .festat h o => encAddr 0x32 2 h (gC o.d) o.a none 3 0
  | .setmark h o => encAddr 0x33 0 h (gC o.d) o.a none 3 0
  | .getmark h o => encAddr 0x33 1 h (gC o.d) o.a none 3 0
  | .pref h na a => encAddr 0x33 2 h 0 a none 3 na.toNat
  | .invl h i a => encAddr 0x33 3 h 0 a none i.toNat 0
  | .fence h k s => encS 0x34 0 h s.code 0 0 0 0 k.code 0
  | .drain h m => encS 0x34 1 h 0 0 0 0 0 m.val 0
  | .amo h o => encAtom 0x38 0 h o.ord (gC o.d) (gC o.base) (gC o.x) 0 o.size.code o.nr.toNat o.op.code 0 o.disp.toNat
  | .amof h o => encAtom 0x39 0 h o.ord (gC o.d) (gC o.base) (gC o.x) 0 o.size.code.1 o.nr.toNat o.op.code
      o.size.code.2 o.disp.toNat
  | .cas h o => encAtom 0x3A 0 h o.ord (gC o.d) (gC o.base) (gC o.x) 0 o.size.code 0 0 0 o.disp.toNat
  | .cas2 h o => encAtom 0x3A 1 h o.ord (gC o.d) (gC o.base) (gC o.x) 0 7 0 0 0 o.disp.toNat
  | .vamo h o =>
      match o.op with
      | .int op w => encAtom 0x3B 0 h o.ord (vC o.d) (gC o.base) (vC o.x) o.xs.val (10 + w.toNat) o.nr.toNat op.code 0
          o.disp.toNat
      | .flt op z => encAtom 0x3B 0 h o.ord (vC o.d) (gC o.base) (vC o.x) o.xs.val z.code.1 o.nr.toNat (9 + op.code)
          z.code.2 o.disp.toNat
  | .waitb h a b => encS 0x40 0 h 0 0 (bC a) (srcB b) 0 0 (srcI b)
  | .bar h s i d b => encS 0x41 0 h s.code (gC d) 0 (srcB b) i.val 0 (srcI b)
  | .bara h s i bin b => encS 0x41 1 h s.code 0 0 (srcB b) i.val
      (match bin with | some k => 8 + k.val | none => 0) (srcI b)
  | .barw h s i d => encS 0x41 2 h s.code (gC d) 0 0 i.val 0 0
  | .cradd h a b => encS 0x42 0 h 0 0 (gC a) (vC b) 0 0 0
  | .crtake h d a => encS 0x42 1 h 0 (vC d) (gC a) 0 0 0 0
  | .crtry h d a b => encS 0x42 2 h 0 (vC d) (gC a) (pC b) 0 0 0
  | .crstat h d a => encS 0x42 3 h 0 (gC d) (gC a) 0 0 0 0
  | .crinit h a b s => encS 0x42 4 h 0 0 (gC a) (gC b) 0 0 s.val
  | .crinitUnbind h a => encS 0x42 4 h 0 0 (gC a) 0 0 1 0
  | .chsend h a b => encS 0x43 0 h 0 0 (gC a) (gC b) 0 0 0
  | .chnext h d a => encS 0x43 1 h 0 (gC d) (gC a) 0 0 0 0
  | .chhold h s a => encS 0x43 2 h 0 0 (gC a) 0 0 s.toNat 0
  | .chready h s a => encS 0x43 3 h 0 0 (gC a) 0 0 s.toNat 0
  | .chbind h hd y a b => encS 0x43 4 h 0 0 (gC a) (gC b) 0 (hd.toNat + 2 * y.toNat) 0
  | .chbindUnbind h hd y a => encS 0x43 4 h 0 0 (gC a) 0 0 (4 + hd.toNat + 2 * y.toNat) 0
  | .hire h o => some (packN widthsH ([0, o.n.val, o.k.val, o.m.val, o.ord.toNat + 2 * o.chain.toNat + 4 * o.land.toNat,
      o.yf.val, o.wf.val, o.floor.val, o.pri.val, o.bin.val, gC o.s, gC o.d] ++ hdrN h 0 0 0x50))
  | .hstat h d a => encS 0x50 1 h 0 (gC d) (gC a) 0 0 0 0
  | .hdrop h d a => encS 0x50 2 h 0 (gC d) (gC a) 0 0 0 0
  | .shpush h d b x => encM 0x51 0 h 0 (vC d) (gC b) (gC x) 0 8 0 0 0 0
  | .stc h o => match o.data with
      | .g r => encM 0x51 1 h 0 (gC r) (gC o.base) (gC o.x) 0 3 o.space.code 0 0 o.disp.toNat
      | .pair r => encM 0x51 1 h 0 (gC r) (gC o.base) (gC o.x) 0 7 o.space.code 0 0 o.disp.toNat
      | .v r => encM 0x51 1 h 0 (vC r) (gC o.base) (gC o.x) 0 8 o.space.code 0 0 o.disp.toNat
  | .stcm h o => match o.data with
      | .g r => encM 0x51 2 h 0 (gC r) (gC o.base) (gC o.x) 0 3 1 0 0 o.disp.toNat
      | .v r => encM 0x51 2 h 0 (vC r) (gC o.base) (gC o.x) 0 8 1 0 0 o.disp.toNat
  | .freeb h a t => encS 0x51 3 h 0 0 (gC a) 0x7F 0 0 t.toNat
  | .glean h e a bin => encS 0x51 4 h 0 0 (gC a) 0 e.val bin.val 0
  | .wkick h d b ds own => encM 0x51 5 h 0 (gC d) (gC b) 0 0 3 own.toNat 0 0 ds.toNat
  | .mcall h e a bin => encS 0x52 0 h 0 0 (gC a) 0 e.val bin.val 0
  | .spawn h d a b bud => encS 0x60 0 h 0 (gC d) (gC a) (gC b) 0 0 bud.toNat
  | .reap h d a => encS 0x60 1 h 0 (gC d) (gC a) 0 0 0 0
  | .exit h a => encS 0x60 2 h 0 0 (gC a) 0 0 0 0
  | .susp h t => encS 0x60 3 h 0 0 0 0x7F 0 0 t.toNat
  | .resume h a t => encS 0x60 4 h 0 0 (gC a) 0x7F 0 0 t.toNat
  | .yield h => encS 0x60 5 h 0 0 0 0 0 0 0
  | .shoot h d a b => encS 0x70 0 h 0 (gC d) (gC a) (gC b) 0 0 0
  | .fairctlResume h d a f => encS 0x70 1 h 0 (gC d) (gC a) 0 f.toNat 0 0
  | .fairctlDrop h d a f => encS 0x70 1 h 0 (gC d) (gC a) 0 f.toNat 1 0
  | .fairctlStat h d f => encS 0x70 1 h 0 (gC d) 0 0 f.toNat 2 0
  | .swapctlWindow h d b n => encS 0x70 2 h 0 (gC d) 0 (gC b) n.val 0 0
  | .swapctlTheta h d b n => encS 0x70 2 h 0 (gC d) 0 (gC b) n.val 1 0
  | .swapctlEnable h d b n => encS 0x70 2 h 0 (gC d) 0 (gC b) n.val 2 0
  | .swapctlRead h d n => encS 0x70 2 h 0 (gC d) 0 0 n.val 3 0
  | _ => none

/-! ## Mill micro-words (R283, R284) -/

def widthsMu : List Nat := [64, 31, 3, 3, 3, 8, 4, 6, 6]

def microOf : Nat → Option (Micro → Instr)
  | 0x00 => some .millEnd | 0x01 => some .millBr | 0x02 => some .millLi | 0x03 => some .millAdd
  | 0x10 => some .lfill | 0x11 => some .lcopy | 0x12 => some .lfma | 0x13 => some .lscal | 0x14 => some .lred
  | 0x15 => some .ltz | 0x16 => some .lzmk | 0x17 => some .stw | _ => none

def microTyOf : Nat → Option (Option ElemType)
  | 0 => some none
  | n => (tyOf n).map some

/-- The micro-operation of a micro-word; none ends the call (R284). COND 5 to 15 on BR, to which R283 gives no meaning and which R284
does not list, is such a word: DESIGN CHOICE, log 106. -/
def decodeMicro (w : Nat) : Option Instr :=
  match unpackN widthsMu w with
  | [imm, z, rb, ra, rd, tgt, cond, ty, op] => need (z == 0) do
      let i := (← microOf op) ⟨← microTyOf ty, ← finOf 5 cond, BitVec.ofNat 8 tgt, ← finOf 8 rd, ← finOf 8 ra,
        ← finOf 8 rb, BitVec.ofNat 64 imm⟩
      if wf i then some i else none
  | _ => none

def encodeMicroAs (op : Nat) (m : Micro) : Nat :=
  packN widthsMu [m.imm.toNat, 0, m.rb.val, m.ra.val, m.rd.val, m.tgt.toNat, m.cond.val,
    (match m.ty with | none => 0 | some t => t.code), op]

/-- The micro-word of a micro-operation. -/
def encodeMicro : Instr → Option Nat
  | .millEnd m => some (encodeMicroAs 0x00 m) | .millBr m => some (encodeMicroAs 0x01 m)
  | .millLi m => some (encodeMicroAs 0x02 m) | .millAdd m => some (encodeMicroAs 0x03 m)
  | .lfill m => some (encodeMicroAs 0x10 m) | .lcopy m => some (encodeMicroAs 0x11 m)
  | .lfma m => some (encodeMicroAs 0x12 m) | .lscal m => some (encodeMicroAs 0x13 m)
  | .lred m => some (encodeMicroAs 0x14 m) | .ltz m => some (encodeMicroAs 0x15 m)
  | .lzmk m => some (encodeMicroAs 0x16 m) | .stw m => some (encodeMicroAs 0x17 m)
  | _ => none

/-! ## Command packets (R309, R310) -/

/-- A packet, or the error code that stops its queue (R307). -/
inductive PacketOr where
  | ok (i : Instr) | err (code : Nat)
  deriving DecidableEq, Repr

/-- LEN of a kind (R310). -/
def packetLen : Nat → Option Nat
  | 1 => some 5 | 2 => some 4 | 3 => some 5 | 4 => some 4 | 5 => some 3 | 6 => some 1 | 7 => some 1 | 8 => some 3
  | _ => none

def packetOf : Nat → Option (Packet → Instr)
  | 0 => some .packetNop | 1 => some .launch | 2 => some .copyPacket | 3 => some .millPacket | 4 => some .waitmem
  | 5 => some .ib | 6 => some .loopPacket | 7 => some .ffence | 8 => some .signal | _ => none

/-- NOP's payload is ignored; for it only the header counts. -/
def decodePacket (ws : List W64) : PacketOr :=
  match ws with
  | [] => .err 0x02
  | w :: _ =>
    let n := w.toNat
    let opc := n % 256
    let len := n / 256 % 256
    match packetOf opc with
    | none => .err 0x01
    | some k =>
      if len = 0 then .err 0x02
      else if packetLen opc ≠ none && packetLen opc ≠ some len then .err 0x02
      else if ws.length ≠ len then .err 0x02
      else
        let i := k ⟨n / 2 ^ 16 % 2 == 1, n / 2 ^ 17 % 2 == 1, BitVec.ofNat 8 (n / 2 ^ 24), ws⟩
        if opc = 6 && n / 2 ^ 32 % 2 ^ 16 = 0 then .err 0x05
        else if wf i then .ok i else .err 0x03

/-- The words of a packet. -/
def encodePacket : Instr → Option (List W64)
  | .packetNop p | .launch p | .copyPacket p | .millPacket p | .waitmem p | .ib p | .loopPacket p | .ffence p | .signal p =>
      some p.words
  | _ => none

/-! ## Management requests (R312) -/

/-- The request in the eight mailbox words; none is a bad request. -/
def decodeRequest (r : Vector W64 8) : Option Instr :=
  let w := fun i => (r.toList.getD i 0)
  let n := (w 0).toNat
  let op := n % 256
  let f := n / 256 % 128
  let q := n / 2 ^ 32 % 4096
  let z := fun (i : Nat) => (r.toList.drop i).all (· == 0)
  let qz := n / 2 ^ 15 % 2 ^ 17 == 0 && n / 2 ^ 44 == 0
  let fz := n / 2 ^ 15 == 0
  need (f ≤ 64) <|
  match op with
  | 0x01 => need (qz && z 4 && ringOk (w 1) (w 2) (w 3)) (some (.qconfig f q (w 1) (w 2) (w 3)))
  | 0x02 => need (qz && z 1) (some (.qenable f q))
  | 0x03 => need (qz && z 1) (some (.qdisable f q))
  | 0x04 => need (fz && z 4 && ringOk (w 1) (w 2) (w 3)) (some (.mrconfig f (w 1) (w 2) (w 3)))
  | 0x05 => need (n / 2 ^ 15 % 2 ^ 17 == 0 && n / 2 ^ 40 == 0 && z 3 && (w 2).toNat < 2 ^ 33)
      (some (.irqroute f (n / 2 ^ 32 % 256) (w 1) (w 2)))
  | 0x06 => need (fz && z 2 && (w 1).toNat < 2 ^ 24) (some (.fbind f (w 1)))
  | 0x07 => need (qz && z 1) (some (.qpreempt f q))
  | 0x08 => need (qz && z 1) (some (.qrestore f q))
  | 0x09 => need (fz && z 3) (some (.ashoot f (w 1) (w 2)))
  | _ => none

/-- The eight words of a request: operation, function, queue or vector, and its arguments. -/
def requestWords (op f x : Nat) (a b c : W64) : Vector W64 8 :=
  #v[BitVec.ofNat 64 (op + f * 2 ^ 8 + x * 2 ^ 32), a, b, c, 0, 0, 0, 0]
def encodeRequest : Instr → Option (Vector W64 8)
  | .qconfig f q base size vec => some (requestWords 1 f q base size vec)
  | .qenable f q => some (requestWords 2 f q 0 0 0) | .qdisable f q => some (requestWords 3 f q 0 0 0)
  | .mrconfig f base size vec => some (requestWords 4 f 0 base size vec)
  | .irqroute f vec addr data => some (requestWords 5 f vec addr data 0)
  | .fbind f set => some (requestWords 6 f 0 set 0 0)
  | .qpreempt f q => some (requestWords 7 f q 0 0 0) | .qrestore f q => some (requestWords 8 f q 0 0 0)
  | .ashoot f va len => some (requestWords 9 f 0 va len 0)
  | _ => none

/-! ## Lomwen custom-0 words (R319) -/

def widthsLm : List Nat := [7, 5, 3, 5, 5, 7]

/-- The custom instruction in a 32-bit word; none where the word is illegal or not of custom-0. -/
def decodeLm (w : Nat) : Option Instr :=
  match unpackN widthsLm w with
  | [op, rd, f3, rs1, rs2, f7] => need (op == 0x0B && f7 == 0) do
      let d ← finOf 32 rd
      let a ← finOf 32 rs1
      let b ← finOf 32 rs2
      match f3 with
      | 0 => some (.lmRfetch ⟨d, a, b⟩)
      | 1 => some (.lmBext ⟨d, a, b⟩)
      | 2 => need (rs2 == 0) (some (.lmSwait d a))
      | 3 => some (.lmDisp ⟨d, a, b⟩)
      | _ => none
  | _ => none

def encodeLm : Instr → Option Nat
  | .lmRfetch o => some (packN widthsLm [0x0B, o.d.val, 0, o.a.val, o.b.val, 0])
  | .lmBext o => some (packN widthsLm [0x0B, o.d.val, 1, o.a.val, o.b.val, 0])
  | .lmSwait d a => some (packN widthsLm [0x0B, d.val, 2, a.val, 0, 0])
  | .lmDisp o => some (packN widthsLm [0x0B, o.d.val, 3, o.a.val, o.b.val, 0])
  | _ => none

/-- The instruction whose bits the opcode table numbers w: a 32-bit Lomwen word, a 128-bit micro-word, or a slot. -/
def decodeTableWord (nbits w : Nat) : Option Instr :=
  if nbits = 32 then decodeLm w else if nbits = 128 then decodeMicro w else decode w

end Sys2Proof
end

