-- ==== Sys2Proof/Machine/Float.lean ====
section
/-! DEFINITION. The floating-point formats, rounding, and the operations on elements given as bit patterns (R40 to
R49), with flags; and the aligning accumulator (R54, R55). -/

namespace Sys2Proof.Machine

/-- A format: exponent bits, fraction bits, whether all-ones exponents are infinities and NaNs (R40, R41). -/
structure Fmt where
  eb : Nat
  mb : Nat
  inf : Bool
  deriving DecidableEq, Repr

def Fmt.width (f : Fmt) : Nat := 1 + f.eb + f.mb
def Fmt.bias (f : Fmt) : Nat := 2 ^ (f.eb - 1) - 1

/-- The format of a floating element type (R40); pairs have their half's (R44). -/
def fmtOf : ElemType → Fmt
  | .d => ⟨11, 52, true⟩
  | .f | .f2 => ⟨8, 23, true⟩
  | .bf | .bf2 => ⟨8, 7, true⟩
  | .h => ⟨5, 10, true⟩
  | .e5 => ⟨5, 2, true⟩
  | _ => ⟨4, 3, false⟩

/-- Rounding mode and flush control (R24). -/
structure FMode where
  rm : Nat
  fz : Bool
  deriving DecidableEq, Repr

/-- Nearest-even, no flushing: barns, mills, yields (R59). -/
def rne : FMode := ⟨0, false⟩

/-- Flags in fpcsr order from bit 4: NX, UF, OF, DZ, NV (R24). -/
def NX : Nat := 1
def UF : Nat := 2
def OF : Nat := 4
def DZ : Nat := 8
def NV : Nat := 16

/-- A value: not a number (signalling or quiet), an infinity, or ± m × 2^e. -/
inductive FVal where
  | nan (sig : Bool) | inf (s : Bool) | fin (s : Bool) (m : Nat) (e : Int)
  deriving DecidableEq, Repr

/-- Read a bit pattern (R40, R41). -/
def readF (f : Fmt) (x : Nat) : FVal :=
  let fr := x % 2 ^ f.mb
  let ex := x / 2 ^ f.mb % 2 ^ f.eb
  let s := x / 2 ^ (f.mb + f.eb) % 2 == 1
  if f.inf && ex == 2 ^ f.eb - 1 then
    if fr = 0 then .inf s else .nan (fr < 2 ^ (f.mb - 1))
  else if !f.inf && ex == 2 ^ f.eb - 1 && fr == 2 ^ f.mb - 1 then .nan false
  else if ex = 0 then .fin s fr (1 - (f.bias : Int) - f.mb)
  else .fin s (2 ^ f.mb + fr) ((ex : Int) - f.bias - f.mb)

def nanF (f : Fmt) : Nat :=
  if f.inf then (2 ^ f.eb - 1) * 2 ^ f.mb + 2 ^ (f.mb - 1) else 2 ^ (f.eb + f.mb) - 1
def signF (f : Fmt) (s : Bool) : Nat := if s then 2 ^ (f.eb + f.mb) else 0
def infF (f : Fmt) (s : Bool) : Nat := signF f s + (2 ^ f.eb - 1) * 2 ^ f.mb
def maxF (f : Fmt) (s : Bool) : Nat :=
  signF f s + (if f.inf then (2 ^ f.eb - 1) * 2 ^ f.mb - 1 else 2 ^ (f.eb + f.mb) - 2)

/-- An operand under FZ: a subnormal of d, f, bf or h reads as zero of its sign (R47). -/
def flushF (f : Fmt) (fz : Bool) (x : Nat) : Nat :=
  if fz && f.inf && f.mb != 2 && x / 2 ^ f.mb % 2 ^ f.eb == 0 then x / 2 ^ (f.mb + f.eb) % 2 * 2 ^ (f.mb + f.eb)
  else x

/-- m / 2^k rounded to an integer by rm for sign s, and whether it was inexact (R45). -/
def roundShift (rm : Nat) (s : Bool) (m k : Nat) : Nat × Bool :=
  let q := m / 2 ^ k
  let r := m % 2 ^ k
  let up := match rm with
    | 0 => decide (2 ^ k < 2 * r) || (decide (2 * r = 2 ^ k) && q % 2 == 1)
    | 1 => false
    | 2 => r != 0 && !s
    | _ => r != 0 && s
  (if up then q + 1 else q, r != 0)

/-- ± m × 2^e rounded to the format by rm, with its flags (R45 to R47). Overflow gives by rm ∞ or max finite; sat
always max finite (R49). -/
def packF (f : Fmt) (md : FMode) (sat : Bool) (s : Bool) (m : Nat) (e : Int) : Nat × Nat :=
  if m = 0 then (signF f s, 0)
  else
    let emin : Int := 1 - (f.bias : Int)
    let lead : Int := (Nat.log2 m : Int) + e
    let q : Int := Max.max lead emin - f.mb
    let r := if q ≤ e then (m * 2 ^ (e - q).toNat, false) else roundShift md.rm s m (q - e).toNat
    -- tininess after rounding with an unbounded exponent (R46)
    let tiny := decide (lead < emin) && !(decide (lead = emin - 1) &&
      decide (2 ^ (f.mb + 1) ≤ (if lead - f.mb ≤ e then (m * 2 ^ (e - (lead - f.mb)).toNat, false)
        else roundShift md.rm s m (lead - f.mb - e).toNat).1))
    let (v, q) := if r.1 = 2 ^ (f.mb + 1) then (2 ^ f.mb, q + 1) else (r.1, q)
    let bits : Nat := if v < 2 ^ f.mb then v else ((q + f.mb + f.bias).toNat) * 2 ^ f.mb + (v - 2 ^ f.mb)
    if maxF f false < bits then
      let away := !sat && (md.rm == 0 || (md.rm == 2 && !s) || (md.rm == 3 && s))
      (if away then infF f s else maxF f s, OF ||| NX)
    else if md.fz && v != 0 && decide (v < 2 ^ f.mb) then (signF f s, UF ||| NX)
    else (signF f s + bits, (if r.2 then NX else 0) ||| (if tiny && r.2 then UF else 0))

def sigNv : FVal → Nat
  | .nan true => NV | _ => 0

def isNan : FVal → Bool
  | .nan _ => true | _ => false

/-- a × b + c with one rounding; ng negates the product, nc negates c (R126). -/
def fmaF (f : Fmt) (md : FMode) (ng nc : Bool) (a b c : Nat) : Nat × Nat :=
  let x := readF f (flushF f md.fz a)
  let y := readF f (flushF f md.fz b)
  let z := readF f (flushF f md.fz c)
  let fl := sigNv x ||| sigNv y ||| sigNv z
  let zs (s : Bool) := s != nc
  match x, y with
  | .inf _, .fin _ 0 _ | .fin _ 0 _, .inf _ => (nanF f, fl ||| NV)
  | .nan _, _ | _, .nan _ => (nanF f, fl)
  | .inf s, .inf t | .inf s, .fin t _ _ | .fin s _ _, .inf t =>
      let ps := (s != t) != ng
      match z with
      | .nan _ => (nanF f, fl)
      | .inf u => if zs u = ps then (infF f ps, fl) else (nanF f, fl ||| NV)
      | .fin _ _ _ => (infF f ps, fl)
  | .fin s m e, .fin t n g =>
      let ps := (s != t) != ng
      match z with
      | .nan _ => (nanF f, fl)
      | .inf u => (infF f (zs u), fl)
      | .fin u k h =>
          let pm := m * n
          let pe := e + g
          let us := zs u
          if pm = 0 && k = 0 then (signF f (if ps = us then ps else md.rm == 3), fl)
          else
            let lo := if pm = 0 then h else if k = 0 then pe else Min.min pe h
            let A : Int := (pm : Int) * 2 ^ (pe - lo).toNat * (if ps then -1 else 1)
            let B : Int := (k : Int) * 2 ^ (h - lo).toNat * (if us then -1 else 1)
            let S := A + B
            if S = 0 then (signF f (md.rm == 3), fl)
            else
              let r := packF f md false (decide (S < 0)) S.natAbs lo
              (r.1, fl ||| r.2)

/-- The bit pattern of 1. -/
def oneF (f : Fmt) : Nat := f.bias * 2 ^ f.mb

def addF (f : Fmt) (md : FMode) (a b : Nat) : Nat × Nat := fmaF f md false false a (oneF f) b
def subF (f : Fmt) (md : FMode) (a b : Nat) : Nat × Nat := fmaF f md false true a (oneF f) b

def mulF (f : Fmt) (md : FMode) (a b : Nat) : Nat × Nat :=
  let x := readF f (flushF f md.fz a)
  let y := readF f (flushF f md.fz b)
  let fl := sigNv x ||| sigNv y
  match x, y with
  | .nan _, _ | _, .nan _ => (nanF f, fl)
  | .inf _, .fin _ 0 _ | .fin _ 0 _, .inf _ => (nanF f, fl ||| NV)
  | .inf s, .inf t | .inf s, .fin t _ _ | .fin s _ _, .inf t => (infF f (s != t), fl)
  | .fin s m e, .fin t n g => packF f md false (s != t) (m * n) (e + g)

def divF (f : Fmt) (md : FMode) (a b : Nat) : Nat × Nat :=
  let x := readF f (flushF f md.fz a)
  let y := readF f (flushF f md.fz b)
  let fl := sigNv x ||| sigNv y
  match x, y with
  | .nan _, _ | _, .nan _ => (nanF f, fl)
  | .inf _, .inf _ => (nanF f, fl ||| NV)
  | .inf s, .fin t _ _ => (infF f (s != t), fl)
  | .fin s _ _, .inf t => (signF f (s != t), fl)
  | .fin s m e, .fin t n g =>
      if n = 0 then (if m = 0 then (nanF f, fl ||| NV) else (infF f (s != t), fl ||| DZ))
      else if m = 0 then (signF f (s != t), fl)
      else
        let k := f.mb + 3 + Nat.log2 n
        let q := m * 2 ^ k / n
        let st := if m * 2 ^ k % n = 0 then 0 else 1
        packF f md false (s != t) (2 * q + st) (e - g - k - 1)

/-- ⌊√n⌋ below 2^k. -/
def isqrt (n : Nat) : Nat → Nat → Nat
  | 0, r => r
  | k + 1, r => if (r + 2 ^ k) * (r + 2 ^ k) ≤ n then isqrt n k (r + 2 ^ k) else isqrt n k r

/-- √a (R126). -/
def sqrtF (f : Fmt) (md : FMode) (a : Nat) : Nat × Nat :=
  match readF f (flushF f md.fz a) with
  | .nan sg => (nanF f, if sg then NV else 0)
  | .inf s => if s then (nanF f, NV) else (infF f false, 0)
  | .fin s m e =>
      if m = 0 then (signF f s, 0)
      else if s then (nanF f, NV)
      else
        let (m, e) := if e % 2 = 0 then (m, e) else (2 * m, e - 1)
        let k := f.mb + 4
        let n := m * 2 ^ (2 * k)
        let r := isqrt n (k + Nat.log2 m / 2 + 2) 0
        packF f md false false (2 * r + (if r * r = n then 0 else 1)) (e / 2 - k - 1)

/-- 1 ÷ √a (R126). -/
def rsqF (f : Fmt) (md : FMode) (a : Nat) : Nat × Nat :=
  match readF f (flushF f md.fz a) with
  | .nan sg => (nanF f, if sg then NV else 0)
  | .inf s => if s then (nanF f, NV) else (0, 0)
  | .fin s m e =>
      if m = 0 then (infF f s, DZ)
      else if s then (nanF f, NV)
      else
        let (m, e) := if e % 2 = 0 then (m, e) else (2 * m, e - 1)
        let k := f.mb + 6 + Nat.log2 m
        let r := isqrt (2 ^ (2 * k) / m) (k + 1) 0
        packF f md false false (2 * r + (if r * r * m = 2 ^ (2 * k) then 0 else 1)) (-(e / 2) - k - 1)

/-- 1 ÷ a (R126). -/
def rcpF (f : Fmt) (md : FMode) (a : Nat) : Nat × Nat := divF f md (oneF f) a

/-- Ordered comparison of values that are not NaN: -1, 0, 1; −0 equals +0. -/
def cmpV : FVal → FVal → Int
  | .inf s, .inf t => if s = t then 0 else if s then -1 else 1
  | .inf s, _ => if s then -1 else 1
  | _, .inf t => if t then 1 else -1
  | .fin s m e, .fin t n g =>
      let lo := Min.min e g
      let A : Int := (m : Int) * 2 ^ (e - lo).toNat * (if s then -1 else 1)
      let B : Int := (n : Int) * 2 ^ (g - lo).toNat * (if t then -1 else 1)
      if A < B then -1 else if A = B then 0 else 1
  | _, _ => 0

/-- minimumNumber, maximumNumber (R43). -/
def minmaxF (f : Fmt) (fz mx : Bool) (a b : Nat) : Nat × Nat :=
  let a := flushF f fz a
  let b := flushF f fz b
  let x := readF f a
  let y := readF f b
  let fl := sigNv x ||| sigNv y
  let neg (v : Nat) := v / 2 ^ (f.mb + f.eb) % 2 == 1
  match isNan x, isNan y with
  | true, true => (nanF f, fl)
  | true, false => (b, fl)
  | false, true => (a, fl)
  | false, false =>
      let c := cmpV x y
      let lt := decide (c < 0) || (decide (c = 0) && neg a && !neg b)
      (if lt != mx then a else b, fl)

/-- VABS, VNEG: only the sign bit (R126). -/
def absF (f : Fmt) (a : Nat) : Nat × Nat :=
  let x := readF f a
  if isNan x then (nanF f, sigNv x) else (a % 2 ^ (f.mb + f.eb), 0)
def negF (f : Fmt) (a : Nat) : Nat × Nat :=
  let x := readF f a
  if isNan x then (nanF f, sigNv x)
  else (a % 2 ^ (f.mb + f.eb) + signF f (a / 2 ^ (f.mb + f.eb) % 2 == 0), 0)

/-- The conditions on floating elements and their flags (R129). -/
def condF (f : Fmt) (fz : Bool) (c : Cond) (a b : Nat) : Bool × Nat :=
  let x := readF f (flushF f fz a)
  let y := readF f (flushF f fz b)
  let un := isNan x || isNan y
  let o := cmpV x y
  let sg := sigNv x ||| sigNv y
  let ord := if un then NV else 0
  match c with
  | .eq => (!un && decide (o = 0), sg)
  | .ne => (un || decide (o ≠ 0), sg)
  | .lt => (!un && decide (o < 0), sg ||| ord)
  | .le => (!un && decide (o ≤ 0), sg ||| ord)
  | .gt => (!un && decide (0 < o), sg ||| ord)
  | .ge => (!un && decide (0 ≤ o), sg ||| ord)
  | _ => (false, 0)

/-! ## Integers (R37, R38) -/

def ElemType.isInt : ElemType → Bool
  | .s8 | .s16 | .s32 | .s64 | .n8 | .n16 | .n32 | .n64 | .s4 | .t2 => true
  | _ => false
def ElemType.isSigned : ElemType → Bool
  | .s8 | .s16 | .s32 | .s64 | .s4 | .t2 => true
  | _ => false

/-- The low n bits of x as a two's-complement number. -/
def toS (n x : Nat) : Int :=
  let y := x % 2 ^ n
  if 2 * y < 2 ^ n then (y : Int) else (y : Int) - 2 ^ n

/-- z modulo 2^n. -/
def ofS (n : Nat) (z : Int) : Nat := (z % 2 ^ n).toNat

/-- The value of an integer element (R37, R38). -/
def readI (t : ElemType) (x : Nat) : Int :=
  match t with
  | .t2 => if x % 4 = 2 then 0 else toS 2 x
  | _ => if ElemType.isSigned t then toS t.width x else ((x % 2 ^ t.width : Nat) : Int)

def minI (t : ElemType) : Int :=
  match t with
  | .t2 => -1
  | _ => if ElemType.isSigned t then -(2 ^ (t.width - 1)) else 0
def maxI (t : ElemType) : Int :=
  match t with
  | .t2 => 1
  | _ => if ElemType.isSigned t then 2 ^ (t.width - 1) - 1 else 2 ^ t.width - 1

def clampI (t : ElemType) (z : Int) : Int := Max.max (minI t) (Min.min (maxI t) z)

/-! ## Conversions (R48, R49) -/

/-- ± m × 2^e to e4 or e5 (R49). -/
def packFp8 (f : Fmt) (keepInf : Bool) (s : Bool) (m : Nat) (e : Int) : Nat × Nat :=
  packF f rne (!keepInf) s m e

/-- One element from type s to type t (R48, R49): a wider integer takes the value's two's complement, another is clamped.
Between h and bf, which have one width, the value is rounded as for a narrower float; and an e5 subnormal that becomes an h with FZ = 1
is flushed as R47 has it, with UF and NX, though R48 gives a wider float no flag but NV: DESIGN CHOICE, log 68. -/
def convert (md : FMode) (inf : Bool) (s t : ElemType) (x : Nat) : Nat × Nat :=
  let ft := fmtOf t
  let fp8 := t == .e4 || t == .e5
  if ElemType.isInt s then
    let z := readI s x
    if ElemType.isInt t then (ofS t.width (if s.width < t.width then z else clampI t z), 0)
    else if fp8 then packFp8 ft inf (decide (z < 0)) z.natAbs 0
    else packF ft { md with fz := false } false (decide (z < 0)) z.natAbs 0
  else
    let v := readF (fmtOf s) (flushF (fmtOf s) md.fz x)
    if ElemType.isInt t then
      match v with
      | .nan _ => (0, NV)
      | .inf sg => (ofS t.width (if sg then minI t else maxI t), NV)
      | .fin sg m e =>
          let r := if 0 ≤ e then (m * 2 ^ e.toNat, false) else roundShift md.rm sg m (-e).toNat
          let z : Int := if sg then -(r.1 : Int) else r.1
          if z < minI t then (ofS t.width (minI t), NV)
          else if maxI t < z then (ofS t.width (maxI t), NV)
          else (ofS t.width z, if r.2 then NX else 0)
    else
      match v with
      | .nan sg => (nanF ft, if sg then NV else 0)
      | .inf sg =>
          if fp8 then (if inf then (infF ft sg, 0) else (maxF ft sg, OF ||| NX)) else (infF ft sg, 0)
      | .fin sg m e => if fp8 then packFp8 ft inf sg m e else packF ft md false sg m e

/-- imm32 as an f: a NaN pattern is the default NaN, any other pattern itself (R122). R48 has no row from f to f, so what a NaN pattern
becomes at types f and f2 is the model's choice, after R41: DESIGN CHOICE, log 99. -/
def immF (i : W32) : Nat :=
  match readF (fmtOf .f) i.toNat with
  | .nan _ => nanF (fmtOf .f)
  | _ => i.toNat

/-- An element from an imm32 (R122): integers by sign extension, floats from an f pattern, no flag. -/
def immElem (t : ElemType) (i : W32) : Nat :=
  if ElemType.isInt t then ofS t.width (toS 32 i.toNat)
  else match t with
    | .bf2 => let x := (convert rne false .f .bf i.toNat).1; x + 2 ^ 16 * x
    | .f2 => let x := immF i; x + 2 ^ 32 * x
    | .f => immF i
    | _ => (convert rne false .f t i.toNat).1

/-! ## The aligning accumulator (R54, R55) -/

/-- x / 2^n to the nearest integer, ties to even (R54). -/
def shrRne (x : Int) (n : Nat) : Int :=
  if n = 0 then x
  else if 48 ≤ n then 0
  else
    let q := x / 2 ^ n
    let r := x - q * 2 ^ n
    if 2 * r > 2 ^ n || (2 * r == 2 ^ n && q % 2 == 1) then q + 1 else q

end Sys2Proof.Machine
end

