-- ==== Sys2Proof/Config.lean ====
section
/-! DEFINITION. What the part fixes, and the values the manual leaves open (free values: opaque, no body). -/

namespace Sys2Proof.Config

/-- Crofts of the package: 8 dies of 24 by 24 (R4, R5). -/
def crofts : Nat := 4608
/-- Hands per croft and other fixed sizes (R4, R164, R179, R228, R259, R268, R347, R399). -/
def parkListMax : Nat := 16
def heldMax : Nat := 64
def fairEntries : Nat := 1024
def ringEntries : Nat := 16
def bayMax : Nat := 256
def landingEngines : Nat := 32
def ricks : Nat := 16
def threshersPerFloor : Nat := 32
def agentPackets : Nat := 8
def haywardPackets : Nat := 256
def cribOnChip : Nat := 32
def cribWaiters : Nat := 32
def channelDepth : Nat := 4
def millCalls : Nat := 16
def launchSlots : Nat := 16
/-- Lines an L1 data cache of 16 KiB, an instruction cache of 16 KiB and a 64 KiB barn bank hold (R4, R61, R272). -/
def l1Lines : Nat := 512
def icacheLines : Nat := 256
def bankLines : Nat := 1024

/-- Barn banks: 64 for each of 72 fields (R4, R272); a bank number past them is that of no home. -/
def banks : Nat := 4608

/-- Lomwen cores: two for each croft die, and the hayward's two (R4). -/
def lomwens : Nat := 18

/-- This package's index in its pod; 0 on a package that belongs to no pod (R19, R231). The model is of a
package in no pod (log 3). -/
def podPosition : Nat := 0

/-- FREE VALUE. Which line, if any, a cache drops when it takes a new one (R238, R240, R272). -/
opaque victim : Nat → Nat
/-- FREE VALUE. Which free fair entry a hire takes, and the serial it is given (R199, R292). -/
opaque fairEntry : Nat → Nat
opaque fairSerial : Nat → Nat
/-- FREE VALUE. A byte, by address, that a load of a line returns whose window was changed without a SHOOT (R336). -/
opaque staleByte : Nat → Nat → Byte
/-- FREE VALUE. The bytes of the image of a tenant at SAVE, whose layout the manual does not give (R364; log 9). -/
opaque imageByte : Nat → Nat → Byte
/-- FREE VALUE. The function whose space a Lomwen cursor reads, by core and cursor address: R320 checks its windows and
the four words of a cursor do not name it. -/
opaque cursorFunc : Nat → Nat → Nat
/-- FREE VALUES. A counter of time or of retired instructions that a Lomwen core reads, and what its identity registers
hold, by register and core (log 51). -/
opaque rvCounter : Nat → BitVec 64
opaque rvIdentity : Nat → Nat → BitVec 64
/-- FREE VALUES. Contents fixed in the part: boot ROM, fused repair map and the certificate chain of the
device key (R395), fused key digests and revocations, and the fused minimum security version (R393). -/
opaque bootRom : List Byte
opaque repairMap : List Byte
opaque certificate : List Byte
opaque keyDigest : Nat → BitVec 512
opaque keyRevoked : Nat → Bool
opaque fusedSvn : Nat
/-- FREE VALUE. The fused map names a thresher of a floor die, so that its spare is in use (R397). -/
opaque spareUsed : Nat → Bool
/-- FREE VALUE. The fused map names a croft, so that spares of its field are in use (R396). -/
opaque croftSpares : Bool
/-- FREE VALUES. The router (die × 256 + number) that serves a croft's place in the grid, the port by which it sends toward a
neighbouring place, and the place at which a bank's slice joins the meadow: the manual numbers neither routers nor ports (R289,
R385). -/
opaque routerOf : Nat → Nat
opaque portOf : Nat → Nat → Nat
opaque bankCell : Nat → Nat
/-- FREE VALUES. The places at which a channel's weighbridge, and a die's barrier tree and launch sequencer, join the meadow (R289). -/
opaque channelCell : Nat → Nat
opaque treeCell : Nat → Nat
/-- FREE VALUE. The port by which traffic enters and leaves the meadow at a croft's place (R385). -/
opaque entryPort : Nat → Nat
/-- FREE VALUE. Whether a locality monitor names a line that no barn holds, by the counter of free values and the line (R285). -/
opaque monitorNames : Nat → Nat → Bool
/-- FREE VALUE. The order in which LM.RFETCH reads the 16-byte units of its packet (R316). -/
opaque fetchUnit : Nat → Nat
/-- FREE VALUES. A router, and one of its ports, lies on the way between two crofts of different dies: the row-then-column rule
of R385 is that of one die's meadow. -/
opaque farRouter : Nat → Nat → Nat → Bool
opaque farPort : Nat → Nat → Nat → Nat → Bool
/-- FREE VALUE. The routers of a die's meadow tree on the way of a multicast between two crofts, from the root down (R206,
R281). -/
opaque treePath : Nat → Nat → List Nat
/-- Free entries of a router (R281). -/
def freeEntries : Nat := 64

end Sys2Proof.Config
end

