-- ==== Sys2Proof/Machine/Sparse.lean ====
section
/-! DEFINITION. Sparse maps: a list of (key, value) pairs, keys strictly rising, with a stated default for a key
that is not listed. A memory of bytes is one whose listed values differ from the default. -/

namespace Sys2Proof.Machine

/-- A sparse map from numbers. -/
abbrev Sparse (α : Type) := List (Nat × α)

/-- What key k holds: the listed value, else the default d. -/
def sread {α : Type} (d : α) : Sparse α → Nat → α
  | [], _ => d
  | (k', v) :: m, k => if k' = k then v else sread d m k

/-- Remove key k. -/
def sdel {α : Type} : Sparse α → Nat → Sparse α
  | [], _ => []
  | (k', v) :: m, k => if k' = k then sdel m k else (k', v) :: sdel m k

/-- Insert (k, v) before the first larger key. -/
def sput {α : Type} : Sparse α → Nat → α → Sparse α
  | [], k, v => [(k, v)]
  | (k', v') :: m, k, v => if k < k' then (k, v) :: (k', v') :: m else (k', v') :: sput m k v

/-- Set key k, kept even where v is the default (maps of structures). -/
def sset {α : Type} (m : Sparse α) (k : Nat) (v : α) : Sparse α := sput (sdel m k) k v

/-- Set key k, dropping the entry where v is the default (memories). -/
def swrite {α : Type} [DecidableEq α] (d : α) (m : Sparse α) (k : Nat) (v : α) : Sparse α :=
  if v = d then sdel m k else sput (sdel m k) k v

/-- Keys strictly rising, each above lo where lo is given. -/
def srising {α : Type} : Option Nat → Sparse α → Bool
  | _, [] => true
  | none, (k, _) :: m => srising (some k) m
  | some l, (k, _) :: m => decide (l < k) && srising (some k) m

/-- The canonical form of a memory: keys strictly rising, no entry equal to the default. -/
def swf {α : Type} [DecidableEq α] (d : α) (m : Sparse α) : Bool :=
  srising none m && m.all fun e => decide (e.2 ≠ d)

/-- The little-endian number of the n values from key a (bytes), and its store (R36). -/
def loadBytes (m : Sparse Byte) : Nat → Nat → Nat
  | _, 0 => 0
  | a, n + 1 => (sread 0 m a).toNat + 256 * loadBytes m (a + 1) n

def storeBytes : Sparse Byte → Nat → List Byte → Sparse Byte
  | m, _, [] => m
  | m, a, b :: bs => storeBytes (swrite 0 m a b) (a + 1) bs

/-- The n low bytes of x, least significant first (R36). -/
def toBytes : Nat → Nat → List Byte
  | 0, _ => []
  | n + 1, x => BitVec.ofNat 8 x :: toBytes n (x / 256)

def ofBytes : List Byte → Nat
  | [] => 0
  | b :: bs => b.toNat + 256 * ofBytes bs

/-- Replace the i-th element. -/
def setAt {α : Type} : List α → Nat → α → List α
  | [], _, _ => []
  | _ :: l, 0, x => x :: l
  | y :: l, i + 1, x => y :: setAt l i x

/-- Drop the i-th element. -/
def dropAt {α : Type} : List α → Nat → List α
  | [], _ => []
  | _ :: l, 0 => l
  | y :: l, i + 1 => y :: dropAt l i

/-- The i-th element, if any. -/
def nth {α : Type} : List α → Nat → Option α
  | [], _ => none
  | x :: _, 0 => some x
  | _ :: l, i + 1 => nth l i

end Sys2Proof.Machine
end

