-- ==== Sys2Proof/Machine/State.lean ====
section
/-! DEFINITION. The state of the package as plain data, the reasons a step can stop, and the state at reset. -/

namespace Sys2Proof.Machine

/-! ## Contexts (R10 to R35, R217 to R230) -/

/-- The registers of one context (R10, R24). -/
structure Regs where
  g : Vector W64 64
  v : Vector VWord 32
  p : Vector PWord 8
  b : Vector W32 8
  fpcsr : W64
  deriving DecidableEq, Repr

/-- All registers zero (R29). -/
def Regs.zero : Regs :=
  ⟨Vector.replicate 64 0, Vector.replicate 32 0, Vector.replicate 8 0, Vector.replicate 8 0, 0⟩

/-- Context states (R227). -/
inductive Mode where
  | free | running | awaiting | parked | frozen | exited
  deriving DecidableEq, Repr

/-- What the context's last turn came to (R77, R217). -/
inductive Turn where
  | issued | gateWait | waiting | decodeFault | operandFault
  deriving DecidableEq, Repr

/-- How far the current seal or suspension point has got (R223): not begun, waiting for its counts, sealed. -/
inductive Stage where
  | open | sealing | sealed
  deriving DecidableEq, Repr

/-- Who sowed the occupant (R213, R220): a launch of a die (by its number) and the member, a SPAWN, or firmware. -/
inductive Origin where
  | none | launch (die id member : Nat) | spawned | firmware
  deriving DecidableEq, Repr

/-- Home resolution of an access, made when it passes its check (R273, R336, R339). -/
structure Res where
  asid : Nat
  bank : Nat
  chan : Nat
  glob : Bool
  wt : Bool
  ft : Bool
  /-- the packet met an uncorrectable error on a link: the block it writes is marked (R53, R383) -/
  bad : Bool
  deriving DecidableEq, Repr

/-- What an atomic computes (R176, R177). -/
inductive AtomF where
  | int (o : AOp) | flt (o : FOp) (z : FSize) | cas
  deriving DecidableEq, Repr

/-- A held no-return atomic (R179): address, width in bytes, operation, operand, resolution, class. -/
structure Held where
  va : Nat
  n : Nat
  f : AtomF
  x : Nat
  res : Res
  cls : Nat
  deriving DecidableEq, Repr

/-- A posted store not yet acknowledged (R150, R151, R159): its first address, its runs of bytes, its earmark, and the
classes of its pieces, one for each block, that are not acknowledged. space: 0 virtual, t + 1 croft memory of tenant t,
t + 1 + 2^24 the debug window of t. -/
structure Posted where
  id : Nat
  space : Nat
  addr : Nat
  runs : List (Nat × List Byte)
  mark : Option Mark
  left : List Nat
  deriving DecidableEq, Repr

/-- A write that takes effect with the other slot of its pair: of a special register, or of a bin beside a slot that parks
(R68, R69). -/
inductive Late where
  | special (n : Nat) (x : W64) | bin (k : Nat) (x : W32)
  deriving DecidableEq, Repr

/-- What a pair that has left the rotation owes: the registers a fault restores (R69), the bits the higher slot wrote,
by register specifier (R34), and a write that takes effect with the other slot. -/
structure Owing where
  undo : Option Regs
  keep : Option (Nat × Nat)
  late : Option Late
  deriving DecidableEq, Repr

def Owing.none : Owing := ⟨.none, .none, .none⟩

/-- Wake kinds (R229). -/
inductive Wake where
  | ready | bin | feFull | feEmpty | crib | barrier | chan | chanSpace | resume | resident | kick
  deriving DecidableEq, Repr

/-- A parked context's wake condition, its destination registers (for an abort wait, d is the generation of the walk
that faulted, R348), and whether it has been served (R223, R229). -/
structure Park where
  kind : Wake
  param : Nat
  count : Nat
  d : Nat
  a : Nat
  served : Bool
  order : Nat
  /-- the release of a BARA that waited for its earlier arrival first (R191): the arrival to make on waking, and its bin -/
  rearrive : Option (Nat × Nat × Nat × Option Nat)
  /-- the number of the access that parked it -/
  acc : Nat
  /-- the instruction's slot, the slot a release resumes at, and what its pair owes -/
  slot : Nat
  base : Nat
  owe : Owing
  /-- the poisoned block its word lies in, met when it was served (R154) -/
  ue : Option Nat
  deriving DecidableEq, Repr

/-- A wake condition and nothing else. -/
def Park.plain (kind : Wake) (param count d a : Nat) (served : Bool) (order : Nat) : Park :=
  ⟨kind, param, count, d, a, served, order, none, 0, 0, 0, Owing.none, none⟩

/-- What the last reply of an access does with the bytes it gathered (R149, R177): n bytes to a g register, 16 to a
pair, the bytes under a mask to a v register, a crib record (with CRTRY's predicate), the argument block of an MCALL
(entry, bin), a hire id (ring entry). -/
inductive Done where
  | none
  | g (d n : Nat) (signed : Bool)
  | pair (d : Nat)
  /-- rep: the width an element is copied at to every element under the mask (LDVS with stride 0), or 0 -/
  | v (d : Nat) (mask : VWord) (rep : Nat)
  | crib (d : Nat) (p : Option Nat)
  | args (entry bin : Nat)
  | hire (d ring : Nat)
  deriving DecidableEq, Repr

/-- What a completed access does to the run (R155, R182, R185): nothing, begin the next run at the next slot, or
restart at the next slot the run that began with the access. -/
inductive RunEnd where
  | keep | begin | restart
  deriving DecidableEq, Repr

/-- Full/empty operations (R163). -/
inductive FeOp where
  | ldfe | keep | stfe | force | kick
  deriving DecidableEq, Repr

/-- What a request does at an owner croft (R147, R163, R196, R206). -/
inductive CroftOp where
  | load (units : List (Nat × Nat × Nat))
  | store (units : List (Nat × List Byte)) (mark : Option Mark)
  | festat (off : Nat) | getmark (off : Nat)
  | fe (op : FeOp) (off : Nat) (data : W64)
  | debugLoad (off n : Nat) | debugStore (off : Nat) (bytes : List Byte)
  | chsend (chan : Nat) (m0 m1 : W64) | chhold (chan : Nat) (b : Bool) | chready (chan : Nat) (b : Bool)
  | resume (tag : Nat)
  | stcm (units : List (Nat × List Byte)) (name bin : Nat) (tag : Nat)
  deriving DecidableEq, Repr

/-- A context out of the rotation awaiting replies (R149, R227): its pc is already past the instruction; slot is the
instruction's, base the slot a release resumes at (R69). -/
structure Await where
  slot : Nat
  base : Nat
  left : Nat
  buf : Nat
  fin : Done
  run : RunEnd
  /-- the flash invalidation owed on the reply (R178, R166) -/
  acq : Bool
  /-- poisoned block address met, if any (R154) -/
  ue : Option Nat
  /-- 32-byte lines whose fills may be installed (R239) -/
  fills : List Nat
  /-- refusals so far, and the cycle of the next retry (R164, R280) -/
  refused : Nat
  retry : Option W64
  /-- listed as a waiter: it parks once its released atomics are acknowledged (R223) -/
  listed : Bool
  /-- the request that is sent again -/
  again : Option (Nat × CroftOp)
  /-- the crib a CRTAKE names (R280) -/
  crib : Option Nat
  /-- how it parks when it is listed or parked elsewhere: wake kind, parameter, count (R229) -/
  wake : Wake × Nat × Nat
  deriving DecidableEq, Repr

/-- A window's four descriptor words (R334), and what a border move took from its field set. -/
structure Window where
  d0 : W64
  d1 : W64
  d2 : W64
  d3 : W64
  /-- fields of the masks that a border move has removed from the field set (R367); a write of pwd2 sets the set anew -/
  gone : List Nat
  deriving DecidableEq, Repr

/-- The pair being issued (R68): what stood before it (registers, windows, hcap, svroute, pwin, the class counts and
runseq), its lower slot, and whether the higher slot is acting. -/
structure Group where
  regs : Regs
  base : Nat
  high : Bool
  wins : Sparse Window
  hcap : W64
  svroute : W64
  pwin : Nat
  o1 : Nat
  o2 : Nat
  o3 : Nat
  runseq : W64
  deriving DecidableEq, Repr

structure Context where
  mode : Mode
  turn : Turn
  regs : Regs
  shadow : Regs
  pc : Nat
  runStart : Nat
  runseq : W64
  o1 : Nat
  o2 : Nat
  o3 : Nat
  budget : BitVec 14
  priv : Bool
  name : Nat
  /-- number of this occupancy; answers to older ones are discarded (R381) -/
  epoch : Nat
  /-- number of the access the context waits for, or of its next one: answers to earlier accesses are discarded (R225) -/
  acc : Nat
  /-- number of this period of its class counts: acknowledgements of stores before a zero-counts command are
  discarded (R380) -/
  cnt : Nat
  origin : Origin
  pop : Nat
  pwin : Nat
  held : List Held
  posted : List Posted
  stage : Stage
  /-- progress of an instruction that takes several turns (R211, R349) -/
  sub : Nat
  park : Option Park
  await : Option Await
  /-- unwaited barrier arrivals: scope, id, generation (R191) -/
  arrivals : List (Nat × Nat × Nat)
  aborts : Nat
  /-- a held abort's faulting address and generation, and whether the page has been reported resident (R345, R348) -/
  abp : Option (Nat × W32 × Bool)
  /-- a freeze command that waits for the reply (R380) -/
  frz : Bool
  exitVal : Nat
  /-- the TGT check owed on the slot at pc, with its aux code (R65, R119) -/
  tgt : Option Nat
  /-- flags raised in this turn (R34) -/
  raised : W64
  grp : Option Group
  /-- a pair out of the rotation -/
  owe : Owing
  /-- the slot or pair being issued while it waits in the rotation, its fetch checks made: the words (R77) -/
  fetched : Option (Nat × Option Nat)
  /-- the windows its operand check passed under, while it goes on waiting (R336) -/
  wins : Option (Sparse Window)
  /-- the fair entries reserved for the context's hires that have not ended: hire ids (R213) -/
  hires : List Nat
  deriving DecidableEq, Repr

def Context.empty : Context :=
  { mode := .free, turn := .issued, regs := Regs.zero, shadow := Regs.zero, pc := 0, runStart := 0, runseq := 0,
    o1 := 0, o2 := 0, o3 := 0, budget := 0, priv := false, name := 0, epoch := 0, acc := 0, cnt := 0, origin := .none, pop := 0,
    pwin := 0, held := [], posted := [], stage := .open, sub := 0, park := none, await := none, arrivals := [],
    aborts := 0, abp := none, frz := false, exitVal := 0, tgt := none, raised := 0, grp := none, owe := Owing.none,
    fetched := none, wins := none, hires := [] }

/-- What a continuation that ends leaves of its context: the registers, fpcsr, runseq, the budget and the pc hold what they held (R213
clears none; R297). -/
def Context.ended (k : Context) : Context :=
  { Context.empty with regs := k.regs, shadow := k.shadow, pc := k.pc, runStart := k.runStart, runseq := k.runseq, budget := k.budget }

/-! ## Crofts (R217, R237, R238, R378) -/

/-- A 32-byte L1 data line with the earmark of its block (R50, R238). -/
structure L1Line where
  asid : Nat
  la : Nat
  data : BitVec 256
  mark : Mark
  deriving DecidableEq, Repr

/-- A fetch line in the instruction cache (R61, R70): the check whose failure it was fetched again for (a slot, or 5 for
the line word), and whether the checks of a first issue have been made (R70, R71). -/
structure ILine where
  la : Nat
  data : LineWord
  failed : Option Nat
  checked : Bool
  deriving DecidableEq, Repr

structure Croft where
  ctxs : Sparse Context
  cyc : W64
  l1 : List L1Line
  icache : List ILine
  /-- lines that PREFs in flight may install, and each PREF's number (R171, R239) -/
  prefs : List (Nat × Nat)
  /-- lines whose next fetch follows a parity failure, and the check that failed (R70) -/
  reparity : List (Nat × Nat)
  tenant : Option Nat
  /-- stopped for a swap, a relocation or a border move (R359, R364) -/
  stopped : Bool
  /-- no new run starts (R367) -/
  quiesce : Bool
  sel : Nat
  brken : Bool
  binw : Bool
  /-- debug commands that have arrived: command, context (R379) -/
  cmds : List (Nat × Nat)
  deriving DecidableEq, Repr

def Croft.empty : Croft :=
  { ctxs := [], cyc := 0, l1 := [], icache := [], prefs := [], reparity := [], tenant := none, stopped := false,
    quiesce := false, sel := 0, brken := false, binw := false, cmds := [] }

/-! ## Tenants and sets (R352 to R355) -/

/-- A channel (R195). -/
structure Chan where
  slot : Option Nat
  h : Bool
  y : Bool
  q : List (W64 × W64)
  deriving DecidableEq, Repr

def Chan.empty : Chan := ⟨none, false, false, []⟩

/-- Who issued a request: the continuation, its occupancy, its access, its period of counts, and the run (R345). -/
structure Agent where
  ten : Nat
  name : Nat
  core : Nat
  ctx : Nat
  epoch : Nat
  acc : Nat
  cnt : Nat
  rseq : W64
  start : Nat
  deriving DecidableEq, Repr

/-- How a waiter of an FE word stands (R165): listed, an own operation that has met the word and is not yet parked, or a
remote one that was refused and is on its way again. -/
inductive FeStand where
  | listed | pending | refused
  deriving DecidableEq, Repr

/-- A waiter of an FE word, own or remote, in the order it met the word (R165). -/
structure FeWaiter where
  off : Nat
  op : FeOp
  data : W64
  who : Agent
  remote : Bool
  stand : FeStand
  /-- its packet met an uncorrectable error on a link (R383) -/
  bad : Bool
  deriving DecidableEq, Repr

/-- A CHSEND parked on the owner's park list (R196). -/
structure ChWaiter where
  chan : Nat
  m0 : W64
  m1 : W64
  who : Agent
  deriving DecidableEq, Repr

/-- A continuation slot of the pool (R228): whether it is taken, and the wake-table entry while it is evicted. -/
structure Slot where
  taken : Bool
  origin : Origin
  evicted : Option Park
  /-- its record stands in the continuation queue -/
  queued : Bool
  arrivals : List (Nat × Nat × Nat)
  hires : List Nat
  epoch : Nat
  /-- a freeze command that waits until it next issues (R380), and a hand that was relocated sealed (R367) -/
  frz : Bool
  sealed_ : Bool
  deriving DecidableEq, Repr

def Slot.empty : Slot := ⟨false, .none, none, false, [], [], 0, false, false⟩

/-- A partner-table entry (R355). -/
structure Partner where
  v : Bool
  ten : Nat
  count : Nat
  deriving DecidableEq, Repr

/-- Swap states of a tenant's hosting (R359, R364). -/
inductive Move where
  | settled | exchanging | remapping | draining
  deriving DecidableEq, Repr

/-- A multicast whose frees are not complete (R206, R207, R281): tag, sender's continuation name and free bin, the routers on
the way to each receiver, the receivers that have not freed, and the routers that hold a free entry for it. -/
structure Multicast where
  tag : Nat
  name : Nat
  bin : Nat
  ways : List (Nat × List Nat)
  left : List Nat
  entries : List Nat
  deriving DecidableEq, Repr

structure Tenant where
  set : Nat
  paddock : Nat
  core : Nat
  cool : Nat
  pool : Nat
  steward : Nat
  save : Nat
  hcap : W64
  priv : Bool
  layout : Nat
  sbud : BitVec 14
  mem : Sparse Byte
  /-- FE bits by word, listed where full (R162) -/
  fe : Sparse Bool
  marks : Sparse Mark
  chans : Sparse Chan
  lastChan : Nat
  waiters : List FeWaiter
  senders : List ChWaiter
  slots : Sparse Slot
  /-- the continuation queue's crib (R228), and records it had no room for -/
  contq : Option Nat
  backlog : List (BitVec 512)
  resumes : List Nat
  partners : List Partner
  newcomer : Partner
  /-- reserved entries of the job ring, and the glean re-fetches owed (R268, R363) -/
  ring : List Nat
  refetch : Nat
  refetching : Bool
  move : Move
  /-- map epoch installed by the last move (R360), and the croft it left -/
  epoch : Nat
  oldCore : Nat
  /-- multicasts it sent whose frees are not complete -/
  frees : List Multicast
  deriving DecidableEq, Repr

def Tenant.empty : Tenant :=
  { set := 0, paddock := 0, core := 0, cool := 0, pool := 0, steward := 0, save := 0, hcap := 0, priv := false,
    layout := 1, sbud := 0, mem := [], fe := [], marks := [], chans := [], lastChan := 31, waiters := [],
    senders := [], slots := [], contq := none, backlog := [], resumes := [],
    partners := List.replicate 8 ⟨false, 0, 0⟩, newcomer := ⟨false, 0, 0⟩, ring := [], refetch := 0, refetching := false,
    move := .settled, epoch := 0, oldCore := 0, frees := [] }

/-- A fault packet or log entry (R376). -/
structure Report where
  w0 : W64
  w1 : W64
  w2 : W64
  w3 : W64
  deriving DecidableEq, Repr

/-- A participant of a barrier generation: arrival, destination register 0 or completion bin (R190). -/
structure Arrival where
  who : Agent
  bin : Option Nat
  deriving DecidableEq, Repr

/-- A barrier (R190): its generation number, N of the open generation, its arrivals, and the generations that
ended with ABORT. -/
structure Barrier where
  gen : Nat
  n : Nat
  arrived : List Arrival
  aborted : List Nat
  deriving DecidableEq, Repr

def Barrier.empty : Barrier := ⟨0, 0, [], []⟩

/-- A SHOOT in progress (R349): its range, or the affected windows of a rehash (R367), each by first byte and end. -/
structure Shoot where
  ranges : List (Nat × Nat)
  gen : W32
  deriving DecidableEq, Repr

structure TSet where
  count : Nat
  asid : Nat
  paddock : Nat
  svroute : W64
  windows : Sparse Window
  root : Nat
  gen : W32
  shoots : List Shoot
  /-- keyed by scope instance and id (R190) -/
  barriers : Sparse Barrier
  /-- fault packets the hayward holds, and by agent how many it had no room for (R375, R376) -/
  held : List (Nat × Report)
  lost : Sparse Nat
  /-- ranges of windows rehomed while lines of them were cached, until a SHOOT of a later generation covers them (R336):
  first byte, end, generation at the change -/
  stale : List (Nat × Nat × W32)
  deriving DecidableEq, Repr

/-! ## Packets in flight -/

/-- What counts as the access in a fault packet's aux (R346). -/
inductive AccKind where
  | load | store | atomic | landing | millStep | host | fetch
  deriving DecidableEq, Repr

/-- A bin of a continuation (R187). -/
structure Target where
  ten : Nat
  name : Nat
  bin : Nat
  deriving DecidableEq, Repr

/-- An add, and, or, xor, or other atomic request, or two that a drove switch combined: the switch, its upper
input, its lower input (R277). -/
inductive AtomReq where
  | one (who : Agent) (x e : Nat) (ret : Bool) (pos cls id : Nat)
  | both (switch : Nat) (upper lower : AtomReq)
  deriving DecidableEq, Repr

/-- Where the completion of a request goes. -/
inductive AckTo where
  | none | cls (k id : Nat) | reply (pos : Nat) | hire (id i : Nat) | host (tag : Nat) | queue (q n : Nat)
  | ring (f : Nat) (int : Bool) | stream (f : Nat)
  deriving DecidableEq, Repr

/-- What a request does at its home bank. -/
inductive HomeOp where
  /-- n bytes at va to byte pos of the reply; fill: the L1 line of va comes with them -/
  | load (n : Nat) (fill : Bool)
  | fetch | pref (fill : Option Nat) | getmark
  | store (units : List (Nat × List Byte)) (mark : Option Mark)
  /-- the units left of a store that has begun (R245) -/
  | rest (units : List (Nat × List Byte))
  | atom (n : Nat) (f : AtomF) (t : AtomReq)
  /-- a line step of a mill of a channel, at its turn in the home's arithmetic unit, or a step's source (R275, R285) -/
  | step (mill : Nat) (source : Bool)
  deriving DecidableEq, Repr

structure Req where
  who : Agent
  kind : AccKind
  res : Res
  va : Nat
  op : HomeOp
  bin : Option Target
  ack : AckTo
  deriving DecidableEq, Repr

/-- Crib requests (R280). -/
inductive CribOp where
  | add (r : BitVec 512) | take | tryTake | stat | bind (loft size : Nat) (wins : Sparse Window) | unbind
  deriving DecidableEq, Repr

/-- The hire's own operands (R197). -/
structure HireReq where
  who : Agent
  floor : Nat
  hcap : W64
  pad : Nat
  pri : Nat
  wf : Nat
  yf : Nat
  ord : Bool
  chain : Bool
  land : Bool
  m : Nat
  k : Nat
  n : Nat
  a : Nat
  b : Nat
  c : Nat
  stride : W64
  bin : Nat
  ring : Nat
  /-- the windows its check passed under, for the homes of its landings (R273, R336) -/
  wins : Sparse Window
  deriving DecidableEq, Repr

/-- Where a mill call reports (R211, R310, R327). -/
inductive CallDone where
  | bin (t : Target) | ring (f addr : Nat) (int : Bool) | queue (q n : Nat)
  deriving DecidableEq, Repr

structure Call where
  set : Nat
  /-- the channel whose mill is called -/
  chan : Nat
  who : Agent
  entry : Nat
  va : W64
  len : W64
  a1 : W64
  a2 : W64
  done : CallDone
  /-- the ranges its check passed, each by first byte and length, and the windows it passed under (R211, R310, R336) -/
  held : List (Nat × Nat)
  wins : Sparse Window
  deriving DecidableEq, Repr

structure Reply where
  pos : Nat
  n : Nat
  val : Nat
  poison : Option Nat
  fill : Option (Nat × BitVec 256 × Mark)
  /-- a fault that freezes the issuing instruction: code, aux, address -/
  err : Option (Nat × Nat × Nat)
  /-- refused (R164, R280), or listed as a waiter (R194) -/
  refused : Bool
  listed : Bool
  /-- the block that was read, for a reply that a link's error poisons; 0 for an answer that reads none (R384) -/
  blk : Nat
  deriving DecidableEq, Repr

inductive Msg where
  | home (r : Req)
  /-- a packet for a tenant's croft; bad: an error on a link (R383) -/
  | croft (ten epoch : Nat) (who : Agent) (op : CroftOp) (bin : Option Target) (ack : AckTo) (bad : Bool)
  | reply (who : Agent) (r : Reply)
  | pref (core id : Nat) (l : L1Line)
  | code (who : Agent) (la : Nat) (data : LineWord) (poison : Option Nat)
  | split (v n : Nat) (f : AtomF) (t : AtomReq) (blk : Nat) (bad : Bool)
  | ack (who : Agent) (cls id : Nat)
  /-- a weighbridge fault answer: class count to lower (0 none), posted id, code, address, generation, and whether a resident report
  has covered it on its way (R348) -/
  | fault (who : Agent) (cls id code va : Nat) (gen : W32) (told : Bool)
  /-- a line on its way to a bank: its tag, and the space whose walk found it -/
  | fill (bank chan tag la pa : Nat) (gen : W32) (ro : Bool) (asid : Nat) (bad : Bool)
  | arrive (set key n : Nat) (a : Arrival) (id scope : Nat)
  | abort (set id gen : Nat) (who : Agent)
  | crib (who : Agent) (set c : Nat) (op : CribOp)
  | hire (h : HireReq)
  | sheaf (who : Agent) (hire op seq : Nat) (mark : Mark) (data : LineWord) (id : Nat)
  | mcall (c : Call)
  | free (sender tag by_ : Nat) (who : Agent) (cls id : Nat)
  | landFault (hire i : Nat)
  deriving DecidableEq, Repr

/-- A packet in flight, with the order it must keep: a packet with a nonempty key waits for every earlier packet
of the same key (R151, R237, R247). -/
structure Flight where
  key : List Nat
  msg : Msg
  /-- of an answer: the place at which it enters the meadow, none where it does not cross it (R289) -/
  src : Option Nat
  deriving DecidableEq, Repr

/-! ## Barns, weighbridges, cribs, mills -/

/-- A barn line (R272, R338). -/
structure Line where
  asid : Nat
  la : Nat
  data : LineWord
  mark : Mark
  dirty : Bool
  ro : Bool
  pa : Nat
  deriving DecidableEq, Repr

structure Bank where
  lines : List Line
  /-- operations that wait for a fill or for one that does, in arrival order, and stores begun (R245, R275) -/
  queue : List Req
  deriving DecidableEq, Repr

/-- A walk in progress for a line of a bank (R341). -/
structure Walk where
  asid : Nat
  la : Nat
  bank : Nat
  gen : W32
  glob : Bool
  ft : Bool
  core : Option Nat
  deriving DecidableEq, Repr

/-- A cached translation of a 4 KiB page (R338, R341). -/
structure Tlb where
  asid : Nat
  vp : Nat
  gen : W32
  pfn : Nat
  ro : Bool
  gl : Bool
  deriving DecidableEq, Repr

/-- A frame's name and first-touch field (R273, R344). -/
structure Frame where
  asid : Nat
  vp : Nat
  ft : Option Nat
  deriving DecidableEq, Repr

/-- A fault-bay entry (R347): the request and the generation of the walk that faulted. -/
structure Bay where
  req : Req
  gen : W32
  hire : Option (Nat × Nat)
  deriving DecidableEq, Repr

/-- A mill (R282). -/
structure Mill where
  store : Sparse (BitVec 128)
  entry : Sparse (Bool × Nat)
  /-- the line buffer: the last line that was stepped here, no barn holding it (R282, R285) -/
  line : LineWord
  m : Vector W64 8
  z : Bool
  upc : Nat
  call : Option Call
  queue : List Call
  /-- its step waits in a fault bay, or is on its way back from there (R286, R347) -/
  wait : Bool
  deriving DecidableEq, Repr

structure Channel where
  walks : List Walk
  tlb : List Tlb
  /-- frame records, keyed by PA<39:12> -/
  frames : Sparse Frame
  bay : List Bay
  /-- throttle: ASID, page, code of faults already reported (R346) -/
  told : List (Nat × Nat × Nat)
  mill : Mill
  deriving DecidableEq, Repr

/-- A crib (R279). -/
structure Crib where
  set : Option Nat
  q : List (BitVec 512)
  loft : Nat
  size : Nat
  head : Nat
  held : Nat
  /-- frames of the loft's blocks, PA of block i (pinned, R193) -/
  pas : List Nat
  waiters : List Agent
  deriving DecidableEq, Repr

def Crib.empty : Crib := ⟨none, [], 0, 0, 0, 0, [], []⟩

/-! ## Fairs (R252 to R267, R399) -/

/-- An aligning accumulator (R54). -/
structure Acc where
  empty : Bool
  a : Int
  e : Int
  deriving DecidableEq, Repr

def Acc.clear : Acc := ⟨true, 0, 0⟩

/-- A landing packet of a yield image: address, bytes, whether it writes an earmark (R257). -/
structure Landing where
  va : Nat
  bytes : List Byte
  mark : Option Mark
  deriving DecidableEq, Repr

structure Hire where
  id : Nat
  req : HireReq
  /-- HSTAT STATE (R202) -/
  state : Nat
  bad : Bool
  clamp : Bool
  lfault : Bool
  order : Nat
  chain : Nat
  thr : Option Nat
  seqA : Nat
  seqB : Nat
  blocksA : List (Mark × LineWord)
  blocksB : List (Mark × LineWord)
  /-- the last segment has been added and the hire waits for an engine (R399) -/
  summed : Bool
  engine : Bool
  stopped : Bool
  rick : Bool
  resumed : Bool
  image : List Landing
  issued : List Nat
  counted : List Nat
  parked : List Nat
  sent : Nat
  /-- a fault packet has been sent since the last grant, and the parked packets that are being replayed (R265, R267) -/
  reported : Bool
  replays : List Nat
  dropping : Bool
  waiters : List Agent
  deriving DecidableEq, Repr

/-- A chain (R200): its members' shape, its thresher, its accumulators by i × 256 + j. -/
structure Chain where
  id : Nat
  ten : Nat
  name : Nat
  c : Nat
  m : Nat
  n : Nat
  yf : Nat
  stride : W64
  isOpen : Bool
  chained : Bool
  thr : Option Nat
  acc : Sparse Acc
  deriving DecidableEq, Repr

/-- A master's age on a fair, whatever rings it stands in (R259, R261): tenant, name, age. -/
structure Master where
  ten : Nat
  name : Nat
  age : Nat
  /-- order in which it reached 4,096 -/
  aged : Option Nat
  deriving DecidableEq, Repr

structure Fair where
  /-- live entries and the last status of ended hires, by fair entry -/
  hires : Sparse Hire
  chains : List Chain
  /-- the class rings: tenant and name of each master, from the head -/
  rings : Sparse (List (Nat × Nat))
  /-- masters whose age is not 0 -/
  ages : List Master
  serial : Nat
  next : Nat
  nextChain : Nat
  agedNext : Nat
  /-- keys by paddock (R263) -/
  keys : Sparse (BitVec 12)
  /-- threshers out of service (R397) -/
  dead : List Nat
  throttled : Bool
  deriving DecidableEq, Repr

def Fair.empty : Fair := ⟨[], [], [], [], 0, 0, 0, 0, [], [], false⟩

/-! ## Front ends (R301 to R330) -/

/-- A place in a queue's stream (R308, R313, R315): the ring offset of the ring-level packet, the bytes of it read, the
open IB levels (next address, end; outermost first), the open LOOP (iterations left where it is restored, body start and
end, its level, whether the iteration was entered in its middle), whether a ring-level packet is open, and its KF bit 31.
At level 0 positions count from the ring-level packet. -/
structure Cursor where
  ring : Nat
  rpos : Nat
  levels : List (Nat × Nat)
  loop : Option (Nat × Nat × Nat × Nat × Bool)
  isOpen : Bool
  int : Bool
  deriving DecidableEq, Repr

/-- Fetched and not yet consumed: a packet, one that stops the queue, the restored rest of a LOOP, the end of a LOOP body,
the end of a ring-level packet (the offset after it, its KF bit 31). -/
inductive Item where
  | pkt (i : Instr) (c : Cursor)
  | bad (code : Nat) (report : Option (Nat × Nat × Nat)) (c : Cursor)
  | loopStart (n : Nat)
  | loopEnd
  | close (next : Nat) (int : Bool)
  deriving DecidableEq, Repr

/-- What an issued packet waits for (R310); failed: a packet that met a failure and never completes. -/
inductive Owed where
  | launch | call | waitmem (p : Packet) | signal (int : Bool) | failed
  deriving DecidableEq, Repr

structure Queue where
  base : Nat
  host : Bool
  log2 : Nat
  head : Nat
  fetch : Nat
  tail : Nat
  rseq : W32
  func : Nat
  vec : Nat
  ien : Bool
  state : Nat
  err : Nat
  save : Nat
  cur : Cursor
  items : List Item
  ip : Nat
  /-- remaining iterations of the LOOP being issued, the current one included; whether it is its first -/
  iter : Option (Nat × Bool)
  outs : List (Nat × Owed)
  /-- ring-level packets wholly issued: last packet number, offset after it, KF bit 31 -/
  closed : List (Nat × Nat × Bool)
  /-- number of the next packet to issue -/
  seq : Nat
  /-- nesting depths of the packets issued from HEAD on; those issued before a front-end reset and not yet again (R386);
  the depth of a packet whose body is being skipped -/
  trace : List Nat
  replay : List Nat
  skip : Option Nat
  /-- a pre-emption asked for (R308) -/
  preempt : Bool
  /-- a disable asked for, waiting for issued work (R312, R329) -/
  disable : Bool
  /-- the words read of the packet being fetched, by their place in it (R315, R316) -/
  words : List (Nat × W64)
  /-- of a pre-empted queue, where the next packet stands in the body of a LOOP of the ring, which the save has no word for -/
  place : Nat
  /-- the frames of its ring, pinned while the queue is enabled: page of the ring, physical address (R304) -/
  pas : List (Nat × Nat)
  deriving DecidableEq, Repr

def Cursor.start : Cursor := ⟨0, 0, [], none, false, false⟩

def Queue.empty : Queue :=
  { base := 0, host := false, log2 := 0, head := 0, fetch := 0, tail := 0, rseq := 0, func := 0, vec := 0,
    ien := false, state := 0, err := 0, save := 0, cur := Cursor.start, items := [], ip := 0, iter := none, outs := [],
    closed := [], seq := 0, trace := [], replay := [], skip := none, preempt := false, disable := false, words := [], place := 0, pas := [] }

/-- A posted write of a function's CXL.io stream that has not performed: to the aperture, to a kick register, to the
mill-ring kick register (R303, R306). A write to the aperture carries the set and the resolution its check gave, if it passed
(R336). -/
inductive Posting where
  | write (va : Nat) (bytes : List Byte) (at_ : Option (Nat × Res)) | kick (q : Nat) (v : Nat) | ring (v : Nat)
  deriving DecidableEq, Repr

/-- TDISP interface states (R328). -/
inductive Tdi where
  | unlocked | locked | run | error
  deriving DecidableEq, Repr

/-- An interface report (R328): the function's queue records with each queue's number and kick offset, its mill-ring record
and kick offset, its MSI-X routing and its set. -/
structure TdiReport where
  queues : List (Nat × Nat × List W64)
  ring : Nat × List W64
  irqs : Sparse (W64 × W64)
  set : Option Nat
  deriving DecidableEq, Repr

/-- A function (R302, R312, R327). -/
structure Func where
  set : Option Nat
  irqs : Sparse (W64 × W64)
  mring : Queue
  tdi : Tdi
  report : Option TdiReport
  /-- posted writes that have not performed, oldest first, and whether the oldest is on its way (R303) -/
  stream : List Posting
  flying : Bool
  /-- the interface stops, and the function's requests wait until it has (R329, R330) -/
  stopping : Bool
  deriving DecidableEq, Repr

def Func.empty : Func := ⟨none, [], Queue.empty, .unlocked, none, [], false, false⟩

/-- A launch slot (R311, R325). -/
structure Launch where
  /-- its number, which tells it from other launches of the slot -/
  id : Nat
  q : Option (Nat × Nat)
  set : Nat
  size : Nat
  entry : Nat
  arg : W64
  t0 : Nat
  count : Nat
  quota : Nat
  priv : Bool
  budget : BitVec 14
  next : Nat
  live : List Nat
  exited : Nat
  deriving DecidableEq, Repr

/-- A Lomwen core (R318, R319). -/
structure Lomwen where
  x : Vector W64 32
  pc : W64
  mepc : W64
  mcause : W64
  mtvec : W64
  mstatus : W64
  mie : W64
  mscratch : W64
  sram : Sparse Byte
  pending : W64
  /-- a load reservation: an address and the line as it was read -/
  resv : Option (Nat × LineWord)
  /-- an LM.RFETCH under way: LEN, and its cursor with the words read (R316, R320) -/
  rfetch : Option (Nat × Queue)
  deriving DecidableEq, Repr

def Lomwen.empty : Lomwen :=
  { x := Vector.replicate 32 0, pc := 0x80000000, mepc := 0, mcause := 0, mtvec := 0, mstatus := 0, mie := 0, mscratch := 0,
    sram := [], pending := 0, resv := none, rfetch := none }

structure Die where
  window : Nat
  theta : Nat
  enable : Bool
  launches : Sparse Launch
  lmdone : W64
  watchdog : Nat
  corrected : Nat
  deriving DecidableEq, Repr

def Die.empty : Die := ⟨65536, 256, true, [], 0, 4194304, 0⟩

/-- A pair of adjacent crofts (R356, R359). -/
structure Pair where
  count : Nat
  /-- the order in which the window reached its end (R369) -/
  ended : Option Nat
  sent : Nat
  move : Move
  deriving DecidableEq, Repr

def Pair.empty : Pair := ⟨0, none, 0, .settled⟩

/-- A paddock record (R365). -/
structure Paddock where
  fields : BitVec 72
  target : Nat
  en : Bool
  runs : Nat
  deriving DecidableEq, Repr

/-- A border move (R367): the field, donor, receiver, stage (0 quiesce, 1 relocate, 2 flush, 3 rehash) and the SHOOTs
of the rehash that have not completed: set, generation. -/
structure Border where
  field : Nat
  donor : Nat
  recv : Nat
  stage : Nat
  shoots : List (Nat × W32)
  deriving DecidableEq, Repr

/-- The mailbox (R312). -/
structure Mailbox where
  req : Vector W64 8
  pending : Bool
  /-- the pending request has acted and waits for its end -/
  begun : Bool
  /-- the generation a pending ASHOOT waits for -/
  gen : Option W32
  reply0 : W64
  reply1 : W64
  deriving DecidableEq, Repr

/-- The management block and firmware state (R389 to R394, R398). -/
structure Mgmt where
  ticket : BitVec 16
  owner : Nat
  pend : Bool
  hto : Nat
  stage : Nat
  dies : BitVec 8
  floors : BitVec 2
  thr0 : Nat
  thr1 : Nat
  dwy : Bool
  stb : Bool
  code : Nat
  count : Nat
  first : Nat
  imgaddr : W64
  plimit : Nat
  tlimit : Nat
  logpos : Nat
  follow : Bool
  lognext : Nat
  log : Sparse Report
  bootSlot : Nat
  wlayout : Nat
  laymin : Nat
  laymax : Nat
  svn : Nat
  header : List Byte
  /-- UCIe modules that train at x32 (R301) -/
  narrow : List Nat
  deriving DecidableEq, Repr

def Mgmt.reset : Mgmt :=
  { ticket := 0, owner := 0, pend := false, hto := 0, stage := 0, dies := 0, floors := 0, thr0 := 0, thr1 := 0,
    dwy := false, stb := false, code := 0, count := 0, first := 0, imgaddr := 0, plimit := 2800, tlimit := 105,
    logpos := 4064, follow := true, lognext := 0, log := [], bootSlot := 0, wlayout := 1, laymin := 1, laymax := 1,
    svn := 0, header := [], narrow := [] }

/-- Power (R387, R398). -/
inductive Power where
  | on | off | tripped
  deriving DecidableEq, Repr

/-- What the package has sent to the outside: a completion of a host read or atomic (tag, ok, value), an MSI-X
write (function, address, data), an answer to TDISP or SPDM. -/
inductive HostOut where
  | done (tag : Nat) (ok : Bool) (v : Nat) | poisoned (tag : Nat) | irq (f : Nat) (addr data : W64)
  | tdi (f : Nat) (t : Tdi) | report (f : Nat) (r : TdiReport) | refused (f : Nat)
  | measure (i : Nat) (v : Nat) | words (vs : List W64)
  deriving DecidableEq, Repr

/-- The agent that moves next. -/
inductive Sched where
  /-- the next cycle of a croft (R217) -/
  | cycle (core : Nat)
  /-- the next instruction of a Lomwen core -/
  | lomwen (i : Nat)
  /-- the next micro-word of a mill -/
  | mill (g : Nat)
  /-- front-end core 0 reads a unit of the next packet of a queue, the one that holds word j, or issues the next packet -/
  | fetch (q j : Nat) | issue (q : Nat)
  /-- front-end core 1 reads a unit of the next entry of a function's mill ring, the one that holds word j -/
  | ring (f j : Nat)
  /-- firmware performs the pending management request -/
  | mailbox
  /-- an event of the package, at the place the numbers name -/
  | event (i : Instr) (arg : List Nat)
  deriving DecidableEq, Repr

/-! ## The package -/

structure State where
  crofts : Sparse Croft
  tenants : Sparse Tenant
  sets : Sparse TSet
  /-- device memory by physical address and its earmarks by block (R50, R332); host memory (R318) -/
  mem : Sparse Byte
  marks : Sparse Mark
  hostMem : Sparse Byte
  banks : Sparse Bank
  chans : Sparse Channel
  cribs : Sparse Crib
  fairs : Sparse Fair
  dies : Sparse Die
  queues : Sparse Queue
  funcs : Sparse Func
  lomwens : Sparse Lomwen
  pairs : Sparse Pair
  paddocks : Sparse Paddock
  period : Nat
  border : Option Border
  /-- packets held by each agent with their LOST count (R375) -/
  reports : Sparse (List Report × Nat)
  net : List Flight
  mailbox : Mailbox
  mgmt : Mgmt
  /-- the two flash slots (R393) -/
  flash : Sparse (List Byte)
  /-- routers powered down (R289), and ports reported lost: die, router, port (R385) -/
  asleep : List Nat
  losses : List (Nat × Nat × Nat)
  power : Power
  out : List HostOut
  tag : Nat
  /-- map epoch of the package (R359) -/
  epoch : Nat
  /-- the model's own fields: the schedule, the acting croft context, the place of the acting event,
  the acting unit, the counter that the free
  values are read at, and a number that orders events -/
  sched : List Sched
  cur : Nat × Nat
  arg : List Nat
  unit : Nat
  free : Nat
  now : Nat
  deriving DecidableEq, Repr

/-- What stops the machine. -/
inductive Fault where
  /-- A schedule names a Lomwen core the package does not have (R4: 18 cores). Raised by step; safe. -/
  | noCore
  deriving DecidableEq, Repr

/-- What the model does not run. -/
inductive Refusal where
  /-- An arm of exec without a meaning. Raised by exec; safe. -/
  | notModelled (mnemonic : String)
  deriving DecidableEq, Repr

/-- An empty mill, channel and bank. -/
def Mill.empty : Mill := ⟨[], [], 0, Vector.replicate 8 0, false, 0, none, [], false⟩
def Channel.empty : Channel := ⟨[], [], [], [], [], Mill.empty⟩
def Bank.empty : Bank := ⟨[], []⟩
def Paddock.empty : Paddock := ⟨0, 0, false, 0⟩

/-- The package at power good (R387): stage A runs, no tenant is hosted, every field belongs to paddock 0. -/
def State.reset : State :=
  { crofts := [], tenants := [], sets := [], mem := [], marks := [], hostMem := [], banks := [], chans := [],
    cribs := [], fairs := [], dies := [], queues := [], funcs := [], lomwens := [], pairs := [],
    paddocks := [(0, ⟨BitVec.allOnes 72, 0, false, 0⟩)], period := 0, border := none, reports := [], net := [],
    mailbox := ⟨Vector.replicate 8 0, false, false, none, 0, 0⟩, mgmt := Mgmt.reset, flash := [], asleep := [],
    losses := [], power := .on, out := [], tag := 0, epoch := 0, sched := [], cur := (0, 0), arg := [], unit := 0, free := 0,
    now := 0 }

end Sys2Proof.Machine
end

