-- ==== Sys2Proof/Machine/Ops.lean ====
section
/-! DEFINITION. The named operations over the state: the places of the package, registers, bins, reports, freezing a
context, its release, sealing, parking and runs. -/

namespace Sys2Proof.Machine

abbrev Out := Host.Outcome State Fault Refusal

/-! ## Places -/

def croftAt (s : State) (c : Nat) : Croft := sread Croft.empty s.crofts c
def setCroft (s : State) (c : Nat) (k : Croft) : State := { s with crofts := sset s.crofts c k }
def ctxAt (s : State) (c i : Nat) : Context := sread Context.empty (croftAt s c).ctxs i
def setCtx (s : State) (c i : Nat) (k : Context) : State :=
  setCroft s c { croftAt s c with ctxs := sset (croftAt s c).ctxs i k }
def updCtx (s : State) (c i : Nat) (f : Context → Context) : State := setCtx s c i (f (ctxAt s c i))
/-- The acting context. -/
def me (s : State) : Context := ctxAt s s.cur.1 s.cur.2
def setMe (s : State) (k : Context) : State := setCtx s s.cur.1 s.cur.2 k
def updMe (s : State) (f : Context → Context) : State := setMe s (f (me s))

def tenAt (s : State) (t : Nat) : Tenant := sread Tenant.empty s.tenants t
def setTen (s : State) (t : Nat) (k : Tenant) : State := { s with tenants := sset s.tenants t k }
def updTen (s : State) (t : Nat) (f : Tenant → Tenant) : State := setTen s t (f (tenAt s t))
def TSet.empty : TSet := ⟨0, 0, 0, 0, [], 0, 0, [], [], [], [], []⟩
def setAtId (s : State) (b : Nat) : TSet := sread TSet.empty s.sets b
def updSet (s : State) (b : Nat) (f : TSet → TSet) : State := { s with sets := sset s.sets b (f (setAtId s b)) }
def bankAt (s : State) (b : Nat) : Bank := sread Bank.empty s.banks b
def updBank (s : State) (b : Nat) (f : Bank → Bank) : State := { s with banks := sset s.banks b (f (bankAt s b)) }
def chanAt (s : State) (g : Nat) : Channel := sread Channel.empty s.chans g
def updChan (s : State) (g : Nat) (f : Channel → Channel) : State :=
  { s with chans := sset s.chans g (f (chanAt s g)) }
def cribAt (s : State) (c : Nat) : Crib := sread Crib.empty s.cribs c
def setCrib (s : State) (c : Nat) (k : Crib) : State := { s with cribs := sset s.cribs c k }
def fairAt (s : State) (f : Nat) : Fair := sread Fair.empty s.fairs f
def updFair (s : State) (f : Nat) (k : Fair → Fair) : State := { s with fairs := sset s.fairs f (k (fairAt s f)) }
def dieAt (s : State) (d : Nat) : Die := sread Die.empty s.dies d
def updDie (s : State) (d : Nat) (k : Die → Die) : State := { s with dies := sset s.dies d (k (dieAt s d)) }
def queueAt (s : State) (q : Nat) : Queue := sread Queue.empty s.queues q
def updQueue (s : State) (q : Nat) (k : Queue → Queue) : State :=
  { s with queues := sset s.queues q (k (queueAt s q)) }
def funcAt (s : State) (f : Nat) : Func := sread Func.empty s.funcs f
def updFunc (s : State) (f : Nat) (k : Func → Func) : State := { s with funcs := sset s.funcs f (k (funcAt s f)) }
def lomAt (s : State) (i : Nat) : Lomwen := sread Lomwen.empty s.lomwens i
def updLom (s : State) (i : Nat) (k : Lomwen → Lomwen) : State :=
  { s with lomwens := sset s.lomwens i (k (lomAt s i)) }
def pairAt (s : State) (p : Nat) : Pair := sread Pair.empty s.pairs p
def updPair (s : State) (p : Nat) (k : Pair → Pair) : State := { s with pairs := sset s.pairs p (k (pairAt s p)) }
def padAt (s : State) (p : Nat) : Paddock := sread Paddock.empty s.paddocks p
def updPad (s : State) (p : Nat) (k : Paddock → Paddock) : State :=
  { s with paddocks := sset s.paddocks p (k (padAt s p)) }

/-- The i-th number of the place the acting event names. -/
def argN (s : State) (i : Nat) : Nat := (nth s.arg i).getD 0

/-- The croft, tenant and set of the acting context. -/
def myCroft (s : State) : Croft := croftAt s s.cur.1
def myTen (s : State) : Nat := (myCroft s).tenant.getD 0
def mySetId (s : State) : Nat := (tenAt s (myTen s)).set
def mySet (s : State) : TSet := setAtId s (mySetId s)

/-- Die, row, column, global field and quad of a core index (R5 to R7). -/
def dieOf (c : Nat) : Nat := c / 576
def rowOf (c : Nat) : Nat := c % 576 / 24
def colOf (c : Nat) : Nat := c % 24
def fieldOf (c : Nat) : Nat := dieOf c * 9 + rowOf c / 8 * 3 + colOf c / 8
def quadOf (c : Nat) : Nat := dieOf c * 144 + rowOf c / 2 * 12 + colOf c / 2

/-- A croft die is in service once it has been trained (R387, R388). -/
def dieUp (s : State) (d : Nat) : Bool := s.mgmt.dies.getLsbD d

/-- The instance of a scope that contains croft c (R231). -/
def scopeInst (s : Scope) (c : Nat) : Nat :=
  match s with
  | .lane | .core => c
  | .quad => quadOf c
  | .field => fieldOf c
  | .die => dieOf c
  | _ => 0

/-- The posted class of an agent in a field (R14, R150); the package belongs to no pod. -/
def classTo (c f : Nat) : Nat := if fieldOf c = f then 1 else 2

/-- Every tenant of a set (R352). -/
def inSet (s : State) (b t : Nat) : Bool := b ≤ t && t < b + (setAtId s b).count

/-- The set a tenant id belongs to; none for an id that no set holds (any more). -/
def setOfTen (s : State) (t : Nat) : Option Nat :=
  match s.sets.find? fun e => e.1 ≤ t && t < e.1 + e.2.count with
  | some e => some e.1
  | none => (s.tenants.find? fun e => e.1 == t).map fun e => e.2.set

/-- A fresh number, and the next free value's index. -/
def tick (s : State) : State := { s with now := s.now + 1 }
def draw (s : State) : State := { s with free := s.free + 1 }

def send (s : State) (f : Flight) : State := { s with net := s.net ++ [f] }

/-- The leaves of a combined request, upper first (R277). -/
def leavesOf : AtomReq → List AtomReq
  | .one who x e ret pos cls id => [.one who x e ret pos cls id]
  | .both _ u l => leavesOf u ++ leavesOf l

/-- The order a posted store or a released atomic of a context keeps on its way to its home, and a landing packet of a hire (R151,
R247). The home of a first-touch page is known on arrival only, and there the order is kept (Home.outOfTurn). -/
def homeKey (a : Agent) (r : Res) : List Nat := if r.ft then [] else [1, a.ten, a.name, r.bank]
def landKey (id : Nat) (r : Res) : List Nat := if r.ft then [] else [3, id, r.bank]

/-- The orders a packet keeps: its own key, for a combined request those its members were sent with (R277), and for a landing
packet, replays included, that of its hire to its home (R247, R347). -/
def Flight.keys (f : Flight) : List (List Nat) :=
  (match f.msg with
  | .home ⟨_, _, r, va, .atom _ _ (.both sw u l), _, _⟩ =>
      (leavesOf (.both sw u l)).map fun (x : AtomReq) => match x with
        | .one w _ _ true _ _ _ => [4, w.ten, w.name, va]
        | .one w _ _ false _ _ _ => homeKey w r
        | .both .. => []
  | .home ⟨_, _, r, _, _, _, .hire id _⟩ => [landKey id r, f.key]
  | _ => [f.key]).filter fun k => k != []

/-- From a to b, both included. -/
def between (a b : Nat) : List Nat :=
  if a ≤ b then (List.range (b - a + 1)).map (a + ·) else (List.range (a - b + 1)).map (a - ·)
/-- The places of one die's grid on the way between two crofts: along the row first and then along the column (R385). -/
def meadowPath (a b : Nat) : List Nat :=
  (between (colOf a) (colOf b)).map (fun c => dieOf a * 576 + rowOf a * 24 + c)
    ++ ((between (rowOf a) (rowOf b)).drop 1).map fun r => dieOf a * 576 + r * 24 + colOf b
/-- A router lies on the way from croft a to croft b. -/
def passesRouter (r a b : Nat) : Bool :=
  if dieOf a = dieOf b then (meadowPath a b).any fun x => Config.routerOf x == r else Config.farRouter r a b
/-- Traffic from croft a to croft b crosses port p of router r: between two routers, or where it enters or leaves the meadow (R385). -/
def crossesPort (r p a b : Nat) : Bool :=
  if [a, b].any fun x => Config.routerOf x == r && Config.entryPort x == p then true
  else if dieOf a = dieOf b then
    let ps := meadowPath a b
    (ps.zip (ps.drop 1)).any fun e =>
      (Config.routerOf e.1 == r && Config.routerOf e.2 != r && Config.portOf e.1 e.2 == p)
        || (Config.routerOf e.2 == r && Config.routerOf e.1 != r && Config.portOf e.2 e.1 == p)
  else Config.farPort r p a b

/-- The place at which an answer of bank or crib b enters the meadow; none to a croft of its own field, where it goes back by the drove
(R272, R276). -/
def homeCell (who : Agent) (b : Nat) : Option Nat := if fieldOf who.core = b / 64 then none else some (Config.bankCell b)
/-- The places a packet crosses the meadow between; none for what stays in a field's drove or on the floor links (log 27). -/
def meadowEnds (s : State) (f : Flight) : Option (Nat × Nat) :=
  match f.msg with
  | .croft t _ who _ _ _ _ => some (who.core, (tenAt s t).core)
  | .free t _ _ who _ _ => some (who.core, (tenAt s t).core)
  | .home r => (homeCell r.who r.res.bank).map fun c => (r.who.core, c)
  | .crib who _ b _ => (homeCell who b).map fun c => (who.core, c)
  | .reply who _ => f.src.map fun c => (c, who.core)
  | .code who _ _ _ => f.src.map fun c => (c, who.core)
  | .ack who _ _ => f.src.map fun c => (c, who.core)
  | .fault who _ _ _ _ _ _ => f.src.map fun c => (c, who.core)
  | .pref core _ _ => f.src.map fun c => (c, core)
  | .mcall c => match c.done with
      | .bin _ => some (c.who.core, Config.channelCell c.chan)
      | _ => none
  | .fill b g _ _ _ _ _ _ _ => some (Config.channelCell g, Config.bankCell b)
  | .arrive _ _ _ a _ scope => if scope = 4 then some (a.who.core, Config.treeCell (dieOf a.who.core)) else none
  | .split .. => none
  | .abort .. => none
  | .hire _ => none
  | .sheaf .. => none
  | .landFault _ _ => none
/-- A router on the way between two places is powered down. -/
def sleeperOn (s : State) (a b : Nat) : Bool := s.asleep.any fun r => passesRouter r a b
/-- A packet stands before a router that is powered down, and waits there until it has woken (R289). -/
def atSleeper (s : State) (f : Flight) : Bool :=
  (meadowEnds s f).any fun e => sleeperOn s e.1 e.2

/-- The n-th packet, if it is the first of each order it keeps and no router on its way is down (R151, R237, R247, R289). -/
def deliverable (s : State) (n : Nat) : Option Msg :=
  match nth s.net n with
  | none => none
  | some f =>
      if (s.net.take n).any (fun g => g.keys.any f.keys.contains) || atSleeper s f then none else some f.msg
def drop (s : State) (n : Nat) : State := { s with net := dropAt s.net n }
def replace (s : State) (n : Nat) (m : Msg) : State :=
  { s with net := match nth s.net n with | some f => setAt s.net n { f with msg := m } | none => s.net }

/-! ## Slots (R63, R64) -/

def slotOk (a : Nat) : Bool := a % 64 == 0 || a % 64 == 12 || a % 64 == 24 || a % 64 == 36 || a % 64 == 48
def nextOf (a : Nat) : Nat := if a % 64 = 48 then a / 64 * 64 + 64 else a + 12
def linOf (a : Nat) : Nat := a / 64 * 5 + a % 64 / 12
def slotAddr (l : Nat) : Nat := l / 5 * 64 + l % 5 * 12

/-- The slot being issued, the slot a release resumes at, and the slot after it or its pair (R68, R69). -/
def thisSlot (s : State) : Nat :=
  match (me s).grp with
  | some g => if g.high then nextOf g.base else g.base
  | none => (me s).pc
def baseSlot (s : State) : Nat := match (me s).grp with | some g => g.base | none => (me s).pc
def nextSlot (s : State) : Nat :=
  match (me s).grp with
  | some g => nextOf (nextOf g.base)
  | none => nextOf (me s).pc

/-! ## Registers (R10, R68) -/

/-- The registers an instruction reads: those before its pair, where it has one. -/
def src (s : State) : Regs := match (me s).grp with | some g => g.regs | none => (me s).regs

def getG (r : Regs) (i : GReg) : W64 := if i = 0 then 0 else r.g[i]
def putG (r : Regs) (i : GReg) (x : W64) : Regs := if i = 0 then r else { r with g := r.g.set i x }
def getV (r : Regs) (i : VReg) : VWord := r.v[i]
def putV (r : Regs) (i : VReg) (x : VWord) : Regs := { r with v := r.v.set i x }
def getP (r : Regs) (i : PReg) : PWord := if i = 0 then BitVec.allOnes 128 else r.p[i]
def putP (r : Regs) (i : PReg) (x : PWord) : Regs := if i = 0 then r else { r with p := r.p.set i x }
def getB (r : Regs) (i : BReg) : W32 := r.b[i]
def putB (r : Regs) (i : BReg) (x : W32) : Regs := { r with b := r.b.set i x }

def rdG (s : State) (i : GReg) : W64 := getG (src s) i
def rdV (s : State) (i : VReg) : VWord := getV (src s) i
def rdP (s : State) (i : PReg) : PWord := getP (src s) i
def rdB (s : State) (i : BReg) : W32 := getB (src s) i
def updRegs (s : State) (f : Regs → Regs) : State := updMe s fun c => { c with regs := f c.regs }
def wrG (s : State) (i : GReg) (x : W64) : State := updRegs s fun r => putG r i x
def wrV (s : State) (i : VReg) (x : VWord) : State := updRegs s fun r => putV r i x
def wrP (s : State) (i : PReg) (x : PWord) : State := updRegs s fun r => putP r i x
def wrB (s : State) (i : BReg) (x : W32) : State := updRegs s fun r => putB r i x

/-- Writing by register number, for results that arrive later. -/
def putGn (r : Regs) (i : Nat) (x : Nat) : Regs := if h : i < 64 then putG r ⟨i, h⟩ (BitVec.ofNat 64 x) else r
def putVn (r : Regs) (i : Nat) (x : Nat) (mask : VWord) : Regs :=
  if h : i < 32 then
    putV r ⟨i, h⟩ ((getV r ⟨i, h⟩ &&& ~~~mask) ||| (BitVec.ofNat 1024 x &&& mask))
  else r
def putPn (r : Regs) (i : Nat) (x : PWord) : Regs := if h : i < 8 then putP r ⟨i, h⟩ x else r

/-- Raise fpcsr flags, given from bit 4 up (R25, R34). -/
def raiseFlags (s : State) (fl : Nat) : State :=
  updMe s fun c => { c with
    regs := { c.regs with fpcsr := c.regs.fpcsr ||| BitVec.ofNat 64 (fl * 16) }
    raised := c.raised ||| BitVec.ofNat 64 (fl * 16) }

/-- Registers a budget admits (R22): g[i] for i < GB, g62, g63, v[j] for j < VB. -/
def gAdmitted (b : BitVec 14) (i : Nat) : Bool := i < b.toNat % 128 || i == 62 || i == 63
def vAdmitted (b : BitVec 14) (j : Nat) : Bool := j < b.toNat / 256

/-- What eviction, the shadow and a restore keep: budgeted registers, predicates, bins, fpcsr (R23). -/
def restoreRegs (b : BitVec 14) (live shadow : Regs) : Regs :=
  { g := Vector.ofFn fun i : Fin 64 => if gAdmitted b i.val then shadow.g[i] else live.g[i]
    v := Vector.ofFn fun j : Fin 32 => if vAdmitted b j.val then shadow.v[j] else live.v[j]
    p := shadow.p, b := shadow.b, fpcsr := shadow.fpcsr }

/-! ## Bins and names (R186, R187) -/

/-- The context that holds a continuation of a tenant: its croft and index. -/
def findName (s : State) (ten name : Nat) : Option (Nat × Nat) :=
  let c := (tenAt s ten).core
  if (croftAt s c).tenant = some ten then
    match ((croftAt s c).ctxs.find? fun e => e.2.mode != .free && e.2.mode != .exited && e.2.name == name) with
    | some e => some (c, e.1)
    | none => none
  else none

/-- The physical address of a continuation's record and frame (R228). -/
def recordPa (s : State) (ten name : Nat) : Nat := (tenAt s ten).pool + 64 * name
def framePa (s : State) (ten name : Nat) : Nat := (tenAt s ten).pool + 4096 + 4864 * name

def memPut (s : State) (pa n x : Nat) : State := { s with mem := storeBytes s.mem pa (toBytes n x) }
def memGet (s : State) (pa n : Nat) : Nat := loadBytes s.mem pa n

/-- Add to a bin: one for each landing, or one and the abort flag (R13, R32). -/
def bump (ab : Bool) (x : W32) : W32 := if ab then (x + 1) ||| 0x80000000#32 else x + 1

/-- The record of an evicted continuation is that of a member not yet started: SOWN is 1 (R220, R229). -/
def unstarted (s : State) (ten name : Nat) : Bool := (memGet s (recordPa s ten name) 8).testBit 59

/-- A landing of a target: the live bin and its shadow, or the bin in the frame; nothing for a name that names no live continuation
(R32, R187), and nothing for a queued member not yet started, whose frame R220 keeps and whose bins R29 sets at its start (DEDUCED,
log 57). -/
def countBin (s : State) (t : Target) (ab : Bool) : State :=
  if h : t.bin < 8 then
    let land (r : Regs) : Regs := putB r ⟨t.bin, h⟩ (bump ab (getB r ⟨t.bin, h⟩))
    let owing (o : Owing) : Owing := { o with undo := o.undo.map land }
    let parked (p : Park) : Park := { p with owe := owing p.owe }
    match findName s t.ten t.name with
    | some (c, i) =>
        updCtx s c i fun k => { k with
          regs := land k.regs, shadow := land k.shadow, owe := owing k.owe, park := k.park.map parked }
    | none =>
        let sl := sread Slot.empty (tenAt s t.ten).slots t.name
        if sl.taken && sl.evicted.isSome && !unstarted s t.ten t.name then
          let pa := framePa s t.ten t.name + 8 + 4 * t.bin
          let s := setTen s t.ten { tenAt s t.ten with
            slots := sset (tenAt s t.ten).slots t.name { sl with evicted := sl.evicted.map parked } }
          memPut s pa 4 (bump ab (BitVec.ofNat 32 (memGet s pa 4))).toNat
        else s
  else s

/-- A target descriptor's fields (R187). -/
def targetOf (x : W64) : Target :=
  ⟨x.toNat % 2 ^ 24, x.toNat / 2 ^ 24 % 128, x.toNat / 2 ^ 31 % 8⟩

def agentOf (s : State) (c i : Nat) : Agent :=
  let k := ctxAt s c i
  ⟨(croftAt s c).tenant.getD 0, k.name, c, i, k.epoch, k.acc, k.cnt, k.runseq, k.runStart⟩
def meAgent (s : State) : Agent := agentOf s s.cur.1 s.cur.2

/-- The context an answer is for, while its occupancy lasts (R361, R381). -/
def findAgent (s : State) (a : Agent) : Option (Nat × Nat) :=
  match findName s a.ten a.name with
  | some (c, i) => if (ctxAt s c i).epoch = a.epoch then some (c, i) else none
  | none => none

/-- The context the answer of an access is for: it still waits for that access (R225, R345). -/
def findAccess (s : State) (a : Agent) : Option (Nat × Nat) :=
  match findAgent s a with
  | some (c, i) => if (ctxAt s c i).acc = a.acc then some (c, i) else none
  | none => none

/-- The context the acknowledgement of a store is for: its counts still hold the store (R380). -/
def findCounts (s : State) (a : Agent) : Option (Nat × Nat) :=
  match findAgent s a with
  | some (c, i) => if (ctxAt s c i).cnt = a.cnt then some (c, i) else none
  | none => none

/-! ## Reports (R374 to R376) -/

/-- The numbers of agents that send fault packets. -/
def agCroft (c : Nat) : Nat := c
def agBridge (g : Nat) : Nat := 10000 + g
def agFair (f : Nat) : Nat := 10300 + f
def agMill (g : Nat) : Nat := 10400 + g
def agFront (d : Nat) : Nat := 10700 + d
def agBarn (b : Nat) : Nat := 20000 + b
def agRoot : Nat := 10800

/-- A fault packet (R376). -/
def mkReport (code ctx core src ten slot : Nat) (rseq : W64) (aux addr : Nat) : Report :=
  ⟨BitVec.ofNat 64 (code + ctx * 2 ^ 8 + core * 2 ^ 12 + src * 2 ^ 25 + ten * 2 ^ 39),
   BitVec.ofNat 64 (slot % 2 ^ 57),
   BitVec.ofNat 64 (rseq.toNat % 2 ^ 32 + aux % 2 ^ 32 * 2 ^ 32),
   BitVec.ofNat 64 addr⟩
/-- The tenant a report concerns. -/
def reportTen (r : Report) : Nat := r.w0.toNat / 2 ^ 39 % 2 ^ 24
/-- The LOST count of a packet, and the packet with n more, saturating (R376). -/
def lostOf (r : Report) : Nat := r.w0.toNat / 2 ^ 31 % 256
def withLost (r : Report) (n : Nat) : Report :=
  { r with w0 := (r.w0 &&& ~~~ (0xFF#64 <<< 31)) ||| BitVec.ofNat 64 (Nat.min (lostOf r + n) 255 * 2 ^ 31) }

/-- The route of a set: supervisor tenant and channel, while valid (R374). -/
def routeOf (s : State) (b : Nat) : Option (Nat × Nat) :=
  let x := (setAtId s b).svroute.toNat
  if x / 2 ^ 31 % 2 = 1 then some (x % 2 ^ 24, x / 2 ^ 24 % 32) else none

def chanOf (t : Tenant) (c : Nat) : Chan := sread Chan.empty t.chans c
def setChan (s : State) (t c : Nat) (k : Chan) : State := updTen s t fun x => { x with chans := sset x.chans c k }

/-- Firmware has placed the tenant on a croft (R352). -/
def placed (s : State) (t : Nat) : Bool := s.tenants.any fun e => e.1 == t

/-- The route's channel can take both messages (R375). -/
def roomFor (s : State) (b : Nat) : Option (Nat × Nat) :=
  match routeOf s b with
  | some (t, c) =>
      if (chanOf (tenAt s t) c).q.length ≤ 2 && (tenAt s t).move == .settled && inSet s b t && placed s t then some (t, c)
      else none
  | none => none

/-- Both messages of a fault packet, adjacent, in one step (R375). -/
def pushReport (s : State) (t c : Nat) (r : Report) : State :=
  let k := chanOf (tenAt s t) c
  setChan s t c { k with q := k.q ++ [(r.w0, r.w1), (r.w2, r.w3)] }

/-- The agent's next packet for a set takes with it the count of those the hayward had no room for (R375, R376). -/
def lostAt (s : State) (b agent : Nat) : Nat := sread 0 (setAtId s b).lost agent
def takeLost (s : State) (b agent : Nat) : State :=
  if lostAt s b agent = 0 then s else updSet s b fun x => { x with lost := sdel x.lost agent }
/-- A packet of an agent is held by the hayward, or counted where 256 are held, with those it stands for (R375). -/
def holdReport (s : State) (b agent : Nat) (r : Report) : State :=
  let n := lostAt s b agent
  if (setAtId s b).held.length < Config.haywardPackets then
    updSet (takeLost s b agent) b fun x => { x with held := x.held ++ [(agent, withLost r n)] }
  else updSet s b fun x => { x with lost := sset x.lost agent (n + 1 + lostOf r) }
/-- A packet of an agent reaches the route's channel, with the count of those the hayward had no room for (R375). -/
def sendReport (s : State) (b agent t c : Nat) (r : Report) : State :=
  pushReport (takeLost s b agent) t c (withLost r (lostAt s b agent))
/-- The hayward holds an older packet of the agent for this set, so that a newer one does not go before it (R375). -/
def olderHeld (s : State) (b agent : Nat) : Bool := (setAtId s b).held.any fun x => x.1 == agent

/-- An agent holds a packet until it can offer it, or counts it where it holds 8 (R375). -/
def queueReport (s : State) (agent : Nat) (r : Report) : State :=
  let (q, lost) := sread ([], 0) s.reports agent
  if q.length < Config.agentPackets then { s with reports := sset s.reports agent (q ++ [withLost r lost], 0) }
  else { s with reports := sset s.reports agent (q, lost + 1) }

/-- An agent raises a packet for a set (R375). byStew: the steward of the route's tenant raised it. Packets of one agent keep
their order: behind held ones it is held too. -/
def report (s : State) (b agent : Nat) (byStew : Bool) (r : Report) : State :=
  let (q, lost) := sread ([], 0) s.reports agent
  let clear (s : State) : State := { s with reports := sset s.reports agent ([], 0) }
  if !q.isEmpty then queueReport s agent r
  else if (routeOf s b).isNone || byStew then clear (holdReport s b agent (withLost r lost))
  else match (if olderHeld s b agent then none else roomFor s b) with
    | some (t, c) => clear (sendReport s b agent t c (withLost r lost))
    | none => queueReport s agent r

/-- An agent raises a packet for the set that owns a tenant id; an id of no set has no route to report to (R382). -/
def reportFor (s : State) (t agent : Nat) (r : Report) : State :=
  match setOfTen s t with
  | some b => report s b agent false r
  | none => s

/-- The hayward's log (R392). -/
def logEvent (s : State) (r : Report) : State :=
  let m := s.mgmt
  let n := (m.lognext + 1) % 4096
  { s with mgmt := { m with log := sset m.log m.lognext r, lognext := n,
                            logpos := if m.follow then (n + 4096 - 32) % 4096 else m.logpos } }

/-! ## Freezing a context: the exception of this machine (R373, R377) -/

/-- Fault codes (R377). -/
def cILL : Nat := 0x01
def cPRIV : Nat := 0x02
def cPERM : Nat := 0x03
def cALIGN : Nat := 0x04
def cOVF : Nat := 0x05
def cBUDGET : Nat := 0x06
def cBTGT : Nat := 0x07
def cLINEWORD : Nat := 0x08
def cPARITY : Nat := 0x09
def cNOTPRESENT : Nat := 0x10
def cSYN : Nat := 0x11
def cPROT : Nat := 0x12
def cMIGRATING : Nat := 0x13
def cFERETRY : Nat := 0x18
def cCRIBFAULT : Nat := 0x19
def cHIRECAP : Nat := 0x20
def cEARMARK : Nat := 0x21
def cHIREPUSH : Nat := 0x22
def cUE : Nat := 0x28
def cTRAP : Nat := 0x30
def cLOSS : Nat := 0x40
def cFERESET : Nat := 0x41
def cABORTED : Nat := 0x42

/-- A context's packet for a synchronous fault. -/
def faultReport (s : State) (c i code slot aux addr : Nat) : State :=
  let k := ctxAt s c i
  let ten := (croftAt s c).tenant.getD 0
  let b := (tenAt s ten).set
  let stew := i == 0 && (match routeOf s b with | some (t, _) => t == ten | none => false)
  report s b (agCroft c) stew (mkReport code i c 0 ten slot k.runseq aux addr)

/-- Freeze context (c, i): its run stays open, it resumes at `resume` on a release, and the packet names `slot`
(R69, R216, R373). Everything else of the context stays. -/
def freezeAt (s : State) (c i code slot resume aux addr : Nat) : State :=
  faultReport (updCtx s c i fun k => { k with
    mode := .frozen, pc := resume, stage := .open, sub := 0, await := none, fetched := none, wins := none })
    c i code slot aux addr

/-- The acting context raises a fault at the slot being issued. -/
def raiseAs (t : Turn) (code aux addr : Nat) (s : State) : State :=
  let s' := freezeAt s s.cur.1 s.cur.2 code (thisSlot s) (baseSlot s) aux addr
  updMe s' fun k => { k with turn := t }
def raiseDec (code : Nat) (s : State) : State := raiseAs .decodeFault code 0 0 s
def raiseOp (code aux addr : Nat) (s : State) : State := raiseAs .operandFault code aux addr s

/-- A release (R216, R345, R380): the frozen context issues at its SLOT, without a TGT check. The held abort, if
any, is performed instead by its caller. -/
def releaseAt (s : State) (c i : Nat) : State :=
  updCtx s c i fun k => { k with mode := .running, tgt := none, fetched := none, wins := none }

/-! ## Turns, runs, sealing and parking (R217, R221 to R224) -/

def waitTurn (s : State) : State := updMe s fun c => { c with turn := .waiting }
/-- Progress of an instruction that takes several turns. -/
def setSub (n : Nat) (s : State) : State := updMe s fun k => { k with sub := n }
/-- The progress of a SHOOT that has taken generation g (R349), of a HIRE that has reserved ring entry e (R199), of a FAIRCTL .drop that
waits for hire id, and of one whose hire has ended with n packets counted (R215). -/
def subShoot (g : W32) : Nat := 2 ^ 33 + g.toNat
def subHire (e : Nat) : Nat := 2 ^ 34 + e
def subDrop (id : Nat) : Nat := 2 ^ 35 + id
def subDropped (n : Nat) : Nat := 2 ^ 36 + n
def gateTurn (s : State) : State := updMe s fun c => { c with turn := .gateWait }

/-- The instruction is done: flow passes on. -/
def retire (s : State) : State :=
  let n := nextSlot s
  updMe s fun c => { c with pc := n, turn := .issued, stage := .open, sub := 0 }

def Context.busy (c : Context) : Bool := c.o1 != 0 || c.o2 != 0 || c.o3 != 0

def addCount (k n : Nat) (c : Context) : Context :=
  if k = 1 then { c with o1 := c.o1 + n } else if k = 2 then { c with o2 := c.o2 + n } else { c with o3 := c.o3 + n }
def subCount (k : Nat) (c : Context) : Context :=
  if k = 1 then { c with o1 := c.o1 - 1 } else if k = 2 then { c with o2 := c.o2 - 1 }
  else if k = 3 then { c with o3 := c.o3 - 1 } else c
def countOf (k : Nat) (c : Context) : Nat := if k = 1 then c.o1 else if k = 2 then c.o2 else if k = 3 then c.o3 else 0

/-- A run starts at the context's pc: the shadow is taken and runseq advances (R221). -/
def runStartOf (k : Context) : Context :=
  { k with shadow := k.regs, runStart := k.pc, runseq := k.runseq + 1, aborts := 0, stage := .open }
def beginRun (s : State) : State := updMe s runStartOf

/-- A run retires (R366). -/
def retireRun (s : State) (ten : Nat) : State :=
  { updPad s (tenAt s ten).paddock (fun p => { p with runs := p.runs + 1 }) with period := s.period + 1 }

/-- Remove the L1 lines that cover n bytes, and keep fills of them in flight from being installed (R150, R239). -/
def dropL1 (s : State) (c va n : Nat) : State :=
  let k := croftAt s c
  let hit (la : Nat) : Bool := va / 32 ≤ la && la ≤ (va + n - 1) / 32
  setCroft s c { k with l1 := k.l1.filter fun l => !hit l.la, prefs := k.prefs.filter fun l => !hit l.1,
                        ctxs := k.ctxs.map fun e => (e.1, { e.2 with await := e.2.await.map fun a =>
                          { a with fills := a.fills.filter fun l => !hit l } }) }

/-- Release the held no-return atomics in issue order: each a posted store of the next run, which invalidates the croft's L1 line of its
bytes as it is released (R150, R180, R223; DEDUCED, log 88). -/
def releaseHeld (s : State) (c i : Nat) : State :=
  let k := ctxAt s c i
  let who := agentOf s c i
  let s := k.held.foldl (fun s h =>
    let s := tick (dropL1 s c h.va h.n)
    send s ⟨homeKey who h.res,
      .home ⟨who, .atomic, h.res, h.va, .atom h.n h.f (.one who h.x 0 false 0 h.cls s.now), none, .none⟩, none⟩) s
  updCtx s c i fun k => k.held.foldl (fun k h => addCount h.cls 1 k) { k with held := [] }

/-- The seal itself (R223). -/
def sealRun (s : State) (c i : Nat) : State :=
  let ten := (croftAt s c).tenant.getD 0
  updCtx (retireRun (releaseHeld s c i) ten) c i fun k => { k with stage := .sealed }

/-- A context that has ended a run on a croft of a moving field starts no new one: it parks, ready, at its next slot (R367). -/
def unstart (order : Nat) (k : Context) : Context :=
  { k with mode := .parked, runseq := k.runseq - 1, park := some { Park.plain .ready 0 0 0 0 false order with acc := k.acc } }

/-- On a croft of a moving field, a seal point that has not begun to act waits if it would go on; one that has begun ends, and
starts no new run (R367). -/
def quieted (s t : State) : State :=
  if (me s).sub = 0 then (if (me t).mode == .running || (me t).mode == .awaiting then waitTurn s else t)
  else if (me t).mode = .running && (me t).runseq = (me s).runseq + 1 then
    let t := tick t
    updMe t (unstart t.now)
  else t

/-- A seal point or suspension point: seal, with release semantics wait for the released atomics, then go on (R224).
A croft of a field that is moving starts no new run: what would start one waits, what parks does not (R367). -/
def sealThen (rel : Bool) (k : State → State) (s : State) : State :=
  let go (s : State) : State :=
    if rel && (me s).busy then waitTurn s
    else
      let t := k s
      if (myCroft s).quiesce then quieted s t else t
  if (me s).stage = .sealed then go s
  else if (me s).busy then waitTurn (updMe s fun c => { c with stage := .sealing })
  else go (sealRun s s.cur.1 s.cur.2)

/-- Done, and a new run begins at the next slot (R221). -/
def retireRunNext (s : State) : State := beginRun (retire s)

/-- Leave the rotation with a wake condition (R223). -/
def parkMe (kind : Wake) (param count d a : Nat) (s : State) : State :=
  let s := tick s
  let n := nextSlot s
  let sl := thisSlot s
  let b := baseSlot s
  updMe s fun c => { c with
    mode := .parked, pc := n, turn := .issued, stage := .open, sub := 0
    park := some { Park.plain kind param count d a false s.now with acc := c.acc, slot := sl, base := b } }
def suspend (kind : Wake) (param count d a : Nat) (s : State) : State :=
  sealThen true (parkMe kind param count d a) s

/-- Flash invalidation of the croft's L1 data cache, in-flight fills included (R173, R239, R242). -/
def flashL1 (s : State) (c : Nat) : State :=
  let k := croftAt s c
  setCroft s c { k with l1 := [], prefs := [], ctxs := k.ctxs.map fun e =>
    (e.1, { e.2 with await := e.2.await.map fun a => { a with fills := [] } }) }

/-- An acquire at a scope (R173, R242). -/
def acquire (sc : Scope) (s : State) : State :=
  match sc with
  | .lane | .core | .quad => s
  | _ => flashL1 s s.cur.1

/-- Leave the rotation awaiting replies (R149). -/
def awaitMe (a : Await) (s : State) : State :=
  let n := nextSlot s
  let a := { a with slot := thisSlot s, base := baseSlot s }
  updMe s fun c => { c with mode := .awaiting, turn := .issued, stage := .open, pc := n, await := some a }

def Await.plain (left buf : Nat) (fin : Done) (run : RunEnd) : Await :=
  ⟨0, 0, left, buf, fin, run, false, none, [], 0, none, false, none, none, (.ready, 0, 0)⟩

/-- The run of an access that performs after a seal: it begins with the access, at slot b, with registers r (R182, R226). -/
def runAt (r : Regs) (b : Nat) (k : Context) : Context :=
  { k with shadow := r, runStart := b, runseq := k.runseq + 1, aborts := 0 }
/-- The acting context's run begins with this access. -/
def runAtAccess (s : State) : State :=
  let b := baseSlot s
  let r := src s
  updMe s (runAt r b)
/-- A fault met after the seal belongs to the run that begins with the access (R226). -/
def raiseSealed (code aux addr : Nat) (s : State) : State := raiseOp code aux addr (runAtAccess s)

/-! ## Issue (R74, R75, R77) -/

/-- A scalar guard. -/
def guardTrue (h : Hdr) (s : State) : Bool := ((rdP s h.gp).getLsbD 0) != h.gn
/-- The governing bits of a vector guard. -/
def guardBits (h : Hdr) (s : State) : PWord := if h.gn then ~~~ (rdP s h.gp) else rdP s h.gp
/-- Element i of width w is active (R12, R74). -/
def active (g : PWord) (w i : Nat) : Bool := g.getLsbD (i * w / 8)

/-- A register field for the budget check (R22). -/
inductive Rn where
  | g (r : GReg) | v (r : VReg)
  deriving DecidableEq, Repr

def inBudget (b : BitVec 14) : Rn → Bool
  | .g r => gAdmitted b r.val
  | .v r => vAdmitted b r.val

/-- The class counts and runseq an instruction reads: those before its pair, where it has one (R68). -/
def srcCount (s : State) (k : Nat) : Nat :=
  match (me s).grp with
  | some g => if k = 1 then g.o1 else if k = 2 then g.o2 else if k = 3 then g.o3 else 0
  | none => countOf k (me s)
def srcRunseq (s : State) : W64 := match (me s).grp with | some g => g.runseq | none => (me s).runseq

/-- The gate is clear; an instruction that has begun its seal has passed its gate (R75). -/
def gateClear (h : Hdr) (s : State) : Bool :=
  (me s).stage != .open || (me s).sub != 0 || srcCount s h.gate.val == 0

/-- R77 for one instruction: PRIV, BUDGET, gate, guard, then its own checks and effect. -/
def issue (h : Hdr) (priv : Bool) (regs : List Rn) (guard : Bool) (act : State → State) (s : State) : Out :=
  .next <|
    if priv then raiseDec cPRIV s
    else if !(regs.all (inBudget (me s).budget)) then raiseDec cBUDGET s
    else if !gateClear h s then gateTurn s
    else if !guard then retire s
    else act s

/-- A scalar instruction. -/
def scalar (h : Hdr) (regs : List Rn) (act : State → State) (s : State) : Out :=
  issue h false regs (guardTrue h s) act s
/-- A vector instruction on elements of width w (R74): its guard is true when some element is active. -/
def vector (h : Hdr) (w : Nat) (regs : List Rn) (act : State → State) (s : State) : Out :=
  issue h false regs ((List.range (1024 / w)).any (active (guardBits h s) w)) act s
/-- An instruction of a privileged context, of the steward, of the wain (R88). -/
def privileged (h : Hdr) (regs : List Rn) (act : State → State) (s : State) : Out :=
  issue h (!(me s).priv) regs (guardTrue h s) act s
def stewardOnly (h : Hdr) (regs : List Rn) (act : State → State) (s : State) : Out :=
  issue h (s.cur.2 != 0) regs (guardTrue h s) act s
def wainOnly (h : Hdr) (regs : List Rn) (act : State → State) (s : State) : Out :=
  issue h (s.cur.2 != 15) regs (guardTrue h s) act s

end Sys2Proof.Machine
end

