-- ==== Sys2Proof/Machine/Flags.lean ====
section
/-! DEFINITION. Condition codes and the overflow conditions (R85, R96). -/

namespace Sys2Proof.Machine

/-- The conditions on two 64-bit values (R85). -/
def cond64 (c : Cond) (a b : W64) : Bool :=
  match c with
  | .eq => a == b
  | .ne => a != b
  | .lt => a.slt b
  | .le => a.sle b
  | .gt => b.slt a
  | .ge => b.sle a
  | .ltn => a.ult b
  | .len => a.ule b
  | .gtn => b.ult a
  | .gen => b.ule a

/-- The conditions on integer elements of width w: the code alone chooses the signedness (R128). -/
def condI (c : Cond) (w a b : Nat) : Bool :=
  match c with
  | .eq => a == b
  | .ne => a != b
  | .lt => decide (toS w a < toS w b)
  | .le => decide (toS w a ≤ toS w b)
  | .gt => decide (toS w b < toS w a)
  | .ge => decide (toS w b ≤ toS w a)
  | .ltn => decide (a < b)
  | .len => decide (a ≤ b)
  | .gtn => decide (b < a)
  | .gen => decide (b ≤ a)

/-- r lies outside the signed N-bit range (R96). -/
def outOfRange (N : Nat) (r : Int) : Bool := decide (r < -(2 ^ (N - 1))) || decide (2 ^ (N - 1) ≤ r)

end Sys2Proof.Machine
end

