-- ==== Sys2Proof/Machine/Operands.lean ====
section
/-! DEFINITION. Operand forms: field b, effective addresses, vector elements and predicates (R11, R12, R78, R79). -/

namespace Sys2Proof.Machine

def sext32 (i : W32) : W64 := i.signExtend 64

/-- opb(): g[b] or sext(imm32) (R94). -/
def rdSrc (s : State) : Src → W64
  | .reg r => rdG s r
  | .imm i => sext32 i
def srcRn : Src → List Rn
  | .reg r => [.g r]
  | .imm _ => []
def vsrcRn : VSrc → List Rn
  | .reg r => [.v r]
  | .imm _ => []

/-- ea(): g[base] + (g[index] << xs) + sext(disp39), modulo 2^64 (R79). -/
def ea (s : State) (a : Addr) : W64 :=
  rdG s a.base + (rdG s a.index <<< a.xs.val) + a.disp.signExtend 64
/-- The address of a .mk store: the index names the earmark (R168). -/
def addrRn (a : Addr) : List Rn := [.g a.base, .g a.index]

/-- Element i of width w (R11). -/
def elem (w : Nat) (x : VWord) (i : Nat) : Nat := x.toNat / 2 ^ (w * i) % 2 ^ w

/-- Elements of width w, the first lowest (R11, R36). -/
def joinElems (w : Nat) : List Nat → Nat
  | [] => 0
  | x :: xs => x % 2 ^ w + 2 ^ w * joinElems w xs

def numElems (w : Nat) : Nat := 1024 / w

/-- A register whose element i is f i. -/
def vecOf (w : Nat) (f : Nat → Nat) : VWord := BitVec.ofNat 1024 (joinElems w ((List.range (numElems w)).map f))

/-- The elements of a vector operand that may be imm32 (R122). -/
def vsrcElem (s : State) (t : ElemType) (b : VSrc) (i : Nat) : Nat :=
  match b with
  | .reg r => elem t.width (rdV s r) i
  | .imm x => immElem t x

/-- Element-wise: active elements take f i, with its flags; the others keep the old value (R123). -/
def vmap (w : Nat) (g : PWord) (old : VWord) (f : Nat → Nat × Nat) : VWord × Nat :=
  let rs := (List.range (numElems w)).map fun i => if active g w i then f i else (elem w old i, 0)
  (BitVec.ofNat 1024 (joinElems w (rs.map Prod.fst)), rs.foldl (fun a r => a ||| r.2) 0)

/-- fpcsr's RM and FZ as an instruction reads them (R24, R123). -/
def fmode (s : State) : FMode :=
  ⟨(src s).fpcsr.toNat % 4, (src s).fpcsr.getLsbD 12⟩

/-- A packed pair computed half by half (R44). -/
def pairOp (h : Nat) (op : Nat → Nat → Nat → Nat × Nat) (a b c : Nat) : Nat × Nat :=
  let lo := op (a % 2 ^ h) (b % 2 ^ h) (c % 2 ^ h)
  let hi := op (a / 2 ^ h) (b / 2 ^ h) (c / 2 ^ h)
  (lo.1 + 2 ^ h * hi.1, lo.2 ||| hi.2)

/-- A floating element operation on a type, pairs by halves. -/
def floatOp (t : ElemType) (op : Fmt → Nat → Nat → Nat → Nat × Nat) (a b c : Nat) : Nat × Nat :=
  match t with
  | .bf2 | .f2 => pairOp (t.width / 2) (op (fmtOf t)) a b c
  | _ => op (fmtOf t) a b c

/-- Bits of a predicate for the byte lanes of element i of width w (R12). -/
def laneBits (w i : Nat) : Nat := (2 ^ Nat.max 1 (w / 8) - 1) * 2 ^ (i * w / 8)

end Sys2Proof.Machine
end

