-- ==== Sys2Proof/Machine/Scalar.lean ====
section
/-! DEFINITION. Scalar, bit, move, special-register and control instructions (R95 to R119). -/

namespace Sys2Proof.Machine

/-! ## Op 0x10 (R96 to R98) -/

/-- How an operand is read: signed rows as two's complement, the others unsigned, at N bits. -/
def readN (signed : Bool) (N : Nat) (x : W64) : Int := if signed then toS N x.toNat else ((x.toNat % 2 ^ N : Nat) : Int)

/-- r modulo 2^N, sign-extended from bit N − 1 (R97, R98). -/
def putN (N : Nat) (r : Int) : W64 := BitVec.ofInt 64 (toS N (ofS N r))

/-- One row of the table of R96: its kind, its exact result and its overflow condition. -/
def aluRow (signed : Bool) (f : Int → Int → Nat → Int) (ovf : Int → Int → Int → Nat → Bool) (h : Hdr) (o : Alu)
    (s : State) : Out :=
  scalar h ([.g o.d, .g o.a] ++ srcRn o.b) (fun s =>
    let N := if o.w then 32 else 64
    let x := readN signed N (rdG s o.a)
    let y := readN signed N (rdSrc s o.b)
    let r := f x y N
    if o.chk && ovf x y r N then raiseOp cOVF 0 0 s else retire (wrG s o.d (putN N r))) s

def noOvf (_ _ _ : Int) (_ : Nat) : Bool := false
def rangeOvf (_ _ r : Int) (N : Nat) : Bool := outOfRange N r
def zeroOvf (_ y _ : Int) (_ : Nat) : Bool := decide (y = 0)
/-- The shift count: y<5:0> or y<4:0> (R97). -/
def shN (y : Int) (N : Nat) : Nat := (y % N).toNat
def bitwise (f : Nat → Nat → Nat) (x y : Int) (_ : Nat) : Int := (f x.toNat y.toNat : Nat)

def execAdd (h : Hdr) (o : Alu) (s : State) : Out := aluRow true (fun x y _ => x + y) rangeOvf h o s
def execSub (h : Hdr) (o : Alu) (s : State) : Out := aluRow true (fun x y _ => x - y) rangeOvf h o s
def execMul (h : Hdr) (o : Alu) (s : State) : Out := aluRow true (fun x y _ => x * y) rangeOvf h o s
def execMulh (h : Hdr) (o : Alu) (s : State) : Out := aluRow true (fun x y _ => x * y / 2 ^ 64) noOvf h o s
def execMulhn (h : Hdr) (o : Alu) (s : State) : Out := aluRow false (fun x y _ => x * y / 2 ^ 64) noOvf h o s
def execDiv (h : Hdr) (o : Alu) (s : State) : Out :=
  aluRow true (fun x y _ => if y = 0 then -1 else x.tdiv y)
    (fun _ y r N => decide (y = 0) || decide (r = 2 ^ (N - 1))) h o s
def execDivn (h : Hdr) (o : Alu) (s : State) : Out :=
  aluRow false (fun x y N => if y = 0 then 2 ^ N - 1 else x / y) zeroOvf h o s
def execRem (h : Hdr) (o : Alu) (s : State) : Out :=
  aluRow true (fun x y _ => if y = 0 then x else x - y * x.tdiv y) zeroOvf h o s
def execRemn (h : Hdr) (o : Alu) (s : State) : Out :=
  aluRow false (fun x y _ => if y = 0 then x else x % y) zeroOvf h o s
def execAnd (h : Hdr) (o : Alu) (s : State) : Out := aluRow false (bitwise (· &&& ·)) noOvf h o s
def execOr (h : Hdr) (o : Alu) (s : State) : Out := aluRow false (bitwise (· ||| ·)) noOvf h o s
def execXor (h : Hdr) (o : Alu) (s : State) : Out := aluRow false (bitwise (· ^^^ ·)) noOvf h o s
def execAndn (h : Hdr) (o : Alu) (s : State) : Out :=
  aluRow false (fun x y _ => ((x.toNat ^^^ (x.toNat &&& y.toNat) : Nat) : Int)) noOvf h o s
def execShl (h : Hdr) (o : Alu) (s : State) : Out := aluRow true (fun x y N => x * 2 ^ shN y N) rangeOvf h o s
def execShr (h : Hdr) (o : Alu) (s : State) : Out := aluRow false (fun x y N => x / 2 ^ shN y N) noOvf h o s
def execSha (h : Hdr) (o : Alu) (s : State) : Out := aluRow true (fun x y N => x / 2 ^ shN y N) noOvf h o s
def execRol (h : Hdr) (o : Alu) (s : State) : Out :=
  aluRow false (fun x y N => x * 2 ^ shN y N % 2 ^ N + x / 2 ^ (N - shN y N)) noOvf h o s
def execMin (h : Hdr) (o : Alu) (s : State) : Out := aluRow true (fun x y _ => Min.min x y) noOvf h o s
def execMax (h : Hdr) (o : Alu) (s : State) : Out := aluRow true (fun x y _ => Max.max x y) noOvf h o s
def execMinn (h : Hdr) (o : Alu) (s : State) : Out := aluRow false (fun x y _ => Min.min x y) noOvf h o s
def execMaxn (h : Hdr) (o : Alu) (s : State) : Out := aluRow false (fun x y _ => Max.max x y) noOvf h o s
def execAbs (h : Hdr) (o : AluU) (s : State) : Out :=
  aluRow true (fun x _ _ => (x.natAbs : Int)) (fun x _ _ N => decide (x = -(2 ^ (N - 1)))) h
    ⟨o.chk, o.w, o.d, o.a, .imm 0⟩ s

/-! ## Comparisons, bits, fields, selection (R99 to R105) -/

def execCmpp (h : Hdr) (o : CmpP) (s : State) : Out :=
  scalar h (.g o.a :: srcRn o.b) (fun s =>
    retire (wrP s o.d (if cond64 o.c (rdG s o.a) (rdSrc s o.b) then BitVec.allOnes 128 else 0))) s
def execSetc (h : Hdr) (o : CmpG) (s : State) : Out :=
  scalar h ([.g o.d, .g o.a] ++ srcRn o.b) (fun s =>
    retire (wrG s o.d (if cond64 o.c (rdG s o.a) (rdSrc s o.b) then 1 else 0))) s

/-- A function of the low N bits of g[a] (R102). -/
def bitRow (f : Nat → Nat → Nat) (h : Hdr) (o : BitU) (s : State) : Out :=
  scalar h [.g o.d, .g o.a] (fun s =>
    let N := if o.w then 32 else 64
    retire (wrG s o.d (putN N (f N ((rdG s o.a).toNat % 2 ^ N) : Nat)))) s

def countLz (N x : Nat) : Nat := if x = 0 then N else N - 1 - Nat.log2 x
/-- Trailing zeros among the low n bits. -/
def countTz : Nat → Nat → Nat
  | 0, _ => 0
  | n + 1, x => if x % 2 = 1 then 0 else 1 + countTz n (x / 2)
def popCount : Nat → Nat → Nat
  | 0, _ => 0
  | n + 1, x => x % 2 + popCount n (x / 2)
/-- The low n digits of x in base b, reversed. -/
def reverseDigits (b : Nat) : Nat → Nat → Nat → Nat
  | 0, _, acc => acc
  | n + 1, x, acc => reverseDigits b n (x / b) (acc * b + x % b)

def execClz (h : Hdr) (o : BitU) (s : State) : Out := bitRow countLz h o s
def execCtz (h : Hdr) (o : BitU) (s : State) : Out := bitRow countTz h o s
def execPopc (h : Hdr) (o : BitU) (s : State) : Out := bitRow popCount h o s
def execBrev (h : Hdr) (o : BitU) (s : State) : Out := bitRow (fun N x => reverseDigits 2 N x 0) h o s
def execBswap (h : Hdr) (o : BitU) (s : State) : Out := bitRow (fun N x => reverseDigits 256 (N / 8) x 0) h o s

/-- pos and effective length L of a control word (R103, R104). -/
def fieldPos (ctl : W64) : Nat := ctl.toNat % 64
def fieldLen (ctl : W64) : Nat := Nat.min (ctl.toNat / 256 % 128) (64 - fieldPos ctl)
def fieldOfWord (x : W64) (ctl : W64) : Nat := x.toNat / 2 ^ fieldPos ctl % 2 ^ fieldLen ctl

def execBfx (h : Hdr) (d a : GReg) (b : Src) (s : State) : Out :=
  scalar h ([.g d, .g a] ++ srcRn b) (fun s =>
    let ctl := rdSrc s b
    let L := fieldLen ctl
    retire (wrG s d (if L = 0 then 0 else putN L (fieldOfWord (rdG s a) ctl : Nat)))) s
def execBfxn (h : Hdr) (d a : GReg) (b : Src) (s : State) : Out :=
  scalar h ([.g d, .g a] ++ srcRn b) (fun s =>
    retire (wrG s d (BitVec.ofNat 64 (fieldOfWord (rdG s a) (rdSrc s b))))) s
def execBfi (h : Hdr) (d a : GReg) (b : Src) (c : GReg) (s : State) : Out :=
  scalar h ([.g d, .g a, .g c] ++ srcRn b) (fun s =>
    let ctl := rdSrc s b
    let m : W64 := BitVec.ofNat 64 ((2 ^ fieldLen ctl - 1) * 2 ^ fieldPos ctl)
    retire (wrG s d ((rdG s c &&& ~~~m) ||| ((rdG s a <<< fieldPos ctl) &&& m)))) s
def execSel (h : Hdr) (d a : GReg) (b : Src) (c : PReg) (s : State) : Out :=
  scalar h ([.g d, .g a] ++ srcRn b) (fun s =>
    retire (wrG s d (if (rdP s c).getLsbD 0 then rdG s a else rdSrc s b))) s

/-! ## Moves and special registers (R106 to R112) -/

def execMov (h : Hdr) (d a : GReg) (s : State) : Out := scalar h [.g d, .g a] (fun s => retire (wrG s d (rdG s a))) s
def execLi (h : Hdr) (d : GReg) (i : W32) (s : State) : Out :=
  scalar h [.g d] (fun s => retire (wrG s d (sext32 i))) s
def execLih (h : Hdr) (d : GReg) (i : W32) (s : State) : Out :=
  scalar h [.g d] (fun s => retire (wrG s d (i ++ (rdG s d).extractLsb' 0 32))) s

/-! ## Windows (R334, R335) -/

def bitsOf (x : W64) (lo n : Nat) : Nat := x.toNat / 2 ^ lo % 2 ^ n

def Window.r (w : Window) : Bool := w.d0.getLsbD 1
def Window.w (w : Window) : Bool := w.d0.getLsbD 2
def Window.x (w : Window) : Bool := w.d0.getLsbD 3
def Window.g (w : Window) : Bool := w.d0.getLsbD 4
def Window.wt (w : Window) : Bool := w.d0.getLsbD 5
def Window.rw (w : Window) : Bool := w.r && w.w
/-- First and last 4 KiB page. -/
def Window.base (w : Window) : Nat := bitsOf w.d0 12 45
def Window.last (w : Window) : Nat := bitsOf w.d1 12 45
def Window.mode (w : Window) : Nat := bitsOf w.d2 0 2
def Window.pbank (w : Window) : Nat := bitsOf w.d2 32 13
/-- The field set, as global field numbers die × 9 + f, ascending. -/
def Window.fields (w : Window) : List Nat :=
  (List.range 72).filter fun i => w.d2.getLsbD (16 + i / 9) && w.d2.getLsbD (4 + i % 9) && !w.gone.contains i
/-- The channel set, ascending. -/
def Window.chans (w : Window) : List Nat :=
  (List.range 256).filter fun g => w.d3.getLsbD (g / 32) && w.d3.getLsbD (8 + g % 32)

/-- 0x01FE_0000_0000_0000, the end of device virtual memory (R331). -/
def vaEnd : Nat := 0x01FE000000000000
/-- The tag and the spaces of R331. -/
def ownBase : Nat := 0x01FFFF0000000000
def remBase : Nat := vaEnd
def dbgBase : Nat := 0x01FE010000000000

def Window.isVoid (w : Window) : Bool :=
  !w.d0.getLsbD 0 || w.mode == 3 || w.last < w.base || vaEnd ≤ w.last * 4096 || (w.g && w.w)
    || (w.mode == 0 && w.fields.isEmpty) || (w.mode == 1 && 4607 < w.pbank) || w.chans.isEmpty

/-- The window that covers a byte: the lowest-numbered that is not void and includes its page (R335). -/
def coverOf (wins : Sparse Window) (va : Nat) : Option Window :=
  (wins.find? fun e => e.2.base ≤ va / 4096 && va / 4096 ≤ e.2.last && !e.2.isVoid).map Prod.snd

def rightAt (wins : Sparse Window) (right : Window → Bool) (va : Nat) : Bool :=
  match coverOf wins va with | some w => right w | none => false

/-- Every byte of [va, va + n) is covered with the right: coverage changes only where a window begins or ends. -/
def rangeOk (wins : Sparse Window) (right : Window → Bool) (va n : Nat) : Bool :=
  n = 0 || (va :: wins.flatMap fun e => [e.2.base * 4096, (e.2.last + 1) * 4096]).all fun p =>
    p < va || va + n ≤ p || rightAt wins right p

def Window.void : Window := ⟨0, 0, 0, 0, []⟩
/-- Windows, hcap, svroute and pwin as the instruction reads them (R68, R110): while it waits, the windows its operand check passed
under (R77, R336). -/
def winsOf (s : State) : Sparse Window := match (me s).grp with | some g => g.wins | none => (me s).wins.getD (mySet s).windows
def hcapOf (s : State) : W64 := match (me s).grp with | some g => g.hcap | none => (tenAt s (myTen s)).hcap
def svrouteOf (s : State) : W64 := match (me s).grp with | some g => g.svroute | none => (mySet s).svroute
def pwinOf (s : State) : Nat := match (me s).grp with | some g => g.pwin | none => (me s).pwin

/-- The ctx register (R19). -/
def ctxReg (s : State) : W64 :=
  BitVec.ofNat 64 (s.cur.2 + s.cur.1 * 2 ^ 4 + Config.podPosition * 2 ^ 17 + (me s).priv.toNat * 2 ^ 26
    + (me s).name * 2 ^ 27)

/-- The bits of fpcsr that are not reserved (R24). -/
def maskFpcsr : W64 := 0x11F3
/-- What MFS reads (R17, R109); reserved bits read zero (R21, R24). -/
def specialRead (s : State) (n : Nat) : W64 :=
  match n with
  | 0x00 => ctxReg s
  | 0x01 => BitVec.ofNat 64 (myTen s + (tenAt s (myTen s)).paddock * 2 ^ 24)
  | 0x02 => ((me s).budget &&& 0x3F7F).setWidth 64
  | 0x03 => (src s).fpcsr &&& maskFpcsr
  | 0x04 => (myCroft s).cyc
  | 0x05 => 0x10201010
  | 0x06 => BitVec.ofNat 64 (srcCount s 1 % 256)
  | 0x07 => BitVec.ofNat 64 (srcCount s 2 % 256)
  | 0x08 => BitVec.ofNat 64 (srcCount s 3 % 256)
  | 0x09 => srcRunseq s
  | 0x0A => hcapOf s
  | 0x0B => BitVec.ofNat 64 (pwinOf s)
  | 0x10 => (sread Window.void (winsOf s) (pwinOf s)).d0
  | 0x11 => (sread Window.void (winsOf s) (pwinOf s)).d1
  | 0x12 => (sread Window.void (winsOf s) (pwinOf s)).d2
  | 0x13 => (sread Window.void (winsOf s) (pwinOf s)).d3
  | 0x14 => svrouteOf s
  | _ => 0

/-- The decode fault of an access to a special register, if any (R17, R18). -/
def specialFault (priv write : Bool) (n : Nat) : Option Nat :=
  if n < 0x0A then (if write && n != 3 then some cILL else none)
  else if 0x0C ≤ n && n < 0x10 then some cILL
  else if !priv then some cPRIV
  else if 0x15 ≤ n then some cILL
  else none

def execMfs (h : Hdr) (d : GReg) (n : Fin 32) (s : State) : Out :=
  match specialFault (me s).priv false n.val with
  | some c => .next (raiseDec c s)
  | none => scalar h [.g d] (fun s => retire (wrG s d (specialRead s n.val))) s

/-- The writable bits of pwd0 to pwd3 and svroute (R334, R374). -/
def maskPwd0 : W64 := 0x01FFFFFFFFFFF03F
def maskPwd1 : W64 := 0x01FFFFFFFFFFF000
def maskPwd2 : W64 := 0x00001FFF00FF1FF3
def maskPwd3 : W64 := 0x000000FFFFFFFFFF
def maskRoute : W64 := 0x9FFFFFFF

/-- A change of G, WT, MODE, PBANK, the field set or the channel set: the homes of the window's lines change (R336). -/
def rehomed (w w' : Window) : Bool := w.d0 &&& 0x30 != w'.d0 &&& 0x30 || w.d2 != w'.d2 || w.d3 != w'.d3
/-- A barn or an L1 holds a line of the range. -/
def cachedIn (s : State) (asid lo hi : Nat) : Bool :=
  s.banks.any (fun b => b.2.lines.any fun l => (l.asid == asid || l.asid == 0xFFFF) && lo ≤ l.la * 64 && l.la * 64 < hi)
    || s.crofts.any fun c => c.2.l1.any fun l => (l.asid == asid || l.asid == 0xFFFF) && lo ≤ l.la * 32 && l.la * 32 < hi
/-- The number of the window that covers a byte (R335). -/
def coverIdx (wins : Sparse Window) (va : Nat) : Option Nat :=
  (wins.find? fun e => e.2.base ≤ va / 4096 && va / 4096 ≤ e.2.last && !e.2.isVoid).map Prod.fst
/-- The ranges that a change of window i to w' leaves undefined to loads: those it covered, cut where a window begins or
ends, of which a line is cached (R336). -/
def staleRange (s : State) (asid : Nat) (gen : W32) (wins : Sparse Window) (i : Nat) (w' : Window) : List (Nat × Nat × W32) :=
  let w := sread Window.void wins i
  let hi := (w.last + 1) * 4096
  let cuts := (wins.flatMap fun e => [e.2.base * 4096, (e.2.last + 1) * 4096]).filter fun p => w.base * 4096 ≤ p && p ≤ hi
  if !rehomed w w' then []
  else (cuts.filter fun p => p < hi && coverIdx wins p == some i).eraseDups.filterMap fun p =>
    let q := cuts.foldl (fun m x => if p < x && x < m then x else m) hi
    if cachedIn s asid p q then some (p, q, gen) else none

def updWindow (s : State) (f : Window → Window) : State :=
  let i := pwinOf s
  updSet s (mySetId s) fun x =>
    let w := f (sread Window.void x.windows i)
    { x with windows := sset x.windows i w, stale := x.stale ++ staleRange s x.asid x.gen x.windows i w }

/-- What MTS writes (R110); in a pair, flags raised by the other slot are ORed in (R34). -/
def specialWrite (s : State) (n : Nat) (x : W64) : State :=
  match n with
  | 0x03 => updMe s fun c => { c with regs := { c.regs with
      fpcsr := (x &&& maskFpcsr) ||| (if c.grp.isSome then c.raised else 0) } }
  | 0x0A => updTen s (myTen s) fun t => { t with hcap := x &&& 0xFFFF }
  | 0x0B => updMe s fun c => { c with pwin := x.toNat % 64 }
  | 0x10 => updWindow s fun w => { w with d0 := x &&& maskPwd0 }
  | 0x11 => updWindow s fun w => { w with d1 := x &&& maskPwd1 }
  | 0x12 => updWindow s fun w => { w with d2 := x &&& maskPwd2, gone := [] }
  | 0x13 => updWindow s fun w => { w with d3 := x &&& maskPwd3 }
  | 0x14 => updSet s (mySetId s) fun t => { t with svroute := x &&& maskRoute }
  | _ => s

def execMts (h : Hdr) (n : Fin 32) (a : GReg) (s : State) : Out :=
  match specialFault (me s).priv true n.val with
  | some c => .next (raiseDec c s)
  | none => scalar h [.g a] (fun s => retire (specialWrite s n.val (rdG s a))) s

def execMfb (h : Hdr) (d : GReg) (a : BReg) (s : State) : Out :=
  scalar h [.g d] (fun s => retire (wrG s d ((rdB s a).setWidth 64))) s
def execMtb (h : Hdr) (d : BReg) (b : Src) (s : State) : Out :=
  scalar h (srcRn b) (fun s => retire (wrB s d ((rdSrc s b).setWidth 32))) s
def execMfp (h : Hdr) (hi : Bool) (d : GReg) (a : PReg) (s : State) : Out :=
  scalar h [.g d] (fun s => retire (wrG s d ((rdP s a).extractLsb' (if hi then 64 else 0) 64))) s
def execMtp (h : Hdr) (hi : Bool) (d : PReg) (a : GReg) (s : State) : Out :=
  scalar h [.g a] (fun s =>
    let old := getP (me s).regs d
    let x := rdG s a
    retire (wrP s d (if hi then x ++ old.extractLsb' 0 64 else old.extractLsb' 64 64 ++ x))) s

def execLea (h : Hdr) (d base index : GReg) (xs : Fin 4) (disp : BitVec 39) (s : State) : Out :=
  scalar h [.g d, .g base, .g index] (fun s => retire (wrG s d (ea s ⟨base, index, xs, disp, .virt⟩))) s

/-! ## Transfers (R114 to R119) -/

/-- LMAX (R115). -/
def lmax : Int := 5 * 2 ^ 58 - 1

/-- A taken transfer to a slot address, whose TGT bit the next issue checks (R65, R119). -/
def jumpTo (fn a : Nat) (s : State) : State := updMe (retire s) fun c => { c with pc := a, tgt := some fn }

/-- A taken relative transfer after `pre`, or BTGT on the instruction itself (R115, R119). -/
def takeRel (fn : Nat) (disp : BitVec 50) (pre : State → State) (s : State) : State :=
  let L : Int := linOf (thisSlot s) + disp.toInt
  if L < 0 || lmax < L then raiseOp cBTGT fn (disp.signExtend 64).toNat s
  else jumpTo fn (slotAddr L.toNat) (pre s)

def execBr (h : Hdr) (disp : BitVec 50) (s : State) : Out := scalar h [] (takeRel 0 disp id) s
def execBc (h : Hdr) (c : Cond) (a : GReg) (disp : BitVec 50) (s : State) : Out :=
  scalar h [.g a] (fun s => if cond64 c (rdG s a) 0 then takeRel 1 disp id s else retire s) s
def execBcmp (h : Hdr) (o : JCond) (s : State) : Out :=
  scalar h [.g o.a, .g o.b] (fun s =>
    if cond64 o.c (rdG s o.a) (rdG s o.b) then takeRel 2 o.disp id s else retire s) s
def execLoop (h : Hdr) (a : GReg) (disp : BitVec 50) (s : State) : Out :=
  scalar h [.g a] (fun s =>
    let c := rdG s a - 1
    if c != 0 then takeRel 7 disp (fun s => wrG s a c) s else retire (wrG s a c)) s
def execCall (h : Hdr) (b : GReg) (disp : BitVec 50) (s : State) : Out :=
  scalar h [.g b] (fun s => takeRel 3 disp (fun s => wrG s b (BitVec.ofNat 64 (nextSlot s))) s) s

/-- A transfer to the slot address in a register (R118). -/
def takeReg (fn : Nat) (a : GReg) (link : Option GReg) (s : State) : State :=
  let t := (rdG s a).toNat
  if slotOk t then
    jumpTo fn t (match link with | some b => wrG s b (BitVec.ofNat 64 (nextSlot s)) | none => s)
  else raiseOp cBTGT fn t s

def execJmp (h : Hdr) (a : GReg) (s : State) : Out := scalar h [.g a] (takeReg 4 a none) s
def execJmpl (h : Hdr) (a b : GReg) (s : State) : Out := scalar h [.g a, .g b] (takeReg 5 a (some b)) s
def execRet (h : Hdr) (a : GReg) (s : State) : Out := scalar h [.g a] (takeReg 6 a none) s

/-! ## NOP, BRK, TRAP (R87, R216) -/

def execNop (s : State) : Out := .next (retire s)

/-- Freeze with code TRAP: SLOT holds next_slot (R216). -/
def trapMe (code : W32) (s : State) : State :=
  let s' := freezeAt s s.cur.1 s.cur.2 cTRAP (thisSlot s) (nextSlot s) code.toNat 0
  updMe s' fun k => { k with turn := .issued }
def execTrap (h : Hdr) (code : W32) (s : State) : Out := scalar h [] (trapMe code) s
def execBrk (h : Hdr) (code : W32) (s : State) : Out :=
  scalar h [] (fun s => if (myCroft s).brken then trapMe code s else retire s) s

end Sys2Proof.Machine
end

