-- ==== Sys2Proof/Machine/Resolve.lean ====
section
/-! DEFINITION. Where an address leads: places, permission windows, home banks and walking channels, the checks of an
access, and the packets an access sends (R147 to R151, R273, R331, R335, R339, R355). -/

namespace Sys2Proof.Machine

/-! ## Homes and channels (R273, R339) -/

def lineHash (va : Nat) : Nat :=
  let L := va / 64 % 2 ^ 51
  L ^^^ (L / 2 ^ 17) ^^^ (L / 2 ^ 34)

/-- The walking channel of a line (R339). -/
def channelFor (w : Window) (va : Nat) : Nat :=
  let x := va / 2 ^ 21 % 2 ^ 36
  let q := x ^^^ (x / 2 ^ 11)
  (nth w.chans (q % w.chans.length)).getD 0

/-- The first-touch field recorded for a page, if its frame has one (R273, R344). -/
def touchedField (s : State) (chan tag vp : Nat) : Option Nat :=
  match (chanAt s chan).frames.find? fun e => e.2.asid == tag && e.2.vp == vp with
  | some e => e.2.ft
  | none => none

def tagOf (glob : Bool) (asid : Nat) : Nat := if glob then 0xFFFF else asid

/-- The field a first fill takes, for a croft or for none (R273). -/
def firstField (w : Window) (chan : Nat) (core : Option Nat) : Nat :=
  match core with
  | some c => fieldOf c
  | none => (w.fields.head?).getD (chan / 32 * 9)

/-- Home bank and channel of a byte under a window, for a miss of a croft. -/
def resolve (s : State) (asid : Nat) (w : Window) (va : Nat) (core : Option Nat) : Res :=
  let chan := channelFor w va
  let h := lineHash va
  let bank :=
    if w.mode = 0 then
      let p := h % (64 * w.fields.length)
      (nth w.fields (p / 64)).getD 0 * 64 + p % 64
    else if w.mode = 1 then w.pbank
    else (touchedField s chan (tagOf w.g asid) (va / 4096)).getD (firstField w chan core) * 64 + h % 64
  ⟨asid, bank, chan, w.g, w.wt, w.mode == 2, false⟩

/-- The home as it stands when a first-touch request arrives, its frame's field known by then. -/
def homeNow (s : State) (r : Res) (va : Nat) : Nat :=
  if r.ft then
    match touchedField s r.chan (tagOf r.glob r.asid) (va / 4096) with
    | some f => f * 64 + r.bank % 64
    | none => r.bank
  else r.bank
def bankField (b : Nat) : Nat := b / 64

/-! ## Places (R147) -/

inductive Place where
  | own (off : Nat) | rem (ten off : Nat) | dbg (ten off : Nat) | virt (va : Nat)
  deriving DecidableEq, Repr

def placeOf (sp : Space) (a : Nat) : Option Place :=
  match sp with
  | .virt =>
      if a / 2 ^ 16 = 0x01FFFF000000 then some (.own (a % 2 ^ 16))
      else if a / 2 ^ 40 = 0x01FE00 then some (.rem (a / 2 ^ 16 % 2 ^ 24) (a % 2 ^ 16))
      else if a / 2 ^ 40 = 0x01FE01 then
        if a % 2 ^ 16 < 0x4000 then some (.dbg (a / 2 ^ 16 % 2 ^ 24) (a % 2 ^ 16)) else none
      else if a < 2 ^ 57 then some (.virt a) else none
  | .own => if a < 0x10000 then some (.own a) else none
  | .rem => if a / 2 ^ 40 = 0 then some (.rem (a / 2 ^ 16 % 2 ^ 24) (a % 2 ^ 16)) else none

/-- The address a report gives for a place. -/
def Place.addr : Place → Nat
  | .own off => ownBase + off
  | .rem t off => remBase + t * 2 ^ 16 + off
  | .dbg t off => dbgBase + t * 2 ^ 16 + off
  | .virt va => va

/-- The check of R148 for n bytes at a place. -/
def placeOk (s : State) (right : Window → Bool) (p : Place) (n : Nat) : Bool :=
  match p with
  | .own off => off + n ≤ 0x10000
  | .rem t off => off + n ≤ 0x10000 && inSet s (mySetId s) t
  | .dbg t off => off + n ≤ 0x4000 && inSet s (mySetId s) t
  | .virt va => rangeOk (winsOf s) right va n
def croftOnly (p : Place) : Bool := match p with | .own _ => true | .rem _ _ => true | _ => false

/-- The name of a place's space in a posted store: 0 virtual, t + 1 croft memory, then debug windows. -/
def Place.space : Place → Nat × Nat
  | .own off => (0, off)
  | .rem t off => (t + 1, off)
  | .dbg t off => (t + 1 + 2 ^ 24, off)
  | .virt va => (0, va)

/-! ## Croft memory (R147, R162, R167) -/

def cmGet (s : State) (t off n : Nat) : Nat := loadBytes (tenAt s t).mem off n
def cmPut (s : State) (t off : Nat) (bs : List Byte) : State := updTen s t fun k => { k with mem := storeBytes k.mem off bs }
def cmMark (s : State) (t off : Nat) : Mark := sread 0 (tenAt s t).marks (off / 64)
def cmSetMark (s : State) (t off : Nat) (m : Mark) : State :=
  updTen s t fun k => { k with marks := swrite 0 k.marks (off / 64) m }
def cmFull (s : State) (t off : Nat) : Bool := sread false (tenAt s t).fe (off / 8)
def cmSetFull (s : State) (t off : Nat) (b : Bool) : State :=
  updTen s t fun k => { k with fe := swrite false k.fe (off / 8) b }

/-- [a, a + n) cut at multiples of u: (start, length) of each piece. -/
def pieces (u : Nat) (a n : Nat) : List (Nat × Nat) :=
  if n = 0 then [] else
  (List.range ((a + n - 1) / u + 1 - a / u)).map fun i =>
    let lo := Nat.max a ((a / u + i) * u)
    let hi := Nat.min (a + n) ((a / u + i + 1) * u)
    (lo, hi - lo)

/-- The mark of a block found uncorrectable: its code becomes 0xFF; its scale stays, the manual giving none: DESIGN CHOICE, log 24
(R53, R383). -/
def spoil (m : Mark) : Mark := (m &&& 0x00FF) ||| 0xFF00
/-- Mark the blocks of n bytes of croft memory. -/
def cmSpoil (s : State) (t off n : Nat) : State :=
  (pieces 64 off n).foldl (fun s p => cmSetMark s t p.1 (spoil (cmMark s t p.1))) s

/-- FMT 0xFF: the block is poisoned (R53). -/
def poisoned (m : Mark) : Bool := m.toNat / 256 == 0xFF
/-- The offset or address of the first poisoned 64-byte block of n bytes, if any. -/
def poisonIn (mark : Nat → Mark) (a n : Nat) : Option Nat :=
  ((List.range ((a + n - 1) / 64 + 1 - a / 64)).map fun i => (a / 64 + i) * 64).find? fun b => poisoned (mark b)

/-! ## Lines whose window was changed without a SHOOT (R336) -/

def staleAt (s : State) (b va : Nat) : Bool := (setAtId s b).stale.any fun e => e.1 ≤ va && va < e.2.1
/-- What a load of n bytes returns where v is what its place holds: a free value at the bytes of such a line. -/
def undefAt (s : State) (b va n v : Nat) : Nat :=
  if (setAtId s b).stale.isEmpty then v
  else ofBytes ((List.range n).map fun i => if staleAt s b (va + i) then Config.staleByte s.free (va + i)
    else BitVec.ofNat 8 (v / 2 ^ (8 * i)))
/-- The free values of a load are used up. -/
def drawStale (s : State) (b : Nat) : State := if (setAtId s b).stale.isEmpty then s else draw s

/-! ## The L1 data cache (R238, R239) -/

def l1Find (s : State) (c asid la : Nat) : Option L1Line :=
  (croftAt s c).l1.find? fun l => l.asid == asid && l.la == la

/-- A free choice of a line a full or filling cache drops (R240, R272). -/
def installL1 (s : State) (c : Nat) (l : L1Line) : State :=
  let k := croftAt s c
  let old := k.l1.filter fun x => x.la != l.la
  let v := Config.victim s.free % (old.length + 1)
  let kept := if v < old.length || Config.l1Lines ≤ old.length then dropAt old (Nat.min v (old.length - 1)) else old
  draw (setCroft s c { k with l1 := kept ++ [l] })

/-! ## Messages between tenants (R355, R356, R369) -/

def bumpPartner (k : Tenant) (t : Nat) : Tenant :=
  let inc (p : Partner) : Partner := { p with count := Nat.min (p.count + 1) (2 ^ 20 - 1) }
  if k.partners.any fun p => p.v && p.ten == t then
    { k with partners := k.partners.map fun p => if p.v && p.ten == t then inc p else p }
  else if k.newcomer.v then
    if k.newcomer.ten = t then { k with newcomer := inc k.newcomer } else k
  else { k with newcomer := ⟨true, t, 1⟩ }

/-- The pairs a croft lies in: 2 × the lower core index, plus 1 for a vertical pair (R370). -/
def pairsOf (c : Nat) : List Nat :=
  (if colOf c < 23 then [2 * c] else []) ++ (if 0 < colOf c then [2 * (c - 1)] else [])
    ++ (if rowOf c < 23 then [2 * c + 1] else []) ++ (if 0 < rowOf c then [2 * (c - 24) + 1] else [])
def pairCrofts (p : Nat) : Nat × Nat := (p / 2, p / 2 + (if p % 2 = 1 then 24 else 1))

/-- One message of a croft's pair: the window ends when the counter reaches it; later messages count toward the next. -/
def bumpPair (win order : Nat) (p : Pair) : Pair :=
  if p.ended.isSome then { p with sent := p.sent + 1 }
  else if win ≤ p.count + 1 then { p with count := p.count + 1, ended := some order }
  else { p with count := p.count + 1 }

/-- One message from the tenant of croft c to tenant t. -/
def countMsg (s : State) (c t : Nat) : State :=
  match (croftAt s c).tenant with
  | none => s
  | some me =>
      if me = t then s
      else
        let s := tick (updTen s me fun k => bumpPartner k t)
        (pairsOf c).foldl (fun s p => updPair s p (bumpPair (dieAt s (dieOf c)).window s.now)) s
def countMsgs (s : State) (c t : Nat) : Nat → State
  | 0 => s
  | n + 1 => countMsgs (countMsg s c t) c t n

/-! ## Packets of an access -/

def remKey (a : Agent) (t : Nat) : List Nat := [2, a.ten, a.name, t]

/-- A request to the croft of tenant t from context (c, i): n messages, one packet. -/
def sendCroft (s : State) (c i t n : Nat) (op : CroftOp) (bin : Option Target) (ack : AckTo) : State :=
  let who := agentOf s c i
  send (countMsgs s c t n) ⟨remKey who t, .croft t (tenAt s t).epoch who op bin ack false, none⟩

/-- The class of a posted store to a place (R150). -/
def classOf (s : State) (r : Place × Option Res) : Nat :=
  match r with
  | (.virt _, some x) => classTo s.cur.1 (bankField x.bank)
  | (.rem t _, _) => classTo s.cur.1 (fieldOf (tenAt s t).core)
  | (.dbg t _, _) => classTo s.cur.1 (fieldOf (tenAt s t).core)
  | _ => 0

/-- The resolution of a virtual byte that passed its check. -/
def resOf (s : State) (va : Nat) : Res :=
  match coverOf (winsOf s) va with
  | some w => resolve s (mySet s).asid w va (some s.cur.1)
  | none => ⟨(mySet s).asid, 0, 0, false, false, false, false⟩

/-- A piece of a posted store of the acting context within one 64-byte block: runs of bytes, each at an address or offset
of the place's space, and perhaps an earmark (R150, R151, R168). -/
structure Piece where
  at_ : Place
  runs : List (Nat × List Byte)
  mark : Option Mark
  bin : Option Target
  deriving DecidableEq, Repr

/-- Bytes cut into aligned 16-byte units (R245). -/
def unitsOf (runs : List (Nat × List Byte)) : List (Nat × List Byte) :=
  runs.flatMap fun r => (pieces 16 r.1 r.2.length).map fun p => (p.1, (r.2.drop (p.1 - r.1)).take p.2)

/-- The ordering class that counts a piece, set at issue (R150). A store to a first-touch page that no croft has touched counts in the
class of the home that its own touch would make, also where another field's touch comes first: DESIGN CHOICE, log 101. -/
def pieceClass (s : State) (p : Piece) : Nat :=
  classOf s (p.at_, match p.at_ with | .virt va => some (resOf s va) | _ => none)

def putRuns (s : State) (t : Nat) (runs : List (Nat × List Byte)) : State :=
  runs.foldl (fun s r => cmPut s t r.1 r.2) s

/-- The messages of a piece to remote croft memory: one for an STC's packet, one for each unit otherwise (R355). -/
def pieceMsgs (p : Piece) (units : Nat) : Nat := if p.bin.isSome then 1 else Nat.max 1 units

/-- Send one piece of the posted store `id`, or apply it to own croft memory (R150). -/
def postPiece (id : Nat) (s : State) (p : Piece) : State :=
  let c := s.cur.1
  let i := s.cur.2
  let k := pieceClass s p
  let units := if p.runs.isEmpty then [(p.at_.space.2, [])] else unitsOf p.runs
  match p.at_ with
  | .own off =>
      let s := putRuns s (myTen s) p.runs
      match p.mark with | some m => cmSetMark s (myTen s) off m | none => s
  | .virt va =>
      let who := meAgent s
      let r := resOf s va
      let s := (if p.mark.isSome then (va / 64 * 64, List.replicate 64 0) :: p.runs else p.runs).foldl
        (fun s q => dropL1 s c q.1 q.2.length) s
      send s ⟨homeKey who r, .home ⟨who, .store, r, va, .store units p.mark, p.bin, .cls k id⟩, none⟩
  | .rem t _ => sendCroft s c i t (pieceMsgs p units.length) (.store units p.mark) p.bin (.cls k id)
  | .dbg t off => sendCroft s c i t (pieceMsgs p units.length) (.debugStore off (p.runs.flatMap Prod.snd)) none (.cls k id)

/-- The classes a posted store is counted in: once in each class that one of its pieces has (R150, R159; log 29). -/
def postClasses (s : State) (ps : List Piece) : List Nat := (ps.map (pieceClass s)).filter fun k => k != 0

/-- Issue one posted store, a packet for each 64-byte block it touches (R150, R152). -/
def postStore (s : State) (ps : List Piece) : State :=
  match ps, postClasses s ps with
  | p :: _, k :: ks =>
      let s := tick s
      let id := s.now
      let s := ps.foldl (postPiece id) s
      let (space, a) := p.at_.space
      updMe s fun x => ([1, 2, 3].filter (k :: ks).contains).foldl (fun x k => addCount k 1 x)
        { x with posted := x.posted ++ [⟨id, space, a, ps.flatMap Piece.runs, p.mark, k :: ks⟩] }
  | _, _ => ps.foldl (postPiece 0) s

/-- The stores of an instruction fit: none raises its class count above 255 (R14). The rule holds back a posted store; of an STV,
STVS or SCAT that fits in part the model holds the whole instruction, none of its stores leaving before all of them fit: DESIGN
CHOICE, log 81. -/
def postsFit (s : State) (ps : List (List Piece)) : Bool :=
  let cs := ps.map (postClasses s)
  [1, 2, 3].all fun k => countOf k (me s) + (cs.filter fun c => c.contains k).length ≤ 255

def postAll (s : State) (ps : List (List Piece)) : State := ps.foldl postStore s

end Sys2Proof.Machine
end

