-- ==== Sys2Proof/Machine/Memory.lean ====
section
/-! DEFINITION. Loads, stores, earmarks, cache hints, fences and drains: ops 0x30, 0x31, 0x33, 0x34 (R147 to R161,
R167 to R174). -/

namespace Sys2Proof.Machine

/-! ## Results (R149, R157, R159, R177) -/

def byteMask (n : Nat) : Nat := 2 ^ (8 * n) - 1

/-- Write what an access gathered into its destination. -/
def applyDone (fin : Done) (buf : Nat) (r : Regs) : Regs :=
  match fin with
  | .g d n sg => putGn r d (if sg then (BitVec.ofInt 64 (toS (8 * n) (buf % 2 ^ (8 * n)))).toNat else buf % 2 ^ (8 * n))
  | .pair d => putGn (putGn r d (buf % 2 ^ 64)) (d + 1) (buf / 2 ^ 64 % 2 ^ 64)
  | .v d mask 0 => putVn r d buf mask
  | .v d mask w => putVn r d (joinElems w (List.replicate (1024 / w) (buf % 2 ^ w))) mask
  | .crib d p =>
      let taken := buf / 2 ^ 512 % 2 = 1
      let r := if taken then putVn r d (buf % 2 ^ 512) (BitVec.allOnes 1024) else r
      match p with | some q => putPn r q (if taken then BitVec.allOnes 128 else 0) | none => r
  | .hire d _ => putGn r d buf
  | .none => r
  | .args _ _ => r

/-! ## Checks (R30, R148) -/

/-- What an element's address must meet: the right, whether debug windows are reached, whether it may be virtual. -/
structure Need where
  right : Window → Bool
  debug : Bool
  virt : Bool

def needR : Need := ⟨Window.r, false, true⟩
def needW : Need := ⟨Window.w, false, true⟩

/-- The fault of an n-byte element at address a (R147, R148, R378), or its place. -/
def checkEl (s : State) (nd : Need) (sp : Space) (a n : Nat) : Except (Nat × Nat) Place :=
  match placeOf sp a with
  | none => .error (cPERM, a)
  | some p =>
      let kind := match p with | .dbg _ _ => nd.debug | .virt _ => nd.virt | _ => true
      if !kind || !placeOk s nd.right p n then .error (cPERM, p.addr)
      else match p with
        | .dbg _ _ => if (me s).priv then .ok p else .error (cPRIV, p.addr)
        | _ => .ok p

/-- Check elements in ascending order: the first failing one raises its fault, else go on with the places. -/
def checkEls (s : State) (nd : Need) (sp : Space) : List (Nat × Nat) → Except (Nat × Nat) (List Place)
  | [] => .ok []
  | (a, n) :: es =>
      match checkEl s nd sp a n with
      | .error e => .error e
      | .ok p => match checkEls s nd sp es with | .error e => .error e | .ok ps => .ok (p :: ps)

def withPlaces (nd : Need) (sp : Space) (els : List (Nat × Nat)) (k : List Place → State → State) (s : State) : State :=
  match checkEls s nd sp els with
  | .error (c, a) => raiseOp c 0 a s
  | .ok ps => k ps s

/-! ## Loads (R149, R151, R154) -/

/-- What becomes of one part of a load. -/
inductive Part where
  | now (pos n v : Nat) | poison (addr : Nat) | blocked
  | home (va n pos : Nat) (fill : Bool) | remote (t off n pos : Nat) | debug (t off n pos : Nat)
  deriving DecidableEq, Repr

def runByte (runs : List (Nat × List Byte)) (a : Nat) : Option Byte :=
  match runs.find? fun r => r.1 ≤ a && a < r.1 + r.2.length with
  | some r => nth r.2 (a - r.1)
  | none => none

/-- Forwarding from the newest posted store that overlaps (R151): its bytes where it covers all of them, else wait. -/
def forward (s : State) (space a n : Nat) : Option (Option Nat) :=
  let ovl := (me s).posted.filter fun p => p.space == space &&
    (List.range n).any fun i => (runByte p.runs (a + i)).isSome
  match ovl.getLast? with
  | none => none
  | some p =>
      let bs := (List.range n).map fun i => runByte p.runs (a + i)
      if bs.all Option.isSome then some (some (ofBytes (bs.map fun b => b.getD 0))) else some none

/-- The pieces of a virtual load that go to the home, at most one aligned 16-byte unit each; the first piece of a 32-byte
line that is to be filled brings the line (R149, R245). -/
def homeParts (va n pos : Nat) (fill : Bool) : List Part :=
  (pieces 16 va n).map fun q => .home q.1 q.2 (pos + (q.1 - va)) (fill && q.1 == va)

/-- The part of a load that the L1 serves, or its pieces (R149, R154). -/
def lineParts (s : State) (va n pos : Nat) : List Part :=
  let r := resOf s va
  match l1Find s s.cur.1 (tagOf r.glob r.asid) (va / 32) with
  | some l =>
      if poisoned l.mark then [.poison (va / 64 * 64)]
      else [.now pos n (undefAt s (mySetId s) va n (l.data.toNat / 2 ^ (8 * (va % 32)) % 2 ^ (8 * n)))]
  | none => homeParts va n pos true

/-- The parts of a load of n bytes to byte pos. A load of own croft memory forwards from the stores the context has sent to
its own tenant by the remote forms (R147, R151). -/
def loadParts (s : State) (na : Bool) (p : Place) (n pos : Nat) : List Part :=
  match p with
  | .own off =>
      match forward s (myTen s + 1) off n with
      | some (some v) => [.now pos n v]
      | some none => [.blocked]
      | none =>
          match poisonIn (fun b => cmMark s (myTen s) b) off n with
          | some b => [.poison (ownBase + b)]
          | none => [.now pos n (cmGet s (myTen s) off n)]
  | .dbg t off =>
      match forward s p.space.1 off n with
      | some (some v) => [.now pos n v]
      | some none => [.blocked]
      | none => (pieces 16 off n).map fun q => .debug t q.1 q.2 (pos + (q.1 - off))
  | .rem t off =>
      match forward s p.space.1 off n with
      | some (some v) => [.now pos n v]
      | some none => [.blocked]
      | none => (pieces 16 off n).map fun q => .remote t q.1 q.2 (pos + (q.1 - off))
  | .virt va =>
      match forward s 0 va n with
      | some (some v) => [.now pos n (undefAt s (mySetId s) va n v)]
      | some none => [.blocked]
      | none =>
          if na then homeParts va n pos false
          else (pieces 32 va n).flatMap fun q => lineParts s q.1 q.2 (pos + (q.1 - va))

def partPending : Part → Bool
  | .home .. => true | .remote .. => true | .debug .. => true | _ => false
def partFill : Part → Option Nat
  | .home va _ _ true => some (va / 32) | _ => none

/-- Send the request of a part. The 16-byte parts of one load of a remote croft are packets of one key, so that they perform in ascending
order, where R245 allows any: DESIGN CHOICE, log 104. -/
def sendPart (s : State) (p : Part) : State :=
  let who := meAgent s
  match p with
  | .home va n pos fill => send s ⟨[], .home ⟨who, .load, resOf s va, va, .load n fill, none, .reply pos⟩, none⟩
  | .remote t off n pos => sendCroft s s.cur.1 s.cur.2 t 1 (.load [(off, n, pos)]) none (.reply pos)
  | .debug t off n pos => sendCroft s s.cur.1 s.cur.2 t 1 (.debugLoad off n) none (.reply pos)
  | _ => s

/-- Perform a load: wait for overlapping stores, fault on a poisoned block, finish in the turn, or leave the rotation
until the replies (R149). -/
def doLoad (na : Bool) (fin : Done) (els : List (Place × Nat × Nat)) (s : State) : State :=
  let parts := els.flatMap fun e => loadParts s na e.1 e.2.1 e.2.2
  if parts.contains .blocked then waitTurn s
  else match parts.findSome? fun p => match p with | .poison a => some a | _ => none with
    | some a => raiseOp cUE 0 a s
    | none =>
        let buf := parts.foldl (fun b p => match p with
          | .now pos n v => b ||| (v % 2 ^ (8 * n) * 2 ^ (8 * pos)) | _ => b) 0
        let pend := parts.filter partPending
        let s := if els.any (fun e => match e.1 with | .virt _ => true | _ => false) then drawStale s (mySetId s) else s
        if pend.isEmpty then retire (updRegs s (applyDone fin buf))
        else
          let a := Await.plain pend.length buf fin .keep
          let s := pend.foldl sendPart s
          awaitMe { a with fills := pend.filterMap partFill } s

/-! ## Scalar forms (R156, R157) -/

def ldBytes (z : Nat) : Nat := if z < 4 then 2 ^ z else 2 ^ (z - 4)
def scalarNeed (nd : Need) : Need := { nd with debug := true }

def execLd (h : Hdr) (o : LdO) (s : State) : Out :=
  scalar h (.g o.d :: addrRn o.a) (fun s =>
    let n := ldBytes o.size.val
    withPlaces (scalarNeed needR) o.a.space [((ea s o.a).toNat, n)] (fun ps s =>
      doLoad o.na (.g o.d.val n (4 ≤ o.size.val)) (ps.map fun p => (p, n, 0)) s) s) s

def execLdq (h : Hdr) (o : LdqO) (s : State) : Out :=
  scalar h ([.g o.d, .g (o.d + 1)] ++ addrRn o.a) (fun s =>
    withPlaces (scalarNeed needR) o.a.space [((ea s o.a).toNat, 16)] (fun ps s =>
      doLoad o.na (.pair o.d.val) (ps.map fun p => (p, 16, 0)) s) s) s

/-- A place moved on by n bytes. -/
def Place.plus : Place → Nat → Place
  | .own o, n => .own (o + n) | .rem t o, n => .rem t (o + n) | .dbg t o, n => .dbg t (o + n) | .virt v, n => .virt (v + n)
/-- The offset or address within the place's space. -/
def Place.pos (p : Place) : Nat := p.space.2

/-- The pieces of the bytes at a place, one for each 64-byte block (R150, R168). -/
def blocksOf (p : Place) (bs : List Byte) (mark : Option Mark) : List Piece :=
  (pieces 64 p.pos bs.length).map fun q =>
    ⟨p.plus (q.1 - p.pos), [(q.1, (bs.drop (q.1 - p.pos)).take q.2)], mark, none⟩

/-- The earmark a .mk store writes (R168), refused where FMT is 0xFF and the context is not privileged (R169). -/
def markOf (s : State) (em : Option GReg) : Option Mark := em.map fun r => (rdG s r).setWidth 16
def markBad (s : State) (m : Option Mark) : Bool :=
  !(me s).priv && match m with | some m => poisoned m | none => false

/-- The stores of a list of pieces: one for each block where they carry an earmark, else one (R159, R168). -/
def storesOf (mark : Option Mark) (ps : List Piece) : List (List Piece) :=
  if mark.isSome then ps.map fun p => [p] else [ps]

/-- A store to own croft memory by the own region, and one to it by a remote form. -/
def isOwn (ps : List Piece) : Bool := ps.any fun p => match p.at_ with | .own _ => true | _ => false
def isOwnRemote (t : Nat) (ps : List Piece) : Bool := ps.any fun p => p.at_.space.1 == t + 1
/-- How many of an instruction's stores may go: a store to own croft memory is applied after those of the context to its own tenant by
a remote form (R151, R161, R241); `sent`: such a store is on its way. -/
def storesNow (t : Nat) (sent : Bool) : List (List Piece) → Nat
  | [] => 0
  | p :: ps => if sent && isOwn p then 0 else storesNow t (sent || isOwnRemote t p) ps + 1
/-- Stores of the acting context to its own tenant by a remote form are on their way. -/
def ownSent (s : State) : Bool := (me s).posted.any fun q => q.space == myTen s + 1

/-- The stores of an instruction, in order, those that have gone in earlier turns apart (`sub` counts them). A store to own croft memory
behind one of the context to its own tenant by a remote form waits in the rotation for its acknowledgement (log 82). -/
def doStore (a : Nat) (mark : Option Mark) (ps : List (List Piece)) (s : State) : State :=
  let left := ps.drop (me s).sub
  let n := storesNow (myTen s) (ownSent s) left
  if markBad s mark then raiseOp cPRIV 0 a s
  else if left.isEmpty then retire s
  else if n = 0 || !postsFit s left then waitTurn s
  else if n < left.length then waitTurn (updMe (postAll s (left.take n)) fun k => { k with sub := k.sub + n })
  else retire (postAll s left)

def emRn (em : Option GReg) : List Rn := match em with | some r => [.g r] | none => []

def scalarStore (h : Hdr) (regs : List Rn) (a : Addr) (em : Option GReg) (n : Nat) (val : State → Nat) (s : State) : Out :=
  scalar h (regs ++ addrRn a ++ emRn em) (fun s =>
    let adr := (ea s a).toNat
    withPlaces (scalarNeed needW) a.space [(adr, n)] (fun ps s =>
      let m := markOf s em
      doStore adr m (ps.flatMap fun p => storesOf m (blocksOf p (toBytes n (val s)) m)) s) s) s

def execSt (h : Hdr) (o : StO) (s : State) : Out :=
  scalarStore h [.g o.d] o.a o.em (2 ^ o.size.val) (fun s => (rdG s o.d).toNat) s
def execStq (h : Hdr) (o : StqO) (s : State) : Out :=
  scalarStore h [.g o.d, .g (o.d + 1)] o.a o.em 16
    (fun s => (rdG s o.d).toNat + (rdG s (o.d + 1)).toNat * 2 ^ 64) s

/-! ## Vector forms (R158 to R161) -/

def vsizeWidth : VSize → Nat
  | .b8 => 8 | .b16 => 16 | .b32 => 32 | .b64 => 64 | .vr => 1024

/-- Active elements of a width: their indices, ascending (R12). -/
def actives (g : PWord) (w : Nat) : List Nat := (List.range (1024 / w)).filter (active g w)

/-- The bits of the destination that the elements cover. -/
def elMask (w : Nat) (is : List Nat) : VWord :=
  BitVec.ofNat 1024 (is.foldl (fun m i => m ||| ((2 ^ w - 1) * 2 ^ (w * i))) 0)

def vecLoad (na : Bool) (sp : Space) (w d : Nat) (rep : Bool) (els : List (Nat × Nat)) (s : State) : State :=
  let n := w / 8
  withPlaces needR sp (els.map fun e => (e.2, n)) (fun ps s =>
    let mask := elMask w (els.map Prod.fst)
    if rep then doLoad na (.v d mask w) ((ps.take 1).map fun p => (p, n, 0)) s
    else doLoad na (.v d mask 0) ((els.zip ps).map fun e => (e.2, n, e.1.1 * n)) s) s

/-- Runs of one block merged into one store with its earmark (R159, R168). -/
def mergeBlocks (ps : List Piece) : List Piece :=
  ps.foldl (fun acc p =>
    if acc.any fun q => q.at_.pos / 64 == p.at_.pos / 64 then
      acc.map fun q => if q.at_.pos / 64 = p.at_.pos / 64 then { q with runs := q.runs ++ p.runs } else q
    else acc ++ [p]) []

/-- The elements whose checks decide: where the earmark is refused, PRIV meets the lowest element, which alone is checked
before it (R30, R169). -/
def deciding (s : State) (m : Option Mark) (els : List (Nat × Nat)) : List (Nat × Nat) := if markBad s m then els.take 1 else els

def vecStore (sp : Space) (w : Nat) (d : VReg) (em : Option GReg) (els : List (Nat × Nat)) (s : State) : State :=
  let n := w / 8
  let m := markOf s em
  withPlaces needW sp ((deciding s m els).map fun e => (e.2, n)) (fun ps s =>
    let pieces := (els.zip ps).map fun e => blocksOf e.2 (toBytes n (elem w (rdV s d) e.1.1)) m
    doStore ((els.head?.map Prod.snd).getD 0) m (if m.isSome then storesOf m (mergeBlocks pieces.flatten) else pieces) s) s

/-- Element addresses, modulo 2^64. -/
def atStep (a : W64) (step : W64) (is : List Nat) : List (Nat × Nat) :=
  is.map fun i => (i, (a + BitVec.ofNat 64 i * step).toNat)
def strideBase (s : State) (a : Addr) : W64 := rdG s a.base + a.disp.signExtend 64

def execLdv (h : Hdr) (o : LdvO) (s : State) : Out :=
  let w := vsizeWidth o.size
  vector h w (.v o.d :: addrRn o.a) (fun s =>
    vecLoad o.na o.a.space w o.d.val false
      (atStep (ea s o.a) (BitVec.ofNat 64 (w / 8)) (actives (guardBits h s) w)) s) s
def execStv (h : Hdr) (o : StvO) (s : State) : Out :=
  let w := vsizeWidth o.size
  vector h w (.v o.d :: addrRn o.a ++ emRn o.em) (fun s =>
    vecStore o.a.space w o.d o.em
      (atStep (ea s o.a) (BitVec.ofNat 64 (w / 8)) (actives (guardBits h s) w)) s) s
def execLdvs (h : Hdr) (o : VsO) (s : State) : Out :=
  let w := vsizeWidth o.size
  vector h w (.v o.d :: addrRn o.a) (fun s =>
    let st := rdG s o.a.index <<< o.a.xs.val
    vecLoad o.na o.a.space w o.d.val (st == 0)
      (atStep (strideBase s o.a) st (actives (guardBits h s) w)) s) s
def execStvs (h : Hdr) (o : VsO) (s : State) : Out :=
  let w := vsizeWidth o.size
  vector h w (.v o.d :: addrRn o.a) (fun s =>
    vecStore o.a.space w o.d none
      (atStep (strideBase s o.a) (rdG s o.a.index <<< o.a.xs.val) (actives (guardBits h s) w)) s) s

/-- Addresses of a gather, scatter or vector atomic: base + (sext(offset) << xs) + disp (R161, R175). -/
def offsetEls (s : State) (w : Nat) (base : GReg) (x : VReg) (xs : Nat) (disp : W64) (is : List Nat) : List (Nat × Nat) :=
  is.map fun i => (i, (rdG s base + ((BitVec.ofInt 64 (toS w (elem w (rdV s x) i))) <<< xs) + disp).toNat)

def execGath (h : Hdr) (o : GsO) (s : State) : Out :=
  let w := vsizeWidth o.size
  vector h w [.v o.d, .g o.base, .v o.x] (fun s =>
    vecLoad o.na o.space w o.d.val false
      (offsetEls s w o.base o.x o.xs.val (o.disp.signExtend 64) (actives (guardBits h s) w)) s) s
def execScat (h : Hdr) (o : GsO) (s : State) : Out :=
  let w := vsizeWidth o.size
  vector h w [.v o.d, .g o.base, .v o.x] (fun s =>
    vecStore o.space w o.d none
      (offsetEls s w o.base o.x o.xs.val (o.disp.signExtend 64) (actives (guardBits h s) w)) s) s

/-! ## Earmarks (R167 to R169) -/

def blockPlace (p : Place) : Place :=
  match p with
  | .own o => .own (o / 64 * 64) | .rem t o => .rem t (o / 64 * 64) | .dbg t o => .dbg t (o / 64 * 64)
  | .virt v => .virt (v / 64 * 64)

def execSetmark (h : Hdr) (o : GAddr) (s : State) : Out :=
  scalar h (.g o.d :: addrRn o.a) (fun s =>
    let a := (ea s o.a).toNat
    withPlaces needW o.a.space [(a, 1)] (fun ps s =>
      let m : Option Mark := some ((rdG s o.d).setWidth 16)
      doStore a m (ps.map fun p => [⟨blockPlace p, [], m, none⟩]) s) s) s

/-- The earmark of a pending SETMARK or .mk store to the block, by a remote form for a block of own croft memory (R147,
R167). -/
def forwardMark (s : State) (p : Place) : Option Mark :=
  let space := match p with | .own _ => myTen s + 1 | p => p.space.1
  match ((me s).posted.filter fun q => q.space == space && q.addr / 64 == p.pos / 64 && q.mark.isSome).getLast? with
  | some q => q.mark
  | none => none

def execGetmark (h : Hdr) (o : GAddr) (s : State) : Out :=
  scalar h (.g o.d :: addrRn o.a) (fun s =>
    withPlaces needR o.a.space [((ea s o.a).toNat, 1)] (fun ps s =>
      match ps with
      | [] => retire s
      | p :: _ =>
        let line := p.pos
        let p := blockPlace p
        let fin := Done.g o.d.val 2 false
        let done (m : Mark) (s : State) : State :=
          if poisoned m then raiseOp cUE 0 p.addr s else retire (updRegs s (applyDone fin m.toNat))
        match p, forwardMark s p with
        | _, some m => done m s
        | .own off, none => done (cmMark s (myTen s) off) s
        | .virt va, none =>
            let r := resOf s va
            match l1Find s s.cur.1 (tagOf r.glob r.asid) (line / 32) with
            | some l => done l.mark s
            | none =>
                awaitMe { Await.plain 1 0 fin .keep with fills := [line / 32] }
                  (send s ⟨[], .home ⟨meAgent s, .load, r, line, .getmark, none, .reply 0⟩, none⟩)
        | .rem t off, none =>
            awaitMe (Await.plain 1 0 fin .keep) (sendCroft s s.cur.1 s.cur.2 t 1 (.getmark off) none (.reply 0))
        | .dbg _ _, none => retire s) s) s

/-! ## Hints (R170, R171) -/

def execPref (h : Hdr) (na : Bool) (a : Addr) (s : State) : Out :=
  scalar h (addrRn a) (fun s =>
    let va := (ea s a).toNat
    match placeOf a.space va with
    | some (.virt va) =>
        if rangeOk (winsOf s) (fun _ => true) va 1 then
          let r := resOf s va
          let fill := !na && (l1Find s s.cur.1 (tagOf r.glob r.asid) (va / 32)).isNone
          let s := if fill then tick s else s
          let id := if fill then some s.now else none
          let s := send s ⟨[], .home ⟨meAgent s, .load, r, va, .pref id, none, .none⟩, none⟩
          let k := myCroft s
          retire (if fill then setCroft s s.cur.1 { k with prefs := k.prefs ++ [(va / 32, s.now)] } else s)
        else retire s
    | _ => retire s) s

/-- A fetch of the line that another context has in flight is installed all the same: the manual speaks of fills in flight
for the L1 alone (R239). DESIGN CHOICE, log 58. The address is taken as the line's number whatever it names, a croft address too, which
the manual leaves open: DESIGN CHOICE, log 83. -/
def execInvl (h : Hdr) (i : Bool) (a : Addr) (s : State) : Out :=
  scalar h (addrRn a) (fun s =>
    let va := (ea s a).toNat
    let k := myCroft s
    retire (setCroft s s.cur.1
      (if i then { k with icache := k.icache.filter fun l => l.la != va / 64 }
       else { k with l1 := k.l1.filter fun l => l.la != va / 32 }))) s

/-! ## Fences (R172 to R174) -/

def execFence (h : Hdr) (k : FenceKind) (sc : Scope) (s : State) : Out :=
  scalar h [] (fun s =>
    if k != .acq && (me s).busy then waitTurn s
    else retire (if k = .rel then s else acquire sc s)) s

def execDrain (h : Hdr) (m : Fin 8) (s : State) : Out :=
  scalar h [] (fun s =>
    if [1, 2, 3].any fun k => m.val.testBit (k - 1) && countOf k (me s) != 0 then waitTurn s else retire s) s

end Sys2Proof.Machine
end

