-- ==== Sys2Proof/Machine/Wake.lean ====
section
/-! DEFINITION. Continuation records, frames, eviction, the wake table, the continuation queue, and service of a parked
continuation (R187, R194, R227 to R230, R280). -/

namespace Sys2Proof.Machine

/-! ## Lines by physical address (R233, R285): the home bank's copy where a bank holds the line, else memory -/

def linePa (pa : Nat) : Nat := pa / 64 * 64
def bankOfPa (s : State) (pa : Nat) : Option Nat :=
  (s.banks.find? fun e => e.2.lines.any fun l => l.pa == linePa pa).map Prod.fst
def lineByPa (s : State) (pa : Nat) : Option Line :=
  s.banks.findSome? fun e => e.2.lines.find? fun l => l.pa == linePa pa
def memLine (s : State) (pa : Nat) : LineWord := BitVec.ofNat 512 (memGet s (linePa pa) 64)
def physLine (s : State) (pa : Nat) : LineWord × Mark :=
  match lineByPa s pa with
  | some l => (l.data, l.mark)
  | none => (memLine s pa, sread 0 s.marks (pa / 64))
def physPutLine (s : State) (pa : Nat) (x : LineWord) (m : Mark) : State :=
  let put (l : Line) : Line := if l.pa = linePa pa then { l with data := x, mark := m, dirty := true } else l
  match bankOfPa s pa with
  | some b => updBank s b fun k => { k with lines := k.lines.map put }
  | none => { memPut s (linePa pa) 64 x.toNat with marks := swrite 0 s.marks (pa / 64) m }

/-! ## CRC-64/XZ (R229) -/

def crcBit : Nat → Nat → Nat
  | 0, c => c
  | n + 1, c => crcBit n (if c % 2 = 1 then (c / 2) ^^^ 0xC96C5795D7870F42 else c / 2)
def crc64 (bs : List Byte) : Nat :=
  (bs.foldl (fun c b => crcBit 8 (c ^^^ b.toNat)) (2 ^ 64 - 1)) ^^^ (2 ^ 64 - 1)

/-! ## Records and frames (R229, R230) -/

def Wake.code : Wake → Nat
  | .ready => 0 | .bin => 1 | .feFull => 2 | .feEmpty => 3 | .crib => 4 | .barrier => 5 | .chan => 6 | .chanSpace => 7
  | .resume => 8 | .resident => 9 | .kick => 10
def wakeOfCode (n : Nat) : Wake :=
  match n with
  | 1 => .bin | 2 => .feFull | 3 => .feEmpty | 4 => .crib | 5 => .barrier | 6 => .chan | 7 => .chanSpace | 8 => .resume
  | 9 => .resident | 10 => .kick | _ => .ready

/-- The 64 bytes of a record. -/
def recordOf (slot : Nat) (priv rx sown : Bool) (kind : Wake) (param count frame ten pop : Nat) (bud : BitVec 14)
    (layout aborts name : Nat) (rseq : W64) : List Byte :=
  let ws := [slot % 2 ^ 57 + priv.toNat * 2 ^ 57 + rx.toNat * 2 ^ 58 + sown.toNat * 2 ^ 59, kind.code + param * 2 ^ 8,
    count, frame % 2 ^ 57, ten + pop % 2 ^ 24 * 2 ^ 24 + bud.toNat * 2 ^ 48,
    layout + Nat.min aborts 0xFFFF * 2 ^ 16 + name * 2 ^ 32, rseq.toNat]
  let bs := ws.flatMap (toBytes 8)
  bs ++ toBytes 8 (crc64 bs)

/-- Unwaited arrivals as the 80 bits of a frame (R191, R230). -/
def arrivalBits (as : List (Nat × Nat × Nat)) : Nat := as.foldl (fun m a => m ||| 2 ^ ((a.1 - 2) * 16 + a.2.1)) 0

/-- Write what R23 names into a frame. -/
def writeFrame (s : State) (pa : Nat) (b : BitVec 14) (r : Regs) (arr : Nat) : State :=
  let s := memPut s pa 8 r.fpcsr.toNat
  let s := (List.finRange 8).foldl (fun s (i : Fin 8) => memPut s (pa + 8 + 4 * i.val) 4 r.b[i].toNat) s
  let s := memPut s (pa + 48) 10 arr
  let s := (List.finRange 8).foldl (fun s (j : Fin 8) => if j = 0 then s else memPut s (pa + 64 + 16 * (j.val - 1)) 16 r.p[j].toNat) s
  let s := (List.finRange 64).foldl (fun s (i : Fin 64) =>
    if i != 0 && gAdmitted b i.val then memPut s (pa + 256 + 8 * i.val) 8 r.g[i].toNat else s) s
  (List.finRange 32).foldl (fun s (j : Fin 32) => if vAdmitted b j.val then memPut s (pa + 768 + 128 * j.val) 128 r.v[j].toNat else s) s

/-- Read it back; every other register is zero (DESIGN CHOICE, log 8: R229 restores only the frame's state). -/
def readFrame (s : State) (pa : Nat) (b : BitVec 14) : Regs :=
  { g := Vector.ofFn fun i : Fin 64 =>
      if i != 0 && gAdmitted b i.val then BitVec.ofNat 64 (memGet s (pa + 256 + 8 * i.val) 8) else 0
    v := Vector.ofFn fun j : Fin 32 =>
      if vAdmitted b j.val then BitVec.ofNat 1024 (memGet s (pa + 768 + 128 * j.val) 128) else 0
    p := Vector.ofFn fun j : Fin 8 => if j = 0 then 0 else BitVec.ofNat 128 (memGet s (pa + 64 + 16 * (j.val - 1)) 16)
    b := Vector.ofFn fun i : Fin 8 => BitVec.ofNat 32 (memGet s (pa + 8 + 4 * i.val) 4)
    fpcsr := BitVec.ofNat 64 (memGet s pa 8) &&& maskFpcsr }

/-! ## Cribs (R279, R280) -/

/-- The physical address of record i of a loft. -/
def loftPa (k : Crib) (i : Nat) : Nat := (nth k.pas i).getD 0

def slotAt (s : State) (t k : Nat) : Slot := sread Slot.empty (tenAt s t).slots k
def updSlot (s : State) (t k : Nat) (f : Slot → Slot) : State :=
  updTen s t fun x => { x with slots := sset x.slots k (f (sread Slot.empty x.slots k)) }

/-- Append a record to Q or the loft; none where the crib is full (R280). No waiter is listed. -/
def cribPush (s : State) (c : Nat) (r : BitVec 512) : Option State :=
  let k := cribAt s c
  if k.held = 0 && k.q.length < Config.cribOnChip then some (setCrib s c { k with q := k.q ++ [r] })
  else if k.held < k.size then
    let i := (k.head + k.held) % k.size
    let pa := loftPa k i
    some (physPutLine (setCrib s c { k with held := k.held + 1 }) pa r (physLine s pa).2)
  else none

/-- Take the Q head; the loft's head moves to Q's tail (R280). -/
def cribPop (s : State) (c : Nat) : Option (BitVec 512 × State) :=
  let k := cribAt s c
  match k.q with
  | [] => none
  | r :: q =>
      if k.held = 0 then some (r, setCrib s c { k with q := q })
      else
        let x := (physLine s (loftPa k k.head)).1
        some (r, setCrib s c { k with q := q ++ [x], head := (k.head + 1) % k.size, held := k.held - 1 })

/-! ## The continuation queue and service (R165, R187, R194, R228) -/

/-- The wake table's test of a watched record (R228, R229). -/
def evictedHolds (s : State) (t name : Nat) (p : Park) : Bool :=
  match p.kind with
  | .ready => true
  | .bin => p.count ≤ memGet s (framePa s t name + 8 + 4 * p.param) 4
  | _ => p.served

/-- The bits of a register that the higher slot of the pair wrote keep their value (R34). -/
def keepReg (keep : Option (Nat × Nat)) (old new : Regs) : Regs :=
  match keep with
  | none => new
  | some (n, m) =>
      let mix (w : Nat) (o x : BitVec w) : BitVec w := (o &&& BitVec.ofNat w m) ||| (x &&& ~~~(BitVec.ofNat w m))
      if h : n < 64 then putG new ⟨n, h⟩ (mix 64 (getG old ⟨n, h⟩) (getG new ⟨n, h⟩))
      else if h : n - 64 < 32 then putV new ⟨n - 64, h⟩ (mix 1024 (getV old ⟨n - 64, h⟩) (getV new ⟨n - 64, h⟩))
      else if h : n - 96 < 8 then putP new ⟨n - 96, h⟩ (mix 128 (getP old ⟨n - 96, h⟩) (getP new ⟨n - 96, h⟩))
      else new

/-- The same of a register's value in a frame, by specifier. -/
def keepBits (keep : Option (Nat × Nat)) (spec old new : Nat) : Nat :=
  match keep with
  | some (n, m) => if n = spec then (old &&& m) ||| (new ^^^ (new &&& m)) else new
  | none => new

/-- The park condition of a continuation, live or evicted. -/
def parkOf (s : State) (t name : Nat) : Option Park :=
  match findName s t name with
  | some (c, i) => if (ctxAt s c i).mode = .parked then (ctxAt s c i).park else none
  | none => (slotAt s t name).evicted

/-- The occupancy an agent names still lives, on a context or evicted (R381). -/
def agentLives (s : State) (a : Agent) : Bool :=
  match findName s a.ten a.name with
  | some (c, i) => (ctxAt s c i).epoch == a.epoch
  | none => let k := slotAt s a.ten a.name; k.taken && k.evicted.isSome && k.epoch == a.epoch

/-- The continuation is parked by the access the agent names. -/
def parkedBy (s : State) (a : Agent) : Bool :=
  agentLives s a && (parkOf s a.ten a.name).any fun p => p.acc == a.acc && !p.served

/-- A parked continuation is served: its destination takes the value, in the live registers or in the frame, unless its word
lies in a poisoned block (R154, R165). -/
def putServed (s : State) (t name val : Nat) (vec : Bool) (ue : Option Nat) : State :=
  let served (p : Park) : Park := { p with served := true, ue := ue }
  match findName s t name with
  | some (c, i) =>
      updCtx s c i fun k => match k.park with
        | some p =>
            let new := if vec then putVn k.regs p.d val (BitVec.allOnes 1024) else putGn k.regs p.d val
            { k with regs := if ue.isSome then k.regs else keepReg p.owe.keep k.regs new, park := some (served p) }
        | none => k
  | none =>
      match (slotAt s t name).evicted with
      | some p =>
          let pa := framePa s t name
          let b := BitVec.ofNat 14 (memGet s (recordPa s t name + 32) 8 / 2 ^ 48)
          let at_ := if vec then pa + 768 + 128 * p.d else pa + 256 + 8 * p.d
          let n := if vec then 128 else 8
          let spec := if vec then 64 + p.d else p.d
          let ok : Bool := ue.isNone && (if vec then vAdmitted b p.d else p.d != 0 && gAdmitted b p.d)
          let s := if ok then memPut s at_ n (keepBits p.owe.keep spec (memGet s at_ n) val) else s
          updSlot s t name fun x => { x with evicted := some (served p) }
      | none => s

/-- Append a record to the continuation queue of tenant t; a CRTAKE that waits at its crib takes it (R194, R228, R280). -/
def pushRecord (s : State) (t : Nat) (r : BitVec 512) : State :=
  let later (s : State) : State := updTen s t fun x => { x with backlog := x.backlog ++ [r] }
  match (tenAt s t).contq with
  | none => later s
  | some c =>
      match (cribAt s c).waiters with
      | w :: ws => send (setCrib s c { cribAt s c with waiters := ws }) ⟨[], .reply w
          ⟨0, 65, r.toNat + 2 ^ 512, none, none, none, false, false, 0⟩, homeCell w c⟩
      | [] =>
          if (tenAt s t).backlog != [] then later s
          else match cribPush s c r with | some s => s | none => later s

/-- The 64 bytes of an evicted continuation's record join the tenant's continuation queue, once. While the tenant moves, the
record waits in the wake table until the move is over (R371). -/
def enqueue (s : State) (t name : Nat) : State :=
  if (slotAt s t name).queued || (tenAt s t).move != .settled then s
  else pushRecord (updSlot s t name fun x => { x with queued := true }) t
    (BitVec.ofNat 512 (memGet s (recordPa s t name) 64))

/-- The oldest record of the continuation queue. -/
def dequeue (s : State) (t : Nat) : Option (BitVec 512 × State) :=
  let refill (s : State) : State :=
    match (tenAt s t).contq, (tenAt s t).backlog with
    | some c, r :: rs => match cribPush s c r with
        | some s => updTen s t fun x => { x with backlog := rs }
        | none => s
    | _, _ => s
  match (tenAt s t).contq with
  | some c => match cribPop s c with
      | some (r, s) => some (r, refill s)
      | none => match (tenAt s t).backlog with
          | r :: rs => some (r, updTen s t fun x => { x with backlog := rs })
          | [] => none
  | none => match (tenAt s t).backlog with
      | r :: rs => some (r, updTen s t fun x => { x with backlog := rs })
      | [] => none
def hasRecord (s : State) (t : Nat) : Bool := (dequeue s t).isSome

def testEvicted (s : State) (t name : Nat) : State :=
  match (slotAt s t name).evicted with
  | some p => if evictedHolds s t name p then enqueue s t name else s
  | none => s
/-- The records whose conditions were met while the tenant moved join the queue (R371). -/
def testAll (s : State) (t : Nat) : State := (List.range 64).foldl (fun s k => testEvicted s t k) s

/-- Count a landing in a target's bin and test its wake condition (R187, R228, R230). -/
def landBin (s : State) (t : Target) (ab : Bool) : State := testEvicted (countBin s t ab) t.ten t.name

/-- Serve a parked continuation by name. -/
def serveName (s : State) (t name val : Nat) (vec : Bool) : State := testEvicted (putServed s t name val vec none) t name
/-- Serve the continuation that an access parked (R165, R194, R196). -/
def serveAgent (s : State) (a : Agent) (val : Nat) (vec : Bool) (ue : Option Nat) : State :=
  if parkedBy s a then testEvicted (putServed s a.ten a.name val vec ue) a.ten a.name else s

/-- Evict a parked hand: record, frame, wake table (R228). -/
def evict (s : State) (c i : Nat) : State :=
  let k := ctxAt s c i
  let t := (croftAt s c).tenant.getD 0
  let p := k.park.getD (Park.plain .ready 0 0 0 0 false 0)
  let rx := p.kind == .resident
  let pa := framePa s t k.name
  let rec_ := recordOf (if rx then k.runStart else k.pc) k.priv rx false p.kind p.param p.count pa t k.pop k.budget
    s.mgmt.wlayout k.aborts k.name k.runseq
  let s := writeFrame s pa k.budget k.regs (arrivalBits k.arrivals)
  let s := { s with mem := storeBytes s.mem (recordPa s t k.name) rec_ }
  let s := updSlot s t k.name fun x =>
    { x with
    evicted := some p, queued := false, arrivals := k.arrivals, hires := k.hires, epoch := k.epoch, frz := k.frz
    sealed_ := k.stage == .sealed }
  let s := updCtx s c i fun _ => Context.empty
  testEvicted s t k.name

end Sys2Proof.Machine
end

