-- ==== Sys2Proof/Machine/FullEmpty.lean ====
section
/-! DEFINITION. Full/empty words, the wain mailbox and the croft job ring: LDFE, STFE, FESTAT, WKICK, GLEAN and
REMOTE_FE_REQUEST (R162 to R166, R208, R209, R268). -/

namespace Sys2Proof.Machine

/-! ## Service at the owner croft (R163, R165) -/

def summaryOff : Nat := 0xFF80
def mailboxOff (c : Nat) : Nat := 0xFF00 + 8 * c
def ringOff (e : Nat) : Nat := 0xFC00 + 32 * e

/-- The condition of an FE operation (R163). -/
def feReady (op : FeOp) (full : Bool) : Bool :=
  match op with | .ldfe => full | .keep => full | .stfe => !full | .kick => !full | .force => true

/-- Write a word and mark it full. -/
def feFill (s : State) (t off : Nat) (x : W64) : State := cmSetFull (cmPut s t off (toBytes 8 x.toNat)) t off true

/-- Empty a word: the summary word's data becomes zero (R209), and a ring entry is freed with its w0 (R268). -/
def feEmpty (s : State) (t off : Nat) : State :=
  let s := cmSetFull s t off false
  let s := if off = summaryOff then cmPut s t off (toBytes 8 0) else s
  if off < 0xFC00 || 0xFE00 ≤ off then s else
  -- the wain takes a re-fetch job: a glean with no completion (R268, R363)
  let again := cmGet s t off 8 % 16 == 2 && cmGet s t (off + 16) 8 == 0
  updTen s t fun k => { k with ring := k.ring.filter fun e => ringOff e != off, refetching := again && 0 < k.refetch }

/-- A re-fetch job is over when its wain asks for its next word: the LDFE sealed the job's stores (R269, R363). -/
def endRefetch (s : State) (t : Nat) : State :=
  updTen s t fun k => if k.refetching then { k with refetch := k.refetch - 1, refetching := false } else k

/-- The transition of one operation whose condition holds, and the word it read. -/
def feStep (s : State) (t off : Nat) (op : FeOp) (x : W64) : State × Nat :=
  let v := cmGet s t off 8
  match op with
  | .keep => (s, v)
  | .ldfe => (feEmpty s t off, v)
  | .stfe => (feFill s t off x, v)
  | .force => (feFill s t off x, v)
  | .kick => (feFill s t off x, v)

/-- Two requests are one access of one occupancy. -/
def sameAccess (a b : Agent) : Bool := a.ten == b.ten && a.name == b.name && a.epoch == b.epoch && a.acc == b.acc

/-- The poisoned block that an operation meets: LDFE reads the block it names, whatever the word's state (R154; log 24). -/
def fePoison (s : State) (t off : Nat) (op : FeOp) : Option Nat :=
  if op = .ldfe || op = .keep then poisonIn (fun b => cmMark s t b) off 8 else none

/-- The block of a word of tenant t, as remote replies name it. -/
def feBlock (t off : Nat) : Nat := remBase + t * 2 ^ 16 + off / 64 * 64
/-- A word whose packet met an error on a link is written into a marked block (R383). -/
def feSpoil (s : State) (t off : Nat) (op : FeOp) (bad : Bool) : State :=
  if bad && op != .ldfe && op != .keep then cmSpoil s t off 8 else s

/-- Answer a waiter with the word, or with the poisoned block it lies in. -/
def feAnswer (s : State) (t : Nat) (w : FeWaiter) (v : Nat) (bad : Option Nat) : State :=
  let off := w.off
  if w.remote then
    send s ⟨[], .reply w.who ⟨0, 8, v, bad.map fun b => remBase + t * 2 ^ 16 + b, none, none, false, false, feBlock t off⟩, some (tenAt s t).core⟩
  else serveAgent s w.who v false (bad.map fun b => ownBase + b)

/-- The waiter that the word's state serves next: every LDFE.keep, then the earliest LDFE; else the earliest STFE. An own
operation that has met the word and is not parked yet performs by itself, and those after it wait for it; a refused remote
one keeps its place only (R165; log 59). -/
def feNext (ws : List FeWaiter) (off : Nat) (full : Bool) : Option FeWaiter :=
  let here := ws.filter fun w => w.off == off && w.stand != .refused
  let listed (w : FeWaiter) : Option FeWaiter := if w.stand = .listed then some w else none
  if full then
    match here.find? fun w => w.op == .keep && w.stand == .listed with
    | some w => some w
    | none =>
        if here.any fun w => w.op == .keep then none
        else (here.find? fun w => w.op == .ldfe) >>= listed
  else (here.find? fun w => w.op == .stfe || w.op == .kick) >>= listed

/-- An operation that meets its word may perform: its condition holds, and no own operation that met the word before it and
wants the same state is about to (R165). -/
def feMay (s : State) (t off : Nat) (op : FeOp) (who : Agent) : Bool :=
  let before := (tenAt s t).waiters.takeWhile fun w => !(w.off == off && sameAccess w.who who)
  let rival (w : FeWaiter) : Bool := w.off == off && w.stand == .pending &&
    (match op with
      | .ldfe => w.op == .ldfe || w.op == .keep | .stfe => w.op == .stfe || w.op == .kick
      | .kick => w.op == .stfe || w.op == .kick | _ => false)
  feReady op (cmFull s t off) && !before.any rival

/-- A request takes its place among the waiters of its word, where it first met the word (R165). -/
def feJoin (s : State) (t : Nat) (w : FeWaiter) : State :=
  updTen s t fun k =>
    if k.waiters.any fun x => x.off == w.off && sameAccess x.who w.who then
      { k with waiters := k.waiters.map fun x => if x.off = w.off && sameAccess x.who w.who then w else x }
    else { k with waiters := k.waiters ++ [w] }
/-- A request leaves the list. -/
def feLeave (s : State) (t : Nat) (who : Agent) : State :=
  if (tenAt s t).waiters.any fun x => sameAccess x.who who then
    updTen s t fun k => { k with waiters := k.waiters.filter fun x => !sameAccess x.who who }
  else s

/-- Serve the waiters of a word until none can be served; a kick served here also joins `kicks` (R165, R209). -/
def feServe : Nat → State → Nat → Nat → List Nat → State × List Nat
  | 0, s, _, _, kicks => (s, kicks)
  | n + 1, s, t, off, kicks =>
      match feNext (tenAt s t).waiters off (cmFull s t off) with
      | none => (s, kicks)
      | some w =>
          let s := updTen s t fun k => { k with waiters := k.waiters.erase w }
          match fePoison s t off w.op with
          | some b => feServe n (feAnswer s t w 0 (some b)) t off kicks
          | none =>
              let (s, v) := feStep (feSpoil s t off w.op w.bad) t off w.op w.data
              feServe n (feAnswer s t w v none) t off (if w.op = .kick then kicks ++ [(off - 0xFF00) / 8] else kicks)

def serveWord (s : State) (t off : Nat) : State × List Nat := feServe ((tenAt s t).waiters.length + 1) s t off []

/-- OR bits into the summary word and set it full, serving a wain parked there (R209, R256). -/
def kickSummary (s : State) (t : Nat) (bits : List Nat) : State :=
  if bits.isEmpty then s else
  let x := bits.foldl (fun m b => m ||| 2 ^ b) (cmGet s t summaryOff 8)
  (serveWord (feFill s t summaryOff (BitVec.ofNat 64 x)) t summaryOff).1

/-- One FE operation performs at the owner croft, in one step: the word, its waiters, and the summary (R163, R165). -/
def fePerform (s : State) (t off : Nat) (op : FeOp) (x : W64) : State × Nat :=
  let (s, v) := feStep s t off op x
  let (s, kicks) := if op = .keep then (s, []) else serveWord s t off
  (kickSummary s t ((if op = .kick then [(off - 0xFF00) / 8] else []) ++ kicks), v)

/-! ## Own and remote operations -/

def needCroft : Need := ⟨fun _ => true, false, false⟩

/-- The place of an 8-byte FE word, or ALIGN, then PERM (R30, R162). -/
def withWord (a : W64) (sp : Space) (k : Place → State → State) (s : State) : State :=
  let n := a.toNat
  if n % 8 != 0 then raiseOp cALIGN 0 ((placeOf sp n).elim n Place.addr) s
  else match checkEl s needCroft sp n 8 with
    | .error (c, x) => raiseOp c 0 x s
    | .ok p => k p s

/-- The scope that holds two crofts is field or wider (R166). -/
def wideScope (c o : Nat) : Bool := quadOf c != quadOf o

/-- Perform an own croft operation and pass on, or park on the word. sealed: the run has sealed, and a fault belongs to the
run that begins with the operation (R163, R165, R226). -/
def feOwn (off : Nat) (op : FeOp) (x : W64) (d : Nat) (kind : Wake) (sealed : Bool) (s : State) : State :=
  let t := myTen s
  let who := meAgent s
  let s := if op = .ldfe && s.cur.2 = 15 then endRefetch s t else s
  match fePoison s t off op with
  | some b => (if sealed then raiseSealed else raiseOp) cUE 0 (ownBase + b) (feLeave s t who)
  | none =>
      if feMay s t off op who then
        let (s, v) := fePerform (feLeave s t who) t off op x
        let s := if op = .ldfe || op = .keep then updRegs s fun r => putGn r d v else s
        if sealed then retireRunNext s else retire s
      else
        let w (st : FeStand) : FeWaiter := ⟨off, op, x, who, false, st, false⟩
        if (me s).busy then waitTurn (feJoin s t (w .pending))
        else parkMe kind 0 (ownBase + off) d 0 (feJoin s t (w .listed))

/-- Send an FE operation to its owner croft and await the reply (R149, R164). -/
def feRemote (t off : Nat) (op : FeOp) (x : W64) (fin : Done) (kind : Wake) (acq : Bool) (s : State) : State :=
  let rq : CroftOp := .fe op off x
  let a := Await.plain 1 0 fin .begin
  awaitMe { a with acq := acq, again := some (t, rq), wake := (kind, 0, remBase + t * 2 ^ 16 + off) }
    (sendCroft s s.cur.1 s.cur.2 t 1 rq none (.reply 0))

/-- An own LDFE.keep that finds its word empty takes its place among the waiters when it parks, not while it waits for its seal: the
manual does not say when it first meets the word (R165). DESIGN CHOICE, log 59. -/
def execLdfe (h : Hdr) (keep : Bool) (o : GAddr) (s : State) : Out :=
  scalar h (.g o.d :: addrRn o.a) (withWord (ea s o.a) o.a.space fun p s =>
    let op := if keep then FeOp.keep else .ldfe
    match p with
    | .rem t off =>
        sealThen false (feRemote t off op 0 (.g o.d.val 8 false) .feFull (wideScope s.cur.1 (tenAt s t).core)) s
    | p =>
        if keep && (me s).stage == .open && feMay s (myTen s) p.pos op (meAgent s) then feOwn p.pos op 0 o.d.val .feFull false s
        else sealThen keep (feOwn p.pos op 0 o.d.val .feFull true) s) s

def execStfe (h : Hdr) (force : Bool) (o : GAddr) (s : State) : Out :=
  scalar h (.g o.d :: addrRn o.a) (withWord (ea s o.a) o.a.space fun p s =>
    let op := if force then FeOp.force else .stfe
    sealThen true (match p with
      | .rem t off => feRemote t off op (rdG s o.d) .none .feEmpty false
      | p => feOwn p.pos op (rdG s o.d) 0 .feEmpty true) s) s

/-- The FE bits of a 64-byte block (R163). -/
def feBits (s : State) (t off : Nat) : Nat :=
  (List.range 8).foldl (fun m j => if cmFull s t (off / 64 * 64 + 8 * j) then m + 2 ^ j else m) 0

/-- FESTAT is an FE operation that reads its block, so a poisoned block faults it (R52, R154, R163; log 24). -/
def execFestat (h : Hdr) (o : GAddr) (s : State) : Out :=
  scalar h (.g o.d :: addrRn o.a) (fun s =>
    withPlaces needCroft o.a.space [((ea s o.a).toNat, 1)] (fun ps s =>
      match ps with
      | .rem t off :: _ =>
          awaitMe (Await.plain 1 0 (.g o.d.val 8 false) .keep)
            (sendCroft s s.cur.1 s.cur.2 t 1 (.festat off) none (.reply 0))
      | p :: _ => match poisonIn (fun b => cmMark s (myTen s) b) p.pos 1 with
          | some b => raiseOp cUE 0 (ownBase + b) s
          | none => retire (updRegs s fun r => putGn r o.d.val (feBits s (myTen s) p.pos))
      | [] => retire s) s) s

/-! ## The wain (R208, R209) -/

/-- WKICK names its mailbox word by an own-croft address; the same word by its address in the remote croft region of its own tenant, which
R209 does not settle, faults PERM: DESIGN CHOICE, log 102. -/
def execWkick (h : Hdr) (d base : GReg) (disp : BitVec 39) (own : Bool) (s : State) : Out :=
  let ad := rdG s base + disp.signExtend 64
  let sp := if own then Space.own else .virt
  scalar h [.g d, .g base] (withWord ad sp fun p s =>
    let x : W64 := BitVec.ofNat 64 ((rdG s d).toNat % 2 ^ 16 + (me s).name * 2 ^ 16)
    if p = .own (mailboxOff s.cur.2) then sealThen true (feOwn p.pos .kick x 0 .kick true) s
    else raiseOp cPERM 0 p.addr s) s

/-- The lowest free entry of the croft job ring (R268). -/
def freeRing (s : State) (t : Nat) : Option Nat := (List.range Config.ringEntries).find? fun e => !(tenAt s t).ring.contains e

/-- Write a ring entry: w1 to w3, then w0 full and bit 15 of the summary (R256, R268). -/
def ringReady (s : State) (t e : Nat) (w0 : Nat) : State :=
  let (s, _) := serveWord (feFill s t (ringOff e) (BitVec.ofNat 64 w0)) t (ringOff e)
  kickSummary s t [15]
def gleanOff (e : Nat) : Nat := 0xFE00 + 32 * e

/-- The gleaning entries that hold rows (R268). -/
def gleaning (s : State) (t : Nat) : List Nat := (List.range 8).filter fun e => cmGet s t (gleanOff e + 20) 2 != 0
/-- The job ring has room for a re-fetch of each gleaning entry (R268). The manual does not say what a restore does when it has none; the
record's take waits until there is: DESIGN CHOICE, log 84. -/
def gleanRoom (s : State) (t : Nat) : Bool := (gleaning s t).length + (tenAt s t).ring.length ≤ Config.ringEntries

/-- At a restore, a glean entry with no completion for each gleaning entry that holds rows (R268); the number placed. -/
def placeGleans (s : State) (t : Nat) : State × Nat :=
  (gleaning s t).foldl (fun a e =>
    match freeRing a.1 t with
    | none => a
    | some r =>
        let s := cmPut a.1 t (ringOff r + 8) (toBytes 24 (gleanOff e))
        let s := updTen s t fun k => { k with ring := k.ring ++ [r] }
        (ringReady s t r 2, a.2 + 1)) (s, 0)

/-- GLEAN is no seal point (R185's table), and begins its job with a release of the requester's stores (R249): it waits in the rotation
until the counts are zero, as STC does (DEDUCED, log 60). A poisoned descriptor faults UE (R384; log 24). -/
def execGlean (h : Hdr) (e : Fin 8) (a : GReg) (bin : BReg) (s : State) : Out :=
  scalar h [.g a] (fun s =>
    let t := myTen s
    let off := (rdG s a).toNat % 2 ^ 16
    if off % 8 != 0 then raiseOp cALIGN 0 (ownBase + off) s
    else if 0x10000 < off + 32 then raiseOp cPERM 0 (ownBase + off) s
    else match poisonIn (fun b => cmMark s t b) off 32 with
    | some b => raiseOp cUE 0 (ownBase + b) s
    | none => match (if (me s).busy then none else freeRing s t) with
      | none => waitTurn s
      | some r =>
          let s := cmPut s t (gleanOff e.val) (toBytes 32 (cmGet s t off 32))
          let s := cmPut s t (ringOff r + 8) (toBytes 24 (gleanOff e.val + (off + 32) * 2 ^ 64))
          let s := updTen s t fun k => { k with ring := k.ring ++ [r] }
          retire (ringReady s t r (2 + bin.val * 2 ^ 8 + (me s).name * 2 ^ 16))) s

/-! ## REMOTE_FE_REQUEST (R163, R164, R237) -/

/-- A packet for a tenant, which has its croft for the life of its set, is delivered while it is settled, and old-epoch packets alone
while it drains (R148, R352, R360). -/
def croftReady (s : State) (t epoch : Nat) : Bool :=
  (s.tenants.any fun e => e.1 == t) && match (tenAt s t).move with
  | .settled => true
  | .draining => epoch < (tenAt s t).epoch
  | _ => false

/-- The n-th packet, if it may arrive now. -/
def arriving (s : State) (n : Nat) : Option Msg :=
  match deliverable s n with
  | some (.croft t e w op b a x) => if croftReady s t e then some (.croft t e w op b a x) else none
  | m => m

def okReply (pos n v : Nat) : Reply := ⟨pos, n, v, none, none, none, false, false, 0⟩
def parkRoom (s : State) (t : Nat) : Bool :=
  ((tenAt s t).waiters.filter fun w => w.remote && w.stand == .listed).length + (tenAt s t).senders.length < Config.parkListMax

def execRemoteFeRequest (s : State) : Out :=
  .next <| match arriving s (argN s 0) with
    | some (.croft t _ who (.fe op off x) _ _ link) =>
        let s := drop s (argN s 0)
        let reply (r : Reply) (s : State) : State := send s ⟨[], .reply who r, some (tenAt s t).core⟩
        match fePoison s t off op with
        | some b => reply { okReply 0 8 0 with poison := some (remBase + t * 2 ^ 16 + b) } (feLeave s t who)
        | none =>
            let w (st : FeStand) : FeWaiter := ⟨off, op, x, who, true, st, link⟩
            if feMay s t off op who then
              let (s, v) := fePerform (feSpoil (feLeave s t who) t off op link) t off op x
              reply { okReply 0 8 v with blk := feBlock t off } s
            else if parkRoom s t then reply { okReply 0 8 0 with listed := true } (feJoin s t (w .listed))
            else reply { okReply 0 8 0 with refused := true } (feJoin s t (w .refused))
    | _ => s

end Sys2Proof.Machine
end

