-- ==== Sys2Proof/Machine/Atomics.lean ====
section
/-! DEFINITION. Atomics at issue: ops 0x38 to 0x3B (R175 to R183), and what each computes (R177). -/

namespace Sys2Proof.Machine

/-! ## What an atomic computes (R59, R176, R177) -/

/-- An integer operation on w bits. -/
def aopVal (o : AOp) (w old x : Nat) : Nat :=
  match o with
  | .add => (old + x) % 2 ^ w
  | .and => old &&& x
  | .or => old ||| x
  | .xor => old ^^^ x
  | .min => if toS w old ≤ toS w x then old else x
  | .max => if toS w x ≤ toS w old then old else x
  | .minn => Nat.min old x
  | .maxn => Nat.max old x
  | .xchg => x

def fsType : FSize → ElemType
  | .bf => .bf | .f => .f | .bf2 => .bf2 | .d => .d | .f2 => .f2

/-- The barn unit's arithmetic: nearest-even, no flushing (R59). -/
def fopVal (o : FOp) (z : FSize) (old x : Nat) : Nat :=
  let op (F : Fmt) (a b _ : Nat) : Nat × Nat := match o with
    | .fadd => addF F rne a b
    | .fmin => minmaxF F false false a b
    | .fmax => minmaxF F false true a b
  (floatOp (fsType z) op old x 0).1

/-- The value after an atomic of n bytes; e is the value CAS and CAS2 expect. -/
def atomVal (f : AtomF) (n old x e : Nat) : Nat :=
  match f with
  | .int o => aopVal o (8 * n) old (x % 2 ^ (8 * n))
  | .flt o z => fopVal o z old (x % 2 ^ (8 * n))
  | .cas => if old = e % 2 ^ (8 * n) then x % 2 ^ (8 * n) else old

/-! ## Issue -/

def needRW : Need := ⟨Window.rw, false, true⟩

/-- ALIGN, then PERM, for each element in ascending order (R30, R147, R176). -/
def atomFault (s : State) (n : Nat) : List Nat → Option (Nat × Nat)
  | [] => none
  | a :: as =>
      if a % n != 0 then some (cALIGN, a)
      else match checkEl s needRW .virt a n with
        | .ok (.virt _) => atomFault s n as
        | .ok p => some (cPERM, p.addr)
        | .error e => some e

def ordRel : Ord → Bool | .rel _ => true | .ar _ => true | _ => false
def ordAcq : Ord → Option Scope | .acq s => some s | .ar s => some s | _ => none
def wideAcq (o : Ord) : Bool :=
  match ordAcq o with | some .field => true | some .die => true | some .pkg => true | some .pod => true | _ => false

/-- Hold no-return atomics (R179); a run that holds too many seals first. -/
def holdAtoms (hs : List Held) (s : State) : State :=
  let put (s : State) : State := retire (updMe s fun k => { k with held := k.held ++ hs })
  if (me s).stage = .open && (me s).held.length + hs.length ≤ Config.heldMax then put s
  else sealThen false (fun s => put (runAtAccess s)) s

/-- Send returning atomics after the seal and await the replies: the run begins with them (R178, R182). Where one element of a VAMO
faults, the re-execution sends every element again, also those that were applied, which the manual leaves open: DESIGN CHOICE, log 85.
A re-executed one seals again, and so takes the next run number: R224 has every seal point seal its run, R28 and R225 keep the number
of a run that aborts, and the manual does not say which holds here: DESIGN CHOICE, log 103. -/
def sendAtoms (n : Nat) (f : AtomF) (o : Ord) (fin : Done) (els : List (Nat × Nat × Nat × Nat)) (s : State) : State :=
  sealThen (ordRel o) (fun s =>
    let s := runAtAccess s
    let who := meAgent s
    let s := els.foldl (fun s e =>
      let r := resOf s e.2.1
      let s := tick s
      send s ⟨[4, who.ten, who.name, e.2.1],
        .home ⟨who, .atomic, r, e.2.1, .atom n f (.one who e.2.2.1 e.2.2.2 true (e.1 * n) 0 s.now), none, .reply (e.1 * n)⟩, none⟩) s
    let a := Await.plain els.length 0 fin .restart
    awaitMe { a with acq := wideAcq o } s) s

/-- An atomic on elements (index, address, operand, expected). -/
def doAtoms (n : Nat) (f : AtomF) (nr : Bool) (o : Ord) (fin : Done) (els : List (Nat × Nat × Nat × Nat)) (s : State) : State :=
  match atomFault s n (els.map fun e => e.2.1) with
  | some (c, a) => raiseOp c 0 a s
  | none =>
      if nr then
        let held (e : Nat × Nat × Nat × Nat) : Held :=
          let r := resOf s e.2.1
          ⟨e.2.1, n, f, e.2.2.1, r, classTo s.cur.1 (bankField r.bank)⟩
        holdAtoms (els.map held) s
      else sendAtoms n f o fin els s

def atomAddr (s : State) (base : GReg) (disp : BitVec 32) : Nat := (rdG s base + disp.signExtend 64).toNat
def asBytes : ASize → Nat | .n32 => 4 | .s32 => 4 | .b64 => 8
def asFin (z : ASize) (d : GReg) : Done := .g d.val (asBytes z) (z == .s32)
def fsBytes (z : FSize) : Nat := (fsType z).width / 8

def execAmo (h : Hdr) (o : AmoO) (s : State) : Out :=
  scalar h [.g o.d, .g o.base, .g o.x] (fun s =>
    doAtoms (asBytes o.size) (.int o.op) o.nr o.ord (asFin o.size o.d) [(0, atomAddr s o.base o.disp, (rdG s o.x).toNat, 0)] s) s
def execAmof (h : Hdr) (o : AmofO) (s : State) : Out :=
  scalar h [.g o.d, .g o.base, .g o.x] (fun s =>
    doAtoms (fsBytes o.size) (.flt o.op o.size) o.nr o.ord (.g o.d.val (fsBytes o.size) false)
      [(0, atomAddr s o.base o.disp, (rdG s o.x).toNat, 0)] s) s
def execCas (h : Hdr) (o : CasO) (s : State) : Out :=
  scalar h [.g o.d, .g o.base, .g o.x] (fun s =>
    doAtoms (asBytes o.size) .cas false o.ord (asFin o.size o.d)
      [(0, atomAddr s o.base o.disp, (rdG s o.x).toNat, (rdG s o.d).toNat)] s) s
/-- g[i+1] concat g[i]. -/
def pairVal (s : State) (i : GReg) : Nat := (rdG s i).toNat + (rdG s (i + 1)).toNat * 2 ^ 64
def execCas2 (h : Hdr) (o : Cas2O) (s : State) : Out :=
  scalar h [.g o.d, .g (o.d + 1), .g o.base, .g o.x, .g (o.x + 1)] (fun s =>
    doAtoms 16 .cas false o.ord (.pair o.d.val) [(0, atomAddr s o.base o.disp, pairVal s o.x, pairVal s o.d)] s) s

def vopF : VOp → AtomF | .int o _ => .int o | .flt o z => .flt o z
def vopBytes : VOp → Nat | .int _ w => if w then 8 else 4 | .flt _ z => fsBytes z

def execVamo (h : Hdr) (o : VamoO) (s : State) : Out :=
  let n := vopBytes o.op
  let w := 8 * n
  vector h w [.v o.d, .g o.base, .v o.x] (fun s =>
    let is := actives (guardBits h s) w
    let els := (offsetEls s w o.base o.x o.xs.val (o.disp.signExtend 64) is).map fun e => (e.1, e.2, elem w (rdV s o.d) e.1, 0)
    doAtoms n (vopF o.op) o.nr o.ord (.v o.d.val (elMask w is) 0) els s) s

end Sys2Proof.Machine
end

