-- ==== Sys2Proof/Machine/Complete.lean ====
section
/-! DEFINITION. Completion and retirement of queue packets and mill calls, interrupts, and the counting of landing
packets (R264, R307, R310 to R314, R327). -/

namespace Sys2Proof.Machine

/-! ## Interrupts and queues -/

/-- A function's MSI-X vector: its write goes out unless it is masked (R312). -/
def raiseVec (s : State) (f v : Nat) : State :=
  let (addr, data) := sread (0, 0x100000000) (funcAt s f).irqs v
  if data.getLsbD 32 then s else { s with out := s.out ++ [.irq f addr (data &&& 0xFFFFFFFF)] }

/-- The trace without its first ring-level packet. -/
def dropUnit (l : List Nat) : List Nat := (l.drop 1).dropWhile fun d => d != 0

/-- Retire every ring-level packet that has completed with all before it (R314). -/
def retireOne (k : Queue) : Option (Queue × Bool) :=
  match k.closed with
  | (m, next, int) :: cs =>
      if k.outs.all fun o => m < o.1 then
        some ({ k with closed := cs, head := next, rseq := k.rseq + 1, trace := dropUnit k.trace }, int && k.ien)
      else none
  | [] => none
def retireQueue : Nat → State → Nat → State
  | 0, s, _ => s
  | n + 1, s, q =>
      match retireOne (queueAt s q) with
      | some (k, int) =>
          let s := updQueue s q fun _ => k
          retireQueue n (if int then raiseVec s k.func k.vec else s) q
      | none => s

/-- Idle or active by HEAD and TAIL (R305). -/
def idleOr (k : Queue) : Nat := if k.head = k.tail then 1 else 2
/-- What a queue's state comes to: disabled once its issued work has completed (R312), else by R305. -/
def settleQueue (k : Queue) : Queue :=
  if k.disable && k.outs.all (fun o => o.2 == .failed) then { k with state := 0, disable := false, preempt := false, outs := [], pas := [] }
  else if k.state = 1 || k.state = 2 then { k with state := idleOr k }
  else k

/-- The issued packet n completes. -/
def completePacket (s : State) (q n : Nat) : State :=
  let s := updQueue s q fun k => { k with outs := k.outs.filter fun o => o.1 != n }
  let s := retireQueue ((queueAt s q).closed.length + 1) s q
  updQueue s q settleQueue

/-- A queue meets an error (R307). -/
def queueError (s : State) (q code : Nat) : State :=
  let k := queueAt s q
  let s := updQueue s q fun k => { k with state := if k.state = 0 then 0 else 4, err := code, preempt := false }
  if k.ien then raiseVec s k.func k.vec else s

/-- Nesting depth of a place (R386). -/
def Cursor.depth (c : Cursor) : Nat := 2 * c.levels.length + c.loop.isSome.toNat

/-- Pass over the ends of bodies, LOOP restarts and skipped packets that stand at the issue point. -/
def passItems : Nat → Queue → Queue
  | 0, k => k
  | n + 1, k =>
      match nth k.items k.ip with
      | some .loopEnd => match k.iter with
          | some (m, _) =>
              if 1 < m && 0 < k.ip then { k with iter := some (m - 1, false), ip := 0 }
              else passItems n { k with iter := none, ip := 0, items := k.items.drop (k.ip + 1) }
          | none => passItems n { k with items := k.items.drop 1, skip := none }
      | some (.loopStart m) => passItems n { k with items := k.items.drop 1, iter := some (m, true), ip := 0, skip := none }
      | some (.close next int) =>
          passItems n { k with items := k.items.drop 1, closed := k.closed ++ [(k.seq - 1, next, int)], skip := none }
      | some (.pkt _ c) => match k.skip with
          | some d =>
              if d < c.depth then
                passItems n (if k.iter.isSome then { k with ip := k.ip + 1 } else { k with items := k.items.drop 1 })
              else { k with skip := none }
          | none => k
      | _ => k

/-- The packet at the issue point has issued or been skipped: the next one comes up, and ring-level packets retire. -/
def advance (s : State) (q : Nat) : State :=
  let s := updQueue s q fun k =>
    let d := match nth k.items k.ip with | some (.pkt _ c) => c.depth | _ => 0
    let k := { k with trace := k.trace ++ [d], seq := k.seq + 1 }
    passItems (k.items.length + 2) (if k.iter.isSome then { k with ip := k.ip + 1 } else { k with items := k.items.drop 1 })
  updQueue (retireQueue ((queueAt s q).closed.length + 1) s q) q settleQueue

/-- The packet at the issue point has issued, and is no replay of a packet issued before a front-end reset any more. -/
def issued (s : State) (q : Nat) : State := advance (updQueue s q fun k => { k with replay := k.replay.drop 1 }) q

/-- Packet n has failed: it never completes (R310). -/
def failPacket (s : State) (q n : Nat) : State :=
  let fail (o : Nat × Owed) : Nat × Owed := if o.1 = n then (n, .failed) else o
  updQueue s q fun k => settleQueue { k with outs := k.outs.map fail }

/-- A call that a function's mill ring handed on is over: its interrupt, and the ring stops if it waited for it (R327, R329). -/
def ringOver (s : State) (f : Nat) (int : Bool) : State :=
  let s := updFunc s f fun x => { x with mring := settleQueue { x.mring with outs := x.mring.outs.drop 1 } }
  if int then raiseVec s f (funcAt s f).mring.vec else s

def funcSet (s : State) (f : Nat) : Option Nat := (funcAt s f).set

/-- A front end's report to the route of a function's set (R310, R386). -/
def frontReport (s : State) (f die code aux addr : Nat) : State :=
  match funcSet s f with
  | some b => report s b (agFront die) false (mkReport code 0 0 6 b 0 0 aux addr)
  | none => s

/-- (word AND mask) op value (R310). -/
def waitHolds (p : Packet) (v : Nat) : Bool :=
  let w (i : Nat) : Nat := ((nth p.words i).getD 0).toNat
  let x := v &&& w 3
  match w 0 / 2 ^ 32 % 4 with
  | 0 => x == w 2
  | 1 => x != w 2
  | 2 => w 2 ≤ x
  | _ => x < w 2

/-- The answer of a WAITMEM read, a SIGNAL write: the value, or the code, aux and address of a failure (R310). A WAITMEM stands
at the issue point until it completes, since nothing after it issues before (R313). -/
def queueAnswer (s : State) (q n : Nat) (r : Except (Nat × Nat × Nat) Nat) : State :=
  match (queueAt s q).outs.find? fun o => o.1 == n with
  | none => s
  | some (_, owed) =>
      let k := queueAt s q
      match r with
      | .error (code, aux, addr) => frontReport (failPacket (queueError s q 7) q n) k.func (q / 512) code aux addr
      | .ok v =>
          match owed with
          | .waitmem p =>
              if waitHolds p v then
                let take (k : Queue) : Queue := { k with
                  state := if k.state = 3 then 2 else k.state, outs := k.outs.filter fun o => o.1 != n }
                issued (updQueue s q take) q
              else s
          | .signal int =>
              let s := completePacket s q n
              if int then raiseVec s k.func k.vec else s
          | _ => completePacket s q n

/-! ## Hires (R199, R201, R202, R264) -/

def hireEntry (id : Nat) : Nat := id / 2 % 1024
def hireAt (s : State) (id : Nat) : Option Hire :=
  match (fairAt s (id % 2)).hires.find? fun e => e.1 == hireEntry id && e.2.id == id with
  | some e => some e.2
  | none => none
def updHire (s : State) (id : Nat) (f : Hire → Hire) : State :=
  match hireAt s id with
  | some h => updFair s (id % 2) fun k => { k with hires := sset k.hires (hireEntry id) (f h) }
  | none => s

/-- A hire that lives: queued, on a thresher, pre-empted or landing. -/
def Hire.live (h : Hire) : Bool := h.state == 1 || h.state == 2 || h.state == 3 || h.state == 4

/-- The hire of a continuation is over: the continuation no longer owes it (R213). -/
def endHire (s : State) (h : Hire) : State :=
  let a := h.req.who
  match findName s a.ten a.name with
  | some (c, i) => updCtx s c i fun k => { k with hires := k.hires.filter fun x => x != h.id }
  | none => updSlot s a.ten a.name fun k => { k with hires := k.hires.filter fun x => x != h.id }

/-- What waits for the drop of a hire gets the number of its packets counted: an HDROP its reply, a FAIRCTL .drop, which waits in the
rotation, its g[d] at its next turn (R202, R215). -/
def answerDrops (s : State) (id : Nat) : State :=
  match hireAt s id with
  | none => s
  | some h =>
      let n := h.counted.length
      let turn (s : State) (a : Agent) : Option (Nat × Nat) :=
        (findAgent s a).filter fun x => (ctxAt s x.1 x.2).sub == subDrop id
      let answer (s : State) (a : Agent) : State := match turn s a with
        | some (c, i) => updCtx s c i fun k => { k with sub := subDropped n }
        | none => send s ⟨[], .reply a (okReply 0 8 n), none⟩
      updHire (h.waiters.foldl answer s) id fun h => { h with waiters := [] }

/-- A dropped hire whose issued packets have all been counted or discarded answers those that wait for its drop (R202, R215). -/
def settleDrop (s : State) (id : Nat) : State :=
  match hireAt s id with
  | some h =>
      if h.dropping && h.issued.all (fun i => h.counted.contains i || h.parked.contains i) then
        let s := updHire (answerDrops s id) id fun h => { h with
          state := 6, dropping := false, engine := false, rick := false, image := [], thr := none }
        endHire s h
      else s
  | none => s

/-- Packet i of a hire has been counted; the last one ends the landing (R258, R264). -/
def hireCounted (s : State) (id i : Nat) : State :=
  let s := updHire s id fun h => { h with counted := h.counted ++ [i] }
  match hireAt s id with
  | some h =>
      if h.dropping then settleDrop s id
      else if h.state = 4 && h.image.length = h.counted.length then
        endHire (updHire s id fun h => { h with state := 5, engine := false, image := [] }) h
      else s
  | none => s

end Sys2Proof.Machine
end

