-- ==== Sys2Proof/Machine/Stream.lean ====
section
/-! DEFINITION. The posted writes of a function's CXL.io stream: aperture writes and kicks, performed in the order sent
(R302, R303, R305, R306, R327). -/

namespace Sys2Proof.Machine

/-- A store or atomic of a front end for a function's set: whose `who` names the set (R303, R310, R327). -/
def setAgent (b : Nat) : Agent := ⟨b, 0, 0, 0, 0, 0, 0, 0, 0⟩
/-- The resolution of a host-side access to a byte of a set's space. -/
def hostRes (s : State) (b va : Nat) : Option Res :=
  let st := setAtId s b
  (coverOf st.windows va).map fun w => resolve s st.asid w va none
/-- The aux of a front end's window check: the access kind of R346. -/
def hostAux : Nat := 5 * 2 ^ 8

/-- A front-end signal (R322): core k of a die. -/
def raiseSignal (s : State) (die k bit : Nat) : State :=
  updLom s (2 * die + k) fun l => { l with pending := l.pending ||| BitVec.ofNat 64 (2 ^ bit) }

/-- The value is no position of a ring. -/
def badKick (k : Queue) (v : Nat) : Bool := v % 8 != 0 || 2 ^ k.log2 ≤ v

/-- A kick register is written with v, 32 bits (R306, R308). -/
def applyKick (s : State) (f q v : Nat) : State :=
  let k := queueAt s q
  if k.func != f || k.state = 0 || k.state = 4 then s
  else if k.state = 5 then memPut s (k.save + 12) 4 v
  else if badKick k v then queueError s q 6
  else raiseSignal (updQueue s q fun k => settleQueue { k with tail := v }) (q / 512) 0 0

/-- A mill ring meets an error (R307, R327). -/
def ringError (s : State) (f code : Nat) : State :=
  let k := (funcAt s f).mring
  let s := updFunc s f fun x => { x with mring := { x.mring with state := if k.state = 0 then 0 else 4, err := code } }
  if k.ien then raiseVec s f k.vec else s

/-- The mill-ring kick register is written (R306, R327). -/
def applyRingKick (s : State) (f v : Nat) : State :=
  let k := (funcAt s f).mring
  if k.state = 0 || k.state = 4 then s
  else if badKick k v then ringError s f 6
  else raiseSignal (updFunc s f fun x => { x with mring := settleQueue { x.mring with tail := v } }) (f % 8) 1 2

/-- A failed window check of a host access is reported (R303). -/
def apertureFault (s : State) (f va : Nat) : State := frontReport s f 0 cPERM hostAux va

/-- Perform kicks at the head of a stream and send its oldest write, up to n operations (R303, R306). -/
def streamStep : Nat → State → Nat → State
  | 0, s, _ => s
  | n + 1, s, f =>
      let k := funcAt s f
      let pop (s : State) : State := updFunc s f fun k => { k with stream := k.stream.drop 1 }
      match k.stream with
      | [] => s
      | .kick q v :: _ => if k.flying then s else streamStep n (applyKick (pop s) f q v) f
      | .ring v :: _ => if k.flying then s else streamStep n (applyRingKick (pop s) f v) f
      | .write va bs at_ :: _ =>
          if k.flying then s
          else match at_ with
            | some (b, r) =>
                send (updFunc s f fun k => { k with flying := true })
                  ⟨[], .home ⟨setAgent b, .host, r, va, .store (unitsOf [(va, bs)]) none, none, .stream f⟩, none⟩
            | none => streamStep n (apertureFault (pop s) f va) f

/-- The oldest write of a stream has performed, or has been discarded. -/
def streamDone (s : State) (f : Nat) : State :=
  let s := updFunc s f fun k => { k with stream := k.stream.drop 1, flying := false }
  streamStep ((funcAt s f).stream.length + 1) s f

/-- A write's check and resolution, made when it reaches the device: a window changed later does not recall it (R303, R336). -/
def resolved (s : State) (f : Nat) : Posting → Posting
  | .write va bs _ => .write va bs ((funcAt s f).set.bind fun b => (hostRes s b va).map fun r => (b, r))
  | p => p

/-- Posted writes join a stream. -/
def post (s : State) (f : Nat) (ps : List Posting) : State :=
  let s := updFunc s f fun k => { k with stream := k.stream ++ ps.map (resolved s f) }
  streamStep ((funcAt s f).stream.length + 1) s f

end Sys2Proof.Machine
end

