-- ==== Sys2Proof/Machine/Home.lean ====
section
/-! DEFINITION. The weighbridge's translation, the home banks, fills, and the drove: HOME_STORE, HOME_LOAD,
HOME_ATOMIC, BARN_FILL, TRANSLATION_WALK, DROVE_COMBINE, DROVE_SPLIT (R272 to R278, R332 to R348). -/

namespace Sys2Proof.Machine

/-! ## Page walks (R337, R338) -/

inductive Walked where
  | fault (code : Nat)
  /-- the page's 4 KiB frame for the address (PA<39:12>), read-only, GL -/
  | ok (pfn : Nat) (ro gl : Bool)
  deriving DecidableEq, Repr

/-- Offsets 0xF800_0000 and above of a channel hold its earmark store (R332). -/
def inMarkStore (pa : Nat) : Bool := 0xF8000000 ≤ pa % 2 ^ 32

/-- The walk below the table at pa, level n down to 0, for a channel and window G bit. -/
def walkFrom (s : State) (chan va : Nat) (g : Bool) : Nat → Nat → Walked
  | n, pa =>
      let e := memGet s (pa + 8 * (va / 2 ^ (12 + 9 * n) % 512)) 8
      let bit (i : Nat) : Bool := e.testBit i
      let pfn := e / 2 ^ 12 % 2 ^ 28
      if !bit 0 then .fault cNOTPRESENT
      else if e / 2 ^ 5 % 2 ^ 7 != 0 || e / 2 ^ 40 % 2 ^ 16 != 0 || inMarkStore (pfn * 4096) then .fault cPROT
      else if bit 1 then
        if 2 < n || pfn % 2 ^ (9 * n) != 0 || (bit 4 && !bit 3) || pfn / 2 ^ 20 != chan then .fault cPROT
        else if bit 2 then .fault cMIGRATING
        else if bit 4 != g then .fault cPROT
        else
          let f := pfn + va / 4096 % 2 ^ (9 * n)
          if inMarkStore (f * 4096) then .fault cPROT else .ok f (bit 3 || bit 4) (bit 4)
      else match n with
        | 0 => .fault cPROT
        | n + 1 => walkFrom s chan va g n (pfn * 4096)

/-- The set of an address space. -/
def setOfAsid (s : State) (asid : Nat) : Nat :=
  match s.sets.find? fun e => e.2.asid == asid with | some e => e.1 | none => 0

/-- Translate for a line through the weighbridge's cached translations, walking where none is current (R341). -/
def translate (s : State) (chan asid va : Nat) (g : Bool) : State × Walked :=
  let st := setAtId s (setOfAsid s asid)
  match (chanAt s chan).tlb.find? fun t => t.asid == asid && t.vp == va / 4096 && t.gen == st.gen && t.gl == g with
  | some t => (s, .ok t.pfn t.ro t.gl)
  | none =>
      match walkFrom s chan va g 4 st.root with
      | .fault c => (s, .fault c)
      | .ok f ro gl =>
          let keep (t : Tlb) : Bool := t.gen == st.gen || t.asid != asid
          (updChan s chan fun k => { k with tlb := ⟨asid, va / 4096, st.gen, f, ro, gl⟩ :: k.tlb.filter keep }, .ok f ro gl)

/-- The frame-name check of a fill; the first fill of a first-touch frame records its field (R273, R344). -/
def nameFrame (s : State) (chan f tag vp : Nat) (ft : Option Nat) : Option State :=
  let put (x : Frame) : State := updChan s chan fun k => { k with frames := sset k.frames f x }
  match (chanAt s chan).frames.find? fun e => e.1 == f with
  | none => some (put ⟨tag, vp, ft⟩)
  | some (_, x) =>
      if x.asid = tag && x.vp = vp then some (put { x with ft := x.ft <|> ft })
      else none

/-! ## Fault answers (R226, R345 to R347) -/

def AccKind.code : AccKind → Nat
  | .load => 0 | .store => 1 | .atomic => 2 | .millStep => 4 | .host => 5 | .fetch => 6 | .landing => 1

/-- The weighbridge's packet for the first fault of a page and code (R346). -/
def faultPacket (s : State) (chan code : Nat) (a : Agent) (kind : AccKind) (asid va : Nat) (core : Bool) : State :=
  let key := (asid, va / 4096, code)
  if (chanAt s chan).told.contains key then s
  else
    let s := updChan s chan fun k => { k with told := k.told ++ [key] }
    let (ctx, c, slot, rseq) := if core then (a.ctx, a.core, a.start, a.rseq) else (0, 0, 0, 0)
    reportFor s a.ten (agBridge chan)
      (mkReport code ctx c 1 a.ten slot rseq (chan + kind.code * 2 ^ 8) va)

/-- The bay entries that an operation takes if it faults: one for each released atomic, one for a landing packet, one for a mill's step
(R226, R286, R347). -/
def bayNeed (r : Req) : Nat :=
  match r.ack, r.op with
  | .hire _ _, _ => 1
  | _, .step _ _ => 1
  | _, .atom _ _ t => ((leavesOf t).filter fun l => match l with | .one _ _ _ ret _ _ _ => !ret | .both .. => false).length
  | _, _ => 0
/-- Room in a channel's bay for n more entries (R347). -/
def bayRoom (s : State) (chan n : Nat) : Bool := n = 0 || (chanAt s chan).bay.length + n ≤ Config.bayMax

/-- A released atomic in a bay: acknowledged already, it lowers no count when it is replayed (R180). -/
def inBay : AtomReq → AtomReq
  | .one who x e ret pos _ id => .one who x e ret pos 0 id
  | t => t

/-- A landing packet parks: the weighbridge sends a fault packet for the first of its hire since the hire's last grant, whatever the
hire has come to (R265), and for a replayed one that parks again, before the next grant too (R267; log 69). The manual names
NOTPRESENT, MIGRATING and PROT as landing faults (R258); a frame under another name parks and reports it with SYN, as R344 has it of
every fill: DESIGN CHOICE, log 86. -/
def landReport (s : State) (r : Req) (id i code : Nat) : State :=
  match hireAt s id with
  | none => s
  | some h =>
      let again := h.replays.contains i
      if h.reported && !again then s
      else
        let s := updHire s id fun h => { h with reported := true, replays := h.replays.erase i }
        report s (tenAt s r.who.ten).set (agBridge r.res.chan) false (mkReport code 0 r.who.core 1 r.who.ten 0 0 id r.va)

/-- A mill's line steps leave the banks, those kept apart, each named by its line and whether it is a source: a mill waits for one step
at a time, and holds no bank's unit while a step of it waits in a fault bay (R282, R286). -/
def leaveBanks (s : State) (m : Nat) (keep : List (Nat × Bool)) : State :=
  let stays (q : Req) : Bool := match q.op with | .step n src => n != m || keep.contains (q.va, src) | _ => true
  { s with banks := s.banks.map fun e => (e.1, { e.2 with queue := e.2.queue.filter stays }) }

/-- Answer an operation that met a weighbridge fault (R153, R182, R226, R265, R303, R310). -/
def answerFault (s : State) (r : Req) (code : Nat) : State :=
  let g := r.res.chan
  let gen := (setAtId s (setOfAsid s r.res.asid)).gen
  let packet (a : Agent) (core : Bool) (s : State) : State := faultPacket s g code a r.kind r.res.asid r.va core
  match r.ack with
  | .host tag =>
      let s := packet r.who false s
      { s with out := s.out ++ [.done tag false 0] }
  | .queue q n => queueAnswer (packet r.who false s) q n (.error (code, g + AccKind.host.code * 2 ^ 8, r.va))
  | .ring f _ => ringOver (packet r.who false s) f false
  | .stream f => streamDone (packet r.who false s) f
  | .hire id i =>
      let s := updChan s g fun k => { k with bay := k.bay ++ [⟨r, gen, some (id, i)⟩] }
      send (landReport s r id i code) ⟨[], .landFault id i, none⟩
  | _ =>
      match r.op with
      | .pref _ => s
      | .step m _ =>
          if (chanAt s m).mill.wait then s
          else
            let s := updChan (leaveBanks s m []) m fun k => { k with mill := { k.mill with wait := true } }
            packet r.who true (updChan s g fun k => { k with bay := k.bay ++ [⟨r, gen, none⟩] })
      | .atom n f t =>
          (leavesOf t).foldl (fun s l => match l with
            | .one who _ _ true _ _ _ => send (packet who true s) ⟨[], .fault who 0 0 code r.va gen false, some (Config.channelCell g)⟩
            | .one who _ _ false _ cls id =>
                let s := updChan s g fun k => { k with bay := k.bay ++ [⟨{ r with op := .atom n f (inBay l) }, gen, none⟩] }
                send (packet who true s) ⟨[], .ack who cls id, some (Config.channelCell g)⟩
            | .both .. => s) s
      | _ =>
          let (cls, id) := match r.ack with | .cls k id => (k, id) | _ => (0, 0)
          send (packet r.who true s) ⟨[], .fault r.who cls id code r.va gen false, some (Config.channelCell g)⟩

/-! ## Performing at a bank (R177, R245, R272, R275) -/

def lineBytes (x : LineWord) (off n : Nat) : Nat := x.toNat / 2 ^ (8 * off) % 2 ^ (8 * n)
def putLine (x : LineWord) (off n v : Nat) : LineWord :=
  let m : LineWord := BitVec.ofNat 512 ((2 ^ (8 * n) - 1) * 2 ^ (8 * off))
  (x &&& ~~~m) ||| (BitVec.ofNat 512 (v % 2 ^ (8 * n)) <<< (8 * off))

/-- The operation writes its line: of a line step, unless it is a step's source (R338). -/
def writesLine : HomeOp → Bool
  | .store _ _ => true | .rest _ => true | .atom _ _ _ => true | .step _ src => !src | _ => false

def lineAt (s : State) (b tag la : Nat) : Option Line := (bankAt s b).lines.find? fun l => l.asid == tag && l.la == la
def setLine (s : State) (b : Nat) (l : Line) : State :=
  updBank s b fun k => { k with lines := k.lines.map fun x => if x.asid = l.asid && x.la = l.la then l else x }

/-- Write a line back to memory (R342). -/
def writeBack (s : State) (l : Line) : State :=
  if l.dirty then { memPut s l.pa 64 l.data.toNat with marks := swrite 0 s.marks (l.pa / 64) l.mark } else s

/-- A line changed at its bank; a WT window writes it to memory at once (R340). -/
def storeLine (s : State) (b : Nat) (wt : Bool) (l : Line) : State :=
  let l := { l with dirty := true }
  if wt then setLine (writeBack s l) b { l with dirty := false } else setLine s b l

/-- The completion of a store-like operation, after its bytes and its bin (R150, R223, R351). -/
def ackStore (s : State) (r : Req) (v : Nat) : State :=
  let s := match r.bin with | some t => landBin s t false | none => s
  match r.ack with
  | .cls k id => send s ⟨[], .ack r.who k id, homeCell r.who r.res.bank⟩
  | .hire id i => hireCounted s id i
  | .host tag => { s with out := s.out ++ [.done tag true v] }
  | .queue q n => queueAnswer s q n (.ok v)
  | .ring f int => ringOver s f int
  | .stream f => streamDone s f
  | _ => s

/-- UE for a dropped atomic or a poisoned host read (R384). -/
def poisonReport (s : State) (src agent : Nat) (a : Agent) (core : Bool) (va : Nat) : State :=
  let (ctx, c, slot, rseq) := if core then (a.ctx, a.core, a.start, a.rseq) else (0, 0, 0, 0)
  reportFor s a.ten agent (mkReport cUE ctx c src a.ten slot rseq 0 (va / 64 * 64))

/-- The operand a combined request carries: the fold of its members' operands (R277). -/
def treeX (f : AtomF) (n : Nat) : AtomReq → Nat
  | .one _ x _ _ _ _ _ => x % 2 ^ (8 * n)
  | .both _ u l => atomVal f n (treeX f n u) (treeX f n l) 0

/-- Reply to one request: its old value, or its acknowledgement (R177, R180). -/
def atomReply (s : State) (n v : Nat) (poison : Option Nat) (va b : Nat) (src : Option Nat) (l : AtomReq) : State :=
  match l with
  | .one who _ _ true pos _ _ => send s ⟨[], .reply who { okReply pos n v with poison := poison, blk := va / 64 * 64 }, src⟩
  | .one who _ _ false _ cls id =>
      let s := if poison.isSome then poisonReport s 4 (agBarn b) who true va else s
      send s ⟨[], .ack who cls id, src⟩
  | .both _ _ _ => s

/-- The mark of the block an operation writes: where its packet met an error on a link, the code of a poisoned one (R53, R383). -/
def newMark (r : Req) (m : Mark) : Mark := if r.res.bad then spoil m else m

/-- An operation performs on its line, present in bank b (R154, R235, R246). -/
def performLine (s : State) (b : Nat) (r : Req) (l : Line) : State :=
  let off := r.va % 64
  let bad := poisoned l.mark
  let poison : Option Nat := if bad then some (r.va / 64 * 64) else none
  if writesLine r.op && l.ro then answerFault s r cPROT
  else match r.op with
  | .load n fill =>
      let b' := setOfAsid s r.res.asid
      let v := undefAt s b' r.va n (lineBytes l.data off n)
      let part := undefAt s b' (r.va / 32 * 32) 32 (lineBytes l.data (off / 32 * 32) 32)
      let s := drawStale s b'
      match r.ack with
      | .reply pos =>
          let f := if fill then some (r.va / 32, BitVec.ofNat 256 part, l.mark) else none
          send s ⟨[], .reply r.who { okReply pos n v with poison := poison, fill := f, blk := r.va / 64 * 64 }, homeCell r.who b⟩
      | .host tag =>
          if bad then
            let s := poisonReport s 1 (agBridge r.res.chan) r.who false r.va
            { s with out := s.out ++ [.poisoned tag] }
          else { s with out := s.out ++ [.done tag true v] }
      | .queue q n => queueAnswer s q n (.ok v)
      | _ => s
  | .fetch => send s ⟨[], .code r.who (r.va / 64) l.data poison, homeCell r.who b⟩
  | .pref fill =>
      match fill with
      | some id => send s ⟨[], .pref r.who.core id ⟨tagOf r.res.glob r.res.asid, r.va / 32,
          BitVec.ofNat 256 (lineBytes l.data (off / 32 * 32) 32), l.mark⟩, homeCell r.who b⟩
      | none => s
  | .getmark => match r.ack with
      | .reply pos =>
          let f := some (r.va / 32, BitVec.ofNat 256 (lineBytes l.data (off / 32 * 32) 32), l.mark)
          send s ⟨[], .reply r.who { okReply pos 2 l.mark.toNat with poison := poison, fill := f, blk := r.va / 64 * 64 }, homeCell r.who b⟩
      | _ => s
  | .store units mark =>
      let d := units.foldl (fun d u => putLine d (u.1 % 64) u.2.length (ofBytes u.2)) l.data
      ackStore (storeLine s b r.res.wt { l with data := d, mark := newMark r (mark.getD l.mark) }) r 0
  | .rest units =>
      let d := units.foldl (fun d u => putLine d (u.1 % 64) u.2.length (ofBytes u.2)) l.data
      ackStore (storeLine s b r.res.wt { l with data := d, mark := newMark r l.mark }) r 0
  | .step _ _ => s
  | .atom n f t =>
      let old := lineBytes l.data off n
      match t with
      | .one _ x e _ _ _ _ =>
          let s := if bad then s else storeLine s b r.res.wt { l with
            data := putLine l.data off n (atomVal f n old x e), mark := newMark r l.mark }
          match r.ack with
          | .host tag => { s with out := s.out ++ [if bad then .poisoned tag else .done tag true old] }
          | .queue q m => queueAnswer s q m (.ok old)
          | _ => atomReply s n old poison r.va b (homeCell r.who b) t
      | .both _ _ _ =>
          if bad then (leavesOf t).foldl (fun s l => atomReply s n old poison r.va b (homeCell r.who b) l) s
          else
            let s := storeLine s b r.res.wt { l with
              data := putLine l.data off n (atomVal f n old (treeX f n t) 0), mark := newMark r l.mark }
            send s ⟨[], .split old n f t (r.va / 64 * 64) false, none⟩

/-- A request that a croft's context issued, or a hire of it: no host, queue, mill ring or posted write. -/
def fromContext (r : Req) : Bool :=
  match r.ack with
  | .host _ => false | .queue _ _ => false | .ring _ _ => false | .stream _ => false
  | _ => true

/-- An operation on a line. -/
def onLine (tag la : Nat) (q : Req) : Bool := tagOf q.res.glob q.res.asid == tag && q.va / 64 == la
/-- Is an operation on the line waiting in the bank? -/
def waitsAt (s : State) (b tag la : Nat) : Bool := (bankAt s b).queue.any (onLine tag la)

/-- The streams whose order an operation keeps at its home: a context's stores and released atomics, a hire's landings, a
function's posted writes (R151, R180, R247, R303). -/
def streamsOf (r : Req) : List (List Nat) :=
  match r.ack, r.op with
  | .cls _ _, _ => [[1, r.who.ten, r.who.name]]
  | .hire id _, _ => [[2, id]]
  | .stream f, _ => [[3, f]]
  | _, .atom _ _ t => (leavesOf t).filterMap fun l => match l with
      | .one w _ _ false _ _ _ => some [1, w.ten, w.name]
      | _ => none
  | _, _ => []

/-- The work of a bank's arithmetic unit: atomics and line steps (R275). -/
def ofUnit (r : Req) : Bool := match r.op with | .atom _ _ _ => true | .step _ src => !src | _ => false
/-- Two operations of one stream. -/
def inStream (q r : Req) : Bool := (streamsOf q).any (streamsOf r).contains
/-- An operation that waits at a bank stands before a later one of another stream: on its line, unless it is the rest of a store begun,
whose units mix with others (R245, R275), or the source of a step; and both of the arithmetic unit, which takes its operations in their
order of arrival (R275). -/
def standsBefore (q r : Req) : Bool :=
  (onLine (tagOf r.res.glob r.res.asid) (r.va / 64) q
      && (match q.op with | .rest _ => false | .step _ src => !src | _ => true))
    || (ofUnit q && ofUnit r)

/-- A walk for a line of a bank begins, unless one is under way for the request's space and channel (R341). -/
def startWalk (s : State) (b : Nat) (r : Req) : State :=
  let tag := tagOf r.res.glob r.res.asid
  let same (w : Walk) : Bool :=
    w.asid == r.res.asid && tagOf w.glob w.asid == tag && w.la == r.va / 64 && w.bank == b
  let flying (f : Flight) : Bool := match f.msg with
    | .fill b' g t la _ _ _ a _ => b' == b && g == r.res.chan && t == tag && la == r.va / 64 && a == r.res.asid | _ => false
  if (chanAt s r.res.chan).walks.any same || s.net.any flying then s
  else
    let gen := (setAtId s (setOfAsid s r.res.asid)).gen
    updChan s r.res.chan fun k => { k with walks := k.walks ++
      [⟨r.res.asid, r.va / 64, b, gen, r.res.glob, r.res.ft, none⟩] }
/-- The waiting operations that a walk of channel g serves: on its line, of its space, by that channel (R341). -/
def servedBy (g : Nat) (w : Walk) (q : Req) : Bool :=
  onLine (tagOf w.glob w.asid) w.la q && q.res.asid == w.asid && q.res.chan == g

/-- The places of an operation in the orders of R151, R180 and R247: the stream, and its number there. -/
def ranksOf (r : Req) : List (List Nat × Nat) :=
  match r.ack, r.op with
  | .cls _ id, _ => [([1, r.who.ten, r.who.name], id)]
  | .hire id i, _ => [([2, id], i)]
  | _, .atom _ _ t => (leavesOf t).filterMap fun l => match l with
      | .one w _ _ false _ _ id => if id = 0 then none else some ([1, w.ten, w.name], id)
      | _ => none
  | _, _ => []
def comesBefore (q r : Req) : Bool := (ranksOf q).any fun x => (ranksOf r).any fun y => x.1 == y.1 && x.2 < y.2

/-! ## Behind a fault bay, behind the croft's own stores (R177, R239, R347) -/

/-- A released atomic that a fault bay took and acknowledged (R180). -/
def replayed (r : Req) : Bool :=
  match r.op with | .atom _ _ (.one _ _ _ false _ cls id) => cls == 0 && id != 0 | _ => false
/-- The released atomics that a bay has taken and that are not back at their homes. -/
def bayed (s : State) : List Req :=
  s.chans.flatMap (fun c => (c.2.bay.filter fun e => e.hire.isNone).map Bay.req)
    ++ s.net.filterMap fun f => match f.msg with | .home r => if replayed r then some r else none | _ => none
/-- What installs a line in an L1 (R239). -/
def fillsL1 (r : Req) : Bool := match r.op with | .load _ f => f | .pref f => f.isSome | .getmark => true | _ => false
/-- A released atomic in a bay goes before the later operations of its context on its line, so that elements of one VAMO at one address
keep their order (R177), and before an L1 fill of that line (R239). Nothing else waits for it: its acceptance counts as its performance
in the orders of R151 and R241 (DEDUCED, log 93). -/
def bayBefore (s : State) (r : Req) : Bool :=
  fromContext r && (bayed s).any fun q =>
    onLine (tagOf r.res.glob r.res.asid) (r.va / 64) q && q.who.ten == r.who.ten && q != r
      && (if (ranksOf r).isEmpty then fillsL1 r || q.who.name == r.who.name else comesBefore q r)

/-- A store, or a released atomic, of r's croft writes bytes of r's 32-byte line. -/
def writesUnder (r q : Req) : Bool :=
  let within (us : List (Nat × List Byte)) : Bool := us.any fun u => u.1 / 32 == r.va / 32
  q.who.ten == r.who.ten && onLine (tagOf r.res.glob r.res.asid) (r.va / 64) q && !(ranksOf q).isEmpty
    && (match q.ack, q.op with
      | .hire _ _, _ => false
      | _, .store us m => m.isSome || within us
      | _, .rest us => within us
      | _, .atom _ _ _ => q.va / 32 == r.va / 32
      | _, _ => false)

/-- What a translation of the operation's page would meet now: a fault, a leaf that refuses it, or a frame under another name. -/
def faultsNow (s : State) (q : Req) : Bool :=
  match translate s q.res.chan q.res.asid q.va q.res.glob with
  | (_, .fault _) => true
  | (s, .ok f ro gl) => ((ro || gl) && writesLine q.op)
      || (nameFrame s q.res.chan f (tagOf q.res.glob q.res.asid) (q.va / 4096) none).isNone
/-- An operation that waits at bank b, and lets others pass: it has faulted and finds its bay full (R347), or stands behind an
atomic in a bay. -/
def stalled (s : State) (b : Nat) (q : Req) : Bool :=
  bayBefore s q || (!bayRoom s q.res.chan (bayNeed q) &&
    match lineAt s b (tagOf q.res.glob q.res.asid) (q.va / 64) with
    | some l => writesLine q.op && l.ro
    | none => faultsNow s q)
/-- Operation r, behind the first i that wait at bank b, is held back; the rest of a store begun is not. -/
def heldBack (s : State) (b i : Nat) (r : Req) : Bool :=
  match r.op with
  | .rest _ => false
  | _ => ((bankAt s b).queue.take i).any fun q => inStream q r || (standsBefore q r && !stalled s b q)

/-- What is on its way to a home or waits at one, the replays of a bay apart. -/
def standing (s : State) : List Req :=
  (s.net.filterMap fun f => match f.msg with | .home r => if f.key.head? = some 5 then none else some r | _ => none)
    ++ s.banks.flatMap fun b => b.2.queue
/-- Bank b is the operation's home by now, or may become it: an untouched first-touch page goes to the bank of its number in the field
that touches it first (R273). -/
def mayGoTo (s : State) (b : Nat) (q : Req) : Bool :=
  if q.res.ft && (touchedField s q.res.chan (tagOf q.res.glob q.res.asid) (q.va / 4096)).isNone then q.res.bank % 64 == b % 64
  else homeNow s q.res q.va == b
/-- An operation of r's stream that comes before it has or may have the same home, and has not performed (R151, R247, R273). -/
def outOfTurn (s : State) (b : Nat) (r : Req) : Bool :=
  (standing s).any fun q => (q.res.ft || r.res.ft) && mayGoTo s b q && comesBefore q r

/-- An operation joins those that wait at a bank, in arrival order, and ahead of those that it comes before; the replay of a released
atomic ahead of those of its line; a host atomic on a WT line ahead of waiting device atomics (R151, R275, R347, R351). -/
def joinBank (s : State) (b : Nat) (r : Req) : State :=
  let isHostAtom : Bool := match r.op, r.ack with | .atom _ _ _, .host _ => r.res.wt | _, _ => false
  let devAtom (q : Req) : Bool := match q.op, q.ack with
    | .atom _ _ _, .host _ => false | .atom _ _ _, _ => q.va / 64 == r.va / 64 && q.res.asid == r.res.asid | _, _ => false
  let put (qs : List Req) : List Req :=
    if isHostAtom then qs.takeWhile (fun q => !devAtom q) ++ [r] ++ qs.dropWhile (fun q => !devAtom q)
    else
      let goes (q : Req) : Bool :=
        !comesBefore r q && !(replayed r && !replayed q && onLine (tagOf r.res.glob r.res.asid) (r.va / 64) q)
      qs.takeWhile goes ++ [r] ++ qs.dropWhile goes
  updBank s b fun k => { k with queue := put k.queue }

/-- Where an operation stands: in the network, or at a place of a bank's queue. -/
inductive Stand where
  | net (n : Nat) | bank (b i : Nat)
  deriving DecidableEq, Repr

/-- An L1 fill is served behind every store of its croft to its line that was issued before it and has not performed, so that no line
is installed that lacks one (R239, R241). -/
def behindStores (s : State) (w : Stand) (r : Req) : Bool :=
  fillsL1 r && match w with
  | .net n => (s.net.take n).any (fun f => match f.msg with | .home q => writesUnder r q | _ => false)
      || s.banks.any fun b => b.2.queue.any (writesUnder r)
  | .bank b i => ((bankAt s b).queue.take i).any (writesUnder r)

/-- The operation a home event names: the packet argN 0, or the operation argN 0 that waits at bank argN 2 − 1. -/
def homeReq (s : State) : Option (Stand × Req) :=
  match argN s 2 with
  | 0 => match deliverable s (argN s 0) with
      | some (.home r) => some (.net (argN s 0), { r with res := { r.res with bank := homeNow s r.res r.va } })
      | _ => none
  | b + 1 => (nth (bankAt s b).queue (argN s 0)).map fun r => (.bank b (argN s 0), r)
def leaveStand (s : State) : Stand → State
  | .net n => drop s n
  | .bank b i => updBank s b fun k => { k with queue := dropAt k.queue i }

/-- The aligned 16-byte units of a store that have not performed. -/
def unitsLeft : HomeOp → List (Nat × List Byte)
  | .store us _ => us | .rest us => us | _ => []

/-- An operation performs on its line; of a store, one unit, the rest of it staying in the bank (R245). A refused operation
that would enter a full fault bay waits (R347). -/
def performAt (s : State) (w : Stand) (b : Nat) (r : Req) (l : Line) : State :=
  let us := unitsLeft r.op
  if writesLine r.op && l.ro then
    if bayRoom s r.res.chan (bayNeed r) then answerFault (leaveStand s w) r cPROT else s
  else if us.length ≤ 1 then performLine (leaveStand s w) b r l
  else
    let j := argN s 1 % us.length
    let u := (nth us j).getD (0, [])
    let mark := newMark r (match r.op with | .store _ m => m.getD l.mark | _ => l.mark)
    let s' := storeLine s b r.res.wt { l with data := putLine l.data (u.1 % 64) u.2.length (ofBytes u.2), mark := mark }
    let r' := { r with op := .rest (dropAt us j) }
    match w with
    | .net n => joinBank (drop s' n) b r'
    | .bank b i => updBank s' b fun k => { k with queue := setAt k.queue i r' }

/-- A line step comes back from a fault bay: it takes its place in the home's unit, and its mill goes on (R286, R347); one whose address
no window covers has no home. -/
def stepBack (s : State) (n m b : Nat) (r : Req) : State :=
  let s := updChan (drop s n) m fun k => { k with mill := { k.mill with wait := false } }
  if Config.banks ≤ b then s else joinBank s b r

/-- A home event: the operation it names performs where nothing holds it back and its line is present; else it waits at the
bank for its turn and for the line's fill (R275). A line step is taken by its mill. -/
def homeGo (want : Req → Bool) (s : State) : State :=
  match homeReq s with
  | none => s
  | some (w, r) =>
      let b := r.res.bank
      let line := lineAt s b (tagOf r.res.glob r.res.asid) (r.va / 64)
      let ahead := match w with | .net _ => (bankAt s b).queue.length | .bank _ i => i
      if !want r then s
      else match w, r.op with
      | .net n, .step m _ => stepBack s n m b r
      | .bank _ _, .step _ _ => if line.isNone then startWalk s b r else s
      | _, _ =>
      if outOfTurn s b r || behindStores s w r then s
      else match line, heldBack s b ahead r || bayBefore s r with
        | some l, false => performAt s w b r l
        | _, _ =>
            let s := match w with | .net n => joinBank (drop s n) b r | .bank _ _ => s
            if line.isNone then startWalk s b r else s

/-- Put a line into a bank; what it replaces is a free choice, written back if dirty (R272). -/
def installLine (s : State) (b : Nat) (l : Line) : State :=
  let ls := (bankAt s b).lines
  let v := Config.victim s.free % (ls.length + 1)
  let i := Nat.min v (ls.length - 1)
  let out := if v < ls.length || Config.bankLines ≤ ls.length then nth ls i else none
  let s := match out with | some o => writeBack s o | none => s
  draw (updBank s b fun k => { k with lines := (if out.isSome then dropAt k.lines i else k.lines) ++ [l] })

/-! ## HOME_STORE, HOME_LOAD, HOME_ATOMIC -/

def execHomeLoad (s : State) : Out :=
  .next (homeGo (fun r => match r.op with
    | .store _ _ => false | .rest _ => false | .atom _ _ _ => false | _ => true) s)

/-- A store performs one aligned 16-byte unit at a time, in any order; its last unit is acknowledged (R245). -/
def execHomeStore (s : State) : Out :=
  .next (homeGo (fun r => r.bin.isNone && (match r.op with | .store _ _ => true | .rest _ => true | _ => false)) s)

def execHomeAtomic (s : State) : Out := .next (homeGo (fun r => match r.op with | .atom _ _ _ => true | _ => false) s)

/-! ## TRANSLATION_WALK, BARN_FILL -/

/-- Every operation that a walk of channel g serves meets a fault; a released atomic that finds the bay full waits on (R341, R347). -/
def faultLine (s : State) (g : Nat) (w : Walk) (code : Nat) : State :=
  let qs := (bankAt s w.bank).queue.filter (servedBy g w)
  let s := updBank s w.bank fun k => { k with queue := k.queue.filter fun q => !servedBy g w q }
  qs.foldl (fun s q =>
    if bayRoom s q.res.chan (bayNeed q) then answerFault s q code
    else startWalk (updBank s w.bank fun k => { k with queue := k.queue ++ [q] }) w.bank q) s

/-- The i-th walk of channel g ends: discarded and begun again under a new generation, a fault for the line's waiting
operations, or a fill (R338, R341, R344). -/
def execTranslationWalk (s : State) : Out :=
  .next <|
    let g := argN s 0
    match nth (chanAt s g).walks (argN s 1) with
    | none => s
    | some w =>
        let gen := (setAtId s (setOfAsid s w.asid)).gen
        let tag := tagOf w.glob w.asid
        let s := updChan s g fun k => { k with walks := dropAt k.walks (argN s 1) }
        if w.gen != gen then updChan s g fun k => { k with walks := k.walks ++ [{ w with gen := gen }] }
        else
          let va := w.la * 64
          let qs := (bankAt s w.bank).queue.filter (servedBy g w)
          match translate s g w.asid va w.glob with
          | (s, .fault c) => faultLine s g w c
          | (s, .ok f ro gl) =>
              if (ro || gl) && qs.all fun q => writesLine q.op then faultLine s g w cPROT
              else match nameFrame s g f tag (va / 4096) (if w.ft then some (bankField w.bank) else none) with
              | none => faultLine s g w cSYN
              | some s =>
                  let home := if w.ft then ((touchedField s g tag (va / 4096)).getD (bankField w.bank)) * 64 + w.bank % 64
                              else w.bank
                  let s := if home = w.bank then s else
                    let mine := (bankAt s w.bank).queue.filter (onLine tag w.la)
                    let s := updBank s w.bank fun k => { k with queue := k.queue.filter fun q => !onLine tag w.la q }
                    mine.foldl (fun s q => joinBank s home { q with res := { q.res with bank := home } }) s
                  send s ⟨[], .fill home g tag w.la (f * 4096 + va % 4096) gen (ro || gl) w.asid false, none⟩

/-- A fill puts its line into the bank; the operations that wait for it perform by their own events, in arrival order (R275).
A line passes through a mill's buffer within one step of the machine, so a fill finds memory current (R285). -/
def execBarnFill (s : State) : Out :=
  .next <| match deliverable s (argN s 0) with
    | some (.fill b _ tag la pa _ ro _ bad) =>
        let s := drop s (argN s 0)
        match lineAt s b tag la with
        | some _ => s
        | none =>
            let m := sread 0 s.marks (pa / 64)
            installLine s b ⟨tag, la, memLine s pa, if bad then spoil m else m, false, ro, linePa pa⟩
    | _ => s

/-! ## The drove (R276 to R278) -/

/-- The line a croft enters its field's drove on. -/
def droveLine (c : Nat) : Nat := rowOf c % 8 * 8 + colOf c % 8

/-- The line a request stands on before stage t, on its way from line c to local bank d. -/
def droveAt (d : Nat) : Nat → Nat → Nat
  | 0, c => (2 * c + c / 32) % 64
  | t + 1, c =>
      let x := droveAt d t c / 2 * 2 + d / 2 ^ (5 - t) % 2
      (2 * x + x / 32) % 64

/-- The context of a request's uppermost member. -/
def firstWho : AtomReq → Agent
  | .one who _ _ _ _ _ _ => who
  | .both _ u _ => firstWho u

/-- Split records of a switch in use (R277). -/
def recordsOf (sw : Nat) : AtomReq → Nat
  | .one .. => 0
  | .both s u l => (if s = sw then 1 else 0) + recordsOf sw u + recordsOf sw l
def reqRecords (sw : Nat) (r : Req) : Nat := match r.op with | .atom _ _ t => recordsOf sw t | _ => 0
def splitRecords (s : State) (sw : Nat) : Nat :=
  (s.net.map fun f => match f.msg with | .home r => reqRecords sw r | .split _ _ _ t _ _ => recordsOf sw t | _ => 0).sum
    + (s.banks.map fun b => (b.2.queue.map (reqRecords sw)).sum).sum
/-- The first stage a request may combine at: the one after its last combination (R277). -/
def stageFrom : AtomReq → Nat
  | .one .. => 0
  | .both sw _ _ => sw % 192 / 32 + 1

/-- Two requests combine at stage t (R277), the upper one at place 0 of the event and the lower one at place 1. The combined one stands
where the earlier of the two stood, so that it goes before what either would have gone before; a link's error of either stays with it
(R383). -/
def execDroveCombine (s : State) : Out :=
  .next <|
    let i := argN s 0
    let j := argN s 1
    let t := argN s 2
    match deliverable s i, deliverable s j with
    | some (.home a), some (.home b) =>
        match a.op, b.op with
        | .atom n (.int o) u, .atom n' (.int o') l =>
            let ca := (firstWho u).core
            let cb := (firstWho l).core
            let d := a.res.bank % 64
            let la := droveAt d t (droveLine ca)
            let lb := droveAt d t (droveLine cb)
            let sw := bankField a.res.bank * 192 + t * 32 + la / 2
            let ok : Bool := i != j && t < 6 && stageFrom u ≤ t && stageFrom l ≤ t && n == n' && o == o' && (o == .add || o == .and || o == .or || o == .xor)
              && a.va == b.va && a.res.asid == b.res.asid && a.res.bank == b.res.bank
              && fromContext a && fromContext b && splitRecords s sw < 8
              && fieldOf ca == bankField a.res.bank && fieldOf cb == bankField a.res.bank
              && la / 2 == lb / 2 && la % 2 == 0 && lb % 2 == 1
            if ok then
              let res := { a.res with bad := a.res.bad || b.res.bad }
              let m : Msg := .home { a with res := res, op := .atom n (.int o) (.both sw u l), ack := .none }
              drop (replace s (Nat.min i j) m) (Nat.max i j)
            else s
        | _, _ => s
    | _, _ => s

/-- The reply of a combined request splits at its switch: v to the upper, v op u to the lower (R278). An error that the reply met on a
link reaches the members that read a value (R384); the others were applied. -/
def execDroveSplit (s : State) : Out :=
  .next <| match deliverable s (argN s 0) with
    | some (.split v n f (.both _ u l) blk bad) =>
        let s := drop s (argN s 0)
        let one (s : State) (v : Nat) (x : AtomReq) : State :=
          match x with
          | .both .. => send s ⟨[], .split v n f x blk bad, none⟩
          | .one _ _ _ ret _ _ _ => atomReply s n v (if bad && ret then some blk else none) blk 0 none x
        one (one s v u) (atomVal f n v (treeX f n u) 0) l
    | _ => s

end Sys2Proof.Machine
end

