-- ==== Sys2Proof/Machine/Shoot.lean ====
section
/-! DEFINITION. SHOOT: the generation, the drained walks, the lines written back and dropped, the frame names cleared and
the resident reports (R341 to R344, R348 to R351). -/

namespace Sys2Proof.Machine

/-- g is a generation older than n. -/
def olderGen (g n : W32) : Bool := g != n && decide ((n - g).toNat < 2 ^ 31)

/-- The range of a SHOOT (R349). -/
def shootRange (a n : Nat) : Nat × Nat :=
  if n = 0 then (0, vaEnd) else (a / 4096 * 4096, Nat.min ((a + n + 0xFFF) / 4096 * 4096) vaEnd)

def inRange (sh : Shoot) (va : Nat) : Bool := sh.ranges.any fun r => r.1 ≤ va && va < r.2

/-- A SHOOT begins: the generation advances, cached translations of the range go (R349). -/
def beginShoot (s : State) (b : Nat) (ranges : List (Nat × Nat)) : State :=
  let st := setAtId s b
  let sh : Shoot := ⟨ranges, st.gen + 1⟩
  let s := updSet s b fun x => { x with gen := x.gen + 1, shoots := x.shoots ++ [sh] }
  { s with chans := s.chans.map fun e => (e.1, { e.2 with tlb := e.2.tlb.filter fun t =>
      !(t.asid == st.asid && inRange sh (t.vp * 4096)) }) }

/-- Every walk and fill sent under an older generation has finished or been discarded, and every fill of a global line of the range. -/
def shootDrained (s : State) (asid : Nat) (sh : Shoot) : Bool :=
  s.chans.all (fun e => e.2.walks.all fun w => !(w.asid == asid && olderGen w.gen sh.gen))
    && s.net.all fun f => match f.msg with
      | .fill _ _ t la _ g _ a _ => !((a == asid && olderGen g sh.gen) || (t == 0xFFFF && inRange sh (la * 64)))
      | _ => true

/-- Banks write back and drop the range's lines (R342). -/
def shootBanks (s : State) (asid : Nat) (sh : Shoot) : State :=
  let hit (l : Line) : Bool := (l.asid == asid || l.asid == 0xFFFF) && inRange sh (l.la * 64)
  let s := s.banks.foldl (fun s e => (e.2.lines.filter hit).foldl writeBack s) s
  { s with banks := s.banks.map fun e => (e.1, { e.2 with lines := e.2.lines.filter fun l => !hit l }) }

/-- Crofts of the set drop the L1 data and instruction lines of the address space in the range, fills on their way included; the lines
of a global window are none of the space's (R341, R349). -/
def shootCrofts (s : State) (b : Nat) (sh : Shoot) : State :=
  let st := setAtId s b
  let hit (va : Nat) : Bool := inRange sh va && !(coverOf st.windows va).elim false Window.g
  let one (k : Croft) : Croft :=
    if k.tenant.elim false (inSet s b) then
      { k with
        l1 := k.l1.filter fun l => !(l.asid == st.asid && inRange sh (l.la * 32))
        icache := k.icache.filter fun l => !hit (l.la * 64)
        prefs := k.prefs.filter fun l => !hit (l.1 * 32)
        ctxs := k.ctxs.map fun e => (e.1, { e.2 with await := e.2.await.map fun a =>
          { a with fills := a.fills.filter fun l => !hit (l * (if a.left = 1 && a.fin == .none then 64 else 32)) } }) }
    else k
  { s with crofts := s.crofts.map fun e => (e.1, one e.2) }

/-- Frame names and throttles of the range are cleared (R344, R346). -/
def shootNames (s : State) (asid : Nat) (sh : Shoot) : State :=
  let hit (tag vp : Nat) : Bool := (tag == asid || tag == 0xFFFF) && inRange sh (vp * 4096)
  { s with chans := s.chans.map fun e => (e.1, { e.2 with
      frames := e.2.frames.filter fun f => !hit f.2.asid f.2.vp
      told := e.2.told.filter fun t => !(t.1 == asid && inRange sh (t.2.1 * 4096)) }) }

/-- The resident report reaches an abort wait (R225, R348). -/
def reportPark (sh : Shoot) (p : Park) : Park :=
  if p.kind = .resident && inRange sh p.count && olderGen (BitVec.ofNat 32 p.d) sh.gen then { p with served := true } else p

/-- A resident report covers the fault answers that are still on their way to contexts of the set (R348). -/
def reportMsg (s : State) (b : Nat) (sh : Shoot) : Msg → Msg
  | .fault who cls id code va gen told =>
      .fault who cls id code va gen (told || (inSet s b who.ten && inRange sh va && olderGen gen sh.gen))
  | m => m

/-- Resident reports: abort waits, held aborts, fault answers on their way, and bay entries, mill steps among them, of the range whose
walks are older (R348). A bay's replays keep their arrival order on the way (R347). -/
def shootReports (s : State) (b asid : Nat) (sh : Shoot) : State :=
  let ctx (k : Context) : Context := { k with
    park := k.park.map (reportPark sh)
    abp := k.abp.map fun a => if inRange sh a.1 && olderGen a.2.1 sh.gen then (a.1, a.2.1, true) else a }
  let croft (k : Croft) : Croft :=
    if k.tenant.elim false (inSet s b) then { k with ctxs := k.ctxs.map fun x => (x.1, ctx x.2) } else k
  let s : State := { s with crofts := s.crofts.map fun e => (e.1, croft e.2)
                            net := s.net.map fun f => { f with msg := reportMsg s b sh f.msg } }
  let names := (s.tenants.filter fun e => inSet s b e.1).flatMap fun e =>
    (e.2.slots.filter fun x => x.2.evicted.any fun p => (reportPark sh p).served && !p.served).map fun x => (e.1, x.1)
  let s := names.foldl (fun s n =>
    testEvicted (updSlot s n.1 n.2 fun k => { k with evicted := k.evicted.map (reportPark sh) }) n.1 n.2) s
  let mine (e : Bay) : Bool := e.hire.isNone && e.req.res.asid == asid && inRange sh e.req.va && olderGen e.gen sh.gen
  let back := s.chans.flatMap fun e => (e.2.bay.filter mine).map fun x => (e.1, x)
  let chan (k : Channel) : Channel := { k with bay := k.bay.filter fun x => !mine x }
  let s : State := { s with chans := s.chans.map fun e => (e.1, chan e.2) }
  back.foldl (fun s e => send s ⟨[5, e.1], .home e.2.req, none⟩) s

/-- What a completed SHOOT leaves of a range whose window was changed before it began (R336). -/
def shootStale (sh : Shoot) (e : Nat × Nat × W32) : List (Nat × Nat × W32) :=
  let cut (r : Nat × Nat) (e : Nat × Nat × W32) : List (Nat × Nat × W32) :=
    if e.2.1 ≤ r.1 || r.2 ≤ e.1 then [e]
    else (if e.1 < r.1 then [(e.1, r.1, e.2.2)] else []) ++ (if r.2 < e.2.1 then [(r.2, e.2.1, e.2.2)] else [])
  if olderGen e.2.2 sh.gen then sh.ranges.foldl (fun es r => es.flatMap (cut r)) [e] else [e]

/-- Everything that follows the drained walks (R349). -/
def finishShoot (s : State) (b : Nat) (sh : Shoot) : State :=
  let asid := (setAtId s b).asid
  let s := shootReports (shootNames (shootCrofts (shootBanks s asid sh) b sh) asid sh) b asid sh
  updSet s b fun x => { x with shoots := x.shoots.filter fun y => y.gen != sh.gen, stale := x.stale.flatMap (shootStale sh) }

/-- The SHOOT of generation g is the oldest of its space and its walks have drained: it completes; or it has completed already. none:
not yet. -/
def tryShoot (s : State) (b : Nat) (g : W32) : Option State :=
  let xs := (setAtId s b).shoots
  if xs.all fun sh => sh.gen != g then some s
  else match xs with
    | sh :: _ => if sh.gen = g && shootDrained s (setAtId s b).asid sh then some (finishShoot s b sh) else none
    | [] => none

/-- The SHOOT of generation g completes at once, those before it in their order first: the older walks still under way start again under
the current generation, the older fills on their way are discarded (R341, R349). -/
def completeShoot (s : State) (b : Nat) (g : W32) : State :=
  let st := setAtId s b
  let old (a : Nat) (n : W32) : Bool := a == st.asid && olderGen n st.gen
  let again (w : Walk) : Walk := if old w.asid w.gen then { w with gen := st.gen } else w
  let done := st.shoots.filter fun sh => sh.gen == g || olderGen sh.gen g
  let stays (f : Flight) : Bool := match f.msg with
    | .fill _ n t la _ _ _ a _ => !(old a n || (t == 0xFFFF && done.any fun sh => inRange sh (la * 64)))
    | _ => true
  let s : State := { s with
    chans := s.chans.map fun e => (e.1, { e.2 with walks := e.2.walks.map again })
    net := s.net.filter stays }
  done.foldl (fun s sh => finishShoot s b sh) s

/-- A context that is killed or given another SLOT while it is frozen, or whose run aborts at a fetch, leaves the instruction it was waiting
in: a SHOOT that has taken its generation completes, a HIRE gives its ring entry back: DESIGN CHOICE, log 94. -/
def abandon (s : State) (c i : Nat) : State :=
  let t := (croftAt s c).tenant.getD 0
  let k := (ctxAt s c i).sub
  if subHire 0 ≤ k && k < subDrop 0 then updTen s t fun x => { x with ring := x.ring.filter fun e => e != k - subHire 0 }
  else if subShoot 0 ≤ k && k < subHire 0 then completeShoot s (tenAt s t).set (BitVec.ofNat 32 (k - subShoot 0))
  else s

def execShoot (h : Hdr) (d a b : GReg) (s : State) : Out :=
  privileged h [.g d, .g a, .g b] (fun s =>
    sealThen false (fun s =>
      let set := mySetId s
      let k := (me s).sub
      let s := if k = 0 then
          let s := beginShoot s set [shootRange (rdG s a).toNat (rdG s b).toNat]
          updMe s fun x => { x with sub := subShoot (setAtId s set).gen }
        else s
      let g : W32 := BitVec.ofNat 32 ((me s).sub - subShoot 0)
      match tryShoot s set g with
      | some s => retireRunNext (wrG s d (g.setWidth 64))
      | none => waitTurn s) s) s

end Sys2Proof.Machine
end

