-- ==== Sys2Proof/Machine/Replies.lean ====
section
/-! DEFINITION. What comes back to a context: acknowledgements, replies, fault answers, aborts, wakes, evictions and
records (R149, R150, R221 to R230, R345). -/

namespace Sys2Proof.Machine

/-- A reply or answer reaches a tenant that is not moving (R361). -/
def tenSettled (s : State) (t : Nat) : Bool := (tenAt s t).move == .settled

/-! ## POSTED_STORE_ACK (R150, R180) -/

/-- The bytes of a posted store that a later one wrote are not forwarded from it any more, once the later one is acknowledged and
gone; nor is the earmark of a block that the later one marked (R151, R241). -/
def shadowed (p q : Posted) : Posted :=
  if q.space != p.space then q
  else
    let runs := if q.runs.any fun r => (List.range r.2.length).any fun i => (runByte p.runs (r.1 + i)).isSome then
        q.runs.flatMap fun r => ((List.range r.2.length).filter fun i => (runByte p.runs (r.1 + i)).isNone).map fun i =>
          (r.1 + i, (r.2.drop i).take 1)
      else q.runs
    { q with runs := runs, mark := if p.mark.isSome && q.addr / 64 = p.addr / 64 then none else q.mark }
/-- A posted store is acknowledged and gone; those before it in the list are older. -/
def unpost (p : Posted) (qs : List Posted) : List Posted :=
  (qs.takeWhile fun q => q.id != p.id).map (shadowed p) ++ (qs.dropWhile fun q => q.id != p.id).drop 1

/-- One acknowledgement: a posted store's class is lowered once, when the last of its pieces in that class is acknowledged
(R150, R159); an acknowledgement of anything else lowers its class. -/
def ackCtx (cls id : Nat) (k : Context) : Context :=
  match k.posted.find? fun p => p.id == id with
  | none => subCount cls k
  | some p =>
      let left := p.left.erase cls
      let rest := if left.isEmpty then unpost p k.posted
        else k.posted.map fun q => if q.id = id then { q with left := left } else q
      let k := { k with posted := rest }
      if left.contains cls then k else subCount cls k

def execPostedStoreAck (s : State) : Out :=
  .next <| match deliverable s (argN s 0) with
    | some (.ack who cls id) =>
        let s := drop s (argN s 0)
        match findCounts s who with
        | some (c, i) => updCtx s c i (ackCtx cls id)
        | none => s
    | _ => s

/-! ## ACCESS_REPLY (R149, R154, R163, R164, R194, R239) -/

/-- An access out of the rotation ends in a fault of its instruction: the pair's other slot is undone (R69), and the fault
of an access that performed after a seal belongs to the run that begins with it (R226). A freeze command that waited for the
reply has nothing left to wait for (R380). -/
def failAwait (s : State) (c i : Nat) (a : Await) (code aux addr : Nat) : State :=
  let s := match a.again with
    | some (t, _) => feLeave s t (agentOf s c i)
    | none => s
  let s := updCtx s c i fun k =>
    let r := k.owe.undo.getD k.regs
    let k := { k with regs := r, owe := Owing.none, tgt := none, await := none, frz := false, acc := k.acc + 1 }
    if a.run = .begin then runAt r a.base k else k
  freezeAt s c i code a.slot a.base aux addr

/-- A write that was to take effect with the pair's other slot does so now (R68, R69). -/
def settleLate (s : State) (c i : Nat) (late : Option Late) : State :=
  match late with
  | none => s
  | some (.bin k x) => updCtx s c i fun y => { y with regs := if h : k < 8 then putB y.regs ⟨k, h⟩ x else y.regs }
  | some (.special n x) => { specialWrite { s with cur := (c, i) } n x with cur := s.cur }

/-- The run that goes on after an access (R155, R182, R221). -/
def runAfter (r : RunEnd) (k : Context) : Context :=
  match r with
  | .keep => k
  | .begin => runStartOf k
  | .restart => { k with shadow := k.regs, runStart := k.pc }

/-- Every reply is in: the result is written and the context is ready, or frozen where a freeze command waits (R380). -/
def finishAwait (s : State) (c i : Nat) (a : Await) : State :=
  match a.fin with
  | .args _ _ =>
      updCtx s c i fun k => { k with
        mode := if k.frz then .frozen else .running, frz := false, pc := a.base, await := if k.frz then none else some a
        fetched := if k.frz then none else k.fetched, wins := if k.frz then none else k.wins, acc := k.acc + 1
        regs := k.owe.undo.getD k.regs, owe := Owing.none }
  | _ =>
      let owe := (ctxAt s c i).owe
      let s := updCtx s c i fun k => runAfter a.run { k with
        regs := keepReg owe.keep k.regs (applyDone a.fin a.buf k.regs), owe := Owing.none, await := none
        mode := if k.frz then .frozen else .running, frz := false, acc := k.acc + 1 }
      let s := settleLate s c i owe.late
      -- a CRTRY acquires where it takes a record (R242)
      let took : Bool := match a.fin with | .crib _ _ => a.buf.testBit 512 | _ => true
      let s := if a.acq && took then flashL1 s c else s
      if a.run = .begin && (croftAt s c).quiesce && (ctxAt s c i).mode = .running then
        let s := tick s
        updCtx s c i (unstart s.now)
      else s

def parkDest : Done → Nat | .g d _ _ => d | .crib d _ => d | .hire d _ => d | _ => 0

/-- A listed context parks (R163, R194). -/
def parkAwait (s : State) (c i : Nat) (a : Await) : State :=
  let s := tick s
  updCtx s c i fun k => { k with
    mode := .parked, await := none, owe := Owing.none
    park := some { Park.plain a.wake.1 a.wake.2.1 a.wake.2.2 (parkDest a.fin) 0 false s.now with
      acc := k.acc, slot := a.slot, base := a.base, owe := k.owe } }

def replyAwait (s : State) (c i : Nat) (a : Await) (r : Reply) : State :=
  if r.refused then
    if a.crib.isNone && 63 ≤ a.refused then failAwait s c i a cFERETRY 0 (a.wake.2.2)
    else
      let due : W64 := (croftAt s c).cyc + 64
      let a' : Await := { a with refused := a.refused + 1, retry := some due }
      updCtx s c i fun k => { k with await := some a' }
  else if r.listed then
    let a := { a with listed := true }
    if (ctxAt s c i).busy then updCtx s c i fun k => { k with await := some a } else parkAwait s c i a
  else match r.err with
    | some (code, aux, addr) => failAwait s c i a code aux addr
    | none =>
        let s := match r.fill with
          | some (la, d, mark) =>
              if a.fills.contains la then
                let st := setAtId s (tenAt s ((croftAt s c).tenant.getD 0)).set
                let tag := tagOf ((coverOf st.windows (la * 32)).elim false Window.g) st.asid
                installL1 s c ⟨tag, la, d, mark⟩
              else s
          | none => s
        let a := { a with left := a.left - 1, buf := a.buf ||| (r.val * 2 ^ (8 * r.pos)), ue := a.ue <|> r.poison }
        if a.left = 0 then
          match a.ue with
          | some x => failAwait s c i a cUE 0 x
          | none => finishAwait s c i a
        else updCtx s c i fun k => { k with await := some a }

/-- A fetched line enters the instruction cache; what it replaces is a free choice (R4, R70, R240). -/
def installCode (s : State) (c la : Nat) (d : LineWord) : State :=
  let k := croftAt s c
  let old := k.icache.filter fun l => l.la != la
  let v := Config.victim s.free % (old.length + 1)
  let kept := if v < old.length || Config.icacheLines ≤ old.length then dropAt old (Nat.min v (old.length - 1)) else old
  let fresh : ILine := ⟨la, d, (k.reparity.find? fun l => l.1 == la).map Prod.snd, false⟩
  draw (setCroft s c { k with icache := kept ++ [fresh], reparity := k.reparity.filter fun l => l.1 != la })

/-- A fetch is answered (R70, R72, R154). An instruction that waits over several turns keeps its progress. -/
def codeReply (s : State) (c i : Nat) (a : Await) (la : Nat) (d : LineWord) (poison : Option Nat) : State :=
  match poison with
  | some x =>
      let k := ctxAt s c i
      updCtx (failAwait s c i a cUE 0 x) c i fun y => { y with stage := k.stage, sub := k.sub }
  | none =>
      let s := if a.fills.contains la then installCode s c la d else s
      updCtx s c i fun k => { k with
        await := none, mode := if k.frz then .frozen else .running, frz := false, acc := k.acc + 1 }

/-- A reply reaches the context that waits for it, or the continuation that its access parked; the reply of an access that is
over, or of a run that aborted, is discarded (R225, R227, R345). -/
def execAccessReply (s : State) : Out :=
  .next <| match deliverable s (argN s 0) with
    | some (.pref core id l) =>
        let s := drop s (argN s 0)
        let k := croftAt s core
        if k.prefs.contains (l.la, id) then
          installL1 (setCroft s core { k with prefs := k.prefs.erase (l.la, id) }) core l
        else s
    | some (.code who la d poison) =>
        if !tenSettled s who.ten then s else
        let s := drop s (argN s 0)
        match findAccess s who with
        | some (c, i) => match (ctxAt s c i).await with | some a => codeReply s c i a la d poison | none => s
        | none => s
    | some (.reply who r) =>
        if !tenSettled s who.ten then s else
        let s := drop s (argN s 0)
        match findAccess s who with
        | some (c, i) =>
            match (ctxAt s c i).mode, (ctxAt s c i).await with
            | .awaiting, some a => replyAwait s c i a r
            | _, _ => if r.listed || r.refused then s else serveAgent s who (r.val % 2 ^ 512) (64 ≤ r.n) r.poison
        | none => if r.listed || r.refused then s else serveAgent s who (r.val % 2 ^ 512) (64 ≤ r.n) r.poison
    | _ => s

/-! ## FAULT_ANSWER, ABORT_WAIT_END (R153, R225, R345) -/

/-- The run aborts: held atomics discarded, shadow restored, an abort wait (R225), over already where the page has been reported
resident (R348). What is still to come for its accesses finds
another access number. -/
def abortRun (s : State) (c i va : Nat) (gen : W32) (told : Bool) : State :=
  let s := tick (abandon s c i)
  updCtx s c i fun k => { k with
    held := [], regs := restoreRegs k.budget k.regs k.shadow, aborts := Nat.min (k.aborts + 1) 0xFFFF, mode := .parked
    pc := k.runStart, stage := .open, sub := 0, tgt := none, await := none, owe := Owing.none, grp := none, abp := none
    fetched := none, wins := none
    acc := k.acc + 1
    park := some { Park.plain .resident 0 va gen.toNat 0 told s.now with acc := k.acc + 1 } }

/-- A fault answer: of a store, while its count stands; of any other access, while its context waits for it (R345). -/
def execFaultAnswer (s : State) : Out :=
  .next <| match deliverable s (argN s 0) with
    | some (.fault who cls id _ va gen told) =>
        if !tenSettled s who.ten then s else
        let s := drop s (argN s 0)
        match (if cls = 0 then findAccess s who else findCounts s who) with
        | none => s
        | some (c, i) =>
            let s := if cls = 0 then s else updCtx s c i (ackCtx cls id)
            let k := ctxAt s c i
            if k.mode = .frozen then
              updCtx s c i fun k => { k with abp := if k.abp.isSome then k.abp else some (va, gen, told) }
            else if k.mode = .parked && k.park.any fun p => p.kind == .resident then s
            else abortRun s c i va gen told
    | _ => s

/-- The aborted run re-executes from its start, with its runseq (R225). -/
def reexecute (s : State) (c i : Nat) : State :=
  updCtx s c i fun k => { k with
    mode := if k.frz then .frozen else .running, frz := false, park := none, shadow := k.regs, pc := k.runStart, tgt := none }

/-- A re-execution is no new run, so a quiescing field does not hold it back (R28, R367). -/
def execAbortWaitEnd (s : State) : Out :=
  .next <|
    let c := argN s 0
    let i := argN s 1
    let k := ctxAt s c i
    let ready : Bool := k.mode == .parked && k.park.any fun p => p.kind == .resident && p.served
    if ready && !k.busy && !(croftAt s c).stopped then reexecute s c i else s

/-! ## RUN_SEAL, PARK (R223) -/

def execRunSeal (s : State) : Out :=
  .next <|
    let k := ctxAt s (argN s 0) (argN s 1)
    if k.mode = .running && k.stage = .sealing && !k.busy then sealRun s (argN s 0) (argN s 1) else s

def execPark (s : State) : Out :=
  .next <|
    let k := ctxAt s (argN s 0) (argN s 1)
    match k.await with
    | some a => if k.mode = .awaiting && a.listed && !k.busy then parkAwait s (argN s 0) (argN s 1) a else s
    | none => s

/-! ## PARKED_WAKE (R189, R191, R196, R223) -/

/-- A channel is deliverable (R196). -/
def chanReady (k : Chan) : Bool := k.slot.isSome && !k.h && k.y && !k.q.isEmpty
/-- The first deliverable channel after the last one served (R196). -/
def nextChan (k : Tenant) : Option Nat :=
  ((List.range 32).map fun j => (k.lastChan + 1 + j) % 32).find? fun c => chanReady (chanOf k c)

/-- CHNEXT takes channel ch's oldest message; one parked sender of it is served (R196). keep: what the higher slot of the pair
wrote of a register stays (R34). -/
def chanTake (s : State) (t c i ch d a : Nat) (keep : Option (Nat × Nat)) : State :=
  let k := chanOf (tenAt s t) ch
  match k.q with
  | [] => s
  | (m0, m1) :: q =>
      let x := ch * 2 ^ 58 + k.slot.getD 0
      let s := updCtx s c i fun y => { y with
        regs := keepReg keep y.regs
          (putGn (putGn (putGn y.regs d m0.toNat) (d + 1) m1.toNat) a x) }
      let s := updTen (setChan s t ch { k with q := q }) t fun y => { y with lastChan := ch }
      match (tenAt s t).senders.find? fun w => w.chan == ch with
      | none => s
      | some w =>
          let k := chanOf (tenAt s t) ch
          let s := setChan s t ch { k with q := k.q ++ [(w.m0, w.m1)] }
          let s := updTen s t fun y => { y with senders := y.senders.erase w }
          send s ⟨[], .reply w.who (okReply 0 8 0), some c⟩

/-- An arrival goes to the barrier network (R190). -/
def sendArrival (s : State) (c i sc id n : Nat) (bin : Option Nat) : State :=
  let who := agentOf s c i
  send s ⟨[], .arrive (tenAt s who.ten).set 0 n ⟨who, bin⟩ id sc, none⟩

def scopeWide (sc : Nat) : Bool := 3 ≤ sc
def scopeOf (n : Nat) : Scope :=
  match n with | 0 => .lane | 1 => .core | 2 => .quad | 3 => .field | 4 => .die | 5 => .pkg | _ => .pod
def scopeNum : Scope → Nat
  | .lane => 0 | .core => 1 | .quad => 2 | .field => 3 | .die => 4 | .pkg => 5 | .pod => 6

/-- The generation an arrival at (scope, id) of croft c joins. -/
def barrierKey (c sc id : Nat) : Nat := (scopeInst (scopeOf sc) c * 8 + sc) * 16 + id
def barrierAt (s : State) (b key : Nat) : Barrier := sread Barrier.empty (setAtId s b).barriers key

/-- The wake condition of a parked context holds (R229). -/
def wakeHolds (s : State) (c i : Nat) (p : Park) : Bool :=
  match p.kind with
  | .ready => true
  | .bin => if h : p.param < 8 then p.count ≤ (getB (ctxAt s c i).regs ⟨p.param, h⟩).toNat else false
  | .chan => (nextChan (tenAt s ((croftAt s c).tenant.getD 0))).isSome
  | .resident => false
  | _ => p.served

/-- What a parked instruction does on waking beyond its destination (R189, R191, R196, R213). -/
def wakeEffect (s : State) (c i : Nat) (p : Park) : State :=
  let t := (croftAt s c).tenant.getD 0
  match p.kind with
  | .bin =>
      let sub (r : Regs) : Regs :=
        if h : p.param < 8 then putB r ⟨p.param, h⟩ (getB r ⟨p.param, h⟩ - BitVec.ofNat 32 p.count) else r
      flashL1 (updCtx s c i fun k => { k with regs := sub k.regs }) c
  | .feFull =>
      if p.count / 2 ^ 40 = 0x01FE00 && wideScope c (tenAt s (p.count / 2 ^ 16 % 2 ^ 24)).core then flashL1 s c else s
  | .crib => flashL1 s c
  | .barrier =>
      let s := if scopeWide (p.param % 8) then flashL1 s c else s
      match p.rearrive with
      | some (sc, id, n, bin) => sendArrival s c i sc id n bin
      | none => s
  | .chan => match nextChan (tenAt s t) with
      | some ch => flashL1 (chanTake s t c i ch p.d p.a p.owe.keep) c
      | none => s
  | .resume => flashL1 s c
  | _ => s

/-- The parked instruction completes and a new run begins at the next slot (R221, R223). A full/empty operation whose word was
found poisoned faults instead, in the run that begins with it (R154, R226). -/
def completeWake (s : State) (c i : Nat) (p : Park) : State :=
  match p.ue with
  | some x =>
      let s := updCtx s c i fun k =>
        let r := p.owe.undo.getD k.regs
        runAt r p.base { k with regs := r, park := none, frz := false, acc := p.acc + 1 }
      freezeAt s c i cUE p.slot p.base 0 x
  | none =>
      let s := settleLate (wakeEffect s c i p) c i p.owe.late
      updCtx s c i fun k => runStartOf { k with
        mode := if k.frz then .frozen else .running, frz := false, park := none, acc := p.acc + 1 }

def execParkedWake (s : State) : Out :=
  .next <|
    let c := argN s 0
    let i := argN s 1
    let k := ctxAt s c i
    match k.park with
    | some p =>
        if k.mode = .parked && wakeHolds s c i p && !(croftAt s c).stopped && !(croftAt s c).quiesce then completeWake s c i p
        else s
    | none => s

/-! ## EVICTION, RECORD_TAKE (R220, R228, R229) -/

def isHand (i : Nat) : Bool := 1 ≤ i && i ≤ 14
def freeHand (s : State) (c : Nat) : Option Nat :=
  (List.range 14).map (· + 1) |>.find? fun i => (ctxAt s c i).mode == .free

/-- The hand that has been parked longest (R228). A hand in the abort wait whose counts are not zero is none: R224 has the counts
zero at every suspension, and R225 lets only the abort wait hold them. DESIGN CHOICE, log 62. -/
def longestParked (s : State) (c : Nat) : Option Nat :=
  let hs := ((List.range 14).map (· + 1)).filter fun i => (ctxAt s c i).mode == .parked && !(ctxAt s c i).busy
  let ord (i : Nat) : Nat := ((ctxAt s c i).park.elim 0 Park.order)
  hs.find? fun i => hs.all fun j => ord i ≤ ord j

def execEviction (s : State) : Out :=
  .next <|
    let c := argN s 0
    match (croftAt s c).tenant with
    | some t =>
        if hasRecord s t && (freeHand s c).isNone && tenSettled s t && !(croftAt s c).stopped then
          match longestParked s c with | some i => evict s c i | none => s
        else s
    | none => s

/-- The state of R29 with the seeds a budget admits. -/
def seededRegs (b : BitVec 14) (seeds : List Nat) : Regs :=
  { Regs.zero with g := Vector.ofFn fun i : Fin 64 =>
      if 1 ≤ i.val && i.val ≤ 5 && gAdmitted b i.val then BitVec.ofNat 64 ((nth seeds (i.val - 1)).getD 0) else 0 }

/-- Start a continuation on a context: its first run, whose start slot's TGT bit is checked (R65, R220, R221). pwin, which R17
and R29 do not name at sowing, is 0: DESIGN CHOICE, log 2. -/
def startCtx (s : State) (c i slot name : Nat) (regs : Regs) (b : BitVec 14) (priv : Bool) (o : Origin) (pop : Nat) : State :=
  let s := tick s
  updCtx s c i fun _ => { Context.empty with
    mode := .running, regs := regs, shadow := regs, pc := slot, runStart := slot, runseq := 1, budget := b, priv := priv
    name := name, epoch := s.now, cnt := s.now, origin := o, pop := pop, tgt := some 0xF0 }

/-- Take the oldest record of the continuation queue into a free hand. -/
def takeRecord (s : State) (c t i : Nat) : State :=
  match dequeue s t with
  | none => s
  | some (r, s) =>
      let x := r.toNat
      let f (lo n : Nat) : Nat := x / 2 ^ lo % 2 ^ n
      let name := f 352 7
      if crc64 ((toBytes 64 x).take 56) != f 448 64 then
        report s (tenAt s t).set (agCroft c) false (mkReport cUE 0 c 0 t 0 0 0 (recordPa s t name))
      else
        let b := BitVec.ofNat 14 (f 304 14)
        let pa := framePa s t name
        let sl := slotAt s t name
        let s := updSlot s t name fun k => { k with
          evicted := none, queued := false, arrivals := [], hires := [], frz := false, sealed_ := false }
        if f 59 1 = 1 then
          let seeds := (List.range 5).map fun j => memGet s (pa + 264 + 8 * j) 8
          startCtx s c i (f 0 57) name (seededRegs b seeds) b (f 57 1 == 1) sl.origin (f 280 24)
        else
          let s := tick (placeGleans s t).1
          let regs := readFrame s pa b
          let p := sl.evicted.getD (Park.plain (wakeOfCode (f 64 8)) (f 72 56) (f 128 64) 0 0 true 0)
          let s := updCtx s c i fun _ => { Context.empty with
            mode := .parked, regs := regs, shadow := regs, pc := f 0 57, runStart := f 0 57
            runseq := BitVec.ofNat 64 (f 384 64), budget := b, priv := f 57 1 == 1, name := name, epoch := sl.epoch
            acc := p.acc, cnt := s.now, origin := sl.origin, pop := f 280 24, park := some p, arrivals := sl.arrivals, aborts := f 336 16, hires := sl.hires
            frz := sl.frz, stage := if sl.sealed_ then .sealed else .open }
          if f 58 1 = 1 then reexecute s c i else completeWake s c i p

def execRecordTake (s : State) : Out :=
  .next <|
    let c := argN s 0
    match (croftAt s c).tenant, freeHand s c with
    | some t, some i =>
        if tenSettled s t && !(croftAt s c).stopped && !(croftAt s c).quiesce && (tenAt s t).refetch = 0 && gleanRoom s t then
          takeRecord s c t i
        else s
    | _, _ => s

/-! ## FE_RETRY (R164, R196) -/

def execFeRetry (s : State) : Out :=
  .next <|
    let c := argN s 0
    let i := argN s 1
    let k := ctxAt s c i
    match k.mode, k.await with
    | .awaiting, some a =>
        match a.retry, a.again with
        | some t, some (ten, op) =>
            if t.toNat ≤ (croftAt s c).cyc.toNat then
              sendCroft (updCtx s c i fun k => { k with await := some { a with retry := none } }) c i ten 1 op none (.reply 0)
            else s
        | _, _ => s
    | _, _ => s

end Sys2Proof.Machine
end

