-- ==== Sys2Proof/Machine/Remote.lean ====
section
/-! DEFINITION. What arrives at a croft: remote accesses, the debug window, channel messages, resumes, landings,
multicasts and frees (R186, R196, R206, R207, R213, R223, R237, R281, R378, R379). -/

namespace Sys2Proof.Machine

/-! ## The debug window (R379) -/

def frozenMask (s : State) (c : Nat) : Nat :=
  (List.range 16).foldl (fun m i => if (ctxAt s c i).mode = .frozen then m + 2 ^ i else m) 0

/-- The aligned 64-bit word at a window offset. -/
def dbgWord (s : State) (c off : Nat) : Nat :=
  let k := croftAt s c
  let x := ctxAt s c k.sel
  if off = 0x0000 then k.sel + k.brken.toNat * 2 ^ 8 + k.binw.toNat * 2 ^ 9
  else if off = 0x0008 then frozenMask s c
  else if off = 0x0100 then x.regs.fpcsr.toNat
  else if off = 0x0108 then x.runseq.toNat
  else if off = 0x0110 then x.pc
  else if off = 0x0118 then x.budget.toNat
  else if off = 0x0120 then x.o1 % 256 + x.o2 % 256 * 2 ^ 8 + x.o3 % 256 * 2 ^ 16 + x.abp.isSome.toNat * 2 ^ 24
  else if 0x0200 ≤ off && off < 0x0220 then
    let b (i : Nat) : Nat := if h : i < 8 then x.regs.b[i].toNat else 0
    b ((off - 0x200) / 4) + b ((off - 0x200) / 4 + 1) * 2 ^ 32
  else if 0x0300 ≤ off && off < 0x0380 then
    let j := (off - 0x300) / 16
    if h : j < 8 then (if j = 0 then 0 else x.regs.p[j].toNat / 2 ^ (8 * (off % 16)) % 2 ^ 64) else 0
  else if 0x0400 ≤ off && off < 0x0600 then
    let i := (off - 0x400) / 8
    if h : i < 64 then (if i = 0 || !gAdmitted x.budget i then 0 else x.regs.g[i].toNat) else 0
  else if 0x1000 ≤ off && off < 0x2000 then
    let j := (off - 0x1000) / 128
    if h : j < 32 then (if vAdmitted x.budget j then x.regs.v[j].toNat / 2 ^ (8 * (off % 128)) % 2 ^ 64 else 0) else 0
  else 0

def dbgRead (s : State) (c off n : Nat) : Nat :=
  (List.range n).foldl (fun v i =>
    let a := off + i
    v + dbgWord s c (a / 8 * 8) / 2 ^ (8 * (a % 8)) % 256 * 2 ^ (8 * i)) 0

/-- Write the aligned word at an offset; cmd: whether its low byte is among the bytes written (R379). -/
def dbgPut (s : State) (c off x : Nat) (cmd : Bool) : State :=
  let k := croftAt s c
  let i := k.sel
  let y := ctxAt s c i
  let upd (f : Context → Context) : State := if y.mode = .frozen then updCtx s c i f else s
  let regs (f : Regs → Regs) : State := upd fun z => { z with regs := f z.regs }
  if off = 0x0000 then setCroft s c { k with sel := x % 16, brken := x.testBit 8, binw := x.testBit 9 }
  else if off = 0x0010 then
    if cmd && 1 ≤ x % 16 && x % 16 ≤ 5 then setCroft s c { k with cmds := k.cmds ++ [(x % 16, x / 16 % 16)] } else s
  else if off = 0x0100 then regs fun r => { r with fpcsr := BitVec.ofNat 64 x &&& maskFpcsr }
  else if off = 0x0110 then 
    if y.mode = .frozen && slotOk (x % 2 ^ 57) then
      updCtx (abandon s c i) c i fun z => { z with pc := x % 2 ^ 57, stage := .open, sub := 0, acc := z.acc + 1, await := none }
    else s
  else if 0x0200 ≤ off && off < 0x0220 && k.binw then
    let b := (off - 0x200) / 4
    let put (r : Regs) (i v : Nat) : Regs := if h : i < 8 then putB r ⟨i, h⟩ (BitVec.ofNat 32 v) else r
    regs fun r => put (put r b (x % 2 ^ 32)) (b + 1) (x / 2 ^ 32)
  else if 0x0300 ≤ off && off < 0x0380 then
    let j := (off - 0x300) / 16
    let sh := 8 * (off % 16)
    let put (r : Regs) : Regs :=
      if h : j < 8 then
        putP r ⟨j, h⟩ ((r.p[j] &&& ~~~(BitVec.ofNat 128 ((2 ^ 64 - 1) * 2 ^ sh))) ||| BitVec.ofNat 128 (x * 2 ^ sh))
      else r
    regs put
  else if 0x0400 ≤ off && off < 0x0600 then
    let j := (off - 0x400) / 8
    if gAdmitted y.budget j then regs fun r => putGn r j x else s
  else if 0x1000 ≤ off && off < 0x2000 then
    let j := (off - 0x1000) / 128
    let sh := 8 * (off % 128)
    if vAdmitted y.budget j then
      regs fun r => putVn r j (x * 2 ^ sh) (BitVec.ofNat 1024 ((2 ^ 64 - 1) * 2 ^ sh))
    else s
  else s

/-- A store of bytes to the window: word by word, each with the bytes it does not name kept. -/
def dbgStore (s : State) (c off : Nat) (bs : List Byte) : State :=
  (pieces 8 off bs.length).foldl (fun s q =>
    let w := q.1 / 8 * 8
    let sh := 8 * (q.1 - w)
    let m := (2 ^ (8 * q.2) - 1) * 2 ^ sh
    let old := if w = 0x0010 then 0 else dbgWord s c w
    let new := ofBytes ((bs.drop (q.1 - off)).take q.2) * 2 ^ sh
    dbgPut s c w ((old &&& (2 ^ 64 - 1 - m)) ||| new) (q.1 = w)) s

/-! ## REMOTE_CROFT_ACCESS (R237) -/

/-- An answer, from the place at which it enters the meadow (R289). -/
def replyTo (s : State) (src : Option Nat) (who : Agent) (r : Reply) : State := send s ⟨[], .reply who r, src⟩
def ackTo (s : State) (src : Option Nat) (who : Agent) (a : AckTo) : State :=
  match a with
  | .cls k id => send s ⟨[], .ack who k id, src⟩
  | .hire id i => hireCounted s id i
  | _ => s

/-- One 16-byte unit and its earmark land in a tenant's croft memory. -/
def putUnit (s : State) (t : Nat) (u : Nat × List Byte) (mark : Option Mark) (bad : Bool) : State :=
  let s := cmPut s t u.1 u.2
  let s := match mark with | some m => cmSetMark s t u.1 m | none => s
  if bad then cmSpoil s t u.1 (Nat.max 1 u.2.length) else s

/-- A debug command waits in the window: the window's accesses after it wait too, so that its stores take effect in issue
order (R378, R379). -/
def windowHeld (s : State) (t : Nat) : CroftOp → Bool
  | .debugLoad _ _ => !(croftAt s (tenAt s t).core).cmds.isEmpty
  | .debugStore _ _ => !(croftAt s (tenAt s t).core).cmds.isEmpty
  | _ => false

/-- Apply a remote access at its owner croft; the packet stays while units of it remain, which perform in any order (R245). -/
def applyRemote (s : State) (n t e : Nat) (who : Agent) (op : CroftOp) (ack : AckTo) (bad : Bool) : State :=
  let poison (off k : Nat) : Option Nat := (poisonIn (fun b => cmMark s t b) off k).map fun b => remBase + t * 2 ^ 16 + b
  let blk (off : Nat) : Nat := feBlock t off
  let core := (tenAt s t).core
  if windowHeld s t op then s else
  match op with
  | .load us =>
      let j := argN s 1 % us.length
      match nth us j with
      | none => s
      | some (off, k, pos) =>
          let s := replyTo s (some core) who { okReply pos k (cmGet s t off k) with poison := poison off k, blk := blk off }
          if us.length ≤ 1 then drop s n else replace s n (.croft t e who (.load (dropAt us j)) none ack bad)
  | .store us mark =>
      let j := argN s 1 % us.length
      match nth us j with
      | none => s
      | some u =>
          let s := putUnit s t u mark bad
          if us.length ≤ 1 then ackTo (drop s n) (some core) who ack
          else replace s n (.croft t e who (.store (dropAt us j) none) none ack bad)
  | .festat off =>
      replyTo (drop s n) (some core) who { okReply 0 8 (feBits s t off) with poison := poison (off / 64 * 64) 64, blk := blk off }
  | .getmark off =>
      replyTo (drop s n) (some core) who { okReply 0 2 (cmMark s t off).toNat with poison := poison (off / 64 * 64) 64, blk := blk off }
  | .debugLoad off k => replyTo (drop s n) (some core) who (okReply 0 k (dbgRead s core off k))
  | .debugStore off bs => ackTo (dbgStore (drop s n) core off bs) (some core) who ack
  | .chhold ch b => ackTo (setChan (drop s n) t ch { chanOf (tenAt s t) ch with h := b }) (some core) who ack
  | .chready ch b => ackTo (setChan (drop s n) t ch { chanOf (tenAt s t) ch with y := b }) (some core) who ack
  | _ => s

def execRemoteCroftAccess (s : State) : Out :=
  .next <| match arriving s (argN s 0) with
    | some (.croft t e who op none ack bad) => applyRemote s (argN s 0) t e who op ack bad
    | _ => s

/-! ## CHANNEL_MESSAGE, RESUME_ARRIVAL (R196, R213) -/

def execChannelMessage (s : State) : Out :=
  .next <| match arriving s (argN s 0) with
    | some (.croft t _ who (.chsend ch m0 m1) _ _ _) =>
        let s := drop s (argN s 0)
        let k := chanOf (tenAt s t) ch
        let reply (s : State) : Reply → State := replyTo s (some (tenAt s t).core) who
        if k.q.length < Config.channelDepth then reply (setChan s t ch { k with q := k.q ++ [(m0, m1)] }) (okReply 0 8 0)
        else if parkRoom s t then
          reply (updTen s t fun x => { x with senders := x.senders ++ [⟨ch, m0, m1, who⟩] }) { okReply 0 8 0 with listed := true }
        else reply s { okReply 0 8 0 with refused := true }
    | _ => s

/-- The continuations of a tenant parked in SUSP with a tag: by name. -/
def suspended (s : State) (t tag : Nat) : List Nat :=
  (List.range 80).filter fun name => (parkOf s t name).any fun p => p.kind == .resume && p.param == tag && !p.served

def execResumeArrival (s : State) : Out :=
  .next <| match arriving s (argN s 0) with
    | some (.croft t _ who (.resume tag) _ ack _) =>
        let s := ackTo (drop s (argN s 0)) (some (tenAt s t).core) who ack
        let ns := suspended s t tag
        if ns.isEmpty then
          updTen s t fun k => { k with resumes := if k.resumes.contains tag then k.resumes else k.resumes ++ [tag] }
        else ns.foldl (fun s name => serveName s t name 0 false) s
    | _ => s

/-! ## LANDING (R205, R223, R247, R258) -/

/-- A landing packet writes its aligned 16-byte units, in any order, and with the last of them counts its bin (R223, R247). -/
def execLanding (s : State) : Out :=
  .next <| match arriving s (argN s 0) with
    | some (.croft t e who (.store us mark) (some bin) ack bad) =>
        let n := argN s 0
        let j := argN s 1 % us.length
        match nth us j with
        | none => s
        | some u =>
            let s := putUnit s t u mark bad
            if us.length ≤ 1 then ackTo (landBin (drop s n) bin false) (some (tenAt s t).core) who ack
            else replace s n (.croft t e who (.store (dropAt us j) none) (some bin) ack bad)
    | _ => homeGo (fun r => r.bin.isSome && (match r.op with | .store _ _ => true | .rest _ => true | _ => false)) s

/-! ## STCM_DELIVERY, MULTICAST_FREE (R206, R207, R281) -/

/-- Where a multicast branches: the receivers' ways go on to different routers or receivers from there (R281). -/
def branchesAt (m : Multicast) (r : Nat) : Bool :=
  let after (w : Nat × List Nat) : Option (Option Nat × Nat) :=
    if w.2.contains r then
      match (w.2.dropWhile fun x => x != r).drop 1 with | x :: _ => some (some x, 0) | [] => some (none, w.1)
    else none
  1 < (m.ways.filterMap after).eraseDups.length
/-- Free entries of a router in use: one for each multicast that took one there and has a receiver below it that has not
freed (R281). -/
def entriesAt (s : State) (r : Nat) : Nat :=
  (s.tenants.map fun t => (t.2.frees.filter fun m =>
    m.entries.contains r && m.ways.any fun w => w.2.contains r && m.left.contains w.1).length).sum
/-- The way of a multicast to one receiver takes a free entry at each router where it branches, as far as there is room; whether
it reached the receiver. -/
def takeEntries (s : State) (sender : Nat) (m : Multicast) : List Nat → State × Bool
  | [] => (s, true)
  | r :: rs =>
      if !branchesAt m r || m.entries.contains r then takeEntries s sender m rs
      else if entriesAt s r < Config.freeEntries then
        let m' := { m with entries := m.entries ++ [r] }
        takeEntries (updTen s sender fun k => { k with frees := k.frees.map fun x => if x = m then m' else x }) sender m' rs
      else (s, false)

/-- A multicast reaches one receiver; one that finds a router's free entries all taken waits there (R206, R281). It writes its aligned
16-byte units, in any order, and with the last of them counts the receiver's bin (R245, R247). -/
def execStcmDelivery (s : State) : Out :=
  .next <| match arriving s (argN s 0) with
    | some (.croft t e who (.stcm us name bin tag) none ack bad) =>
        let way (m : Multicast) : List Nat := (m.ways.find? fun w => w.1 == t).elim [] Prod.snd
        let (s, ok) := match (tenAt s who.ten).frees.find? fun m => m.tag == tag && m.left.contains t with
          | some m => takeEntries s who.ten m (way m)
          | none => (s, true)
        let j := argN s 1 % us.length
        match (if ok then nth us j else none) with
        | none => s
        | some u =>
        let s := putUnit s t u none bad
        if 1 < us.length then replace s (argN s 0) (.croft t e who (.stcm (dropAt us j) name bin tag) none ack bad)
        else
          let s := landBin (drop s (argN s 0)) ⟨t, name, bin⟩ false
          let last : Bool := !(s.net.any fun f => match f.msg with
            | .croft _ _ w (.stcm _ _ _ _) _ a _ => w == who && a == ack | _ => false)
          if last then ackTo s (some (tenAt s t).core) who ack else s
    | _ => s

/-- One receiver has freed a multicast; the last one counts the sender's free bin (R207). -/
def freeOne (s : State) (sender tag by_ : Nat) : State :=
  match (tenAt s sender).frees.find? fun f => f.tag == tag && f.left.contains by_ with
  | none => s
  | some f =>
      let left := f.left.erase by_
      let rest := (tenAt s sender).frees.erase f
      if left.isEmpty then landBin (updTen s sender fun k => { k with frees := rest }) ⟨sender, f.name, f.bin⟩ false
      else updTen s sender fun k => { k with frees := rest ++ [{ f with left := left }] }

def execMulticastFree (s : State) : Out :=
  .next <| match deliverable s (argN s 0) with
    | some (.free sender tag by_ who cls id) =>
        if tenSettled s sender then
          send (freeOne (drop s (argN s 0)) sender tag by_) ⟨[], .ack who cls id, some (tenAt s sender).core⟩
        else s
    | _ => s

end Sys2Proof.Machine
end

