-- ==== Sys2Proof/Machine/Vec.lean ====
section
/-! DEFINITION. Vector arithmetic, comparisons, permutes, reductions, VXACC and conversion (R120 to R146). -/

namespace Sys2Proof.Machine

/-! ## Element-wise (R123 to R127) -/

/-- An element-wise instruction with up to three sources. -/
def vecOp (t : ElemType) (d a : VReg) (b : VSrc) (c : VReg) (rs : List Rn) (f : FMode → Nat → Nat → Nat → Nat × Nat)
    (h : Hdr) (s : State) : Out :=
  vector h t.width (.v d :: .v a :: rs) (fun s =>
    let md := fmode s
    let r := vmap t.width (guardBits h s) (getV (me s).regs d) fun i =>
      f md (elem t.width (rdV s a) i) (vsrcElem s t b i) (elem t.width (rdV s c) i)
    retire (raiseFlags (wrV s d r.1) r.2)) s

def vbinOp (f : ElemType → FMode → Nat → Nat → Nat × Nat) (h : Hdr) (o : VBin) (s : State) : Out :=
  vecOp o.t o.d o.a o.b 0 (vsrcRn o.b) (fun md x y _ => f o.t md x y) h s
def vtriOp (f : ElemType → FMode → Nat → Nat → Nat → Nat × Nat) (h : Hdr) (o : VTri) (s : State) : Out :=
  vecOp o.t o.d o.a o.b o.c (.v o.c :: vsrcRn o.b) (fun md x y z => f o.t md x y z) h s
def vunOp (f : ElemType → FMode → Nat → Nat × Nat) (h : Hdr) (o : VUn) (s : State) : Out :=
  vecOp o.t o.d o.a (.imm 0) 0 [] (fun md x _ _ => f o.t md x) h s

/-- An integer result on integer types, a floating one otherwise. -/
def intOr (t : ElemType) (fi : Int → Int → Int) (ff : Fmt → FMode → Nat → Nat → Nat × Nat) (md : FMode) (x y : Nat) :
    Nat × Nat :=
  if ElemType.isInt t then (ofS t.width (fi (readI t x) (readI t y)), 0)
  else floatOp t (fun f a b _ => ff f md a b) x y 0
def floatBin (ff : Fmt → FMode → Nat → Nat → Nat × Nat) (t : ElemType) (md : FMode) (x y : Nat) : Nat × Nat :=
  floatOp t (fun f a b _ => ff f md a b) x y 0
def floatTri (ng nc : Bool) (t : ElemType) (md : FMode) (x y z : Nat) : Nat × Nat :=
  floatOp t (fun f a b c => fmaF f md ng nc a b c) x y z
def floatUn (ff : Fmt → FMode → Nat → Nat × Nat) (t : ElemType) (md : FMode) (x : Nat) : Nat × Nat :=
  floatOp t (fun f a _ _ => ff f md a) x 0 0

def execVadd (h : Hdr) (o : VBin) (s : State) : Out := vbinOp (fun t => intOr t (· + ·) addF) h o s
def execVsub (h : Hdr) (o : VBin) (s : State) : Out := vbinOp (fun t => intOr t (· - ·) subF) h o s
def execVmul (h : Hdr) (o : VBin) (s : State) : Out := vbinOp (fun t => intOr t (· * ·) mulF) h o s
def execVfma (h : Hdr) (o : VTri) (s : State) : Out := vtriOp (floatTri false false) h o s
def execVfms (h : Hdr) (o : VTri) (s : State) : Out := vtriOp (floatTri false true) h o s
def execVfnma (h : Hdr) (o : VTri) (s : State) : Out := vtriOp (floatTri true false) h o s
def execVdiv (h : Hdr) (o : VBin) (s : State) : Out := vbinOp (floatBin divF) h o s
def execVsqrt (h : Hdr) (o : VUn) (s : State) : Out := vunOp (floatUn sqrtF) h o s
def execVrcp (h : Hdr) (o : VUn) (s : State) : Out := vunOp (floatUn rcpF) h o s
def execVrsq (h : Hdr) (o : VUn) (s : State) : Out := vunOp (floatUn rsqF) h o s
def execVmin (h : Hdr) (o : VBin) (s : State) : Out :=
  vbinOp (fun t => intOr t Min.min fun f md => minmaxF f md.fz false) h o s
def execVmax (h : Hdr) (o : VBin) (s : State) : Out :=
  vbinOp (fun t => intOr t Max.max fun f md => minmaxF f md.fz true) h o s
def execVabs (h : Hdr) (o : VUn) (s : State) : Out :=
  vunOp (fun t md x => if ElemType.isInt t then (ofS t.width ((readI t x).natAbs : Int), 0)
    else floatUn (fun f _ => absF f) t md x) h o s
def execVneg (h : Hdr) (o : VUn) (s : State) : Out :=
  vunOp (fun t md x => if ElemType.isInt t then (ofS t.width (-(readI t x)), 0)
    else floatUn (fun f _ => negF f) t md x) h o s
def execVmulh (h : Hdr) (o : VBin) (s : State) : Out :=
  vbinOp (fun t _ x y => (ofS t.width (readI t x * readI t y / 2 ^ t.width), 0)) h o s
def execVadds (h : Hdr) (o : VBin) (s : State) : Out :=
  vbinOp (fun t _ x y => (ofS t.width (clampI t (readI t x + readI t y)), 0)) h o s
def execVsubs (h : Hdr) (o : VBin) (s : State) : Out :=
  vbinOp (fun t _ x y => (ofS t.width (clampI t (readI t x - readI t y)), 0)) h o s

def vbitOp (f : ElemType → Nat → Nat → Nat) (h : Hdr) (o : VBin) (s : State) : Out :=
  vbinOp (fun t _ x y => (f t x y % 2 ^ t.width, 0)) h o s
def execVand (h : Hdr) (o : VBin) (s : State) : Out := vbitOp (fun _ x y => x &&& y) h o s
def execVor (h : Hdr) (o : VBin) (s : State) : Out := vbitOp (fun _ x y => x ||| y) h o s
def execVxor (h : Hdr) (o : VBin) (s : State) : Out := vbitOp (fun _ x y => x ^^^ y) h o s
def execVandn (h : Hdr) (o : VBin) (s : State) : Out := vbitOp (fun _ x y => x ^^^ (x &&& y)) h o s
def execVshl (h : Hdr) (o : VBin) (s : State) : Out :=
  vbitOp (fun t x n => if t.width ≤ n then 0 else x * 2 ^ n) h o s
def execVshr (h : Hdr) (o : VBin) (s : State) : Out :=
  vbitOp (fun t x n => if t.width ≤ n then 0 else x / 2 ^ n) h o s
def execVsha (h : Hdr) (o : VBin) (s : State) : Out :=
  vbitOp (fun t x n => ofS t.width (toS t.width x / 2 ^ Nat.min n t.width)) h o s

/-! ## Comparisons, selection, predicates (R128 to R132) -/

/-- A comparison of two elements and its flags (R129). -/
def vcond (t : ElemType) (md : FMode) (c : Cond) (x y : Nat) : Bool × Nat :=
  if ElemType.isInt t then (condI c t.width x y, 0) else condF (fmtOf t) md.fz c x y

def execVcmp (h : Hdr) (o : VCmp) (s : State) : Out :=
  vector h o.t.width (.v o.a :: vsrcRn o.b) (fun s =>
    let w := o.t.width
    let g := guardBits h s
    let r := (List.range (numElems w)).foldl (fun (acc : Nat × Nat × Nat) i =>
      if active g w i then
        let c := vcond o.t (fmode s) o.c (elem w (rdV s o.a) i) (vsrcElem s o.t o.b i)
        (acc.1 ||| laneBits w i, acc.2.1 ||| (if c.1 then laneBits w i else 0), acc.2.2 ||| c.2)
      else acc) (0, 0, 0)
    let old := getP (me s).regs o.d
    let p := (old &&& ~~~ (BitVec.ofNat 128 r.1)) ||| BitVec.ofNat 128 r.2.1
    retire (raiseFlags (wrP s o.d p) r.2.2)) s

def execVsel (h : Hdr) (o : VSelO) (s : State) : Out :=
  vector h o.t.width ([.v o.d, .v o.a] ++ vsrcRn o.b) (fun s =>
    let w := o.t.width
    let r := vmap w (guardBits h s) (getV (me s).regs o.d) fun i =>
      (if active (rdP s o.c) w i then elem w (rdV s o.a) i else vsrcElem s o.t o.b i, 0)
    retire (wrV s o.d r.1)) s

/-- A predicate operation, bit by bit under the guard (R131). -/
def predOp (f : PWord → PWord → PWord) (h : Hdr) (d a b : PReg) (s : State) : Out :=
  vector h 8 [] (fun s =>
    let g := guardBits h s
    retire (wrP s d ((getP (me s).regs d &&& ~~~g) ||| (f (rdP s a) (rdP s b) &&& g)))) s
def execPand (h : Hdr) (o : PBin) (s : State) : Out := predOp (· &&& ·) h o.d o.a o.b s
def execPor (h : Hdr) (o : PBin) (s : State) : Out := predOp (· ||| ·) h o.d o.a o.b s
def execPxor (h : Hdr) (o : PBin) (s : State) : Out := predOp (· ^^^ ·) h o.d o.a o.b s
def execPnot (h : Hdr) (d a : PReg) (s : State) : Out := predOp (fun x _ => ~~~x) h d a 0 s

/-- The counted elements of VCNT and VFIRST, ascending (R132). -/
def counted (h : Hdr) (o : VCount) (s : State) : List Nat :=
  (List.range (numElems o.t.width)).filter fun i =>
    active (guardBits h s) o.t.width i && active (rdP s o.a) o.t.width i
def execVcnt (h : Hdr) (o : VCount) (s : State) : Out :=
  vector h o.t.width [.g o.d] (fun s => retire (wrG s o.d (BitVec.ofNat 64 (counted h o s).length))) s
def execVfirst (h : Hdr) (o : VCount) (s : State) : Out :=
  vector h o.t.width [.g o.d] (fun s =>
    retire (wrG s o.d (BitVec.ofNat 64 ((counted h o s).headD (numElems o.t.width))))) s

/-! ## Permutes and moves (R133 to R137) -/

/-- Active elements of v[d] take f i; no flags. -/
def vput (w : Nat) (h : Hdr) (d : VReg) (f : Nat → Nat) (s : State) : State :=
  retire (wrV s d (vmap w (guardBits h s) (getV (me s).regs d) fun i => (f i, 0)).1)

def execVpermb (h : Hdr) (d a : VReg) (b : VSrc) (s : State) : Out :=
  vector h 8 ([.v d, .v a] ++ vsrcRn b) (fun s =>
    vput 8 h d (fun i =>
      let x := vsrcElem s .s8 b i
      if 128 ≤ x then 0 else elem 8 (rdV s a) x) s) s
def execVperm (h : Hdr) (o : VPermO) (s : State) : Out :=
  vector h o.t.width [.v o.d, .v o.a, .v o.b] (fun s =>
    let w := o.t.width
    vput w h o.d (fun i =>
      let x := elem w (rdV s o.b) i
      if x < numElems w then elem w (rdV s o.a) x else 0) s) s
def execVshuf (h : Hdr) (mode : Fin 4) (o : VPermO) (s : State) : Out :=
  vector h o.t.width [.v o.d, .v o.a, .v o.b] (fun s =>
    let w := o.t.width
    let n := numElems w
    let a := elem w (rdV s o.a)
    let b := elem w (rdV s o.b)
    vput w h o.d (fun i =>
      match mode.val with
      | 0 => if i % 2 = 0 then a (i / 2) else b (i / 2)
      | 1 => if i % 2 = 0 then a (n / 2 + i / 2) else b (n / 2 + i / 2)
      | 2 => if i < n / 2 then a (2 * i) else b (2 * (i - n / 2))
      | _ => if i < n / 2 then a (2 * i + 1) else b (2 * (i - n / 2) + 1)) s) s
def execVbcast (h : Hdr) (o : VFromG) (s : State) : Out :=
  vector h o.t.width (.v o.d :: srcRn o.b) (fun s =>
    vput o.t.width h o.d (fun _ =>
      match o.b with
      | .imm x => immElem o.t x
      | .reg r => (rdG s r).toNat % 2 ^ o.t.width) s) s
def execVext (h : Hdr) (o : VExtO) (s : State) : Out :=
  vector h o.t.width ([.g o.d, .v o.a] ++ srcRn o.b) (fun s =>
    let w := o.t.width
    let k := (rdSrc s o.b).toNat
    let y := if k < numElems w then elem w (rdV s o.a) k else 0
    retire (wrG s o.d (if ElemType.isSigned o.t then BitVec.ofInt 64 (readI o.t y) else BitVec.ofNat 64 y))) s
def execVins (h : Hdr) (o : VInsO) (s : State) : Out :=
  vector h o.t.width ([.v o.d, .g o.a] ++ srcRn o.b) (fun s =>
    let k := (rdSrc s o.b).toNat
    let w := o.t.width
    vput w h o.d (fun i => if i = k then (rdG s o.a).toNat % 2 ^ w else elem w (getV (me s).regs o.d) i) s) s
def execVidx (h : Hdr) (o : VFromG) (s : State) : Out :=
  vector h o.t.width (.v o.d :: srcRn o.b) (fun s =>
    vput o.t.width h o.d (fun i => ((rdSrc s o.b).toNat + i) % 2 ^ o.t.width) s) s
def execVmov (h : Hdr) (o : VUn) (s : State) : Out :=
  vector h o.t.width [.v o.d, .v o.a] (fun s =>
    vput o.t.width h o.d (fun i => elem o.t.width (rdV s o.a) i) s) s
def execVslide (h : Hdr) (o : VPermO) (c : GReg) (s : State) : Out :=
  vector h o.t.width [.v o.d, .v o.a, .v o.b, .g c] (fun s =>
    let w := o.t.width
    let n := numElems w
    let k := (rdG s c).toNat
    vput w h o.d (fun i =>
      if i + k < n then elem w (rdV s o.a) (i + k)
      else if i + k < 2 * n then elem w (rdV s o.b) (i + k - n) else 0) s) s

/-! ## Reductions and dot products (R138 to R141) -/

/-- One node of a reduction (R139). -/
def redNode (op : RedOp) (t : ElemType) (md : FMode) (a b : Nat) : Nat × Nat :=
  match op with
  | .add => intOr t (· + ·) addF md a b
  | .min => intOr t Min.min (fun f md => minmaxF f md.fz false) md a b
  | .max => intOr t Max.max (fun f md => minmaxF f md.fz true) md a b
  | .and => (a &&& b, 0)
  | .or => (a ||| b, 0)
  | .xor => (a ^^^ b, 0)

/-- The result with no element present (R58, R139). -/
def redIdentity (op : RedOp) (t : ElemType) : Nat :=
  match op with
  | .add | .or | .xor => 0
  | .and => 2 ^ t.width - 1
  | .min => if ElemType.isInt t then ofS t.width (maxI t) else nanF (fmtOf t)
  | .max => if ElemType.isInt t then ofS t.width (minI t) else nanF (fmtOf t)

/-- A node of absent or present values: a lone value passes as it is (R58). -/
def redPair (op : RedOp) (t : ElemType) (md : FMode) : Option Nat → Option Nat → Option Nat × Nat
  | none, none => (none, 0)
  | some a, none => (some a, 0)
  | none, some b => (some b, 0)
  | some a, some b => let r := redNode op t md a b; (some r.1, r.2)

def redLevel (op : RedOp) (t : ElemType) (md : FMode) : List (Option Nat) → List (Option Nat) × Nat
  | a :: b :: l =>
      let r := redPair op t md a b
      let rest := redLevel op t md l
      (r.1 :: rest.1, r.2 ||| rest.2)
  | l => (l, 0)
def redTree (op : RedOp) (t : ElemType) (md : FMode) : Nat → List (Option Nat) → List (Option Nat) × Nat
  | 0, l => (l, 0)
  | n + 1, l =>
      let r := redLevel op t md l
      let rest := redTree op t md n r.1
      (rest.1, r.2 ||| rest.2)

/-- A lone floating operand delivered under FZ reads as zero of its sign when it is subnormal (R47). -/
def flushElem (t : ElemType) (md : FMode) (x : Nat) : Nat :=
  if ElemType.isInt t then x else flushF (fmtOf t) md.fz x

def presentElems (h : Hdr) (t : ElemType) (a : VReg) (c : PReg) (s : State) : List (Option Nat) :=
  (List.range (numElems t.width)).map fun i =>
    if active (guardBits h s) t.width i && active (rdP s c) t.width i then
      some (flushElem t (fmode s) (elem t.width (rdV s a) i))
    else none

def execVred (h : Hdr) (op : RedOp) (t : ElemType) (d : GReg) (a : VReg) (c : PReg) (s : State) : Out :=
  vector h t.width [.g d, .v a] (fun s =>
    let r := redTree op t (fmode s) (Nat.log2 (numElems t.width)) (presentElems h t a c s)
    let x := ((nth r.1 0).getD none).getD (redIdentity op t)
    retire (raiseFlags (wrG s d (if ElemType.isSigned t then BitVec.ofInt 64 (readI t x) else BitVec.ofNat 64 x)) r.2)) s

/-- The running reduction: values after each element, and flags (R140). -/
def scanList (op : RedOp) (t : ElemType) (md : FMode) : Option Nat → List (Option Nat) → List Nat × Nat
  | _, [] => ([], 0)
  | acc, x :: xs =>
      let r := redPair op t md acc x
      let rest := scanList op t md r.1 xs
      (r.1.getD (redIdentity op t) :: rest.1, r.2 ||| rest.2)

def execVscan (h : Hdr) (op : RedOp) (t : ElemType) (d : VReg) (a : VReg) (c : PReg) (s : State) : Out :=
  vector h t.width [.v d, .v a] (fun s =>
    let r := scanList op t (fmode s) none (presentElems h t a c s)
    let s' := raiseFlags s r.2
    vput t.width h d (fun i => (nth r.1 i).getD 0) s') s

def execVdot4 (h : Hdr) (uns su : Bool) (d a : VReg) (b : VSrc) (c : VReg) (s : State) : Out :=
  vector h 32 ([.v d, .v a, .v c] ++ vsrcRn b) (fun s =>
    let rd (u : Bool) (x : Nat) : Int := if u then (x : Int) else toS 8 x
    vput 32 h d (fun i =>
      let sum := (List.range 4).foldl (fun (z : Int) j =>
        z + rd uns (elem 8 (rdV s a) (4 * i + j)) *
            rd (uns || su) (match b with | .reg r => elem 8 (rdV s r) (4 * i + j) | .imm x => x.toNat % 256))
        (toS 32 (elem 32 (rdV s c) i))
      ofS 32 sum) s) s

/-! ## VXACC (R142 to R144) -/

/-- acc_add (R54). The sum is exact. Of an accumulator that other instructions wrote with a magnitude above 2^46, which R54 does not
suppose, it may leave the 48 bits before it is halved: DESIGN CHOICE, log 100. -/
def accAdd (c : Acc) (x : Int) (e : Int) : Acc :=
  let c1 : Acc :=
    if c.empty then ⟨false, x, e⟩
    else if c.e < e then ⟨false, shrRne c.a (e - c.e).toNat + x, e⟩
    else ⟨false, c.a + shrRne x (c.e - e).toNat, c.e⟩
  if 2 ^ 46 ≤ c1.a.natAbs then
    if c1.e = 32767 then { c1 with a := c1.a.sign * (2 ^ 46 - 1) }
    else { c1 with a := shrRne c1.a 1, e := c1.e + 1 }
  else c1

/-- The layout of R142. -/
def accUnpack (x : Nat) : Acc :=
  if x / 2 ^ 46 % 4 = 2 then ⟨true, 0, 0⟩ else ⟨false, toS 48 x, toS 16 (x / 2 ^ 48)⟩
def accPack (c : Acc) : Nat := if c.empty then 0x800000000000 else ofS 48 c.a + 2 ^ 48 * ofS 16 c.e

/-- The final conversion to a type, nearest even (R55). -/
def accConvert (t : ElemType) (c : Acc) : Nat × Nat :=
  if c.empty then (0, 0)
  else
    let sg := decide (c.a < 0)
    match t with
    | .s32 =>
        let r := if 0 ≤ c.e then (c.a.natAbs * 2 ^ c.e.toNat, false) else roundShift 0 sg c.a.natAbs (-c.e).toNat
        let z : Int := if sg then -(r.1 : Int) else r.1
        let y := clampI .s32 z
        if y = z then (ofS 32 z, if r.2 then NX else 0) else (ofS 32 y, OF ||| NX)
    | _ => if c.a = 0 then (0, 0) else packF (fmtOf t) rne false sg c.a.natAbs c.e

def execVxaccClr (h : Hdr) (d : VReg) (s : State) : Out :=
  vector h 64 [.v d] (fun s => vput 64 h d (fun _ => 0x800000000000) s) s
def execVxaccAdd (h : Hdr) (d a : VReg) (b : VSrc) (s : State) : Out :=
  vector h 64 ([.v d, .v a] ++ vsrcRn b) (fun s =>
    let r := vmap 64 (guardBits h s) (getV (me s).regs d) fun i =>
      let x := toS 64 (elem 64 (rdV s a) i)
      let e := toS 16 (match b with | .reg r => elem 64 (rdV s r) i | .imm x => x.toNat)
      let big := decide (2 ^ 46 ≤ x.natAbs)
      let x := if big then x.sign * (2 ^ 46 - 1) else x
      (accPack (accAdd (accUnpack (elem 64 (rdV s d) i)) x e), if big then NV else 0)
    retire (raiseFlags (wrV s d r.1) r.2)) s
def execVxaccRd (h : Hdr) (t : ElemType) (d a : VReg) (s : State) : Out :=
  vector h t.width [.v d, .v a] (fun s =>
    let w := t.width
    let old := getV (me s).regs d
    let r := vmap w (guardBits h s) old fun i =>
      if i < 16 then accConvert t (accUnpack (elem 64 (rdV s a) i)) else (elem w old i, 0)
    retire (raiseFlags (wrV s d r.1) r.2)) s

/-! ## VCVT (R145, R146) -/

def execVcvt (h : Hdr) (o : VCvtO) (s : State) : Out :=
  vector h o.t.width [.v o.d, .v o.a] (fun s =>
    let wd := o.t.width
    let ws := o.s.width
    let ns := numElems ws
    let k := o.part.val
    let old := getV (me s).regs o.d
    let r := vmap wd (guardBits h s) old fun i =>
      let cv (j : Nat) := convert (fmode s) o.inf o.s o.t (elem ws (rdV s o.a) j)
      if wd = ws then cv i
      else if wd < ws then (if k * ns ≤ i && i < k * ns + ns then cv (i - k * ns) else (elem wd old i, 0))
      else cv (k * numElems wd + i)
    retire (raiseFlags (wrV s o.d r.1) r.2)) s

end Sys2Proof.Machine
end

