-- ==== Sys2Proof/Machine/Fair.lean ====
section
/-! DEFINITION. Hires, fairs, threshers, landings and ricks: HIRE, HSTAT, HDROP, SHPUSH, FAIRCTL, and the events of the
floor dies (R54 to R57, R197 to R204, R215, R252 to R267, R290, R291, R399). -/

namespace Sys2Proof.Machine

/-! ## Shapes (R198, R201, R252) -/

/-- Bits of a weight. -/
def weightBits (wf : Nat) : Nat := if wf < 2 then 2 else if wf = 2 then 4 else 8
def ablkOf (h : HireReq) : Nat := (h.k * weightBits h.wf + 511) / 512
def bblkOf (h : HireReq) : Nat := (h.k + 63) / 64
/-- Bytes of a yield element, and the multiple C and the stride must be of. -/
def yieldBytes (yf : Nat) : Nat := if yf = 1 then 2 else if yf = 3 then 1 else 4
def yieldAlign (yf : Nat) : Nat := if yf = 1 then 2 else if yf = 3 then 64 else 4
/-- Bytes a column lands: whole blocks under .yb8. -/
def columnBytes (h : HireReq) : Nat := if h.yf = 3 then (h.m + 63) / 64 * 64 else h.m * yieldBytes h.yf
def columnBase (h : HireReq) (j : Nat) : Nat := (h.c + j * h.stride.toNat) % 2 ^ 64

/-- The FMT a thresher accepts for an operand: 0 is A, 1 is B (R252). -/
def sheafFmt (wf op : Nat) : Nat := if op = 1 then 1 else if wf = 0 then 3 else if wf = 1 then 4 else if wf = 2 then 2 else 1

/-! ## HIRE (R197 to R199) -/

/-- The first failing check of a hire's operands, with its address (R198). -/
def hireBad (s : State) (h : HireReq) : Option (Nat × Nat) :=
  let readable (a n : Nat) : Bool := rangeOk (winsOf s) Window.r a n
  let lands (j : Nat) : Bool :=
    match placeOf .virt (columnBase h j) with
    | some (.own off) => off + columnBytes h ≤ 0x10000
    | some (.virt va) => rangeOk (winsOf s) Window.w va (columnBytes h)
    | _ => false
  if h.a % 64 != 0 then some (cALIGN, h.a)
  else if h.b % 64 != 0 then some (cALIGN, h.b)
  else if h.c % yieldAlign h.yf != 0 || h.stride.toNat % yieldAlign h.yf != 0 then some (cALIGN, h.c)
  else if !readable h.a (h.m * ablkOf h * 64) then some (cPERM, h.a)
  else if !readable h.b (h.n * bblkOf h * 64) then some (cPERM, h.b)
  else if h.land || !h.chain then
    match (List.range h.n).find? fun j => !lands j with
    | some j => some (cPERM, columnBase h j)
    | none => none
  else none

/-- Entries a fair holds: live hires and hires on their way to it (R199). -/
def fairLoad (s : State) (f : Nat) : Nat :=
  ((fairAt s f).hires.filter fun e => e.2.live).length
    + (s.net.filter fun x => match x.msg with | .hire h => h.floor == f | _ => false).length

def hireReqOf (s : State) (o : HireO) : HireReq :=
  let r (i : Nat) : W64 := if h : o.s.val + i < 64 then rdG s ⟨o.s.val + i, h⟩ else 0
  let t := myTen s
  let name := (me s).name
  { who := meAgent s, floor := if o.floor = 0 then (t + name) % 2 else o.floor.val - 1, hcap := hcapOf s
    pad := (tenAt s t).paddock, pri := o.pri.val, wf := o.wf.val, yf := o.yf.val, ord := o.ord, chain := o.chain
    land := o.land || !o.chain, m := o.m.val + 1, k := o.k.val + 1, n := o.n.val + 1
    a := (r 0).toNat, b := (r 1).toNat, c := (r 2).toNat, stride := r 3, bin := o.bin.val, ring := 0, wins := winsOf s }

/-- HIRE reserves its ring entry first and holds it while the fair is full (R199). -/
def execHire (h : Hdr) (o : HireO) (s : State) : Out :=
  let g (i : Nat) : List Rn := if h : o.s.val + i < 64 then [.g ⟨o.s.val + i, h⟩] else []
  scalar h (.g o.d :: (g 0 ++ g 1 ++ g 2 ++ g 3)) (fun s =>
    let q := hireReqOf s o
    match (if (me s).sub = 0 then hireBad s q else none) with
    | some (code, a) => raiseOp code 0 a s
    | none =>
        sealThen true (fun s =>
          let k := (me s).sub
          match (if k = 0 then freeRing s (myTen s) else some (k - subHire 0)) with
          | none => waitTurn s
          | some e =>
              let s := if k = 0 then updTen s (myTen s) fun k => { k with ring := k.ring ++ [e] } else s
              if Config.fairEntries ≤ fairLoad s q.floor then waitTurn (setSub (subHire e) s)
              else
                let q := { q with ring := e, who := meAgent s }
                awaitMe (Await.plain 1 0 (.hire o.d.val e) .begin) (send (setSub 0 s) ⟨[], .hire q, none⟩)) s) s

/-! ## The fair's books (R199, R200, R259) -/

def sameMaster (h : Hire) (ten name : Nat) : Bool := h.req.who.ten == ten && h.req.who.name == name
def hiresOf (k : Fair) : List Hire := k.hires.map Prod.snd
def chainAt (k : Fair) (id : Nat) : Option Chain := k.chains.find? fun c => c.id == id
def updChain (k : Fair) (id : Nat) (f : Chain → Chain) : Fair :=
  { k with chains := k.chains.map fun c => if c.id = id then f c else c }
def ringOf (k : Fair) (q : Nat) : List (Nat × Nat) := sread [] k.rings q

/-- Queued hires that no fault has sent to a rick: those a master's ring positions stand for. -/
def isQueued (h : Hire) : Bool := h.state == 1 && !h.resumed
def pendingOf (k : Fair) (ten name : Nat) : List Hire := (hiresOf k).filter fun h => isQueued h && sameMaster h ten name

/-- A master leaves each ring in which no hire of it is pending (R259). -/
def tidyRings (k : Fair) : Fair :=
  { k with rings := k.rings.map fun e => (e.1, e.2.filter fun m =>
      (pendingOf k m.1 m.2).any fun h => h.req.pri == e.1) }

/-- A master enters the tail of a class ring. -/
def enterRing (k : Fair) (q ten name : Nat) : Fair :=
  if (ringOf k q).contains (ten, name) then k
  else { k with rings := sset k.rings q (ringOf k q ++ [(ten, name)]) }

/-- A master's age, and its turn among those that reached 4,096 (R261). -/
def ageOf (k : Fair) (ten name : Nat) : Master :=
  (k.ages.find? fun m => m.ten == ten && m.name == name).getD ⟨ten, name, 0, none⟩
def agedAt (k : Fair) (ten name : Nat) : Option Nat := (ageOf k ten name).aged
def clearAge (k : Fair) (ten name : Nat) : Fair :=
  { k with ages := k.ages.filter fun m => !(m.ten == ten && m.name == name) }
/-- A master's age grows by one, up to 4,096. -/
def growAge (k : Fair) (ten name : Nat) : Fair :=
  let m := ageOf k ten name
  if 4096 ≤ m.age then k
  else
    let full := m.age + 1 == 4096
    let k := clearAge k ten name
    { k with ages := k.ages ++ [⟨ten, name, m.age + 1, if full then some k.agedNext else none⟩]
             agedNext := if full then k.agedNext + 1 else k.agedNext }

/-- A fair entry no live hire holds, by a free value (R199). -/
def freeEntry (k : Fair) (v : Nat) : Nat :=
  let taken (e : Nat) : Bool := k.hires.any fun x => x.1 == e && x.2.live
  let free := (List.range Config.fairEntries).filter fun e => !taken e
  (nth free (v % Nat.max 1 free.length)).getD 0

/-- The hire id: floor, entry, serial (R199). -/
def hireId (floor entry serial : Nat) : Nat := floor + entry * 2 + serial % 2 ^ 21 * 2 ^ 11

/-- The open chain of a master at an address on a floor (R200). -/
def openChain (k : Fair) (ten name c : Nat) : Option Chain :=
  k.chains.find? fun x => x.isOpen && x.chained && x.ten == ten && x.name == name && x.c == c

/-- Refused for its capability (R263). -/
def capBad (k : Fair) (h : HireReq) : Bool :=
  let key := sread 0 k.keys h.pad
  let x := h.hcap.toNat
  key == 0 || key.toNat != x % 2 ^ 12 || h.pri < x / 2 ^ 12 % 4 || !h.hcap.getLsbD (14 + h.floor)

def chainMismatch (c : Chain) (h : HireReq) : Bool := c.m != h.m || c.n != h.n || c.yf != h.yf || c.stride != h.stride

/-- A refused hire frees its ring entry and freezes its hirer (R199). -/
def refuseHire (s : State) (h : HireReq) (code aux : Nat) : State :=
  let s := updTen s h.who.ten fun k => { k with ring := k.ring.filter fun e => e != h.ring }
  replyTo s none h.who { okReply 0 8 0 with err := some (code, aux, 0) }

/-- The continuation owes a hire until it ends (R213). -/
def oweHire (s : State) (a : Agent) (id : Nat) : State :=
  match findName s a.ten a.name with
  | some (c, i) => updCtx s c i fun k => { k with hires := k.hires ++ [id] }
  | none => updSlot s a.ten a.name fun k => { k with hires := k.hires ++ [id] }

def Hire.new (id : Nat) (h : HireReq) (order chain : Nat) : Hire :=
  { id := id, req := h, state := 1, bad := false, clamp := false, lfault := false, order := order, chain := chain
    thr := none, seqA := 0, seqB := 0, blocksA := [], blocksB := [], summed := false, engine := false, stopped := false
    rick := false, resumed := false, image := [], issued := [], counted := [], parked := [], sent := 0, reported := false, replays := []
    dropping := false, waiters := [] }

/-- Register a hire that is not refused: its entry, its chain, its master's ring place, its ring entry's words. -/
def registerHire (s : State) (h : HireReq) (e id : Nat) (joined : Option Chain) : State :=
  let f := h.floor
  let k := fairAt s f
  let cid := match joined with | some c => c.id | none => k.nextChain
  let c : Chain := ⟨cid, h.who.ten, h.who.name, h.c, h.m, h.n, h.yf, h.stride, h.chain, h.chain, none, []⟩
  let chains := if joined.isSome then k.chains else k.chains ++ [c]
  let k' : Fair := { k with
    hires := sset k.hires e (Hire.new id h k.next cid), chains := chains, next := k.next + 1
    nextChain := if joined.isSome then k.nextChain else k.nextChain + 1 }
  let s := updFair s f fun _ => enterRing k' h.pri h.who.ten h.who.name
  let w3 := h.m + ablkOf h * 2 ^ 16 + h.n * 2 ^ 32 + bblkOf h * 2 ^ 48
  let s := cmPut s h.who.ten (ringOff h.ring + 8) (toBytes 24 (h.a + h.b * 2 ^ 64 + w3 * 2 ^ 128))
  oweHire (replyTo s none h.who (okReply 0 8 id)) h.who id

def execFairRegister (s : State) : Out :=
  .next <| match deliverable s (argN s 0) with
    | some (.hire h) =>
        if !tenSettled s h.who.ten then s else
        let s := drop s (argN s 0)
        let k := fairAt s h.floor
        if capBad k h then refuseHire s h cHIRECAP 0
        else
          let e := freeEntry k (Config.fairEntry s.free)
          let x := Config.fairSerial s.free % 2 ^ 21
          let old := match k.hires.find? fun y => y.1 == e with | some y => y.2.id / 2 ^ 11 | none => 2 ^ 21
          let id := hireId h.floor e (if x = old then x + 1 else x)
          let s := draw s
          let joined := if h.chain then openChain k h.who.ten h.who.name h.c else none
          match joined with
          | some c => if chainMismatch c h then refuseHire s h cHIREPUSH id else registerHire s h e id joined
          | none => registerHire s h e id none
    | _ => s

/-! ## FAIR_GRANT (R260, R261, R291) -/

/-- A master's head on a fair: its oldest ungranted hire. -/
def headOf (k : Fair) (ten name : Nat) : Option Hire :=
  let hs := pendingOf k ten name
  hs.find? fun h => hs.all fun g => h.order ≤ g.order

def chainThr (k : Fair) (h : Hire) : Option Nat := match chainAt k h.chain with | some c => c.thr | none => none

/-- An earlier hire of its master holds an `.ord` head: it is not complete, and not fully landed, every packet counted (R258, R260). One
that was dropped or refused (states 6 and 7) never will be and holds none: DESIGN CHOICE, log 95. -/
def Hire.holdsOrd (h : Hire) : Bool := h.live && !(h.image != [] && h.counted.length == h.image.length)

/-- The head is eligible (R260). -/
def eligible (k : Fair) (h : Hire) : Bool :=
  let t := h.req.who.ten
  let n := h.req.who.name
  let ordOk := !h.req.ord || (hiresOf k).all fun g => !(sameMaster g t n && g.order < h.order && g.holdsOrd)
  let chainOk := match chainAt k h.chain with
    | none => true
    | some c =>
        if c.thr.isSome then (hiresOf k).all fun g => !(g.chain == c.id && g.state == 2)
        else !c.chained || (k.chains.filter fun x => x.isOpen && x.chained && x.ten == t && x.name == n && x.id < c.id).length < 2
  ordOk && chainOk

/-- A free thresher: built, not held by a chain, not held idle (R397, R398). -/
def freeThreshers (k : Fair) : List Nat :=
  if k.throttled then []
  else (List.range Config.threshersPerFloor).filter fun t => !k.dead.contains t && !k.chains.any fun c => c.thr == some t
def enginesUsed (k : Fair) : Nat := ((hiresOf k).filter fun h => h.engine).length
def engineFree (k : Fair) : Bool := enginesUsed k < Config.landingEngines

/-- The heads that stand in ring q, in ring order. -/
def ringHeads (k : Fair) (q : Nat) : List ((Nat × Nat) × Hire) :=
  (ringOf k q).filterMap fun m => match headOf k m.1 m.2 with
    | some h => if h.req.pri = q && eligible k h then some (m, h) else none
    | none => none

inductive Grant where
  | resumed (h : Hire) | continuing (h : Hire) (thr : Nat) | aged (h : Hire) (thr : Nat) | ring (h : Hire) (thr : Nat)
  deriving DecidableEq, Repr

def oldestBy {α : Type} (key : α → Nat) (l : List α) : Option α := l.find? fun x => l.all fun y => key x ≤ key y

/-- The grant of one floor-die cycle (R261, R291). -/
def chooseGrant (k : Fair) : Option Grant :=
  let ready := (hiresOf k).filter fun h => h.state == 1 && h.resumed && (h.engine || engineFree k)
  let heads := (List.range 4).flatMap fun q => ringHeads k q
  let cont := heads.filter fun x => (chainThr k x.2).isSome
  let fresh := heads.filter fun x => (chainThr k x.2).isNone
  let free := (freeThreshers k).head?
  match oldestBy (fun h => h.order) ready with
  | some h => some (.resumed h)
  | none =>
      match oldestBy (fun x => x.2.chain) cont with
      | some x => (chainThr k x.2).map fun t => .continuing x.2 t
      | none =>
          match free with
          | none => none
          | some t =>
              let turn (x : (Nat × Nat) × Hire) : Option Nat := agedAt k x.1.1 x.1.2
              match oldestBy (fun x => (turn x).getD 0) (fresh.filter fun x => (turn x).isSome) with
              | some x => some (.aged x.2 t)
              | none => match fresh.head? with
                  | some x => some (.ring x.2 t)
                  | none => none

def Grant.hire : Grant → Hire | .resumed h => h | .continuing h _ => h | .aged h _ => h | .ring h _ => h

/-- Masters whose eligible heads wait in one class age by one, in ring order. -/
def ageRing (k : Fair) (q : Nat) : Fair :=
  (ringHeads k q).foldl (fun k x => growAge k x.1.1 x.1.2) k
/-- Masters whose eligible heads wait in a class below the class granted age by one (R261). Of masters that reach 4,096 at one grant, the
first is that of the lower-numbered class, then that which stands first in its ring; the manual gives them no order: DESIGN CHOICE, log 96. -/
def ageBelow (k : Fair) (q : Nat) : Fair := ((List.range 4).filter fun p => q < p).foldl ageRing k

def toTail (k : Fair) (q ten name : Nat) : Fair :=
  let is (m : Nat × Nat) : Bool := m == (ten, name)
  { k with rings := sset k.rings q ((ringOf k q).filter (fun m => !is m) ++ (ringOf k q).filter is) }

def putHire (k : Fair) (h : Hire) : Fair := { k with hires := sset k.hires (hireEntry h.id) h }

/-- The hire takes its thresher: the chain holds it, the ring entry becomes ready (R256, R262). -/
def grantThresher (s : State) (f : Nat) (h : Hire) (t : Nat) (tail : Bool) : State :=
  let q := h.req.pri
  let a := h.req.who
  let s := updFair s f fun k =>
    let k := updChain (putHire k { h with state := 2, thr := some t }) h.chain fun c => { c with thr := some t }
    let k := clearAge k a.ten a.name
    ageBelow (tidyRings (if tail then toTail k q a.ten a.name else k)) q
  ringReady s a.ten h.req.ring (1 + h.req.bin * 2 ^ 8 + a.name * 2 ^ 16 + h.id * 2 ^ 32)

/-- A resumed hire takes an engine and reloads its image; with every packet counted it has landed (R267, R291). -/
def grantResumed (s : State) (f : Nat) (h : Hire) : State :=
  let whole : Bool := h.counted.length == h.image.length
  let h' := { h with state := if whole then 5 else 4, engine := !whole, rick := false, resumed := false, stopped := false,
                     reported := false, replays := [], image := if whole then [] else h.image }
  let s := updFair s f fun k => ageBelow (putHire k h') h.req.pri
  if whole then endHire s h else s

/-- A floor die is in service once stage C has trained it (R387, R388). -/
def floorUp (s : State) (f : Nat) : Bool := s.mgmt.floors.getLsbD f

def execFairGrant (s : State) : Out :=
  .next <|
    let f := argN s 0
    match (if floorUp s f then chooseGrant (fairAt s f) else none) with
    | some (.resumed h) => grantResumed s f h
    | some (.continuing h t) => if tenSettled s h.req.who.ten then grantThresher s f h t false else s
    | some (.aged h t) => if tenSettled s h.req.who.ten then grantThresher s f h t false else s
    | some (.ring h t) => if tenSettled s h.req.who.ten then grantThresher s f h t true else s
    | none => s

/-! ## Ending chains and hires (R200, R202, R264) -/

/-- A chain closes when its landing hire has added its last segment; hires queued behind it open a chain anew. -/
def closeChain (k : Fair) (id : Nat) : Fair :=
  match chainAt k id with
  | none => k
  | some c =>
      let k := updChain k id fun c => { c with isOpen := false }
      let late (h : Hire) : Bool := h.chain == id && isQueued h
      if (hiresOf k).any late then
        let n := k.nextChain
        { k with hires := k.hires.map fun e => (e.1, if late e.2 then { e.2 with chain := n } else e.2)
                 chains := k.chains ++ [{ c with id := n, thr := none, acc := [] }], nextChain := n + 1 }
      else k

/-- A hire that was never granted gives its croft ring entry back. -/
def freeRingOf (s : State) (h : Hire) : State :=
  updTen s h.req.who.ten fun k => { k with ring := k.ring.filter fun e => e != h.req.ring }

/-- A chain is dropped: its thresher is free, its accumulators are gone, and every other hire of it that is queued or on the
thresher is stopped and dropped with it; none of those has issued a packet (R202, R264). -/
def dropChain (s : State) (f id : Nat) : State :=
  let gone := (hiresOf (fairAt s f)).filter fun h => h.chain == id && !h.dropping && (isQueued h || h.state == 2)
  let s := updFair s f fun k => { k with chains := k.chains.filter fun c => c.id != id }
  let out (h : Hire) : Hire := { h with state := 6, thr := none, summed := false, stopped := true, blocksA := [], blocksB := [] }
  let s := gone.foldl (fun s h => endHire (if isQueued h then freeRingOf (updHire s h.id out) h else updHire s h.id out) h) s
  updFair s f tidyRings

/-- The bay discards a hire's parked packets (R264). -/
def bayDiscard (s : State) (id : Nat) : State :=
  { s with chans := s.chans.map fun e => (e.1, { e.2 with bay := e.2.bay.filter fun b =>
      !(match b.hire with | some (x, _) => x == id | none => false) }) }

/-- The places in the bays of a hire's parked packets. -/
def bayOf (s : State) (id : Nat) : List Nat :=
  s.chans.flatMap fun e => e.2.bay.filterMap fun b => match b.hire with | some (x, i) => if x = id then some i else none | none => none

/-- HDROP and FAIRCTL .drop (R202, R215). -/
def dropHire (s : State) (id : Nat) : State :=
  match hireAt s id with
  | none => s
  | some h =>
      if !h.live || h.dropping then s
      else
        let f := id % 2
        let s := updHire s id fun h => { h with dropping := true, stopped := true, summed := false, lfault := false,
                                                parked := h.parked ++ bayOf s id, state := if h.state = 1 && !h.resumed then 6 else h.state }
        let s := if isQueued h then freeRingOf s h else s
        let s := dropChain s f h.chain
        settleDrop (bayDiscard s id) id

/-! ## Sheaves (R204, R254, R255) -/

/-- The i-th b-bit field of a block. -/
def blockField (x : LineWord) (b i : Nat) : Nat := x.toNat / 2 ^ (b * i) % 2 ^ b
/-- Element q of a row or column of blocks, as a number (R37, R38). -/
def weightAt (wf : Nat) (bs : List (Mark × LineWord)) (row blk q : Nat) : Int :=
  let b := weightBits wf
  let per := 512 / b
  match nth bs (row * blk + q / per) with
  | none => 0
  | some (_, x) =>
      let v := blockField x b (q % per)
      if wf = 0 && v = 2 then 0 else toS b v
def sigmaAt (bs : List (Mark × LineWord)) (i : Nat) : Int :=
  match nth bs i with | some (m, _) => toS 8 (m.toNat % 256) | none => 0
/-- A t2 digit 10 among elements below k of A block `seq` (R38, R253). -/
def badDigit (h : HireReq) (seq : Nat) (x : LineWord) : Bool :=
  h.wf == 0 && (List.range 256).any fun t => seq % ablkOf h * 256 + t < h.k && blockField x 2 t == 2

/-- A thresher refuses a sheaf (R254, R264). -/
def refuseSheaf (s : State) (h : Hire) (op seq : Nat) : State :=
  let a := h.req.who
  let s := updHire s h.id fun h => { h with state := 7, thr := none, blocksA := [], blocksB := [] }
  let s := endHire (dropChain s (h.id % 2) h.chain) h
  report s (tenAt s a.ten).set (agFair (h.id % 2)) false (mkReport cEARMARK 0 a.core 2 a.ten 0 0 h.id (op * 2 ^ 16 + seq))

def execSheafArrival (s : State) : Out :=
  .next <| match deliverable s (argN s 0) with
    | some (.sheaf who id op seq mark data pid) =>
        let s := send (drop s (argN s 0)) ⟨[], .ack who 2 pid, none⟩
        match hireAt s id with
        | none => s
        | some h =>
            let q := h.req
            let want := if op = 0 then h.seqA else h.seqB
            let last := if op = 0 then q.m * ablkOf q else q.n * bblkOf q
            if h.state != 2 || h.summed || q.who.ten != who.ten || seq != want || last ≤ seq then s
            else if mark.toNat / 256 != sheafFmt q.wf op then refuseSheaf s h op seq
            else updHire s id fun h =>
              if op = 0 then { h with seqA := seq + 1, blocksA := h.blocksA ++ [(mark, data)], bad := h.bad || badDigit q seq data }
              else { h with seqB := seq + 1, blocksB := h.blocksB ++ [(mark, data)] }
    | _ => s

/-! ## LAST_SEGMENT (R253 to R257) -/

/-- The sum of K segment sg for output (i, j), exactly. -/
def segmentSum (h : Hire) (i j sg : Nat) : Int :=
  let q := h.req
  ((List.range 64).map fun t =>
    let e := 64 * sg + t
    if e < q.k then weightAt q.wf h.blocksA i (ablkOf q) e * weightAt 3 h.blocksB j (bblkOf q) e else 0).sum
/-- Add a hire's segments, ascending, to one accumulator (R57). -/
def addSegments (h : Hire) (i j : Nat) (c : Acc) : Acc :=
  let q := h.req
  let per := 512 / weightBits q.wf
  (List.range (bblkOf q)).foldl (fun c sg =>
    accAdd c (segmentSum h i j sg)
      (sigmaAt h.blocksA (i * ablkOf q + 64 * sg / per) + sigmaAt h.blocksB (j * bblkOf q + sg))) c
def accumulate (h : Hire) (c : Chain) : Chain :=
  { c with acc := (List.range h.req.m).flatMap fun i => (List.range h.req.n).map fun j =>
      (i * 256 + j, addSegments h i j (sread Acc.clear c.acc (i * 256 + j))) }

/-- round_rne of A × 2^E / 2^σ (R56). -/
def scaled (a : Acc) (sg : Int) : Int :=
  if a.empty then 0
  else
    let e := a.e - sg
    let m := if 0 ≤ e then a.a.natAbs * 2 ^ e.toNat else (roundShift 0 (a.a < 0) a.a.natAbs (-e).toNat).1
    if a.a < 0 then -(m : Int) else m
/-- The scale of a block, and whether none fits (R56). -/
def blockScale (vs : List Acc) : Int × Bool :=
  if vs.all fun a => a.empty || a.a == 0 then (0, false)
  else
    match ((List.range 256).map fun (i : Nat) => (i : Int) - 128).find? fun sg => vs.all fun a => (scaled a sg).natAbs ≤ 127 with
    | some sg => (sg, false)
    | none => (127, true)

/-- The landing packets of column j, and whether a value was clamped (R55 to R57). -/
def columnImage (q : HireReq) (c : Chain) (j : Nat) : List Landing × Bool :=
  let at_ (i : Nat) : Acc := sread Acc.clear c.acc (i * 256 + j)
  let base := columnBase q j
  if q.yf = 3 then
    let blocks := (List.range ((q.m + 63) / 64)).map fun b =>
      let vs := (List.range 64).map fun r => if b * 64 + r < q.m then at_ (b * 64 + r) else Acc.clear
      let (sg, out) := blockScale vs
      let byte (a : Acc) : Byte := BitVec.ofInt 8 (Max.max (-127) (Min.min 127 (scaled a sg)))
      ((⟨base + 64 * b, vs.map byte, some (BitVec.ofNat 16 (0x100 + ofS 8 sg))⟩ : Landing), out)
    (blocks.map Prod.fst, blocks.any Prod.snd)
  else
    let w := yieldBytes q.yf
    let t : ElemType := if q.yf = 0 then .f else if q.yf = 1 then .bf else .s32
    let vs := (List.range q.m).map fun i => accConvert t (at_ i)
    let bs := vs.flatMap fun v => toBytes w v.1
    ((pieces 64 base bs.length).map fun p => ⟨p.1, (bs.drop (p.1 - base)).take p.2, none⟩,
      vs.any fun v => v.2 / 4 % 2 == 1)
def yieldImage (q : HireReq) (c : Chain) : List Landing × Bool :=
  let cols := (List.range q.n).map (columnImage q c)
  (cols.flatMap Prod.fst, cols.any Prod.snd)

/-- A hire takes an engine and converts its chain's accumulators (R257, R399). -/
def takeEngine (k : Fair) (h : Hire) : Fair :=
  match chainAt k h.chain with
  | none => k
  | some c =>
      let (im, cl) := yieldImage h.req c
      let h' := { h with
        state := 4, summed := false, engine := true, image := im, clamp := h.clamp || cl, blocksA := [], blocksB := [] }
      putHire (updChain k h.chain fun c => { c with acc := [] }) h'

def execLastSegment (s : State) : Out :=
  .next <|
    match hireAt s (argN s 0) with
    | none => s
    | some h =>
        let q := h.req
        let f := h.id % 2
        if h.state != 2 || h.summed || h.dropping || h.seqA != q.m * ablkOf q || h.seqB != q.n * bblkOf q then s
        else
          let s := updFair s f fun k => updChain k h.chain (accumulate h)
          if q.land then
            updFair s f fun k =>
              let k := closeChain k h.chain
              if engineFree k && !(hiresOf k).any fun g => g.summed then takeEngine k h else putHire k { h with summed := true }
          else endHire (updHire s h.id fun h => { h with state := 5, thr := none, blocksA := [], blocksB := [] }) h

/-- The oldest waiting hire takes an engine that is free (R399). The oldest is the one that registered first, not the one that added
its last segment first: DESIGN CHOICE, log 34. -/
def execLandingEngineGrant (s : State) : Out :=
  .next <|
    let f := argN s 0
    let k := fairAt s f
    match oldestBy (fun h => h.order) ((hiresOf k).filter fun h => h.summed) with
    | some h => if engineFree k then updFair s f fun k => takeEngine k h else s
    | none => s

/-! ## Landing packets (R257, R258, R262) -/

/-- Send packet i of a hire to its home (R247, R258). -/
def sendLanding (s : State) (h : Hire) (i : Nat) (l : Landing) : State :=
  let a := h.req.who
  let bin : Target := ⟨a.ten, a.name, h.req.bin⟩
  let units (x : Nat) : List (Nat × List Byte) := unitsOf [(x, l.bytes)]
  match placeOf .virt l.va with
  | some (.own off) =>
      send s ⟨[3, h.id, 100000], .croft a.ten (tenAt s a.ten).epoch a (.store (units off) l.mark) (some bin) (.hire h.id i) false, none⟩
  | _ =>
      let asid := (setAtId s (tenAt s a.ten).set).asid
      let r := match coverOf h.req.wins l.va with
        | some w => resolve s asid w l.va (some a.core)
        | none => ⟨asid, 0, 0, false, false, false, false⟩
      send s ⟨landKey h.id r, .home ⟨a, .landing, r, l.va, .store (units l.va) l.mark, some bin, .hire h.id i⟩, none⟩

/-- The chain's thresher is released and its record is gone. -/
def endChain (k : Fair) (id : Nat) : Fair := { k with chains := k.chains.filter fun c => c.id != id }

def execLandingPacketIssue (s : State) : Out :=
  .next <|
    match hireAt s (argN s 0) with
    | none => s
    | some h =>
        match (List.range h.image.length).find? fun i => !h.issued.contains i with
        | none => s
        | some i =>
            match nth h.image i with
            | none => s
            | some l =>
                if h.state != 4 || !h.engine || h.stopped || h.dropping then s
                else
                  let done : Bool := h.issued.length + 1 == h.image.length
                  let s := updHire s h.id fun h => { h with
                    issued := h.issued ++ [i], sent := h.sent + 1, thr := if done then none else h.thr }
                  let s := if done then updFair s (h.id % 2) fun k => endChain k h.chain else s
                  sendLanding s h i l

/-! ## Landing faults and ricks (R265 to R267, R290) -/

/-- The fair learns that a landing packet has parked (R265). A notice whose packet is no longer in the bay (it has been replayed or
discarded since) changes nothing. Of a hire whose drop is under way the bay discards the packet, uncounted, and the drop need not wait
for it: R264 says so of a pre-empted hire, and the model of one dropped on its thresher or while it landed too (DESIGN CHOICE,
log 34). -/
def execLandingFault (s : State) : Out :=
  .next <| match deliverable s (argN s 0) with
    | some (.landFault id i) =>
        let s := drop s (argN s 0)
        match hireAt s id with
        | none => s
        | some h =>
            if !(bayOf s id).contains i then s
            else
              let parked := if h.parked.contains i then h.parked else h.parked ++ [i]
              if h.dropping then settleDrop (bayDiscard (updHire s id fun h => { h with parked := parked }) id) id
              else
                let stop := h.state == 4 || (h.state == 1 && h.resumed)
                updHire s id fun h => { h with
                  parked := parked, lfault := true, stopped := true, resumed := false, state := if stop then 3 else h.state }
    | _ => s

def ricksUsed (k : Fair) : Nat := ((hiresOf k).filter fun h => h.rick).length

def execRickPreempt (s : State) : Out :=
  .next <|
    match hireAt s (argN s 0) with
    | none => s
    | some h =>
        let f := h.id % 2
        if h.state = 3 && h.engine && !h.dropping && ricksUsed (fairAt s f) < Config.ricks then
          updFair s f fun k => putHire (endChain k h.chain) { h with rick := true, engine := false, thr := none }
        else s

/-- Replay every parked packet of a hire once and put it back at the head of its class (R267). -/
def resumeHire (s : State) (id : Nat) : State :=
  match hireAt s id with
  | none => s
  | some h =>
      if h.state != 3 || h.dropping then s
      else
        let of (b : Bay) : Bool := match b.hire with | some (x, _) => x == id | none => false
        let back := s.chans.flatMap fun e => (e.2.bay.filter of).map Bay.req
        let s := bayDiscard s id
        let s := updHire s id fun h => { h with
          state := 1, resumed := true, lfault := false, parked := [], replays := back.filterMap fun r => match r.ack with
            | .hire _ i => some i
            | _ => none }
        back.foldl (fun s r => send s ⟨[5, r.res.chan], .home r, none⟩) s

/-! ## HSTAT, HDROP (R202) -/

/-- The status word (R202). -/
def hireStatus (s : State) (id : Nat) : Nat :=
  match hireAt s id with
  | some h => h.state + h.bad.toNat * 2 ^ 8 + h.clamp.toNat * 2 ^ 9 + h.lfault.toNat * 2 ^ 10 + h.sent % 2 ^ 16 * 2 ^ 16
  | none => 0
/-- The hire named by g[a], if it is one of the issuing continuation's. -/
def myHire (s : State) (x : W64) : Option Hire :=
  match hireAt s x.toNat with
  | some h => if sameMaster h (myTen s) (me s).name then some h else none
  | none => none

def execHstat (h : Hdr) (d a : GReg) (s : State) : Out :=
  scalar h [.g d, .g a] (fun s =>
    let v := match myHire s (rdG s a) with | some h => hireStatus s h.id | none => 0
    awaitMe (Await.plain 1 0 (.g d.val 8 false) .keep) (replyTo s none (meAgent s) (okReply 0 8 v))) s

def execHdrop (h : Hdr) (d a : GReg) (s : State) : Out :=
  scalar h [.g d, .g a] (fun s =>
    let who := meAgent s
    let wait (s : State) : State := awaitMe (Await.plain 1 0 (.g d.val 8 false) .keep) s
    match myHire s (rdG s a) with
    | none => wait (replyTo s none who (okReply 0 8 0))
    | some x =>
        let s := dropHire s x.id
        match hireAt s x.id with
        | some y =>
            if y.dropping then wait (updHire s x.id fun h => { h with waiters := h.waiters ++ [who] })
            else wait (replyTo s none who (okReply 0 8 y.counted.length))
        | none => wait (replyTo s none who (okReply 0 8 0))) s

/-! ## SHPUSH (R204) -/

def execShpush (h : Hdr) (d : VReg) (base x : GReg) (s : State) : Out :=
  issue h (s.cur.2 != 15) [.v d, .g base, .g x] (guardTrue h s) (fun s =>
    if 255 < countOf 2 (me s) + 1 then waitTurn s
    else
      let w := (rdG s x).toNat
      let id := (rdG s base).toNat
      let s := tick s
      let who := meAgent s
      let m : Msg := .sheaf who id (w / 2 ^ 32 % 2) (w / 2 ^ 16 % 2 ^ 16) (BitVec.ofNat 16 w) ((rdV s d).setWidth 512) s.now
      retire (updMe (send s ⟨[4, who.ten, who.name, id % 2], m, none⟩) (addCount 2 1))) s

/-! ## FAIRCTL (R214, R215) -/

/-- The hire id names a hire of the floor given. -/
def floorHire (s : State) (a : GReg) (floor : Bool) : Option Hire :=
  match hireAt s (rdG s a).toNat with
  | some h => if h.id % 2 = floor.toNat then some h else none
  | none => none

def execFairctlResume (h : Hdr) (d a : GReg) (floor : Bool) (s : State) : Out :=
  privileged h [.g d, .g a] (fun s =>
    sealThen false (fun s =>
      match floorHire s a floor with
      | none => retireRunNext (wrG s d 0)
      | some x =>
          let s := resumeHire s x.id
          retireRunNext (wrG s d (BitVec.ofNat 64 (hireStatus s x.id)))) s) s

def execFairctlDrop (h : Hdr) (d a : GReg) (floor : Bool) (s : State) : Out :=
  privileged h [.g d, .g a] (fun s =>
    sealThen false (fun s =>
      let k := (me s).sub
      let done (n : Nat) (s : State) : State := retireRunNext (wrG s d (BitVec.ofNat 64 n))
      if subDropped 0 ≤ k then done (k - subDropped 0) s
      else if k != 0 then waitTurn s
      else match floorHire s a floor with
      | none => done 0 s
      | some x =>
          let s := dropHire s x.id
          match hireAt s x.id with
          | some y =>
              if y.dropping then
                let who := meAgent s
                waitTurn (setSub (subDrop y.id) (updHire s y.id fun h => { h with waiters := h.waiters ++ [who] }))
              else done y.counted.length s
          | none => done 0 s) s) s

def execFairctlStat (h : Hdr) (d : GReg) (floor : Bool) (s : State) : Out :=
  privileged h [.g d] (fun s =>
    sealThen false (fun s =>
      let k := fairAt s floor.toNat
      let queued := ((hiresOf k).filter fun h => h.state == 1).length
      retireRunNext (wrG s d (BitVec.ofNat 64
        (queued + (if floorUp s floor.toNat then freeThreshers k else []).length * 2 ^ 16 + ricksUsed k * 2 ^ 24)))) s) s

end Sys2Proof.Machine
end

