-- ==== Sys2Proof/Machine/Contexts.lean ====
section
/-! DEFINITION. Starting, ending and suspending continuations, the launch sequencer's sowings, debug commands, and
SWAPCTL (R212 to R215, R220, R311, R325, R380, R381). -/

namespace Sys2Proof.Machine

/-! ## SPAWN, REAP (R212, R213) -/

/-- The lowest free continuation slot (R228). -/
def freeName (s : State) (t : Nat) : Option Nat := (List.range 64).find? fun k => !(slotAt s t k).taken

/-- A continuation takes slot k. -/
def takeName (s : State) (t k : Nat) (o : Origin) : State :=
  let s := tick s
  updSlot s t k fun _ => { Slot.empty with taken := true, origin := o, epoch := s.now }

/-- Start a hand under a name, and give the slot the hand's occupancy. -/
def sowHand (s : State) (c i t k slot : Nat) (r : Regs) (b : BitVec 14) (priv : Bool) (o : Origin) (pop aux : Nat) : State :=
  let s := startCtx (takeName s t k o) c i slot k r b priv o pop
  updCtx s c i fun x => { x with epoch := (slotAt s t k).epoch, tgt := some aux }

/-- SPAWN. While a record waits in the continuation queue, a hand that is free goes to it first (R228, R232): the SPAWN waits in
the rotation for a later one (DEDUCED, log 70). A start address that is no slot faults BTGT in the new hand (R63; log 63). -/
def execSpawn (h : Hdr) (d a b : GReg) (budget : BitVec 14) (s : State) : Out :=
  stewardOnly h [.g d, .g a, .g b] (fun s =>
    sealThen false (fun s =>
      let c := s.cur.1
      let t := myTen s
      match freeHand s c, freeName s t with
      | some i, some k =>
          if hasRecord s t then waitTurn s else
          let r := seededRegs budget [(rdG s b).toNat, 0, 0, ownBase, 0]
          let s := sowHand s c i t k ((rdG s a).toNat % 2 ^ 57) r budget (me s).priv .spawned 0 0xF1
          retireRunNext (wrG s d (BitVec.ofNat 64 (k * 256 + i)))
      | _, _ => retireRunNext (wrG s d 0)) s) s

def execReap (h : Hdr) (d a : GReg) (s : State) : Out :=
  stewardOnly h [.g d, .g a] (fun s =>
    sealThen false (fun s =>
      let i := (rdG s a).toNat % 16
      let k := ctxAt s s.cur.1 i
      if isHand i && k.mode = .exited then
        let s := updCtx s s.cur.1 i Context.ended
        retireRunNext (wrG s d (BitVec.ofNat 64 (2 ^ 32 + k.exitVal)))
      else retireRunNext (wrG s d 0)) s) s

/-! ## EXIT (R213, R325) -/

/-- A member of a launch has exited; the last one completes the launch and sets its lmdone bit (R325). -/
def launchExit (s : State) (d id member : Nat) : State :=
  match (dieAt s d).launches.find? fun e => e.2.id == id with
  | none => s
  | some (slot, l) =>
      let n := l.exited + 1
      if n = l.size then
        let s := updDie s d fun k => { k with launches := sdel k.launches slot, lmdone := k.lmdone ||| BitVec.ofNat 64 (2 ^ slot) }
        let ring (k : Lomwen) : Lomwen := { k with pending := k.pending ||| 2 }
        let s := updLom (updLom s (2 * d) ring) (2 * d + 1) ring
        match l.q with | some (q, m) => completePacket s q m | none => s
      else updDie s d fun k => { k with launches := sset k.launches slot { l with exited := n, live := l.live.erase member } }

/-- The continuation of context (c, i) ends with a value (R213, R381). -/
def endContinuation (s : State) (c i value : Nat) : State :=
  let k := ctxAt s c i
  let t := (croftAt s c).tenant.getD 0
  let s := if k.name < 64 then updSlot s t k.name fun _ => Slot.empty else s
  match k.origin with
  | .spawned => updCtx s c i fun x => { x.ended with mode := .exited, exitVal := value, name := x.name }
  | .launch d id m => launchExit (updCtx s c i Context.ended) d id m
  | _ => updCtx s c i Context.ended

def execExit (h : Hdr) (a : GReg) (s : State) : Out :=
  issue h (!isHand s.cur.2) [.g a] (guardTrue h s) (fun s =>
    sealThen true (fun s =>
      if (me s).hires != [] then waitTurn s
      else endContinuation s s.cur.1 s.cur.2 ((rdG s a).toNat % 2 ^ 32)) s) s

/-! ## SUSP, RESUME, YIELD (R213) -/

def execSusp (h : Hdr) (tag : BitVec 8) (s : State) : Out :=
  scalar h [] (fun s =>
    sealThen false (fun s =>
      let t := myTen s
      if (tenAt s t).resumes.contains tag.toNat then
        let s := updTen s t fun k => { k with resumes := k.resumes.erase tag.toNat }
        retireRunNext (flashL1 s s.cur.1)
      else if (me s).busy then waitTurn s
      else parkMe .resume tag.toNat 0 0 0 s) s) s

def execResume (h : Hdr) (a : GReg) (tag : BitVec 8) (s : State) : Out :=
  scalar h [.g a] (fun s =>
    let t := (rdG s a).toNat % 2 ^ 24
    if !inSet s (mySetId s) t then raiseOp cPERM 0 (rdG s a).toNat s
    else sealThen false (fun s =>
      let k := classTo s.cur.1 (fieldOf (tenAt s t).core)
      if 255 < countOf k (me s) + 1 then waitTurn s
      else
        let s := tick s
        let s := sendCroft s s.cur.1 s.cur.2 t 1 (.resume tag.toNat) none (.cls k s.now)
        updMe (retireRunNext s) (addCount k 1)) s) s

def execYield (h : Hdr) (s : State) : Out :=
  scalar h [] (fun s =>
    sealThen true (fun s =>
      if isHand s.cur.2 && hasRecord s (myTen s) && (freeHand s s.cur.1).isNone then
        evict (parkMe .ready 0 0 0 0 s) s.cur.1 s.cur.2
      else retireRunNext s) s) s

/-! ## LAUNCH_SOW (R220, R311, R325) -/

/-- Write a member that finds no free hand as a record that has not started (R220, R229). -/
def sowRecord (s : State) (c t k : Nat) (l : Launch) (d p : Nat) (seeds : List Nat) : State :=
  let s := takeName s t k (.launch d l.id p)
  let pa := framePa s t k
  let s := (List.range 5).foldl (fun s j =>
    if gAdmitted l.budget (j + 1) then memPut s (pa + 264 + 8 * j) 8 ((nth seeds j).getD 0) else s) s
  let r := recordOf l.entry l.priv false true .ready 0 0 pa t p l.budget s.mgmt.wlayout 0 k 1
  let s := { s with mem := storeBytes s.mem (recordPa s t k) r }
  let s := updSlot s t k fun x => { x with evicted := some (Park.plain .ready 0 0 0 0 true c) }
  enqueue s t k

/-- The sequencer of die d sows the next member of the launch in a slot, if its round and its slot allow (R311); the seeds cross the
meadow of the member's die, and wait before a router that is powered down (R289, log 27). -/
def execLaunchSow (s : State) : Out :=
  .next <|
    let d := argN s 0
    let slot := argN s 1
    match (dieAt s d).launches.find? fun e => e.1 == slot with
    | none => s
    | some (_, l) =>
        let p := l.next
        let t := l.t0 + p / l.quota % l.count
        let c := (tenAt s t).core
        let g5 := p % l.quota
        let round := l.quota * l.count
        let ok : Bool := p < l.size && (p < round || !l.live.contains (p - round)) && tenSettled s t
          && !sleeperOn s (Config.treeCell (dieOf c)) c && (croftAt s c).tenant == some t
          && !(croftAt s c).stopped && !(croftAt s c).quiesce
        match (if ok then freeName s t else none) with
        | none => s
        | some k =>
            let seeds := [l.arg.toNat, p, l.size, ownBase, g5]
            let next (s : State) : State := updDie s d fun x =>
              { x with launches := sset x.launches slot { l with next := p + 1, live := l.live ++ [p] } }
            match freeHand s c with
            | some i =>
                if hasRecord s t then s
                else next (sowHand s c i t k l.entry (seededRegs l.budget seeds) l.budget l.priv (.launch d l.id p) p 0xF0)
            | none => next (sowRecord s c t k l d p seeds)

/-! ## Debug commands (R380, R381) -/

/-- The oldest command of a croft, if it is this one: what it does to its context. -/
def debugCmd (code : Nat) (f : State → Nat → Nat → State) (s : State) : State :=
  let c := argN s 0
  match (croftAt s c).cmds with
  | (k, i) :: cs => if k = code then f (setCroft s c { croftAt s c with cmds := cs }) c i else s
  | [] => s

def execDebugRelease (s : State) : Out :=
  .next <| debugCmd 1 (fun s c i =>
    let k := ctxAt s c i
    if k.mode != .frozen then s
    else match k.abp with
      | some (va, gen, told) => abortRun s c i va gen told
      | none => releaseAt s c i) s

/-- Parked requests of a continuation leave every list (R381). -/
def unlist (s : State) (a : Agent) : State :=
  let me (b : Agent) : Bool := b.ten == a.ten && b.name == a.name && b.epoch == a.epoch
  { s with
    tenants := s.tenants.map fun e => (e.1, { e.2 with
      waiters := e.2.waiters.filter fun w => !me w.who, senders := e.2.senders.filter fun w => !me w.who })
    cribs := s.cribs.map fun e => (e.1, { e.2 with waiters := e.2.waiters.filter fun w => !me w }) }

/-- ABORT to every pod collective of the set that the context has not arrived at (R381). -/
def abortPods (s : State) (a : Agent) : State :=
  let b := (tenAt s a.ten).set
  (List.range 16).foldl (fun s id =>
    let k := barrierAt s b (barrierKey a.core 6 id)
    let mine (x : Arrival) : Bool := x.who.ten == a.ten && x.who.name == a.name && x.who.epoch == a.epoch
    if k.arrived.isEmpty || k.arrived.any mine then s else send s ⟨[], .abort b id k.gen a, none⟩) s

def execDebugKill (s : State) : Out :=
  .next <| debugCmd 2 (fun s c i =>
    let k := ctxAt s c i
    if k.mode != .frozen then s
    else
      let a := agentOf s c i
      let s := k.hires.foldl dropHire (abandon s c i)
      abortPods (endContinuation (unlist s a) c i 0xFFFFFFFF) a) s

def execDebugFreeze (s : State) : Out :=
  .next <| debugCmd 3 (fun s c i =>
    match (ctxAt s c i).mode with
    | .running =>
        -- an FE operation that has met its word and has not performed gives its place up
        updCtx (feLeave s ((croftAt s c).tenant.getD 0) (agentOf s c i)) c i fun k => { k with
          mode := .frozen, fetched := none, wins := none, await := none }
    | .awaiting => updCtx s c i fun k => { k with frz := true }
    | _ => s) s

/-- The counts become zero; later answers to the stores of before find another period of counts (R380). -/
def execDebugZeroCounts (s : State) : Out :=
  .next <| debugCmd 4 (fun s c i =>
    if (ctxAt s c i).mode != .frozen then s
    else
      let s := tick s
      updCtx s c i fun k => { k with o1 := 0, o2 := 0, o3 := 0, posted := [], cnt := s.now }) s

def execDebugEvict (s : State) : Out :=
  .next <| debugCmd 5 (fun s c i =>
    if isHand i && (ctxAt s c i).mode = .parked && !(ctxAt s c i).busy then evict s c i else s) s

/-! ## SWAPCTL (R214, R215) -/

/-- A SWAPCTL form: a seal point, then its write. -/
def swapctl (h : Hdr) (d b : GReg) (f : State → State) (s : State) : Out :=
  privileged h [.g d, .g b] (sealThen false fun s => retireRunNext (f s)) s

def execSwapctlWindow (h : Hdr) (d b : GReg) (die : Fin 8) (s : State) : Out :=
  swapctl h d b (fun s =>
    let w := Nat.max 1 (Nat.min (rdG s b).toNat (2 ^ 24))
    updDie s die.val fun k => { k with window := w }) s
def execSwapctlTheta (h : Hdr) (d b : GReg) (die : Fin 8) (s : State) : Out :=
  swapctl h d b (fun s =>
    let t := (rdG s b).toNat % 2 ^ 32
    updDie s die.val fun k => { k with theta := t }) s
def execSwapctlEnable (h : Hdr) (d b : GReg) (die : Fin 8) (s : State) : Out :=
  swapctl h d b (fun s =>
    let e := (rdG s b).getLsbD 0
    updDie s die.val fun k => { k with enable := e }) s
def execSwapctlRead (h : Hdr) (d : GReg) (die : Fin 8) (s : State) : Out :=
  privileged h [.g d] (sealThen false fun s =>
    let k := dieAt s die.val
    retireRunNext (wrG s d (BitVec.ofNat 64 (k.window % 2 ^ 25 + k.enable.toNat * 2 ^ 31 + k.theta % 2 ^ 32 * 2 ^ 32)))) s

end Sys2Proof.Machine
end

