-- ==== Sys2Proof/Machine/Mill.lean ====
section
/-! DEFINITION. Mills: acceptance of a call, the micro-operations, line steps and completion (R211, R282 to R288, R327). -/

namespace Sys2Proof.Machine

def millAt (s : State) : Mill := (chanAt s s.unit).mill
def updMill (s : State) (f : Mill → Mill) : State := updChan s s.unit fun k => { k with mill := f k.mill }
def mreg (s : State) (i : Fin 8) : W64 := (millAt s).m[i]
def setM (i : Fin 8) (x : W64) (s : State) : State := updMill s fun k => { k with m := k.m.set i x }
def bumpUpc (s : State) : State := updMill s fun k => { k with upc := (k.upc + 1) % 256 }

/-! ## Calls (R282) -/

/-- The mill begins a call at its entry. -/
def beginCall (k : Mill) (c : Call) : Mill :=
  let (_, a) := sread (false, 0) k.entry c.entry
  { k with
    call := some c, upc := a, z := false, wait := false
    m := #v[c.va, c.len &&& ~~~63, c.a1, c.a2, 0, 0, 0, 0] }
def entryValid (k : Mill) (e : Nat) : Bool := (sread (false, 0) k.entry e).1

/-- A front-end store of 8 bytes, checked for W; none where its check fails. -/
def frontStore (s : State) (b va v : Nat) (ack : AckTo) : Option State :=
  if !rangeOk (setAtId s b).windows Window.w va 8 then none
  else (hostRes s b va).map fun r =>
    send s ⟨[], .home ⟨setAgent b, .host, r, va, .store [(va, toBytes 8 v)] none, none, ack⟩, none⟩

/-- A mill-ring entry is over: its completion word, then its interrupt (R327). A word whose window check fails is discarded and
reported, and no interrupt follows it (R303). -/
def ringDone (s : State) (f addr v : Nat) (int : Bool) : State :=
  if addr = 0 then ringOver s f int
  else match (funcSet s f).bind fun b => frontStore s b addr v (.ring f int) with
    | some s => s
    | none => ringOver (apertureFault s f addr) f false

/-- HEAD of a mill ring passes the entry that was handed on (R327). -/
def ringPassed (s : State) (f : Nat) : State :=
  let pass (k : Queue) : Queue := settleQueue { k with head := k.fetch, rseq := k.rseq + 1 }
  updFunc s f fun k => { k with mring := pass k.mring }

/-- The completion of a call (R211, R310, R327). -/
def callDone (s : State) (c : Call) : State :=
  match c.done with
  | .bin t => landBin s t false
  | .queue q n => completePacket s q n
  | .ring f a int => ringDone s f a 1 int

/-- A call whose entry is unloaded is refused (R211, R327); a MILL packet's queue stops with ERR 0x03 (log 41). -/
def callRefused (s : State) (c : Call) : State :=
  match c.done with
  | .bin _ => match findAccess s c.who with
      | some (k, i) => updCtx s k i fun x => { x with sub := x.sub / 8 * 8 + 4 }
      | none => s
  | .queue q n => failPacket (queueError s q 3) q n
  | .ring f a int => ringDone (ringPassed s f) f a (2 ^ 63 + cILL) int

/-- The caller of an MCALL learns that its call is accepted; HEAD of a mill ring passes the entry (R327). -/
def callTaken (s : State) (c : Call) : State :=
  match c.done with
  | .bin _ => match findAccess s c.who with
      | some (k, i) => updCtx s k i fun x => { x with sub := x.sub / 8 * 8 + 3 }
      | none => s
  | .ring f _ _ => ringPassed s f
  | .queue _ _ => s

def execMillCallAccept (s : State) : Out :=
  .next <| match deliverable s (argN s 0) with
    | some (.mcall c) =>
        let k := (chanAt s c.chan).mill
        let load : Nat := k.queue.length + (if k.call.isSome then 1 else 0)
        if !entryValid k c.entry then callRefused (drop s (argN s 0)) c
        else if Config.millCalls ≤ load then s
        else
          let s := drop s (argN s 0)
          let put (m : Mill) : Mill := if m.call.isNone then beginCall m c else { m with queue := m.queue ++ [c] }
          let s := updChan s c.chan fun x => { x with mill := put x.mill }
          callTaken s c
    | _ => s

/-- The call ends and the next one begins. -/
def endMillCall (s : State) : State :=
  match (millAt s).call with
  | none => s
  | some c =>
      let s := updMill s fun k => match k.queue with
        | [] => { k with call := none }
        | d :: q => beginCall { k with queue := q } d
      callDone s c

/-- The croft a report of a call names: that of an MCALL (R376). -/
def callCore (c : Call) : Nat := match c.done with | .bin _ => c.who.core | _ => 0

/-- A micro-word that is not one ends the call (R284). -/
def millError (s : State) : State :=
  match (millAt s).call with
  | none => s
  | some c =>
      let aux := (millAt s).upc * 2 ^ 8 + c.entry
      report (endMillCall (leaveBanks s s.unit [])) c.set (agMill s.unit) false (mkReport cILL 0 (callCore c) 3 c.who.ten 0 0 aux 0)

/-! ## Line steps (R275, R285, R286) -/

/-- What a step meets on its way to its line: it waits in a fault bay, it waits its turn or a fill, or the line stands at pa, in the barn
or, passing through the buffer of a channel's mill, in memory. -/
inductive Reach where
  | wait (s : State) | busy (s : State) | at_ (s : State) (pa : Nat) (wt : Bool) (buf : Option Nat)

/-- The windows a line of a call resolves under: those its check passed under, for a range that the check took in (R336). -/
def callWins (s : State) (c : Call) (va : Nat) : Sparse Window :=
  if c.held.any fun r => r.1 ≤ va + 63 && va < r.1 + r.2 then c.wins else (setAtId s c.set).windows

/-- A step as it stands at its home, or in a fault bay; source: it only reads its line for another. -/
def stepReq (s : State) (c : Call) (r : Res) (va : Nat) (source : Bool) : Req :=
  ⟨{ c.who with ctx := 0, start := 0, rseq := 0 }, .millStep, r, va, .step s.unit source, none, .none⟩

/-- A fault of a line step: it waits in the bay of the channel that walked, and its page is reported (R286, R346). While that bay
is full it waits at the weighbridge's input (R347). -/
def stepFault (s : State) (q : Req) (code : Nat) : Reach :=
  if bayRoom s q.res.chan 1 then .wait (answerFault s q code) else .busy s

/-- A step waits at its home for its turn, or for the fill of its line; where it waited under another resolution, it waits no more. -/
def stepWaits (s : State) (b : Nat) (q : Req) : State :=
  let stays (c : Nat) (x : Req) : Bool := (c == b && x == q) || x.op != q.op || x.va != q.va
  let s : State := { s with banks := s.banks.map fun e => (e.1, { e.2 with queue := e.2.queue.filter (stays e.1) }) }
  let s := if (bankAt s b).queue.contains q then s else joinBank s b q
  if (lineAt s b (tagOf q.res.glob q.res.asid) (q.va / 64)).isNone then startWalk s b q else s

/-- The step's line is on its way to its home bank, or operations wait for it there. -/
def fillComing (s : State) (b : Nat) (q : Req) : Bool :=
  let tag := tagOf q.res.glob q.res.asid
  waitsAt s b tag (q.va / 64)
    || (chanAt s q.res.chan).walks.any (fun w => tagOf w.glob w.asid == tag && w.la == q.va / 64)
    || s.net.any fun f => match f.msg with | .fill b' _ t la _ _ _ _ _ => b' == b && t == tag && la == q.va / 64 | _ => false

/-- A line step at its line's home, which holds the line: an operation of the bank's arithmetic unit, in its turn there (R275), and
behind a store begun on the line (R250). The source of a step of two lines waits for such a store only. -/
def stepAtHome (s : State) (b : Nat) (q : Req) (write : Bool) (l : Line) : Reach :=
  let tag := tagOf q.res.glob q.res.asid
  let qs := (bankAt s b).queue
  let begun (x : Req) : Bool := onLine tag (q.va / 64) x && (match x.op with | .rest _ => true | _ => false)
  let ahead := (qs.takeWhile fun x => x != q).length
  if write && l.ro then stepFault s q cPROT
  else if qs.any begun then .busy (stepWaits s b q)
  else if ofUnit q && heldBack s b ahead q then .busy (stepWaits s b q)
  else .at_ s l.pa q.res.wt none

/-- A line step whose line no barn holds and the locality monitor does not name: the line is translated and named as a fill is, and
passes through the buffer of the mill of the channel that owns its frame (R285, R341). -/
def stepBuffered (s : State) (q : Req) (write : Bool) : Reach :=
  let r := q.res
  match translate s r.chan r.asid q.va r.glob with
  | (s, .fault code) => stepFault s q code
  | (s, .ok f ro _) =>
      let pa := f * 4096 + q.va % 4096
      let held := (lineByPa s pa).elim false Line.ro
      if write && (ro || held) then stepFault s q cPROT
      else match nameFrame s r.chan f (tagOf r.glob r.asid) (q.va / 4096) (if r.ft then some (bankField r.bank) else none) with
        | none => stepFault s q cSYN
        | some s => .at_ s pa r.wt (if (lineByPa s pa).isSome then none else some r.chan)

/-- The line of a step (R285). A line that its home holds, that is on its way there or that the locality monitor names is stepped at its
home, which fills it where it is absent; any other in a buffer. -/
def reachLine (s : State) (c : Call) (va : Nat) (write source : Bool) : Reach :=
  let asid := (setAtId s c.set).asid
  let va := va / 64 * 64
  match coverOf (callWins s c va) va with
  | none => stepFault s (stepReq s c ⟨asid, Config.banks, c.chan, false, false, false, false⟩ va source) cPROT
  | some w =>
      let r := resolve s asid w va (match c.done with | .bin _ => some c.who.core | _ => none)
      let b := homeNow s r va
      let q := stepReq s c { r with bank := b } va source
      match lineAt s b (tagOf r.glob asid) (va / 64) with
      | some l => stepAtHome s b q write l
      | none =>
          if fillComing s b q || Config.monitorNames s.free (va / 64) then .busy (draw (stepWaits s b q))
          else stepBuffered (draw s) q write

/-- The line passes through the buffer, if it does (R285). -/
def buffered (s : State) (buf : Option Nat) (x : LineWord) : State :=
  match buf with
  | none => s
  | some g => updChan s g fun k => { k with mill := { k.mill with line := x } }

/-- A poisoned line met by a step (R286, R384). -/
def stepPoison (s : State) (c : Call) (m : Mark) (va : Nat) : State :=
  if poisoned m then
    report s c.set (agMill s.unit) false (mkReport cUE 0 (callCore c) 3 c.who.ten 0 0 0 (va / 64 * 64))
  else s

/-- Write a stepped line: a poisoned line keeps its earmark, a WT line reaches memory at once. -/
def putStep (s : State) (pa : Nat) (wt : Bool) (x : LineWord) (m : Mark) : State :=
  let old := (physLine s pa).2
  let s := physPutLine s pa x (if poisoned old then old else m)
  if wt then
    match lineByPa s pa, bankOfPa s pa with
    | some l, some b => setLine (writeBack s l) b { l with dirty := false }
    | _, _ => s
  else s

/-- A running mill whose step does not wait. -/
def running (s : State) : Option Call := match (millAt s).call, (millAt s).wait with | some c, false => some c | _, _ => none
/-- A micro-operation on registers. -/
def microOp (f : State → State) (s : State) : Out :=
  .next <| match running s with | some _ => f (leaveBanks s s.unit []) | none => s

/-- A step that reads line va. -/
def readStep (va : W64) (f : LineWord → State → State) (s : State) : Out :=
  let a := va.toNat / 64 * 64
  .next <| match running s with
    | none => s
    | some c => match reachLine (leaveBanks s s.unit [(a, false)]) c a false false with
        | .wait s => s
        | .busy s => s
        | .at_ s pa _ g =>
            let (x, m) := physLine s pa
            bumpUpc (f x (stepPoison (buffered (leaveBanks s s.unit []) g x) c m a))

/-- A step that changes line va from its bytes and earmark. A mill performs the steps of a call one after another, in program order,
also those on different lines, which R250 leaves unordered: DESIGN CHOICE, log 105. -/
def writeStep (va : W64) (f : State → LineWord → Mark → LineWord × Mark) (s : State) : Out :=
  let a := va.toNat / 64 * 64
  .next <| match running s with
    | none => s
    | some c => match reachLine (leaveBanks s s.unit [(a, false)]) c a true false with
        | .wait s => s
        | .busy s => s
        | .at_ s pa wt g =>
            let (x, m) := physLine s pa
            let (y, n) := f s x m
            bumpUpc (putStep (stepPoison (buffered (leaveBanks s s.unit []) g y) c m a) pa wt y n)

/-- A step that reads line va and changes line vb. -/
def twoStep (va vb : W64) (f : LineWord → Mark → LineWord → Mark → LineWord × Mark) (s : State) : Out :=
  let a := va.toNat / 64 * 64
  let b := vb.toNat / 64 * 64
  .next <| match running s with
    | none => s
    | some c => match reachLine (leaveBanks s s.unit [(a, true), (b, false)]) c a false true with
        | .wait s => s
        | .busy s => s
        | .at_ s pa _ g => match reachLine s c b true false with
            | .wait s => s
            | .busy s => s
            | .at_ s pb wt h =>
                let (x, m) := physLine s pa
                let (y, n) := physLine s pb
                let (z, o) := f x m y n
                let s := stepPoison (leaveBanks s s.unit []) c m a
                let s := if pa = pb then s else stepPoison s c n b
                bumpUpc (putStep (buffered (buffered s g x) h z) pb wt z o)

/-! ## Micro-operations (R284) -/

def execMillEnd (_ : Micro) (s : State) : Out := microOp endMillCall s
def millCond (o : Micro) (s : State) : Bool :=
  match o.cond.val with
  | 0 => true
  | 1 => (millAt s).z
  | 2 => !(millAt s).z
  | 3 => mreg s o.ra != 0
  | _ => mreg s o.ra == 0
def execMillBr (o : Micro) (s : State) : Out :=
  microOp (fun s => if millCond o s then updMill s fun k => { k with upc := o.tgt.toNat } else bumpUpc s) s
def execMillLi (o : Micro) (s : State) : Out := microOp (fun s => bumpUpc (setM o.rd o.imm s)) s
def execMillAdd (o : Micro) (s : State) : Out := microOp (fun s => bumpUpc (setM o.rd (mreg s o.ra + o.imm) s)) s

def execLfill (o : Micro) (s : State) : Out :=
  writeStep (mreg s o.rd) (fun _ _ m => (BitVec.ofNat 512 (joinElems 64 (List.replicate 8 o.imm.toNat)), m)) s
def execLcopy (o : Micro) (s : State) : Out :=
  twoStep (mreg s o.ra) (mreg s o.rd) (fun x m _ _ => (x, m)) s

/-- A line of elements of a type, element by element. -/
def lineElem (w : Nat) (x : LineWord) (i : Nat) : Nat := x.toNat / 2 ^ (w * i) % 2 ^ w
def lineMap (w : Nat) (f : Nat → Nat) : LineWord := BitVec.ofNat 512 (joinElems w ((List.range (512 / w)).map f))
/-- s × x + y in a type, rounded once to nearest even; s64 wraps (R59). -/
def lineFma (t : ElemType) (a x y : Nat) : Nat :=
  match t with | .s64 => (a * x + y) % 2 ^ 64 | t => (fmaF (fmtOf t) rne false false a x y).1
def lineMul (t : ElemType) (a x : Nat) : Nat :=
  match t with | .s64 => a * x % 2 ^ 64 | t => (mulF (fmtOf t) rne a x).1
def lineAdd (t : ElemType) (a x : Nat) : Nat :=
  match t with | .s64 => (a + x) % 2 ^ 64 | t => (addF (fmtOf t) rne a x).1
def microType (o : Micro) : ElemType := o.ty.getD .s64
def scalarOf (o : Micro) (s : State) : Nat := (mreg s o.rb).toNat % 2 ^ (microType o).width

def execLfma (o : Micro) (s : State) : Out :=
  let t := microType o
  let a := scalarOf o s
  twoStep (mreg s o.ra) (mreg s o.rd) (fun x _ y n =>
    (lineMap t.width fun i => lineFma t a (lineElem t.width x i) (lineElem t.width y i), n)) s
def execLscal (o : Micro) (s : State) : Out :=
  let t := microType o
  let a := scalarOf o s
  twoStep (mreg s o.ra) (mreg s o.rd) (fun x _ _ n => (lineMap t.width fun i => lineMul t a (lineElem t.width x i), n)) s
/-- The bits of m[RD] above the type's width become zero, of which the manual says nothing: DESIGN CHOICE, log 87. -/
def execLred (o : Micro) (s : State) : Out :=
  let t := microType o
  readStep (mreg s o.ra) (fun x s =>
    let v := (List.range (512 / t.width)).foldl (fun v i => lineAdd t v (lineElem t.width x i)) ((mreg s o.rd).toNat % 2 ^ t.width)
    setM o.rd (BitVec.ofNat 64 v) s) s
def execLtz (o : Micro) (s : State) : Out :=
  readStep (mreg s o.ra) (fun x s => updMill s fun k => { k with z := x == 0 }) s
def execLzmk (o : Micro) (s : State) : Out := writeStep (mreg s o.rd) (fun _ x _ => (x, 0)) s
def execStw (o : Micro) (s : State) : Out :=
  writeStep (mreg s o.rd) (fun s x m => (putLine x ((mreg s o.rd).toNat % 64 / 8 * 8) 8 (mreg s o.ra).toNat, m)) s

/-! ## The shipped routines (R287)

The manual lists AXPY.f's words; the other routines are written here to the effects it gives (log 42). -/

/-- A micro-word (R283). -/
def uw (op ty cond tgt rd ra rb imm : Nat) : BitVec 128 :=
  BitVec.ofNat 128 (op * 2 ^ 122 + ty * 2 ^ 116 + cond * 2 ^ 112 + tgt * 2 ^ 104 + rd * 2 ^ 101 + ra * 2 ^ 98 + rb * 2 ^ 95
    + imm % 2 ^ 64)
def uAdd (r : Nat) : BitVec 128 := uw 3 0 0 0 r r 0 64
def uLess : BitVec 128 := uw 3 0 0 0 1 1 0 (2 ^ 64 - 64)

/-- A loop over the lines from base: a body, the next lines, and the words after it. -/
def uLoop (base : Nat) (body tail : List (BitVec 128)) : List (BitVec 128) :=
  [uw 1 0 4 (base + body.length + 3) 0 1 0 0] ++ body ++ [uLess, uw 1 0 0 base 0 0 0 0] ++ tail
def uEnd : BitVec 128 := uw 0 0 0 0 0 0 0 0

/-- FILL fills each line with ones and multiplies it by its pattern, 64 bits wide, so that a line takes the pattern whatever its
address's low bits and no earmark changes. -/
def uFill (base : Nat) : List (BitVec 128) :=
  uLoop base [uw 0x10 0 0 0 0 0 0 1, uw 0x13 ElemType.s64.code 0 0 0 0 2 0, uAdd 0] [uEnd]

def routines : List (Nat × Nat × List (BitVec 128)) :=
  let axpy (base ty : Nat) := uLoop base [uw 0x12 ty 0 0 2 0 3 0, uAdd 0, uAdd 2] [uEnd]
  let scale (base ty : Nat) := uLoop base [uw 0x13 ty 0 0 0 0 3 0, uAdd 0] [uEnd]
  let red (base ty : Nat) := uLoop base [uw 0x14 ty 0 0 4 0 0 0, uAdd 0] [uw 0x17 0 0 0 2 4 0 0, uEnd]
  [ (0, 0x80, uFill 0x80),
    (1, 0x00, uLoop 0x00 [uw 0x11 0 0 0 2 0 0 0, uAdd 0, uAdd 2] [uEnd]),
    (2, 0x10, axpy 0x10 ElemType.bf.code), (3, 0x30, axpy 0x30 ElemType.f.code),
    (4, 0x40, scale 0x40 ElemType.bf.code), (5, 0x48, scale 0x48 ElemType.f.code),
    (6, 0x50, red 0x50 ElemType.f.code), (7, 0x58, red 0x58 ElemType.d.code), (8, 0x60, red 0x60 ElemType.s64.code),
    (9, 0x68, [uw 1 0 4 0x71 0 1 0 0, uw 0x15 0 0 0 0 0 0 0, uw 1 0 1 0x6E 0 0 0 0, uw 0x11 0 0 0 2 0 0 0, uAdd 2,
      uw 3 0 0 0 4 4 0 1, uAdd 0, uLess, uw 1 0 0 0x68 0 0 0 0, uw 0x17 0 0 0 3 4 0 0, uEnd]),
    (10, 0x78, uLoop 0x78 [uw 0x16 0 0 0 0 0 0 0, uAdd 0] [uEnd]) ]

/-- A mill with the shipped routines loaded. -/
def Mill.loaded (k : Mill) : Mill :=
  routines.foldl (fun k r =>
    let words := (List.range r.2.2.length).zip r.2.2
    { k with entry := sset k.entry r.1 (true, r.2.1), store := words.foldl (fun m w => sset m (r.2.1 + w.1) w.2) k.store }) k

end Sys2Proof.Machine
end

