-- ==== Sys2Proof/Machine/Front.lean ====
section
/-! DEFINITION. The front ends: fetch, issue and completion of command packets, pre-emption, the launch sequencer's slots,
mill rings, the management mailbox and the host's accesses (R302 to R316, R325, R327, R351). -/

namespace Sys2Proof.Machine

/-! ## Reads of a front end (R303, R310, R315, R320) -/

/-- n bytes within one line of a set's space, as its home or memory holds them. A fault of the walk is reported by the weighbridge
(R346). -/
def pieceRead (s : State) (b va n : Nat) : State × Except (Nat × Nat × Nat) Nat :=
  match hostRes s b va with
  | none => (s, .error (cPERM, hostAux, va))
  | some r =>
      let tag := tagOf r.glob r.asid
      match lineAt s (homeNow s r va) tag (va / 64) with
      | some l => (drawStale s b, .ok (undefAt s b va n (lineBytes l.data (va % 64) n)))
      | none =>
          let fails (s : State) (c : Nat) : State × Except (Nat × Nat × Nat) Nat :=
            (faultPacket s r.chan c (setAgent b) .host r.asid va false, .error (c, r.chan + hostAux, va))
          match translate s r.chan r.asid va r.glob with
          | (s, .fault c) => fails s c
          | (s, .ok f _ _) =>
              match nameFrame s r.chan f tag (va / 4096) (if r.ft then some (bankField r.bank) else none) with
              | none => fails s cSYN
              | some s => (drawStale s b, .ok (undefAt s b va n (lineBytes (physLine s (f * 4096 + va % 4096)).1 (va % 64) n)))

/-- n bytes of a set's space, or the failure met: code, aux, address. -/
def spaceRead (s : State) (b : Option Nat) (va n : Nat) : State × Except (Nat × Nat × Nat) Nat :=
  match b with
  | none => (s, .error (cPERM, hostAux, va))
  | some b =>
      if !rangeOk (setAtId s b).windows Window.r va n then (s, .error (cPERM, hostAux, va))
      else
        (pieces 64 va n).foldl (fun a q => match a.2 with
          | .error e => (a.1, .error e)
          | .ok v => match pieceRead a.1 b q.1 q.2 with
              | (s, .ok x) => (s, .ok (v + x * 2 ^ (8 * (q.1 - va))))
              | (s, .error e) => (s, .error e)) (s, .ok 0)

/-- The pinned frame's address of a ring offset (R304). -/
def pinned (k : Queue) (off : Nat) : Option Nat := (k.pas.find? fun p => p.1 == off / 4096).map fun p => p.2 + off % 4096

/-- An 8-byte word of a ring at an offset: host memory, or the space of the function's set; in a pinned frame a read meets no
weighbridge fault (R304). -/
def ringWord (s : State) (k : Queue) (off : Nat) : State × Except (Nat × Nat × Nat) Nat :=
  let off := off % 2 ^ k.log2
  let a := k.base + off
  if k.host then (s, .ok (loadBytes s.hostMem a 8))
  else match funcSet s k.func, pinned k off with
    | some b, some pa =>
        if !rangeOk (setAtId s b).windows Window.r a 8 then (s, .error (cPERM, hostAux, a))
        else (s, .ok (lineBytes (physLine s pa).1 (pa % 64) 8))
    | b, _ => spaceRead s b a 8

/-- Pin one page of a ring: its frame, named as a fill is (R304, R344). A page that has no frame then is translated at each read: DESIGN
CHOICE, log 89. -/
def pinPage (k : Queue) (b : Nat) (a : State × List (Nat × Nat)) (p : Nat) : State × List (Nat × Nat) :=
  let (s, l) := a
  let va := k.base + 4096 * p
  match hostRes s b va with
  | none => (s, l)
  | some r => match translate s r.chan r.asid va r.glob with
      | (s, .fault _) => (s, l)
      | (s, .ok f _ _) =>
          match nameFrame s r.chan f (tagOf r.glob r.asid) (va / 4096) (if r.ft then some (bankField r.bank) else none) with
          | some s => (s, l ++ [(p, f * 4096)])
          | none => (s, l)
/-- Pin the frames of a queue's ring, which lies in the space of its function's set (R304). -/
def pinRing (s : State) (k : Queue) : State × List (Nat × Nat) :=
  match funcSet s k.func with
  | some b => if k.host || k.base % 4096 != 0 then (s, []) else (List.range (2 ^ k.log2 / 4096)).foldl (pinPage k b) (s, [])
  | none => (s, [])

/-- n words from a place: IB address, or ring offset. -/
def readWords (s : State) (k : Queue) (inIb : Bool) (a : Nat) : Nat → State × Except (Nat × Nat × Nat) (List W64)
  | 0 => (s, .ok [])
  | n + 1 =>
      match (if inIb then spaceRead s (funcSet s k.func) a 8 else ringWord s k a) with
      | (s, .error e) => (s, .error e)
      | (s, .ok w) => match readWords s k inIb (a + 8) n with
          | (s, .ok ws) => (s, .ok (BitVec.ofNat 64 w :: ws))
          | (s, .error e) => (s, .error e)

/-- One read of a packet or of a mill-ring entry (R316): the aligned 16-byte unit that holds word j of it, or its first unread
word where j is none, as far as its words 0 to n - 1 go. The words read so far, or the failure met and whether it touched word 0. -/
def readUnit (s : State) (k : Queue) (inIb : Bool) (a n j : Nat) : State × Except (Nat × Nat × Nat × Bool) (List (Nat × W64)) :=
  let have_ (i : Nat) : Bool := k.words.any fun w => w.1 == i
  let t := if j < n && !have_ j then j else ((List.range n).find? fun i => !have_ i).getD 0
  let at_ (i : Nat) : Nat := (if inIb then a else k.base + a) + 8 * i
  let us := (List.range n).filter fun i => at_ i / 16 == at_ t / 16
  let lo := us.head?.getD t
  match readWords s k inIb (a + 8 * lo) us.length with
  | (s, .error (c, x, v)) => (s, .error (c, x, v, lo == 0))
  | (s, .ok ws) => (s, .ok (k.words ++ (us.zip ws).filter fun w => !have_ w.1))
/-- The words 0 to n - 1, once all are read. -/
def wordsRead (ws : List (Nat × W64)) (n : Nat) : Option (List W64) :=
  (List.range n).mapM fun i => (ws.find? fun w => w.1 == i).map Prod.snd

/-- The physical address of the block whose earmark holds a byte of a channel's earmark store: block b's two bytes stand at
0xF800_0000 + 2b, the low one first (R332): DEDUCED, log 78. -/
def markedBlock (a : Nat) : Nat := (a / 2 ^ 32 * 2 ^ 26 + (a % 2 ^ 32 - 0xF8000000) / 2) * 64
/-- A byte of device memory as the chip sees it: a bank's copy where one is held; in the earmark store, a byte of an earmark. -/
def coherentByte (s : State) (a : Nat) : Byte :=
  if inMarkStore a then BitVec.ofNat 8 ((physLine s (markedBlock a)).2.toNat / 2 ^ (8 * (a % 2)))
  else BitVec.ofNat 8 (lineBytes (physLine s a).1 (a % 64) 1)
def coherentBytes (s : State) (a n : Nat) : List Byte := (List.range n).map fun i => coherentByte s (a + i)
/-- Store bytes at a physical address, in the line a bank holds where one does. -/
def coherentPut : State → Nat → List Byte → State
  | s, _, [] => s
  | s, a, b :: bs =>
      let p := if inMarkStore a then markedBlock a else a
      let l := physLine s p
      let m : Mark := if a % 2 = 0 then (l.2 &&& 0xFF00) ||| b.setWidth 16 else (l.2 &&& 0x00FF) ||| (b.setWidth 16 <<< 8)
      let l' := if inMarkStore a then (l.1, m) else (putLine l.1 (a % 64) 1 b.toNat, l.2)
      coherentPut (physPutLine s p l'.1 l'.2) (a + 1) bs

/-! ## Fetch (R313, R315, R316) -/

/-- The place a cursor reads next, as a position of its level. -/
def Cursor.pos (c : Cursor) : Nat := match c.levels.getLast? with | some (a, _) => a | none => c.rpos
def Cursor.moved (c : Cursor) (n : Nat) : Cursor :=
  match c.levels.getLast? with
  | some (a, e) => { c with levels := c.levels.dropLast ++ [(a + n, e)] }
  | none => { c with rpos := c.rpos + n }
/-- Bytes of the ring from the ring-level packet to TAIL. -/
def Queue.ahead (k : Queue) : Nat := (k.tail + 2 ^ k.log2 - k.cur.ring) % 2 ^ k.log2
/-- The open LOOP stands at the cursor's own level. -/
def Cursor.inBody (c : Cursor) : Option (Nat × Nat × Nat × Nat × Bool) :=
  c.loop.bind fun l => if l.2.2.2.1 = c.levels.length then some l else none
/-- Bytes left to read at the cursor's level. -/
def Queue.room (k : Queue) : Nat :=
  match k.cur.inBody with
  | some (_, _, e, _, _) => e - k.cur.pos
  | none => match k.cur.levels.getLast? with | some (a, e) => e - a | none => k.ahead - k.cur.rpos
/-- Close bodies and packets that the cursor has read to their ends. -/
def closeBodies : Nat → Queue → Queue
  | 0, k => k
  | n + 1, k =>
      let c := k.cur
      if !c.isOpen then k
      else match c.inBody with
        | some (left, b, e, lv, part) =>
            if c.pos < e then k
            else if part && 1 < left then
              let c := { c with loop := some (left - 1, b, e, lv, false) }
              let c := match c.levels.getLast? with
                | some (_, z) => { c with levels := c.levels.dropLast ++ [(b, z)] }
                | none => { c with rpos := b }
              closeBodies n { k with cur := c, items := k.items ++ [.loopStart (left - 1)] }
            else
              let its := if part then k.items else k.items ++ [.loopEnd]
              closeBodies n { k with cur := { c with loop := none }, items := its }
        | none => match c.levels.getLast? with
            | some (a, e) => if a < e then k else closeBodies n { k with cur := { c with levels := c.levels.dropLast } }
            | none => { k with cur := { c with isOpen := false }, items := k.items ++ [.close k.fetch c.int] }

/-- A fetched FFENCE that has not retired holds later fetches (R315). -/
def isFence : Item → Bool | .pkt (.ffence _) _ => true | _ => false
def isPacket : Item → Bool | .pkt _ _ => true | .bad _ _ _ => true | _ => false
def isBad : Item → Bool | .bad _ _ _ => true | _ => false
/-- The packet at the issue point is a WAITMEM that has issued and not completed. -/
def Queue.polling (k : Queue) : Bool := k.outs.any fun o => match o.2 with | .waitmem _ => true | _ => false
/-- Items that have not been issued in any iteration. -/
def Queue.fresh (k : Queue) : List Item :=
  match k.iter with
  | some (_, false) => (k.items.dropWhile fun i => i != .loopEnd)
  | _ => k.items.drop k.ip
def Queue.mayFetch (k : Queue) : Bool :=
  (k.state == 2 || k.state == 3) && !k.preempt && !k.disable && !(k.items.any isBad)
    && !((if k.cur.loop.isSome then k.items.drop k.ip else k.items).any isFence)
    && ((k.fresh.filter isPacket).length < 4 + k.polling.toNat)

/-- A packet that stops the queue when it comes to issue. -/
def addBad (s : State) (q code : Nat) (rep : Option (Nat × Nat × Nat)) : State :=
  updQueue s q fun k => { k with items := k.items ++ [.bad code rep k.cur], words := [] }

/-- The packet read at the cursor, its words well formed, joins the items; its body, if any, is opened. -/
def addPacket (s : State) (q : Nat) (i : Instr) (len : Nat) : State :=
  let k := queueAt s q
  let c := k.cur
  let top := !c.isOpen
  let open_ (k : Queue) (bytes : Nat) (int : Bool) : Queue :=
    if top then { k with fetch := (c.ring + bytes) % 2 ^ k.log2, cur := { k.cur with isOpen := true, int := int } } else k
  let put (k : Queue) : Queue := { k with items := k.items ++ [.pkt i c], cur := c.moved (8 * len), words := [] }
  let fin (k : Queue) : State := updQueue s q fun _ => closeBodies 8 k
  match i with
  | .ib p =>
      let k := open_ (put k) (8 * len) (p.kf.getLsbD 7)
      let a := p.f 1 0 64
      if 2 ≤ c.levels.length then addBad s q 4 none
      else fin { k with cur := { k.cur with levels := k.cur.levels ++ [(a, a + p.f 2 0 64)] } }
  | .loopPacket p =>
      let body := 8 * p.f 0 48 16
      if c.loop.isSome then addBad s q 5 none
      else if k.room < 8 + body then addBad s q 2 none
      else
        let k := open_ (put k) (8 + body) (p.kf.getLsbD 7)
        let a := k.cur.pos
        fin { k with cur := { k.cur with loop := some (p.f 0 32 16, a, a + body, c.levels.length, false) } }
  | .packetNop p | .launch p | .copyPacket p | .millPacket p | .waitmem p | .ffence p | .signal p =>
      fin (open_ (put k) (8 * len) (p.kf.getLsbD 7))
  | _ => s

/-- Front-end core 0 reads a unit of the next packet of a queue, the one with word j (R315). Its units are read in any order, so
that it sees any mixture of old and new units that R316 allows; the last of them completes the fetch. A unit read ahead of the
packet's length that fails is read again when the packet is known to reach it. -/
def fetchPacket (s : State) (q j : Nat) : State :=
  let s := updQueue s q fun k =>
    let k := closeBodies 8 k
    let k := if k.cur.isOpen then k else { k with cur := { Cursor.start with ring := k.fetch } }
    passItems (k.items.length + 2) k
  let k := queueAt s q
  if !k.mayFetch || k.room = 0 then s
  else
    let inIb := !k.cur.levels.isEmpty
    let a := if inIb then k.cur.pos else k.cur.ring + k.cur.rpos
    let len (ws : List (Nat × W64)) : Option Nat := (ws.find? fun w => w.1 == 0).map fun w => w.2.toNat / 2 ^ 8 % 256
    let reach := Nat.min (k.room / 8) 255
    match readUnit s k inIb a ((len k.words).getD reach) j with
    | (s, .error (c, x, v, first)) => if first || (len k.words).isSome then addBad s q 7 (some (c, x, v)) else s
    | (s, .ok ws) =>
        let s := updQueue s q fun k => { k with words := ws }
        match len ws with
        | none => s
        | some n =>
            if n = 0 || k.room < 8 * n then addBad s q (if n != 0 && k.cur.inBody.isSome then 5 else 2) none
            else match wordsRead ws n with
              | none => s
              | some ws => match decodePacket ws with
                  | .err c => addBad s q c none
                  | .ok i => addPacket s q i n

/-! ## Issue (R313, R314, R386) -/

inductive Issued where
  | wait | done (s : State) | hold (s : State) | stop (s : State)

/-- The ring offset of the packet at a place: its own, or that of the IB in the ring, or in a LOOP of the ring, that holds it. -/
def Cursor.ringPos (c : Cursor) (log2 : Nat) : Nat := (c.ring + (if c.levels.isEmpty then c.rpos else c.rpos - 24)) % 2 ^ log2

/-- A NR packet that issued before a front-end reset is skipped with its body (R386). -/
def skipPacket (s : State) (q : Nat) : State :=
  let k := queueAt s q
  let c := match nth k.items k.ip with | some (.pkt _ c) => c | _ => k.cur
  let body : Bool := match nth k.items k.ip with | some (.pkt (.ib _) _) => true | some (.pkt (.loopPacket _) _) => true | _ => false
  let s := frontReport s k.func (q / 512) 0x41 q (c.ringPos k.log2)
  let s := updQueue s q fun k =>
    { k with skip := if body then some c.depth else none, replay := (k.replay.drop 1).dropWhile fun d => body && c.depth < d }
  advance s q

/-- The issue of the packet at the issue point of the acting queue: alone where it waits for every earlier one (R313). -/
def frontIssue (p : Packet) (alone : Bool) (act : Nat → Nat → State → Issued) (s : State) : Out :=
  .next <|
    let q := s.unit
    let k := queueAt s q
    if k.state != 2 || k.preempt || k.disable then s
    else if !k.replay.isEmpty && p.nr then skipPacket s q
    else if (p.wait || alone) && !k.outs.isEmpty then s
    else match act q k.seq s with
      | .wait => s
      | .done s => issued s q
      | .hold s => s
      | .stop s => s

/-- The packet numbered n waits for its completion. -/
def owe (s : State) (q n : Nat) (o : Owed) : State := updQueue s q fun k => { k with outs := k.outs ++ [(n, o)] }

def execPacketNop (p : Packet) (s : State) : Out := frontIssue p false (fun _ _ s => .done s) s
def execFfence (p : Packet) (s : State) : Out := frontIssue p true (fun _ _ s => .done s) s
def execIb (p : Packet) (s : State) : Out := frontIssue p false (fun _ _ s => .done s) s
/-- The body follows in the items; its iterations are counted once the header has gone. -/
def execLoopPacket (p : Packet) (s : State) : Out :=
  frontIssue p false (fun q _ s =>
    .done (updQueue s q fun k => { k with iter := none, items := match k.items with
      | i :: is => i :: .loopStart (p.f 0 32 16) :: is
      | [] => [] })) s

/-! ### LAUNCH (R311, R323, R325) -/

/-- What a LAUNCH packet asks of the sequencer. -/
def launchOf (p : Packet) (q : Option (Nat × Nat)) (set id : Nat) : Launch :=
  { id := id, q := q, set := set, size := p.f 0 32 32, entry := p.f 1 0 57, arg := BitVec.ofNat 64 (p.f 2 0 64), t0 := p.f 3 0 24,
    count := p.f 3 24 24, quota := p.f 3 48 4, priv := p.f 3 52 1 == 1, budget := BitVec.ofNat 14 (p.f 4 0 14), next := 0,
    live := [], exited := 0 }

/-- The tenants that receive members: T0 to T0 + U - 1 (R323). -/
def launchTenants (l : Launch) : Nat := Nat.min l.count ((l.size + l.quota - 1) / l.quota)
/-- DISPPRIV of R323, or a member on a die not in service (R388). -/
def launchRefused (s : State) (f : Nat) (l : Launch) : Bool :=
  (l.priv && f != 0) || match funcSet s f with
    | none => true
    | some b => !(b ≤ l.t0 && l.t0 + launchTenants l ≤ b + (setAtId s b).count)
        || (List.range (launchTenants l)).any fun i =>
            s.tenants.any fun e => e.1 == l.t0 + i && !dieUp s (dieOf e.2.core)
/-- The lowest free launch slot of a croft die; a floor die has no sequencer. -/
def freeLaunch (s : State) (d : Nat) : Option Nat :=
  if 8 ≤ d then none else
  (List.range Config.launchSlots).find? fun i => !((dieAt s d).launches.any fun e => e.1 == i)
def placeLaunch (s : State) (d slot : Nat) (l : Launch) : State :=
  updDie s d fun k => { k with launches := sset k.launches slot l }

def execLaunch (p : Packet) (s : State) : Out :=
  frontIssue p false (fun q n s =>
    let f := (queueAt s q).func
    let s := tick s
    let l := launchOf p (some (q, n)) ((funcSet s f).getD 0) s.now
    if !slotOk l.entry then .stop (queueError s q 3)
    else if launchRefused s f l then .stop (queueError s q 8)
    else match freeLaunch s (q / 512) with
      | none => .wait
      | some slot => .done (placeLaunch (owe s q n .launch) (q / 512) slot l)) s

/-! ### COPY, MILL (R310, R327) -/

/-- A call for a function's set: none where its range is not covered for R and W (R211); more: what else has been checked. -/
def setCall (s : State) (b entry : Nat) (va len a1 a2 : W64) (done : CallDone) (more : List (Nat × Nat)) : Option Call :=
  let ws := (setAtId s b).windows
  match coverOf ws va.toNat with
  | none => none
  | some w =>
      if rangeOk ws Window.rw va.toNat len.toNat then
        some ⟨b, channelFor w va.toNat, setAgent b, entry, va, len, a1, a2, done, (va.toNat, len.toNat) :: more, ws⟩
      else none

/-- A packet's call; one whose range fails stops the queue with ERR 0x07 and PERM (log 43). -/
def packetCall (q n entry : Nat) (va len a1 a2 : W64) (more : List (Nat × Nat)) (s : State) : Issued :=
  let k := queueAt s q
  match (funcSet s k.func).bind fun b => setCall s b entry va len a1 a2 (.queue q n) more with
  | some c => .done (send (owe s q n .call) ⟨[], .mcall c, none⟩)
  | none => .stop (frontReport (queueError s q 7) k.func (q / 512) cPERM hostAux va.toNat)

def pword (p : Packet) (i : Nat) : W64 := (nth p.words i).getD 0
def execCopyPacket (p : Packet) (s : State) : Out :=
  frontIssue p false (fun q n s =>
    let k := queueAt s q
    let ws := ((funcSet s k.func).map fun b => (setAtId s b).windows).getD []
    let dst := (pword p 2).toNat
    -- the destination is written: its range is checked for W (R303, R310)
    if !rangeOk ws Window.w dst (pword p 3).toNat then
      .stop (frontReport (queueError s q 7) k.func (q / 512) cPERM hostAux dst)
    else packetCall q n 1 (pword p 1) (pword p 3) (pword p 2) 0 [(dst, (pword p 3).toNat)] s) s
def execMillPacket (p : Packet) (s : State) : Out :=
  frontIssue p false (fun q n s => packetCall q n (p.f 0 32 5) (pword p 1) (pword p 2) (pword p 3) (pword p 4) [] s) s

/-! ### WAITMEM, SIGNAL (R310, R322) -/

/-- A front end's request to a home for packet n of a queue, or the failure of its window check. -/
def queueRequest (s : State) (q n va : Nat) (right : Window → Bool) (op : HomeOp) : State :=
  match funcSet s (queueAt s q).func with
  | none => queueAnswer s q n (.error (cPERM, hostAux, va))
  | some b =>
      if !rangeOk (setAtId s b).windows right va 8 then queueAnswer s q n (.error (cPERM, hostAux, va))
      else match hostRes s b va with
        | some r => send s ⟨[], .home ⟨setAgent b, .host, r, va, op, none, .queue q n⟩, none⟩
        | none => s

/-- A WAITMEM reads its word at its home. -/
def pollWord (s : State) (q n : Nat) (p : Packet) : State := queueRequest s q n (p.f 1 0 64) Window.r (.load 8 false)

/-- A WAITMEM waits at the issue point until it completes (R313). -/
def execWaitmem (p : Packet) (s : State) : Out :=
  frontIssue p false (fun q n s =>
    let s := updQueue (owe s q n (.waitmem p)) q fun k => { k with state := 3 }
    .hold (pollWord s q n p)) s

/-- The poll tick of a Lomwen core: its signal, and for core 0 the words its queues wait for (R322). -/
def execPollTick (s : State) : Out :=
  .next <|
    let i := argN s 0
    let s := raiseSignal s (i / 2) (i % 2) 3
    if i % 2 != 0 then s
    else
      let ws := (s.queues.filter fun e => e.1 / 512 == i / 2).flatMap fun e =>
        e.2.outs.filterMap fun o => match o.2 with | .waitmem p => some (e.1, o.1, p) | _ => none
      ws.foldl (fun s w => pollWord s w.1 w.2.1 w.2.2) s

def execSignal (p : Packet) (s : State) : Out :=
  frontIssue p true (fun q n s =>
    let va := p.f 1 0 64
    let x := p.f 2 0 64
    let who := setAgent ((funcSet s (queueAt s q).func).getD 0)
    let s := owe s q n (.signal (p.kf.getLsbD 0))
    .done (if p.kf.getLsbD 1 then
        queueRequest s q n va Window.rw (.atom 8 (.int .add) (.one who x 0 false 0 0 0))
      else queueRequest s q n va Window.w (.store [(va, toBytes 8 x)] none))) s

/-! ## Pre-emption (R308) -/

/-- A queue stops as in error; it is disabled once its issued work has completed (R307, R312, R329). -/
def stopQueue (k : Queue) : Queue := settleQueue { k with disable := true, state := if k.state = 0 then 0 else k.state }

/-- The place of the next packet to issue; a WAITMEM that has not completed is withdrawn, and stands there. -/
def stopPoint (k : Queue) : Queue × Cursor :=
  let live (o : Nat × Owed) : Bool := match o.2 with | .waitmem _ => false | _ => true
  ({ k with outs := k.outs.filter live, seq := k.seq + 1 },
   match nth k.items k.ip with
   | some (.pkt _ c) => c
   | some (.bad _ _ c) => c
   | _ => if k.cur.isOpen then k.cur else { Cursor.start with ring := k.fetch })

/-- The sixteen words of a queue save in a layout. NEXT is the offset of the ring-level packet (R308). -/
def saveWords (layout : Nat) (k : Queue) (c : Cursor) : List Nat :=
  let lv (i : Nat) : Nat × Nat := (nth c.levels i).getD (0, 0)
  let (left, b, e, l) := match c.loop with
    | some (n, b, e, v, part) => (if part then n else (k.iter.map Prod.fst).getD n, b, e, v + 1)
    | none => (0, 0, 0, 0)
  [layout + c.levels.length * 2 ^ 16 + l * 2 ^ 18, c.ring + k.tail * 2 ^ 32, (lv 0).1, (lv 0).2, (lv 1).1, (lv 1).2,
   left + (e - b) / 8 * 2 ^ 16, if l = 1 then (c.ring + b) % 2 ^ k.log2 else b, 0, 0, 0, 0, 0, 0, 0, 0]

/-- The hayward writes the save of a queue at an address it allocates, and the queue is pre-empted. Its message to the queue's
front end raises signal 5, which R322 names without saying what sends it: DESIGN CHOICE, log 72. -/
def execQueueSaveWrite (s : State) : Out :=
  .next <|
    let q := argN s 0
    let a := argN s 1
    let k := queueAt s q
    if !k.preempt || s.mgmt.code = 1 || a = 0 || 2 ^ 57 ≤ a then s
    else
      let (k', c) := stopPoint k
      let s := { s with mem := storeBytes s.mem a ((saveWords s.mgmt.wlayout k' c).flatMap (toBytes 8)) }
      raiseSignal (updQueue s q fun _ => { k' with
        save := a, state := 5, preempt := false, items := [], ip := 0, iter := none, skip := none, cur := Cursor.start
        words := [], place := c.rpos }) (q / 512) 0 5

/-- Resume from a save (R308). Where the next packet stands in the body of a LOOP of the ring, which no word of the save holds,
the queue has kept its place (log 44). -/
def restoreQueue (s : State) (q : Nat) : State :=
  let k := queueAt s q
  let m := 2 ^ k.log2
  let w (i : Nat) : Nat := memGet s (k.save + 8 * i) 8
  let depth := w 0 / 2 ^ 16 % 4
  let l := w 0 / 2 ^ 18 % 4
  let ring := w 1 % 2 ^ 32
  let bytes := 8 * (w 6 / 2 ^ 16 % 2 ^ 16)
  let body := if l = 1 then 8 else w 7
  let loop := if l = 0 then none else some (w 6 % 2 ^ 16, body, body + bytes, l - 1, true)
  let (s, hd) := ringWord s k ring
  let int : Bool := match hd with | .ok x => x.testBit 31 | .error _ => false
  let c : Cursor := ⟨ring, if l = 1 then k.place else if depth = 0 then 0 else 24,
    ([(w 2, w 3), (w 4, w 5)]).take depth, loop, l != 0 || depth != 0, int⟩
  updQueue s q fun k =>
    let k := { k with
      fetch := if l = 1 then (w 7 + bytes) % m else if depth = 0 then ring else (ring + 24) % m
      tail := w 1 / 2 ^ 32, save := 0, cur := c, words := [], place := 0 }
    { k with state := idleOr k }

/-! ## The steps of a queue -/

/-- The packet at the issue point that stops its queue (R307). -/
def badPacket (s : State) (q code : Nat) (rep : Option (Nat × Nat × Nat)) : State :=
  let k := queueAt s q
  if k.state != 2 || k.preempt || k.disable then s
  else
    let s := queueError s q code
    match rep with | some (c, aux, a) => frontReport s k.func (q / 512) c aux a | none => s

/-! ## Mill rings (R327) -/

/-- Front-end core 1 reads a unit of the next entry of a function's mill ring, the one with word j, once HEAD has passed the entry
before; its last unit hands the entry on. An entry with a reserved bit set is refused with ILL, one whose completion address is no
multiple of 8 with ALIGN, its answer going to the word that holds the address: DESIGN CHOICE, log 71. -/
def ringService (s : State) (f j : Nat) : State :=
  let k := (funcAt s f).mring
  let upd (g : Queue → Queue) (s : State) : State := updFunc s f fun x => { x with mring := g x.mring }
  let handed (s : State) : State :=
    upd (fun k => { k with fetch := (k.fetch + 64) % 2 ^ k.log2, outs := k.outs ++ [(0, .call)], words := [] }) s
  if k.state != 2 || k.disable || k.fetch != k.head then s
  else if (k.tail + 2 ^ k.log2 - k.fetch) % 2 ^ k.log2 < 64 then ringError s f 2
  else match readUnit s k false k.fetch 8 j with
    | (s, .error (c, aux, a, _)) => frontReport (ringError (upd (fun k => { k with words := [] }) s) f 7) f (f % 8) c aux a
    | (s, .ok ws) => match wordsRead ws 8 with
        | none => upd (fun k => { k with words := ws }) s
        | some ws =>
            let w (i : Nat) : W64 := (nth ws i).getD 0
            let n := (w 0).toNat
            let at_ := (w 1).toNat / 8 * 8
            let int := n.testBit 8
            let refuse (code : Nat) : State := ringDone (ringPassed (handed s) f) f at_ (2 ^ 63 + code) int
            if n / 32 % 8 != 0 || n / 512 != 0 || w 6 != 0 || w 7 != 0 then refuse cILL
            else if (w 1).toNat % 8 != 0 then refuse cALIGN
            else match (funcSet s f).bind fun b => setCall s b (n % 32) (w 2) (w 3) (w 4) (w 5) (.ring f at_ int) [] with
              | some c => send (handed s) ⟨[], .mcall c, none⟩
              | none => refuse cPERM

/-! ## The mailbox (R312, R329, R330) -/

def stOk : Nat := 0x00
def stBad : Nat := 0x01
def stBusy : Nat := 0x02
def stLocked : Nat := 0x21
/-- A request is done with a status. -/
def answer (s : State) (st : Nat) : State :=
  { s with mailbox := { s.mailbox with pending := false, begun := false, gen := none, reply0 := BitVec.ofNat 64 st } }
/-- The request has acted, and stays pending until it is done (R312). -/
def begin_ (s : State) : State := { s with mailbox := { s.mailbox with begun := true } }
/-- A locked interface refuses changes, from the lock until it is unlocked again (R329). -/
def isLocked (s : State) (f : Nat) : Bool := (funcAt s f).tdi != .unlocked
def configure (f : Nat) (act : State → State) (s : State) : Out :=
  .next (if isLocked s f then answer s stLocked else act s)
/-- A request on a queue of function f. -/
def ownQueue (f q : Nat) (act : State → State) (s : State) : State :=
  if (queueAt s q).func != f then answer s stBad else act s

/-- A record as QCONFIG and MRCONFIG write it. -/
def configured (k : Queue) (f : Nat) (base size vec : W64) (st : Nat) : Queue :=
  { Queue.empty with
    base := base.toNat % 2 ^ 57, host := base.getLsbD 57, log2 := size.toNat % 32, vec := vec.toNat % 256
    ien := vec.getLsbD 8, func := f, state := st, seq := k.seq }

def execQconfig (f q : Nat) (base size vec : W64) (s : State) : Out :=
  configure f (fun s =>
    if (queueAt s q).state != 0 then answer s stBusy
    else answer (updQueue s q fun k => configured k f base size vec 0) stOk) s

/-- A queue is enabled, the frames of its ring pinned (R304, R307). What it had issued before still completes, but for a WAITMEM, which
holds nothing any more (log 90). -/
def execQenable (f q : Nat) (s : State) : Out :=
  configure f (ownQueue f q (fun s =>
    if !dieUp s (q / 512) then answer s stBusy
    else
      let (s, pas) := pinRing s (queueAt s q)
      let stays (o : Nat × Owed) : Bool := match o.2 with | .failed => false | .waitmem _ => false | _ => true
      let go (k : Queue) : Queue := { k with
        state := 1, err := 0, head := k.tail, fetch := k.tail, cur := Cursor.start, items := [], ip := 0, iter := none
        seq := k.seq + 1, words := [], place := 0, outs := k.outs.filter stays, pas := pas
        closed := [], trace := [], replay := [], skip := none, preempt := false, disable := false }
      answer (updQueue s q go) stOk)) s

/-- The request is done once issued work has completed and the queue is disabled (R307, R312). -/
def execQdisable (f q : Nat) (s : State) : Out :=
  let go (s : State) : State := if (queueAt s q).state = 0 then answer s stOk else begin_ s
  if s.mailbox.begun then .next (go s)
  else configure f (ownQueue f q (fun s => go (updQueue s q stopQueue))) s

/-- A mill ring is idle as soon as it is configured, since no request enables it (log 45). -/
def execMrconfig (f : Nat) (base size vec : W64) (s : State) : Out :=
  configure f (fun s => answer (updFunc s f fun x => { x with mring := configured x.mring f base size vec 1 }) stOk) s

def execIrqroute (f vec : Nat) (addr : W64) (data : W64) (s : State) : Out :=
  configure f (fun s => answer (updFunc s f fun x => { x with irqs := sset x.irqs vec (addr, data) }) stOk) s

def execFbind (f : Nat) (set : W64) (s : State) : Out :=
  configure f (fun s =>
    let b := set.toNat % 2 ^ 24
    if b = 0xFFFFFF then answer (updFunc s f fun x => { x with set := none }) stOk
    else if (setAtId s b).count = 0 then answer s stBad
    else answer (updFunc s f fun x => { x with set := some b }) stOk) s

/-- Only a queue that runs can be pre-empted, and only a pre-empted one restored (log 46). The request is done once the save is
written (R308, R312); a queue that meets an error before that is not pre-empted. -/
def execQpreempt (f q : Nat) (s : State) : Out :=
  .next (ownQueue f q (fun s =>
    let st := (queueAt s q).state
    if s.mailbox.begun && st = 5 then answer s stOk
    else if st = 0 || st = 4 || st = 5 then answer s stBad
    else if s.mailbox.begun then s
    else begin_ (updQueue s q fun k => { k with preempt := true })) s)

def execQrestore (f q : Nat) (s : State) : Out :=
  .next (ownQueue f q (fun s =>
    if (queueAt s q).state != 5 then answer s stBad else answer (restoreQueue s q) stOk) s)

/-- ASHOOT begins at its first step and answers when its SHOOT has completed (R349, R351). -/
def execAshoot (f : Nat) (va len : W64) (s : State) : Out :=
  .next <| match funcSet s f with
    | none => answer s stBad
    | some b =>
        let s := match s.mailbox.gen with
          | some _ => s
          | none =>
              let s := beginShoot s b [shootRange va.toNat len.toNat]
              { s with mailbox := { s.mailbox with gen := some (setAtId s b).gen } }
        match s.mailbox.gen with
        | some g => match tryShoot s b g with
            | some s =>
                let s := answer s stOk
                { s with mailbox := { s.mailbox with reply1 := g.setWidth 64 } }
            | none => s
        | none => s

/-- The doorbell: a request while the host driver is not the owner, or before stage B, is answered busy (R388, R391). -/
def execMailboxDoorbell (v : W64) (s : State) : Out :=
  .next <|
    if v != 1 || s.mailbox.pending then s
    else if s.mgmt.owner != 1 || !s.mgmt.stb then answer s stBusy
    else raiseSignal { s with mailbox := { s.mailbox with pending := true, begun := false, gen := none, reply0 := 0x80 } } 0 1 4

/-- What an aligned read of the control BAR of function f returns; none where no value is stated: the request words and
the doorbell of the mailbox (R302, R306, R312, R387). -/
def controlRead (s : State) (f off : Nat) : Option W64 :=
  let kick (k : Queue) : W64 := BitVec.ofNat 64 (k.head % 2 ^ 32 + k.state % 16 * 2 ^ 32)
  if !s.mgmt.stb then some 0
  else if off < 0x8000 then
    let k := queueAt s (off / 8)
    some (if off % 8 = 0 && k.func == f then kick k else 0)
  else if off = 0x8000 then some (kick (funcAt s f).mring)
  else if f != 0 || off < 0xC000 || 0xC080 ≤ off then some 0
  else if off = 0xC048 then some s.mailbox.reply0
  else if off = 0xC050 then some s.mailbox.reply1
  else none

/-! ## The host (R302, R303, R351) -/

/-- The aperture offsets of a request and the set its function is bound to (R303). -/
def apertureSet (s : State) (f addr n : Nat) : Option Nat := if addr + n ≤ 2 ^ 41 then funcSet s f else none
def hostDone (s : State) (ok : Bool) (v : Nat) : State := { s with out := s.out ++ [.done s.tag ok v], tag := s.tag + 1 }

/-- A read performs line by line at the homes; each piece completes under a tag of its own. -/
def execApertureRead (f addr len : Nat) (s : State) : Out :=
  .next <| match apertureSet s f addr len with
    | none => hostDone s false 0
    | some b =>
        if !rangeOk (setAtId s b).windows Window.r addr len then hostDone (apertureFault s f addr) false 0
        else (pieces 64 addr len).foldl (fun s q => match hostRes s b q.1 with
          | some r => { send s ⟨[], .home ⟨setAgent b, .host, r, q.1, .load q.2 false, none, .host s.tag⟩, none⟩ with tag := s.tag + 1 }
          | none => s) s

def execApertureWrite (f addr : Nat) (bytes : List Byte) (s : State) : Out :=
  .next <| match apertureSet s f addr bytes.length with
    | none => s
    | some b =>
        if !rangeOk (setAtId s b).windows Window.w addr bytes.length then apertureFault s f addr
        else post s f ((pieces 64 addr bytes.length).map fun q => .write q.1 ((bytes.drop (q.1 - addr)).take q.2) none)

/-- A CompareAndSwap of 64 bits at the home (R351). -/
def execHostAtomic (f addr : Nat) (expect new : W64) (s : State) : Out :=
  .next <| match (if addr % 8 = 0 then apertureSet s f addr 8 else none) with
    | none => hostDone s false 0
    | some b => match hostRes s b addr with
        | some r =>
            if !rangeOk (setAtId s b).windows Window.rw addr 8 then hostDone (apertureFault s f addr) false 0
            else
              let t : AtomReq := .one (setAgent b) new.toNat expect.toNat true 0 0 0
              { send s ⟨[], .home ⟨setAgent b, .host, r, addr, .atom 8 .cas t, none, .host s.tag⟩, none⟩ with tag := s.tag + 1 }
        | none => hostDone (apertureFault s f addr) false 0

/-- A write of the control BAR at the kick register of a queue (R302, R306). -/
def execKickWrite (f off : Nat) (v : W64) (s : State) : Out :=
  .next (if off % 8 = 0 && off < 0x8000 then post s f [.kick (off / 8) (v.toNat % 2 ^ 32)] else s)
def execMillRingKick (f : Nat) (v : W64) (s : State) : Out := .next (post s f [.ring (v.toNat % 2 ^ 32)])

/-! ## The watchdog (R386) -/

/-- A queue restarts at HEAD; what it had issued from there is remembered, a WAITMEM that waits at the issue point with it. -/
def restartQueue (k : Queue) : Queue :=
  let polled := if k.polling then (match nth k.items k.ip with | some (.pkt _ c) => [c.depth] | _ => []) else []
  let k := { k with
    fetch := k.head, cur := Cursor.start, items := [], ip := 0, iter := none, outs := [], closed := [], words := []
    replay := k.trace ++ polled ++ k.replay.drop polled.length, trace := [], skip := none, seq := k.seq + 1
    state := if k.state = 3 then 2 else k.state, place := 0 }
  settleQueue k
/-- The save of a pre-empted queue that restarts names HEAD; the last kick stays (R306, R386). -/
def restartSave (s : State) (q : Nat) : State :=
  let k := queueAt s q
  if k.state != 5 then s
  else
    let k := { k with tail := memGet s (k.save + 12) 4, iter := none }
    let ws := saveWords (memGet s k.save 2) k { Cursor.start with ring := k.head }
    { s with mem := storeBytes s.mem k.save (ws.flatMap (toBytes 8)) }

/-- A Lomwen core resets; its SRAM stays (log 49). -/
def resetLom (s : State) (i : Nat) : State := updLom s i fun k => { Lomwen.empty with sram := k.sram }

/-- Reset a die's front end (R386, R394). A mill-ring entry that was handed on and not accepted is handed on again. -/
def resetFront (s : State) (d : Nat) : State :=
  let s := resetLom (resetLom s (2 * d)) (2 * d + 1)
  let s := updDie s d fun k => { k with launches := [], lmdone := 0 }
  let again (k : Queue) : Queue := settleQueue { k with
    fetch := k.head, words := [], outs := if k.fetch = k.head then k.outs else k.outs.dropLast }
  let ring (e : Nat × Func) : Nat × Func := if e.1 % 8 = d then (e.1, { e.2 with mring := again e.2.mring }) else e
  let mine (f : Flight) : Bool := match f.msg with
    | .mcall c => match c.done with | .ring f _ _ => f % 8 == d | _ => false
    | _ => false
  let qs := (s.queues.filter fun e => e.1 / 512 == d).map Prod.fst
  let s : State := qs.foldl (fun s q => updQueue (restartSave s q) q restartQueue) s
  { s with funcs := s.funcs.map ring, net := s.net.filter fun f => !mine f }

/-- An entry of the hayward's log for an event that concerns no tenant (R392). -/
def logNote (s : State) (code aux addr : Nat) : State := logEvent s (mkReport code 0 0 5 0 0 0 aux addr)

/-- The watchdog of a croft die expires; the hayward's two Lomwen cores have none (R386). -/
def execWatchdogExpiry (s : State) : Out :=
  .next <|
    let d := argN s 0
    if d < 8 then logNote (resetFront s d) 0x41 0 d else s

end Sys2Proof.Machine
end

