-- ==== Sys2Proof/Machine/Lomwen.lean ====
section
/-! DEFINITION. The custom instructions of the Lomwen cores (R318 to R324). The acting core is `State.unit`: 2 × die + k. -/

namespace Sys2Proof.Machine

def lom (s : State) : Lomwen := lomAt s s.unit
/-- x0 reads zero and discards writes (RISC-V). -/
def xreg (s : State) (i : Fin 32) : W64 := if i = 0 then 0 else (lom s).x[i]
def setX (i : Fin 32) (v : W64) (s : State) : State :=
  if i = 0 then s else updLom s s.unit fun k => { k with x := k.x.set i v }
/-- The instruction is done. -/
def lomNext (s : State) : State := updLom s s.unit fun k => { k with pc := k.pc + 4 }

/-- mstatus after a trap: MPIE takes MIE, and MIE is 0 (RISC-V, log 49). -/
def trapStatus (m : W64) : W64 := if m.getLsbD 3 then 0x80 else 0
/-- A machine-mode exception: mepc, mcause, mstatus, and the handler of mtvec (PRESUMED, RISC-V, log 49). -/
def lomTrap (cause : Nat) (s : State) : State :=
  updLom s s.unit fun k => { k with
    mepc := k.pc, mcause := BitVec.ofNat 64 cause, mstatus := trapStatus k.mstatus, pc := k.mtvec &&& ~~~3 }

def sramBase : Nat := 0x80000000
def sramSize : Nat := 0x20000
def inSram (a n : Nat) : Bool := sramBase ≤ a && a + n ≤ sramBase + sramSize
/-- Where a core's addresses above device memory reach host memory (log 48). -/
def lomHost : Nat := 2 ^ 57
/-- A core reaches the bytes: its SRAM and device memory, or host memory. -/
def lomReach (a n : Nat) : Bool := a + n ≤ 2 ^ 40 || (lomHost ≤ a && a + n ≤ 2 * lomHost)
/-- n bytes at a core's address: its local SRAM, host memory, or device memory (R318, log 48). -/
def lomLoad (s : State) (a n : Nat) : Nat :=
  if inSram a n then loadBytes (lom s).sram a n
  else if lomHost ≤ a then loadBytes s.hostMem (a - lomHost) n
  else ofBytes (coherentBytes s a n)
def lomStore (s : State) (a n v : Nat) : State :=
  if inSram a n then updLom s s.unit fun k => { k with sram := storeBytes k.sram a (toBytes n v) }
  else if lomHost ≤ a then { s with hostMem := storeBytes s.hostMem (a - lomHost) (toBytes n v) }
  else coherentPut s a (toBytes n v)

/-! ## lm.rfetch (R320) -/

/-- The ring a cursor describes, as a queue record. -/
def cursorQueue (s : State) (c : Nat) : Queue :=
  let w (i : Nat) : Nat := lomLoad s (c + 8 * i) 8
  { Queue.empty with
    base := w 0 % 2 ^ 57, host := (w 0).testBit 57, log2 := w 1 % 32, head := w 2 % 2 ^ 32, fetch := w 2 / 2 ^ 32
    tail := w 3 % 2 ^ 32, func := Config.cursorFunc s.unit c }

/-- A read of LM.RFETCH fails: it ends with mcause 26, and FETCH is unchanged. -/
def rfetchFails (s : State) : State := lomTrap 26 (updLom s s.unit fun k => { k with rfetch := none })

/-- LM.RFETCH begins: the cursor's checks, LEN at BASE + FETCH as it stands, and the destination's check (R320). -/
def rfetchBegin (o : LmO) (s : State) : State :=
  let c := (xreg s o.a).toNat
  let d := (xreg s o.b).toNat
  let k := cursorQueue s c
  let m := 2 ^ k.log2
  if c % 8 != 0 || k.log2 < 12 || 25 < k.log2 then lomTrap 25 s
  else if k.fetch = k.tail then lomNext (setX o.d 0 s)
  else match readWords s { k with log2 := 32 } false k.fetch 1 with
    | (s, .error _) => lomTrap 26 s
    | (s, .ok ws) =>
        let len := ((nth ws 0).getD 0).toNat / 2 ^ 8 % 256
        if len = 0 || (k.tail + m - k.fetch % m) % m < 8 * len then lomTrap 24 s
        else if d % 8 != 0 || !inSram d (8 * len) then lomTrap 25 s
        else updLom s s.unit fun x => { x with rfetch := some (len, k) }

/-- LM.RFETCH has read its packet: it is copied, FETCH moves on, and rd takes LEN (R320). -/
def rfetchEnd (o : LmO) (len : Nat) (k : Queue) (ws : List W64) (s : State) : State :=
  let c := (xreg s o.a).toNat
  let d := (xreg s o.b).toNat
  let s := updLom s s.unit fun x => { x with
    rfetch := none, sram := storeBytes x.sram d (ws.flatMap fun w => toBytes 8 w.toNat) }
  let s := lomStore s (c + 20) 4 ((k.fetch + 8 * len) % 2 ^ k.log2)
  lomNext (setX o.d (BitVec.ofNat 64 len) s)

/-- LM.RFETCH: a step for its checks and LEN, then one for each aligned 16-byte unit of its packet, in an order left free, so that each
is read old or new (R316, R320). -/
def execLmRfetch (o : LmO) (s : State) : Out :=
  .next <| match (lom s).rfetch with
    | none => rfetchBegin o s
    | some (len, k) => match readUnit (draw s) k false k.fetch len (Config.fetchUnit s.free) with
        | (s, .error _) => rfetchFails s
        | (s, .ok ws) => match wordsRead ws len with
            | some xs => rfetchEnd o len k xs s
            | none => updLom s s.unit fun x => { x with rfetch := some (len, { k with words := ws }) }

/-! ## lm.bext, lm.swait (R321, R322) -/

def execLmBext (o : LmO) (s : State) : Out :=
  .next <|
    let b := (xreg s o.b).toNat
    let pos := b % 64
    let len := b / 2 ^ 8 % 128
    if len = 0 || 64 < pos + len then lomTrap 27 s
    else lomNext (setX o.d (BitVec.ofNat 64 ((xreg s o.a).toNat / 2 ^ pos % 2 ^ len)) s)

def execLmSwait (d a : Fin 32) (s : State) : Out :=
  .next <|
    let mask := xreg s a
    let v := (lom s).pending &&& mask
    if mask == 0 || 64 ≤ mask.toNat then lomTrap 28 s
    else if v == 0 then s
    else lomNext (setX d v (updLom s s.unit fun k => { k with pending := k.pending &&& ~~~v }))

/-! ## lm.disp, lmdone (R318, R323) -/

def execLmDisp (o : LmO) (s : State) : Out :=
  .next <|
    let a := (xreg s o.a).toNat
    let q := (xreg s o.b).toNat % 4096
    let die := s.unit / 2
    let ws := (List.range 5).map fun i => BitVec.ofNat 64 (lomLoad s (a + 8 * i) 8)
    let w0 := ((nth ws 0).getD 0).toNat
    let p : Packet := ⟨w0.testBit 16, w0.testBit 17, BitVec.ofNat 8 (w0 / 2 ^ 24), ws⟩
    let f := (queueAt s q).func
    let t := tick s
    let l := launchOf p none ((funcSet s f).getD 0) t.now
    if a % 8 != 0 || !inSram a 40 || !wf (.launch p) || !slotOk l.entry then lomTrap 29 s
    else if launchRefused s f l then lomTrap 30 s
    else match freeLaunch s die with
      | none => s
      | some slot => lomNext (setX o.d (BitVec.ofNat 64 slot) (placeLaunch t die slot l))

def execLmdoneRead (rd : Fin 32) (s : State) : Out :=
  .next <|
    let die := s.unit / 2
    let v := (dieAt s die).lmdone
    lomNext (setX rd v (updDie s die fun k => { k with lmdone := 0 }))

end Sys2Proof.Machine
end

