-- ==== Sys2Proof/Machine/Crypt.lean ====
section
/-! DEFINITION. SHA-512 and the verification of an RSASSA-PSS signature, as an image's checks use them (R393, R395). -/

namespace Sys2Proof.Machine

/-! ## SHA-512 (R393; FIPS 180-4, PRESUMED, log 50) -/

def shaK0 : List W64 :=
  [
    0x428A2F98D728AE22, 0x7137449123EF65CD, 0xB5C0FBCFEC4D3B2F, 0xE9B5DBA58189DBBC,
    0x3956C25BF348B538, 0x59F111F1B605D019, 0x923F82A4AF194F9B, 0xAB1C5ED5DA6D8118,
    0xD807AA98A3030242, 0x12835B0145706FBE, 0x243185BE4EE4B28C, 0x550C7DC3D5FFB4E2,
    0x72BE5D74F27B896F, 0x80DEB1FE3B1696B1, 0x9BDC06A725C71235, 0xC19BF174CF692694,
    0xE49B69C19EF14AD2, 0xEFBE4786384F25E3, 0x0FC19DC68B8CD5B5, 0x240CA1CC77AC9C65 ]
def shaK1 : List W64 :=
  [
    0x2DE92C6F592B0275, 0x4A7484AA6EA6E483, 0x5CB0A9DCBD41FBD4, 0x76F988DA831153B5,
    0x983E5152EE66DFAB, 0xA831C66D2DB43210, 0xB00327C898FB213F, 0xBF597FC7BEEF0EE4,
    0xC6E00BF33DA88FC2, 0xD5A79147930AA725, 0x06CA6351E003826F, 0x142929670A0E6E70,
    0x27B70A8546D22FFC, 0x2E1B21385C26C926, 0x4D2C6DFC5AC42AED, 0x53380D139D95B3DF,
    0x650A73548BAF63DE, 0x766A0ABB3C77B2A8, 0x81C2C92E47EDAEE6, 0x92722C851482353B ]
def shaK2 : List W64 :=
  [
    0xA2BFE8A14CF10364, 0xA81A664BBC423001, 0xC24B8B70D0F89791, 0xC76C51A30654BE30,
    0xD192E819D6EF5218, 0xD69906245565A910, 0xF40E35855771202A, 0x106AA07032BBD1B8,
    0x19A4C116B8D2D0C8, 0x1E376C085141AB53, 0x2748774CDF8EEB99, 0x34B0BCB5E19B48A8,
    0x391C0CB3C5C95A63, 0x4ED8AA4AE3418ACB, 0x5B9CCA4F7763E373, 0x682E6FF3D6B2B8A3,
    0x748F82EE5DEFB2FC, 0x78A5636F43172F60, 0x84C87814A1F0AB72, 0x8CC702081A6439EC ]
def shaK3 : List W64 :=
  [
    0x90BEFFFA23631E28, 0xA4506CEBDE82BDE9, 0xBEF9A3F7B2C67915, 0xC67178F2E372532B,
    0xCA273ECEEA26619C, 0xD186B8C721C0C207, 0xEADA7DD6CDE0EB1E, 0xF57D4F7FEE6ED178,
    0x06F067AA72176FBA, 0x0A637DC5A2C898A6, 0x113F9804BEF90DAE, 0x1B710B35131C471B,
    0x28DB77F523047D84, 0x32CAAB7B40C72493, 0x3C9EBE0A15C9BEBC, 0x431D67C49C100D4C,
    0x4CC5D4BECB3E42B6, 0x597F299CFC657E2A, 0x5FCB6FAB3AD6FAEC, 0x6C44198C4A475817 ]
def shaK : List W64 := shaK0 ++ shaK1 ++ shaK2 ++ shaK3
def shaInit : List W64 :=
  [
    0x6A09E667F3BCC908, 0xBB67AE8584CAA73B, 0x3C6EF372FE94F82B, 0xA54FF53A5F1D36F1,
    0x510E527FADE682D1, 0x9B05688C2B3E6C1F, 0x1F83D9ABFB41BD6B, 0x5BE0CD19137E2179 ]

/-- The eight working variables. -/
def shaRound (v : List W64) (kw : W64 × W64) : List W64 :=
  match v with
  | [a, b, c, d, e, f, g, h] =>
      let s1 := e.rotateRight 14 ^^^ e.rotateRight 18 ^^^ e.rotateRight 41
      let ch := (e &&& f) ^^^ (~~~e &&& g)
      let t1 := h + s1 + ch + kw.1 + kw.2
      let s0 := a.rotateRight 28 ^^^ a.rotateRight 34 ^^^ a.rotateRight 39
      let maj := (a &&& b) ^^^ (a &&& c) ^^^ (b &&& c)
      [t1 + (s0 + maj), a, b, c, d + t1, e, f, g]
  | v => v

/-- n more words of the schedule; w holds the words so far, newest first. -/
def shaExpand : Nat → List W64 → List W64
  | 0, w => w
  | n + 1, w =>
      let at_ (i : Nat) : W64 := (nth w i).getD 0
      let s0 := (at_ 14).rotateRight 1 ^^^ (at_ 14).rotateRight 8 ^^^ (at_ 14 >>> 7)
      let s1 := (at_ 1).rotateRight 19 ^^^ (at_ 1).rotateRight 61 ^^^ (at_ 1 >>> 6)
      shaExpand n ((at_ 15 + s0 + at_ 6 + s1) :: w)

/-- A big-endian number of bytes. -/
def ofBytesBE (l : List Byte) : Nat := l.foldl (fun n b => n * 256 + b.toNat) 0
def toBytesBE (n x : Nat) : List Byte := (toBytes n x).reverse

/-- The 128-byte blocks of a message, at most n. -/
def shaBlocks : Nat → List W64 → List Byte → List W64
  | 0, h, _ => h
  | n + 1, h, l =>
      let ws := (List.range 16).map fun i => BitVec.ofNat 64 (ofBytesBE ((l.drop (8 * i)).take 8))
      let w := (shaExpand 64 ws.reverse).reverse
      let v := (shaK.zip w).foldl shaRound h
      shaBlocks n ((h.zip v).map fun p => p.1 + p.2) (l.drop 128)

/-- SHA-512 of bytes, 64 bytes. -/
def sha512 (l : List Byte) : List Byte :=
  let z := (128 - (l.length + 17) % 128) % 128
  let m := l ++ [0x80] ++ List.replicate z 0 ++ toBytesBE 16 (8 * l.length)
  (shaBlocks (m.length / 128) shaInit m).flatMap fun w => toBytesBE 8 w.toNat

/-! ## RSASSA-PSS (R393; RFC 8017, PRESUMED, log 50) -/

/-- b to the e modulo n. -/
def powMod (n : Nat) : Nat → Nat → Nat → Nat
  | 0, _, _ => 1 % n
  | k + 1, b, e => if e = 0 then 1 % n else
      let h := powMod n k (b * b % n) (e / 2)
      if e % 2 = 1 then b * h % n else h

/-- MGF1 with SHA-512, n bytes. -/
def mgf1 (seed : List Byte) (n : Nat) : List Byte :=
  ((List.range ((n + 63) / 64)).flatMap fun i => sha512 (seed ++ toBytesBE 4 i)).take n

/-- The signature over a message verifies under modulus n and exponent e, with a 64-byte salt. -/
def pssVerify (n e : Nat) (msg sig : List Byte) : Bool :=
  let s := ofBytesBE sig
  let emBits := Nat.log2 n
  let emLen := (emBits + 7) / 8
  let em := toBytesBE emLen (powMod n 32 s e)
  let dbLen := emLen - 65
  let h := (em.drop dbLen).take 64
  let lead := 8 * emLen - emBits
  let masked := ofBytesBE (em.take dbLen)
  let db := toBytesBE dbLen ((masked ^^^ ofBytesBE (mgf1 h dbLen)) % 2 ^ (8 * dbLen - lead))
  let pad := dbLen - 65
  n != 0 && decide (s < n) && decide (130 ≤ emLen) && powMod n 32 s e / 2 ^ (8 * emLen) == 0
    && em.getLast? == some 0xBC && masked / 2 ^ (8 * dbLen - lead) == 0
    && (db.take pad).all (· == 0) && (nth db pad) == some 0x01
    && sha512 (List.replicate 8 0 ++ sha512 msg ++ db.drop (pad + 1)) == h

end Sys2Proof.Machine
end

