-- ==== Sys2Proof/Machine/Swap.lean ====
section
/-! DEFINITION. Tenants across launches: creation and deletion, windows and the swap gate, the exchange, relocation, and
border moves (R352 to R371). -/

namespace Sys2Proof.Machine

/-! ## Placement (R357, R365) -/

/-- The paddock a field belongs to (R365). -/
def paddockOf (s : State) (f : Nat) : Nat :=
  match s.paddocks.find? fun e => e.2.fields.getLsbD f with | some e => e.1 | none => 0

/-- d(x, y) of R357. -/
def gap (a b : Nat) : Nat := if a ≤ b then b - a else a - b
def distance (x y : Nat) : Nat :=
  gap (colOf x) (colOf y) + gap (rowOf x) (rowOf y) + (if dieOf x = dieOf y then 0 else 24)

/-- Every context of a croft is free, or parked with its run sealed (R357, R369). -/
def restingCtx (k : Context) : Bool :=
  k.mode == .free || (k.mode == .parked && !k.busy && k.park.all fun p => p.kind != .resident)
def resting (s : State) (c : Nat) : Bool := (croftAt s c).ctxs.all fun e => restingCtx e.2

/-- The croft takes part in a swap or a relocation that has not ended its draining (R358, R364). -/
def inMove (s : State) (c : Nat) : Bool :=
  (croftAt s c).stopped || s.tenants.any fun e => (e.2.move != .settled && e.2.core == c)
    || ((e.2.move == .remapping || e.2.move == .draining) && e.2.oldCore == c)

/-- A job-ring entry is reserved for a hire that waits for its grant: its job is not kicked (R256, R268). -/
def unkicked (s : State) (t e : Nat) : Bool :=
  s.fairs.any fun f => (hiresOf f.2).any fun h => isQueued h && h.req.who.ten == t && h.req.ring == e
/-- No hire of a context is registered and unfinished, no wain job or glean is outstanding (R264, R268, R357). A queued hire of an
evicted hand, which no context holds, stands in no one's way (R259). -/
def noWork (s : State) (c : Nat) : Bool :=
  (croftAt s c).ctxs.all (fun e => e.2.mode == .free || e.2.hires.isEmpty)
    && (croftAt s c).tenant.all fun t => (tenAt s t).ring.all (unkicked s t)
      && (List.range 16).all fun i => !cmFull s t (mailboxOff i)

/-- No unwaited arrival at a scope whose instance differs between two crofts (R191, R357). -/
def arrivalsFit (s : State) (c a b : Nat) : Bool :=
  (croftAt s c).ctxs.all fun e => e.2.mode == .free ||
    e.2.arrivals.all fun x => scopeInst (scopeOf x.1) a == scopeInst (scopeOf x.1) b

/-! ## Windows of pairs (R356 to R358, R369, R370) -/

/-- The terms of one tenant: its valid entries but the partner across, from its croft and from the other (R357). -/
def gainOf (s : State) (t : Option Nat) (u : Option Nat) (own other : Nat) : Int :=
  match t with
  | none => 0
  | some t => ((tenAt s t).partners.map fun p =>
      if p.v && some p.ten != u then
        let q := (tenAt s p.ten).core
        (p.count : Int) * ((distance own q : Int) - (distance other q : Int))
      else 0).sum

def pairGain (s : State) (p : Nat) : Int :=
  let (a, b) := pairCrofts p
  let t := (croftAt s a).tenant
  let u := (croftAt s b).tenant
  gainOf s t u a b + gainOf s u t b a

/-- The swap gate of a pair (R357, R358). -/
def swapGate (s : State) (p : Nat) : Bool :=
  let (a, b) := pairCrofts p
  let die := dieAt s (dieOf a)
  let hosted := (croftAt s a).tenant.toList ++ (croftAt s b).tenant.toList
  die.enable && decide ((die.theta : Int) < pairGain s p) && !hosted.isEmpty
    && hosted.all (fun t => (tenAt s t).cool == 0)
    && paddockOf s (fieldOf a) == paddockOf s (fieldOf b)
    && resting s a && resting s b && noWork s a && noWork s b && arrivalsFit s a a b && arrivalsFit s b a b
    && !inMove s a && !inMove s b && !(croftAt s a).quiesce && !(croftAt s b).quiesce

/-- The pair shares a croft with another. -/
def touching (p q : Nat) : Bool :=
  let (a, b) := pairCrofts p
  let (c, d) := pairCrofts q
  a == c || a == d || b == c || b == d

/-- The conditions of R369 for one window that has ended. -/
def closable (s : State) (p : Nat) : Bool :=
  let (a, b) := pairCrofts p
  match (pairAt s p).ended with
  | none => false
  | some e => resting s a && resting s b && !inMove s a && !inMove s b
      && s.pairs.all fun q => !touching p q.1 || q.2.ended.all fun f => e ≤ f
/-- The windows that reached their ends on the same message as that of p, in ascending pair number. -/
def sameEnd (s : State) (p : Nat) : List Nat :=
  (s.pairs.filter fun q => q.2.ended == (pairAt s p).ended).map Prod.fst
/-- The window of a pair has ended and may close now. Windows that ended on one message close together, so each waits until all of
them may (R369, R370; log 73). -/
def mayClose (s : State) (p : Nat) : Bool := (sameEnd s p).all (closable s)
/-- The window that closes now: of those that may, the one that ended first (R369). -/
def windowDue (s : State) : Option Nat :=
  let due := s.pairs.filter fun q => q.2.ended.isSome && mayClose s q.1
  (due.find? fun q => due.all fun r => q.2.ended.getD 0 ≤ r.2.ended.getD 0).map Prod.fst

/-- The entry a newcomer replaces: unused entries first, then the smallest COUNT, then the lowest position (R356). -/
def smallest (ps : List Partner) : Nat :=
  let key (p : Partner) : Nat := if p.v then p.count + 1 else 0
  ((List.range ps.length).find? fun i => (nth ps i).any fun p => ps.all fun q => key p ≤ key q).getD 0

/-- Steps 3 to 5 of R356 for a tenant. -/
def closeTenant (k : Tenant) : Tenant :=
  let half (p : Partner) : Partner := { p with count := p.count / 2 }
  let ps := k.partners.map half
  let ps := if k.newcomer.v then setAt ps (smallest ps) (half k.newcomer) else ps
  { k with partners := ps, newcomer := ⟨false, 0, 0⟩, cool := k.cool - 1 }

/-- Steps 2 to 5 of R356. -/
def closeSteps (s : State) (p : Nat) : State :=
  let (a, b) := pairCrofts p
  let s := updPair s p fun k => { k with count := k.sent, sent := 0, ended := none }
  let one (s : State) (c : Nat) : State := match (croftAt s c).tenant with | some t => updTen s t closeTenant | none => s
  one (one s a) b

/-- Messages sent while the window waited to close may already fill the next window (R369). -/
def reopen (s : State) (p : Nat) : State :=
  if (dieAt s (dieOf (pairCrofts p).1)).window ≤ (pairAt s p).count then
    let s := tick s
    updPair s p fun k => { k with ended := some s.now }
  else s

/-- A croft stops, and its parked hands are evicted (R228, R359). -/
def stopCroft (s : State) (c : Nat) : State :=
  let s := setCroft s c { croftAt s c with stopped := true }
  (List.range 14).foldl (fun s j => if (ctxAt s c (j + 1)).mode = .parked then evict s c (j + 1) else s) s

/-- The gate passes: both crofts stop and the exchange begins (R359). -/
def beginSwap (s : State) (p : Nat) : State :=
  let (a, b) := pairCrofts p
  let s := stopCroft (stopCroft s a) b
  let leave (s : State) (c : Nat) : State := match (croftAt s c).tenant with
    | some t => updTen s t fun k => { k with move := .exchanging }
    | none => s
  updPair (leave (leave s a) b) p fun k => { k with move := .exchanging }

/-- Of the pairs that pass, in ascending number, those that share no croft with an earlier one swap (R358). -/
def pickSwaps : List Nat → List Nat → List Nat
  | _, [] => []
  | taken, p :: ps => if taken.any (touching p) then pickSwaps taken ps else p :: pickSwaps (p :: taken) ps

/-- The window of the pair the event names closes, with every window that ended on the same message: gates first, then steps 2
to 5 in ascending pair number, then the swaps (R369, R370). -/
def execSwapWindowClose (s : State) : Out :=
  .next <|
    let p := argN s 0
    if !mayClose s p then s
    else
      let ps := sameEnd s p
      let win := pickSwaps [] (ps.filter (swapGate s))
      ps.foldl reopen (win.foldl beginSwap (ps.foldl closeSteps s))

/-! ## The exchange (R359 to R363) -/

/-- The rows a gleaning entry covers: croft offset and bytes (R208, R268). -/
def gleanRows (k : Tenant) (e : Nat) : Nat × Nat :=
  let at' (i n : Nat) : Nat := loadBytes k.mem (gleanOff e + i) n
  (at' 8 2, at' 16 2 * at' 20 2)
/-- Covered rows move as zeros (R354). -/
def zeroRows (k : Tenant) : Tenant :=
  let rs := (List.range 8).map (gleanRows k)
  { k with mem := k.mem.filter fun e => !(rs.any fun r => r.1 ≤ e.1 && e.1 < r.1 + r.2) }

/-- A croft that hosts none: no context, no line, and its debug window as at reset (R354, R379). -/
def emptyCroft (k : Croft) : Croft :=
  { k with ctxs := [], tenant := none, l1 := [], icache := [], prefs := [], reparity := [],
           sel := 0, brken := false, binw := false, cmds := [] }

/-- A tenant is installed on a croft with its steward and wain and its debug window; both caches are empty (R238, R354, R378). -/
def install (s : State) (c : Nat) (from_ : Croft) (t : Option Nat) : State :=
  setCroft s c { croftAt s c with
    ctxs := from_.ctxs, tenant := t, l1 := [], icache := [], prefs := [], reparity := [], stopped := true
    sel := from_.sel, brken := from_.brken, binw := from_.binw, cmds := from_.cmds }
/-- The tenant's new home under a new map epoch; the old home arms its stub (R359). -/
def rehome (s : State) (t c old : Nat) : State :=
  updTen s t fun k => { zeroRows k with core := c, oldCore := old, epoch := s.epoch, move := .remapping }

def execSwapStateCrossed (s : State) : Out :=
  .next <|
    let p := argN s 0
    if (pairAt s p).move != .exchanging then s
    else
      let (a, b) := pairCrofts p
      let ka := croftAt s a
      let kb := croftAt s b
      let s : State := { updPair s p (fun k => { k with move := .settled }) with epoch := s.epoch + 1 }
      let s := install (install s a kb kb.tenant) b ka ka.tenant
      let s := match ka.tenant with | some t => rehome s t b a | none => s
      match kb.tenant with | some t => rehome s t a b | none => s

/-- Every router of the die has switched for the move of the tenant the event names (R359). -/
def execRoutersSwitched (s : State) : Out :=
  .next <|
    let t := argN s 0
    let k := tenAt s t
    if k.move != .remapping then s
    else
      let next (x : Tenant) : Tenant := if x.move == .remapping && x.epoch == k.epoch then { x with move := .draining } else x
      { s with tenants := s.tenants.map fun e => (e.1, next e.2) }

/-- Old-epoch packets for a tenant are still on their way (R360). -/
def oldPackets (s : State) (t : Nat) : Bool :=
  s.net.any fun f => match f.msg with | .croft u e _ _ _ _ _ => u == t && e < (tenAt s t).epoch | _ => false

/-- The drain marker reaches the tenant's new croft behind every old-epoch packet (R359, R360, R363). The continuations whose
conditions were met on the way are queued (R371). -/
def execDrainMarker (s : State) : Out :=
  .next <|
    let t := argN s 0
    let k := tenAt s t
    if k.move != .draining || oldPackets s t then s
    else
      let s := updTen s t fun k => { k with move := .settled, cool := 4 }
      let go (s : State) (c : Nat) : State := setCroft s c { croftAt s c with stopped := false }
      let s := go s k.core
      let s := if (croftAt s k.oldCore).tenant.isNone then go s k.oldCore else s
      let (s, n) := placeGleans s t
      testAll (updTen s t fun k => { k with refetch := n, refetching := false }) t

/-! ## Relocation (R364, R367) -/

/-- The fields of a paddock. -/
def fieldsOf (s : State) (p : Nat) : List Nat := (List.range 72).filter fun f => (padAt s p).fields.getLsbD f

/-- A croft that can take a tenant: on a die in service, hosting none, and in no move. -/
def openCroft (s : State) (c : Nat) : Bool :=
  c < Config.crofts && dieUp s (dieOf c) && (croftAt s c).tenant.isNone && !inMove s c && !(croftAt s c).quiesce
/-- The crofts of a field, ascending. -/
def croftsOf (f : Nat) : List Nat := (List.range Config.crofts).filter fun c => fieldOf c == f
/-- The lowest-indexed tenantless croft of the donor's other fields (R367). -/
def shelter (s : State) (b : Border) : Option Nat :=
  (List.range Config.crofts).find? fun c =>
    fieldOf c != b.field && paddockOf s (fieldOf c) == b.donor && openCroft s c

/-- A hand that waits with its run sealed at a seal point of a croft that has no new run (R367). -/
def sealedWait (k : Context) : Bool := k.mode == .running && k.stage == .sealed && k.sub == 0 && !k.busy
/-- It is evicted to go on at its seal point, with its runseq and its run sealed: DESIGN CHOICE, log 75. -/
def shelve (order : Nat) (k : Context) : Context :=
  if sealedWait k then
    { k with mode := .parked, runStart := k.pc, shadow := k.regs
             park := some (Park.plain .resident 0 0 0 0 true order) }
  else k
def shelveHands (s : State) (c : Nat) : State :=
  let s := tick s
  (List.range 14).foldl (fun s j => updCtx s c (j + 1) (shelve s.now)) s

/-- The 256 KiB image of a tenant is written at SAVE: the manual gives its layout no words, so that its bytes are free values
(R364; log 9). -/
def writeImage (s : State) (t : Nat) : State :=
  draw { s with mem := storeBytes s.mem (tenAt s t).save ((List.range 0x40000).map (Config.imageByte s.free)) }

/-- The tenant moves to croft c through its image at SAVE, which only the hayward reads (R364). -/
def relocateTo (s : State) (t c : Nat) : State :=
  let old := (tenAt s t).core
  let s := updTen (stopCroft (shelveHands s old) old) t fun k => { k with layout := s.mgmt.wlayout }
  let k := croftAt s old
  let s : State := { writeImage s t with epoch := s.epoch + 1 }
  let s := install s c k (some t)
  let s := setCroft s old (emptyCroft (croftAt s old))
  rehome s t c old
/-- The contexts of a croft that is relocated are free, parked with their runs sealed, or wait sealed (R357, R367). -/
def settledCroft (s : State) (c : Nat) : Bool := (croftAt s c).ctxs.all fun e => restingCtx e.2 || sealedWait e.2

def execRelocate (s : State) : Out :=
  .next <|
    let t := argN s 0
    let a := (tenAt s t).core
    match s.border with
    | some b =>
        if b.stage = 1 && fieldOf a = b.field && (croftAt s a).tenant == some t && !inMove s a
            && settledCroft s a && noWork s a && s.mgmt.code != 1 && (dieAt s (dieOf a)).enable then
          match shelter s b with
          | some c => if arrivalsFit s a a c then relocateTo s t c else s
          | none => s
        else s
    | none => s

/-! ## The service controller (R366) -/

def share (p : Paddock) : Int := ((p.runs * 1024 / 2 ^ 22 : Nat) : Int)
/-- The first element whose value is largest, among values of at least 32. -/
def largest (l : List (Nat × Int)) : Option Nat :=
  (l.find? fun e => 32 ≤ e.2 && l.all fun f => f.2 ≤ e.2).map Prod.fst

/-- Two fields of one die share an edge. -/
def sharesEdge (f g : Nat) : Bool :=
  f / 9 == g / 9 && gap (f % 9 / 3) (g % 9 / 3) + gap (f % 3) (g % 3) == 1

def hostedIn (s : State) (f : Nat) : Nat := (s.crofts.filter fun e => fieldOf e.1 == f && e.2.tenant.isSome).length

/-- A candidate is skipped (R366). -/
def skipped (s : State) (d f : Nat) : Bool :=
  (s.sets.any fun b => b.2.paddock == d && b.2.windows.any fun w =>
      w.2.fields == [f] || (w.2.mode == 1 && bankField w.2.pbank == f))
    || (s.cribs.any fun c => c.1 / 64 == f && c.2.set.isSome)
    || ((List.range Config.crofts).filter fun c =>
          fieldOf c != f && paddockOf s (fieldOf c) == d && openCroft s c).length < hostedIn s f

/-- The donor's candidates in order: next to the receiver first, then fewest tenants, then the lowest number. -/
def borderField (s : State) (d r : Nat) : Option Nat :=
  let fs := (fieldsOf s d).filter fun f => !skipped s d f
  let key (f : Nat) : Nat :=
    (if (fieldsOf s r).any (sharesEdge f) then 0 else 2 ^ 20) + hostedIn s f * 2 ^ 7 + f
  fs.find? fun f => fs.all fun g => key f ≤ key g

/-- A border move quiesces the crofts of its field (R367). -/
def quiesceField (s : State) (f : Nat) (q : Bool) : State :=
  (croftsOf f).foldl (fun s c => setCroft s c { croftAt s c with quiesce := q }) s

/-- A period ends with the run that completes it: counted in runs, exactly (R366). -/
def execServicePeriodEnd (s : State) : Out :=
  .next <|
    if s.period < 2 ^ 22 then s
    else
      let ps := s.paddocks.filter fun e => e.2.en
      let r := largest (ps.map fun e => (e.1, (e.2.target : Int) - share e.2))
      let d := largest ((ps.map fun e => (e.1, share e.2 - (e.2.target : Int))).filter fun e => 2 ≤ (fieldsOf s e.1).length)
      let clear (p : Paddock) : Paddock := { p with runs := 0 }
      let s' : State := { s with period := s.period - 2 ^ 22, paddocks := s.paddocks.map fun e => (e.1, clear e.2) }
      match s.border, r, d with
      | none, some r, some d => match borderField s d r with
          | some f => quiesceField { s' with border := some ⟨f, d, r, 0, []⟩ } f true
          | none => s'
      | _, _, _ => s'

/-! ## Border moves (R367) -/

def execBorderQuiesced (s : State) : Out :=
  .next <| match s.border with
    | some b =>
        if b.stage = 0 && (croftsOf b.field).all (fun c => !inMove s c && settledCroft s c) then
          { s with border := some { b with stage := 1 } }
        else s
    | none => s

/-- The banks of a field. -/
def banksOf (s : State) (f : Nat) : List (Nat × Bank) := s.banks.filter fun e => bankField e.1 == f

/-- Every relocation has drained: every bank of the field writes back and drops every line; a line filled meanwhile is
flushed when the event comes again. -/
def execBorderRelocated (s : State) : Out :=
  .next <| match s.border with
    | some b =>
        if (b.stage = 1 || b.stage = 2) && (croftsOf b.field).all (fun c => (croftAt s c).tenant.isNone && !inMove s c) then
          let s := (banksOf s b.field).foldl (fun s e => e.2.lines.foldl writeBack s) s
          let wipe (e : Nat × Bank) : Nat × Bank := if bankField e.1 = b.field then (e.1, { e.2 with lines := [] }) else e
          { s with banks := s.banks.map wipe, border := some { b with stage := 2 } }
        else s
    | none => s

/-- A window's homes change when a field goes: its field set holds the field, or a frame it covers is recorded there. -/
def affected (s : State) (asid f : Nat) (w : Window) : Bool :=
  w.fields.contains f || (w.mode == 2 && s.chans.any fun c => c.2.frames.any fun x =>
    x.2.ft == some f && x.2.asid == tagOf w.g asid && w.base ≤ x.2.vp && x.2.vp ≤ w.last)

/-- The rehash of one space: the field gone from its windows' sets, and one SHOOT over the affected windows (R349, R367). -/
def rehashSet (s : State) (b f : Nat) : State × List (Nat × W32) :=
  let st := setAtId s b
  let ws := st.windows.filter fun w => affected s st.asid f w.2
  let drop (w : Window) : Window := { w with gone := w.gone ++ [f] }
  let s := updSet s b fun x => { x with windows := x.windows.map fun w => (w.1, drop w.2) }
  let s := beginShoot s b (ws.map fun w => (w.2.base * 4096, Nat.min ((w.2.last + 1) * 4096) vaEnd))
  (s, [(b, (setAtId s b).gen)])

/-- First-touch fields recorded as f are cleared in the donor's spaces. -/
def forgetField (s : State) (tags : List Nat) (f : Nat) : State :=
  let one (x : Frame) : Frame := if x.ft = some f && tags.contains x.asid then { x with ft := none } else x
  { s with chans := s.chans.map fun c => (c.1, { c.2 with frames := c.2.frames.map fun x => (x.1, one x.2) }) }

def execBorderBanksEmpty (s : State) : Out :=
  .next <| match s.border with
    | some b =>
        if b.stage = 2 && (banksOf s b.field).all fun e => e.2.lines.isEmpty then
          let sets := s.sets.filter fun e => e.2.paddock == b.donor
          let (s, ss) := sets.foldl (fun a e =>
            let (s, l) := rehashSet a.1 e.1 b.field
            (s, a.2 ++ l)) (s, [])
          let s := forgetField s (0xFFFF :: sets.map fun e => e.2.asid) b.field
          { s with border := some { b with stage := 3, shoots := ss } }
        else s
    | none => s

/-- The SHOOTs of a rehash complete where their walks have drained; after the last the field belongs to the receiver. -/
def execBorderShootsDone (s : State) : Out :=
  .next <| match s.border with
    | some b =>
        if b.stage != 3 then s
        else
          let (s, left) := b.shoots.foldl (fun a x => match tryShoot a.1 x.1 x.2 with
            | some s => (s, a.2)
            | none => (a.1, a.2 ++ [x])) (s, [])
          if left.isEmpty then
            let bit : BitVec 72 := 1#72 <<< b.field
            let s := updPad s b.donor fun p => { p with fields := p.fields &&& ~~~bit }
            let s := updPad s b.recv fun p => { p with fields := p.fields ||| bit }
            quiesceField { s with border := none } b.field false
          else { s with border := some { b with shoots := left } }
    | none => s

/-! ## Creation and deletion (R219, R333, R352 to R354) -/

/-- The budget of the wain program, g=32, v=1 (R21, R219). -/
def wainBudget : BitVec 14 := 288

/-- Place tenant t of a set on its croft (R353, R354). -/
def placeTenant (b : SetSpec) (s : State) (t : Nat) (x : TenantSpec) : State :=
  let s := setTen s t { Tenant.empty with
    set := b.set, paddock := b.paddock, core := x.core, pool := x.pool, steward := x.steward, save := x.save
    hcap := x.hcap &&& 0xFFFF, priv := x.priv, sbud := x.sbud, epoch := s.epoch }
  let s := setCroft s x.core { emptyCroft (croftAt s x.core) with tenant := some t, stopped := false }
  let s := startCtx s x.core 0 (x.steward % 2 ^ 57) 64 Regs.zero x.sbud x.priv .firmware 0
  startCtx s x.core 15 (x.wain % 2 ^ 57) 79 Regs.zero wainBudget x.priv .firmware 0
/-- Place tenants t, t + 1, … of a set. -/
def placeTenants (b : SetSpec) : State → Nat → List TenantSpec → State
  | s, _, [] => s
  | s, t, x :: xs => placeTenants b (placeTenant b s t x) (t + 1) xs

/-- The ids and the ASID of a new set are no other set's. -/
def freshSet (s : State) (x : SetSpec) : Bool :=
  let n := x.tenants.length
  (setAtId s x.set).count == 0 && 0 < n && 1 ≤ x.asid && x.asid ≤ 0xFFFE && x.set + n ≤ 2 ^ 24
    && s.sets.all fun e => e.2.count == 0 || (e.2.asid != x.asid && (e.1 + e.2.count ≤ x.set || x.set + n ≤ e.1))
/-- A tenant can be placed: its areas are aligned, and its croft is open and of the set's paddock (R353, R354). -/
def placeable (s : State) (p : Nat) (x : TenantSpec) : Bool :=
  x.pool % 4096 == 0 && x.save % 4096 == 0 && openCroft s x.core && paddockOf s (fieldOf x.core) == p

/-- The hayward makes a set and places each of its tenants on a croft of its paddock that hosts none, all in one step, so that every
tenant of the set has its croft for the life of the set (R148, R352; log 61). A wain starts at the entry slot of the wain program
(`wainLines`) where the tenant's image has it. The slots at which a steward and a wain start are TGT-checked as those of sown contexts
are, with aux 0xF0; R65's list does not name them: DESIGN CHOICE, log 74. -/
def execTenantCreate (x : SetSpec) (s : State) : Out :=
  .next <|
    if !freshSet s x || !x.tenants.all (placeable s x.paddock) || !decide (x.tenants.map TenantSpec.core).Nodup then s
    else
      let set : TSet := { TSet.empty with count := x.tenants.length, asid := x.asid, paddock := x.paddock, root := x.root }
      placeTenants x { s with sets := sset s.sets x.set set } x.set x.tenants

/-- The tenants a packet names: who sent it, and whose croft it goes to. -/
def msgTenants : Msg → List Nat
  | .home r => [r.who.ten]
  | .croft t _ who _ _ _ _ => [t, who.ten]
  | .reply who _ => [who.ten]
  | .pref _ _ _ => []
  | .code who _ _ _ => [who.ten]
  | .split _ _ _ t _ _ => [(firstWho t).ten]
  | .ack who _ _ => [who.ten]
  | .fault who _ _ _ _ _ _ => [who.ten]
  | .fill .. => []
  | .arrive _ _ _ a _ _ => [a.who.ten]
  | .abort _ _ _ who => [who.ten]
  | .crib who _ _ _ => [who.ten]
  | .hire h => [h.who.ten]
  | .sheaf who _ _ _ _ _ _ => [who.ten]
  | .mcall c => [c.who.ten]
  | .free t _ _ who _ _ => [t, who.ten]
  | .landFault _ _ => []

/-- The calls of a deleted set are gone from a mill, which goes on with the next. -/
def cancelCalls (b : Nat) (k : Mill) : Mill :=
  let q := k.queue.filter fun c => c.set != b
  if k.call.any fun c => c.set == b then
    match q with
    | [] => { k with call := none, queue := [], wait := false }
    | c :: q => beginCall { k with queue := q } c
  else { k with queue := q }

/-- A hire of a deleted set is over: nothing of it lands or is counted any more. -/
def cancelHire (s : State) (id : Nat) : State :=
  updHire (answerDrops (dropHire s id) id) id fun h => { h with
    state := 6, dropping := false, engine := false, rick := false, image := [], thr := none, summed := false }

/-- After a deletion: a pair whose tenants are both gone exchanges nothing, and a croft that takes part in no move any more is
free again. -/
def endMoves (s : State) : State :=
  let moving (t : Option Nat) : Bool := t.any fun t => (tenAt s t).move != .settled
  let pair (e : Nat × Pair) : Nat × Pair :=
    let (a, b) := pairCrofts e.1
    if moving (croftAt s a).tenant || moving (croftAt s b).tenant then e else (e.1, { e.2 with move := .settled })
  let s : State := { s with pairs := s.pairs.map pair }
  let held (c : Nat) : Bool := moving (croftAt s c).tenant
    || s.pairs.any (fun e => e.2.move == .exchanging && ((pairCrofts e.1).1 == c || (pairCrofts e.1).2 == c))
    || s.tenants.any fun e => (e.2.move == .remapping || e.2.move == .draining) && e.2.oldCore == c
  { s with crofts := s.crofts.map fun e => (e.1, { e.2 with stopped := e.2.stopped && held e.1 }) }

/-- The set ends: its tenants, its space, its barriers and its descriptors, with every request of theirs (R352, R353); a border move no
longer waits for its SHOOT (R367). -/
def execTenantSetDeletion (b : Nat) (s : State) : Out :=
  .next <|
    let st := setAtId s b
    if st.count = 0 then s
    else
      let mine (t : Nat) : Bool := b ≤ t && t < b + st.count
      let ours (r : Req) : Bool := mine r.who.ten || r.res.asid == st.asid
      let hires := s.fairs.flatMap fun f => (f.2.hires.filter fun h => mine h.2.req.who.ten && h.2.live).map fun h => h.2.id
      let s := hires.foldl cancelHire s
      let bank (k : Bank) : Bank := { k with queue := k.queue.filter fun r => !ours r }
      let chan (k : Channel) : Channel := { k with
        walks := k.walks.filter fun w => w.asid != st.asid
        tlb := k.tlb.filter fun w => w.asid != st.asid
        bay := k.bay.filter fun x => !ours x.req
        told := k.told.filter fun x => x.1 != st.asid
        mill := cancelCalls b k.mill }
      let croft (k : Croft) : Croft := if k.tenant.any mine then emptyCroft k else k
      let crib (k : Crib) : Crib := if k.set = some b then Crib.empty else k
      let held (x : List Report × Nat) : List Report × Nat := (x.1.filter fun r => !mine (reportTen r), x.2)
      let func (k : Func) : Func := if k.set = some b then { k with set := none } else k
      endMoves { s with
        crofts := s.crofts.map fun e => (e.1, croft e.2)
        tenants := s.tenants.filter fun e => !mine e.1
        sets := sdel s.sets b
        banks := s.banks.map fun e => (e.1, bank e.2)
        chans := s.chans.map fun e => (e.1, chan e.2)
        cribs := s.cribs.map fun e => (e.1, crib e.2)
        funcs := s.funcs.map fun e => (e.1, func e.2)
        reports := s.reports.map fun e => (e.1, held e.2)
        border := s.border.map fun x => { x with shoots := x.shoots.filter fun y => y.1 != b }
        net := s.net.filter fun f => !(msgTenants f.msg).any mine }

/-- What the hardware does before anything else: the end of a service period, counted in runs (R366), and the close of a window in
the first cycle in which it may close (R369). -/
def pressing (s : State) : Option (Instr × List Nat) :=
  if 2 ^ 22 ≤ s.period then some (.servicePeriodEnd, [])
  else (windowDue s).map fun p => (.swapWindowClose, [p])

end Sys2Proof.Machine
end

