-- ==== Sys2Proof/Machine/Mgmt.lean ====
section
/-! DEFINITION. Fault delivery, soft errors and losses, routers and links, TDISP and SPDM, the management block, firmware
and the staged start (R282, R289, R301, R328 to R330, R365, R375, R382 to R398). -/

namespace Sys2Proof.Machine

/-! ## Delivery of fault packets (R375) -/

def agHayward : Nat := 10900
/-- A packet of the steward of the route's own tenant. -/
def byRoute (s : State) (b : Nat) (r : Report) : Bool :=
  r.w0.toNat / 2 ^ 8 % 16 == 0 && r.w0.toNat / 2 ^ 25 % 8 == 0 && (routeOf s b).any fun x => x.1 == reportTen r

/-- An agent offers its oldest held packet again; a set without a route leaves it to the hayward, and a packet of no set goes nowhere
(R375, R382). -/
def execFaultPacketReoffer (s : State) : Out :=
  .next <|
    let a := argN s 0
    match sread ([], 0) s.reports a with
    | (r :: rs, lost) =>
        let took (s : State) : State := { s with reports := sset s.reports a (rs, lost) }
        match setOfTen s (reportTen r) with
        | none => took s
        | some b =>
        if (routeOf s b).isNone || byRoute s b r then took (holdReport s b a r)
        else match (if olderHeld s b a then none else roomFor s b) with
          | some (t, c) => took (sendReport s b a t c r)
          | none => s
    | ([], _) => s

/-- The hayward delivers the oldest packet it holds for a set. -/
def execHaywardPacketDelivery (s : State) : Out :=
  .next <|
    let b := argN s 0
    match (setAtId s b).held, roomFor s b with
    | (_, r) :: rs, some (t, c) => pushReport (updSet s b fun x => { x with held := rs }) t c r
    | _, _ => s

/-! ## Lost packets, routers, links (R289, R301, R385) -/

/-- A router drops a packet whose header is uncorrectable, and reports the port: packet, die, router, port. -/
def execPacketDrop (s : State) : Out :=
  .next <|
    if argN s 0 < s.net.length then
      let p := (argN s 1, argN s 2, argN s 3)
      let s := logNote (drop s (argN s 0)) 0x40 0 (argN s 1 * 2 ^ 40 + argN s 2 * 2 ^ 8 + argN s 3)
      { s with losses := s.losses ++ [p] }
    else s

/-- Traffic between two crofts crosses a port, one way or the other. -/
def crossesEither (r p a b : Nat) : Bool := crossesPort r p a b || crossesPort r p b a

/-- LOSS for every tenant with a partner whose traffic crosses the oldest reported port. -/
def execLossReport (s : State) : Out :=
  .next <| match s.losses with
    | [] => s
    | (d, r, p) :: ls =>
        let addr := d * 2 ^ 40 + r * 2 ^ 8 + p
        let hit := s.tenants.flatMap fun e => (e.2.partners.filter fun x =>
          x.v && crossesEither (d * 256 + r) p e.2.core (tenAt s x.ten).core).map fun x => (e.1, e.2, x.ten)
        hit.foldl (fun s h =>
          report s h.2.1.set agHayward false (mkReport cLOSS 0 h.2.1.core 5 h.1 0 0 h.2.2 addr)) { s with losses := ls }

/-- A packet is on a way through the router. -/
def routerBusy (s : State) (r : Nat) : Bool :=
  s.net.any fun f => (meadowEnds s f).any fun e => passesRouter r e.1 e.2

/-- A router powers down while no packet is on its way through it; one that is offered a packet wakes first (R289). -/
def execRouterPowerDown (s : State) : Out :=
  .next <|
    let r := argN s 0
    if s.asleep.contains r || routerBusy s r then s else { s with asleep := s.asleep ++ [r] }
def execRouterWake (s : State) : Out := .next { s with asleep := s.asleep.erase (argN s 0) }

/-- A lane is repaired, or its module trains at x32 and the loss is reported (R301). -/
def execLaneRepair (module lane : Nat) (ok : Bool) (s : State) : Out :=
  .next <|
    if ok || s.mgmt.narrow.contains module then s
    else logNote { s with mgmt := { s.mgmt with narrow := s.mgmt.narrow ++ [module] } } cLOSS lane module

/-! ## Soft errors (R53, R383, R384) -/

/-- The payload of a packet met an uncorrectable error on a link: the block it writes is marked, a reply arrives as poisoned with
the address of the block that was read. A packet that writes no block and answers nothing is not changed by it: DESIGN CHOICE,
log 76. -/
def poisonMsg (m : Msg) : Msg :=
  match m with
  | .home r => .home { r with res := { r.res with bad := true } }
  | .croft t e who op bin ack _ => .croft t e who op bin ack true
  | .reply who r => .reply who { r with poison := some (r.poison.getD r.blk), fill := r.fill.map fun l => (l.1, l.2.1, spoil l.2.2) }
  | .split v n f t blk _ => .split v n f t blk true
  | .fill b g a la pa gen ro gl _ => .fill b g a la pa gen ro gl true
  | .sheaf who h op seq mk d id => .sheaf who h op seq (spoil mk) d id
  | .code who la d p => .code who la d (some (p.getD (la * 64)))
  | .pref c i l => .pref c i { l with mark := spoil l.mark }
  | _ => m

/-- A dirty line is written back as poisoned, a clean one dropped. -/
def spoilLine (s : State) (b i : Nat) : State :=
  match nth (bankAt s b).lines i with
  | none => s
  | some l =>
      let s := writeBack s { l with mark := spoil l.mark }
      updBank s b fun k => { k with lines := dropAt k.lines i }

/-- The completion of a landing packet of a hire. -/
def hireAck (id : Nat) : AckTo → Bool
  | .hire i _ => i == id
  | _ => false
def landsFor (id : Nat) : Msg → Bool
  | .home r => hireAck id r.ack
  | .croft _ _ _ _ _ ack _ => hireAck id ack
  | _ => false
/-- The image of the i-th hire in a rick of a floor is lost: its packets, wherever they stand, land no more (log 76). -/
def spoilRick (s : State) (f i : Nat) : State :=
  match nth ((hiresOf (fairAt s f)).filter fun h => h.rick) i with
  | none => s
  | some h =>
      let a := h.req.who
      let s := dropHire s h.id
      let bank (k : Bank) : Bank := { k with queue := k.queue.filter fun r => !hireAck h.id r.ack }
      let s := { s with
        net := s.net.filter fun x => !landsFor h.id x.msg
        banks := s.banks.map fun e => (e.1, bank e.2) }
      let s := answerDrops s h.id
      let s := endHire (updHire s h.id fun h => { h with
        state := 6, rick := false, engine := false, image := [], dropping := false }) h
      reportFor s a.ten (agFair f) (mkReport cUE 0 a.core 2 a.ten 0 0 h.id 0)

def execSoftError (e : SoftError) (s : State) : Out :=
  .next <| match e with
    | .corrected d => logNote (updDie s d fun k => { k with corrected := k.corrected + 1 }) cUE ((dieAt s d).corrected + 1) d
    | .croft t off => if s.tenants.any (fun k => k.1 == t) then cmSetMark s t off (spoil (cmMark s t off)) else s
    | .barnLine b i => spoilLine s b i
    | .rick f i => spoilRick s f i
    | .link i => match nth s.net i with | some f => replace s i (poisonMsg f.msg) | none => s
    | .fetch c i bit =>
        let k := croftAt s c
        let flip (l : ILine) : ILine := { l with data := l.data ^^^ (1#512 <<< bit) }
        (match nth k.icache i with
        | some l => setCroft s c { k with icache := setAt k.icache i (flip l) }
        | none => s)
    | .dram pa => { s with marks := swrite 0 s.marks (pa / 64) (spoil (sread 0 s.marks (pa / 64))) }

/-! ## TDISP (R328 to R330) -/

def isVirtual (f : Nat) : Bool := 1 ≤ f && f ≤ 64
def tell (s : State) (o : HostOut) : State := { s with out := s.out ++ [o] }

/-- The words of a queue record or a mill-ring record (R304, R327). -/
def recordWords (k : Queue) : List W64 :=
  [BitVec.ofNat 64 (k.base % 2 ^ 57 + k.host.toNat * 2 ^ 57),
   BitVec.ofNat 64 k.log2,
   BitVec.ofNat 64 (k.head % 2 ^ 32 + k.fetch % 2 ^ 32 * 2 ^ 32),
   BitVec.ofNat 64 (k.tail % 2 ^ 32 + k.rseq.toNat * 2 ^ 32),
   BitVec.ofNat 64 k.func,
   BitVec.ofNat 64 (k.vec + k.ien.toNat * 2 ^ 8),
   BitVec.ofNat 64 (k.state % 16 + k.err % 256 * 2 ^ 8),
   BitVec.ofNat 64 (k.save % 2 ^ 57)]
/-- The interface report of a function: its records with their numbers and kick offsets, its routing and its set (R328). -/
def reportOf (s : State) (f : Nat) : TdiReport :=
  { queues := (s.queues.filter fun e => e.2.func == f && e.2.log2 != 0).map fun e => (e.1, 8 * e.1, recordWords e.2)
    ring := (0x8000, recordWords (funcAt s f).mring)
    irqs := (funcAt s f).irqs, set := (funcAt s f).set }

/-- Requests of one function are taken one at a time: one that the mailbox holds, or a stop that is not complete, comes first
(R330). -/
def heldBehind (s : State) (f : Nat) : Bool :=
  (s.mailbox.pending && s.mailbox.req[0].toNat / 256 % 128 == f) || (funcAt s f).stopping
/-- A TDISP request of a function: its signal to firmware (R322), its turn, its answer. Firmware answers it, so that it waits for
stage B (R387, R388; log 92). -/
def tdisp (f : Nat) (ok : Bool) (go : State → State) (s : State) : Out :=
  .next <|
    if !s.mgmt.stb then s else
    let s := raiseSignal s 0 1 4
    if heldBehind s f then s else if ok then go s else tell s (.refused f)

def execLockInterface (f : Nat) (s : State) : Out :=
  tdisp f (isVirtual f && (funcAt s f).tdi == .unlocked) (fun s =>
    let r := reportOf s f
    tell (updFunc s f fun k => { k with tdi := .locked, report := some r }) (.tdi f .locked)) s

def execStartInterface (f : Nat) (s : State) : Out :=
  tdisp f (isVirtual f && (funcAt s f).tdi == .locked) (fun s =>
    tell (updFunc s f fun k => { k with tdi := .run }) (.tdi f .run)) s

/-- The function's queues and its mill ring stop as in error (R307, R329). -/
def stopFunction (s : State) (f : Nat) : State :=
  let s : State := { s with queues := s.queues.map fun e => if e.2.func = f then (e.1, stopQueue e.2) else e }
  updFunc s f fun k => { k with mring := stopQueue k.mring, stopping := true }
/-- Everything of the function is disabled. -/
def allDisabled (s : State) (f : Nat) : Bool :=
  (s.queues.all fun e => e.2.func != f || e.2.state == 0) && (funcAt s f).mring.state == 0
/-- Stop; once issued work has completed the interface is unlocked. Until then the event comes again. -/
def unlock (f : Nat) (s : State) : State :=
  let s := stopFunction s f
  if allDisabled s f then
    tell (updFunc s f fun k => { k with tdi := .unlocked, report := none, stopping := false }) (.tdi f .unlocked)
  else s

/-- A stop that is under way goes on; another waits its turn. -/
def execStopInterface (f : Nat) (s : State) : Out :=
  if (funcAt s f).stopping then .next (unlock f s)
  else tdisp f (isVirtual f && (funcAt s f).tdi != .unlocked) (unlock f) s
def execTdispInterfaceError (f : Nat) (s : State) : Out :=
  .next (if isVirtual f && ((funcAt s f).tdi != .unlocked) then unlock f (updFunc s f fun k => { k with tdi := .error }) else s)
def execGetDeviceInterfaceState (f : Nat) (s : State) : Out :=
  tdisp f (isVirtual f) (fun s => tell s (.tdi f (funcAt s f).tdi)) s
def execGetDeviceInterfaceReport (f : Nat) (s : State) : Out :=
  tdisp f (funcAt s f).report.isSome (fun s =>
    tell s (match (funcAt s f).report with | some r => .report f r | none => .refused f)) s

/-! ## SPDM (R395) -/

/-- A measurement block: the certificate chain of the identity under index 0. -/
def measurement (s : State) (i : Nat) : Option (List Byte) :=
  match i with
  | 0 => some Config.certificate
  | 1 => some (sha512 Config.bootRom)
  | 2 => some (sha512 s.mgmt.header)
  | 3 => some (toBytes 4 s.mgmt.svn ++ toBytes 2 s.mgmt.wlayout)
  | 4 => some (sha512 Config.repairMap)
  | 5 => some (toBytes 1 s.mgmt.owner ++ toBytes 2 s.mgmt.ticket.toNat)
  | _ => none
/-- Stage A makes the identity readable. -/
def execSpdmMeasurementRequest (i : Nat) (s : State) : Out :=
  .next <|
    if s.mgmt.stage = 0 then s
    else match measurement s i with
      | some l => tell s (.measure i (ofBytes l))
      | none => tell s (.refused 0)

/-! ## Ownership (R389 to R391) -/

def portId : Port → Nat | .host => 1 | .board => 2 | .fabric => 3
def isOwner (s : State) (p : Port) : Bool := s.mgmt.owner == portId p
def updMgmt (s : State) (f : Mgmt → Mgmt) : State := { s with mgmt := f s.mgmt }
/-- A write of the owner (R389). -/
def ownerWrite (p : Port) (f : State → State) (s : State) : Out := .next (if isOwner s p then f s else s)

/-- A claim, once stage A has completed. -/
def execOwnerClaim (p : Port) (v : W64) (s : State) : Out :=
  .next <|
    let m := s.mgmt
    if m.stage = 0 && !m.stb then s
    else if v.setWidth 16 = m.ticket && (m.owner = 0 || (m.pend && m.hto = portId p)) then
      updMgmt s fun m => { m with owner := portId p, ticket := m.ticket + 1, pend := false, hto := 0 }
    else s

/-- The owner's write of a target to HANDOVER. -/
def handover (p : Port) (target : Nat) (s : State) : State :=
  if target = 0 then updMgmt s fun m => { m with owner := 0, ticket := m.ticket + 1 }
  else if target = portId p then updMgmt s fun m => { m with pend := false }
  else updMgmt s fun m => { m with pend := true, hto := target }
def execHandoverRelease (p : Port) (s : State) : Out := ownerWrite p (handover p 0) s
def execHandoverWithdraw (p : Port) (s : State) : Out := ownerWrite p (handover p (portId p)) s
def execHandoverOffer (p : Port) (target : Fin 4) (s : State) : Out := ownerWrite p (handover p target.val) s

/-! ## The log window, limits (R392, R398) -/

def execLogposWrite (p : Port) (v : W64) (s : State) : Out :=
  ownerWrite p (fun s => updMgmt s fun m =>
    let f := v.getLsbD 31
    { m with follow := f, logpos := if f then (m.lognext + 4096 - 32) % 4096 else v.toNat % 4096 }) s
def clamp (lo hi n : Nat) : Nat := Nat.max lo (Nat.min hi n)
def execPlimitWrite (p : Port) (v : W64) (s : State) : Out :=
  ownerWrite p (fun s => updMgmt s fun m => { m with plimit := clamp 400 2800 (v.toNat % 4096) }) s
def execTlimitWrite (p : Port) (v : W64) (s : State) : Out :=
  ownerWrite p (fun s => updMgmt s fun m => { m with tlimit := clamp 60 110 (v.toNat % 256) }) s

/-- Measured power and floor-die temperatures: threshers are held idle while one is above its limit. -/
def execThrottle (watts : Nat) (temps : List Nat) (s : State) : Out :=
  .next <|
    let hot := s.mgmt.plimit < watts || temps.any fun t => s.mgmt.tlimit < t
    let hold (k : Fair) : Fair := { k with throttled := hot }
    updFair (updFair s 0 hold) 1 hold

/-- What is left when all state is lost: flash and its boot slot, the host's own memory, and what the model's schedule has coming. -/
def coldState (s : State) (p : Power) : State :=
  { State.reset with
    power := p, flash := s.flash, hostMem := s.hostMem, out := s.out, free := s.free, now := s.now, sched := s.sched
    mgmt := { Mgmt.reset with bootSlot := s.mgmt.bootSlot } }

/-- The trip works from stage A on (R387, R398). -/
def execThermalTrip (temp : Nat) (s : State) : Out :=
  .next (if 125 ≤ temp && s.power == .on && s.mgmt.stage != 0 then coldState s .tripped else s)
def execPowerLoss (s : State) : Out := .next (coldState s .off)
def execPowerGood (s : State) : Out := .next (if s.power == .off then coldState s .on else s)

/-! ## Registers with no row of their own (R228, R263, R282, R333, R365, R379, R386, R389) -/

def execRegisterWrite (w : RegWrite) (s : State) : Out :=
  .next <| match w with
    | .debug c off len v =>
        if c < Config.crofts && (croftAt s c).tenant.isSome && off + len ≤ 0x4000 then dbgStore s c off (toBytes len v) else s
    | .millWord g a x =>
        if g < 256 && a < 256 then updChan s g fun k => { k with mill := { k.mill with store := sset k.mill.store a x } } else s
    | .millEntry g e v a =>
        if g < 256 && e < 32 then
          updChan s g fun k => { k with mill := { k.mill with entry := sset k.mill.entry e (v, a % 256) } }
        else s
    | .paddocks a fa b fb =>
        let pa := (padAt s a).fields
        let pb := (padAt s b).fields
        -- a field that changes hosts no tenant, which leaves its croft by a swap or a relocation alone (R352)
        let moves (c : Nat) : Bool := ((pa ^^^ fa) ||| (pb ^^^ fb)).getLsbD (fieldOf c)
        if a != b && a < 64 && b < 64 && (fa ||| fb) == (pa ||| pb) && (fa &&& fb) == 0 && s.border.isNone
            && s.crofts.all (fun e => !moves e.1 || (e.2.tenant.isNone && !inMove s e.1)) then
          updPad (updPad s a fun p => { p with fields := fa }) b fun p => { p with fields := fb }
        else s
    | .paddockService a t e => if a < 64 then updPad s a fun p => { p with target := t % 1024, en := e } else s
    | .fairKey f p k => if f < 2 && p < 64 then updFair s f fun x => { x with keys := sset x.keys p k } else s
    | .root b pa => if (setAtId s b).count = 0 then s else updSet s b fun x => { x with root := pa }
    | .contq t c =>
        if s.tenants.any (fun e => e.1 == t) && c < 4608 && (cribAt s c).set.isNone then
          updTen (setCrib s c { Crib.empty with set := some (tenAt s t).set }) t fun k => { k with contq := some c }
        else s
    | .watchdog d n => if d < 8 then updDie s d fun k => { k with watchdog := n } else s
    | .mgmt p off v => if off = 0x020 && isOwner s p then updMgmt s fun m => { m with imgaddr := v } else s
    | .mailbox i v => if h : i < 8 then { s with mailbox := { s.mailbox with req := s.mailbox.req.set i v } } else s

/-- The log entry a slot of LOGWIN shows, and one word of it (R392). -/
def logWord (s : State) (slot i : Nat) : W64 :=
  let r := sread ⟨0, 0, 0, 0⟩ s.mgmt.log ((s.mgmt.logpos + slot) % 4096)
  match i with
  | 0 => r.w0 | 1 => r.w1 | 2 => r.w2 | _ => r.w3

/-- What an aligned read of the management block returns on a port, in the privileged view of the owner and the
unprivileged view of the others; none where no value is stated: HANDOVER, and ACTIVATE to the owner (R387 to R394,
R398). -/
def mgmtRead (s : State) (p : Port) (off : Nat) : Option W64 :=
  let m := s.mgmt
  let own (v : W64) : Option W64 := some (if isOwner s p then v else 0)
  let n (x : Nat) : Option W64 := some (BitVec.ofNat 64 x)
  if off = 0x000 then n (m.ticket.toNat + m.owner * 2 ^ 16 + m.pend.toNat * 2 ^ 18 + m.hto * 2 ^ 19)
  else if off = 0x008 then none
  else if off = 0x010 then
    n (m.stage + m.dies.toNat * 2 ^ 2 + m.floors.toNat * 2 ^ 10 + m.thr0 * 2 ^ 12 + m.thr1 * 2 ^ 18
      + m.dwy.toNat * 2 ^ 24 + m.stb.toNat * 2 ^ 25)
  else if off = 0x018 then n (m.code % 16 + m.count % 2 ^ 16 * 2 ^ 16 + m.first % 2 ^ 32 * 2 ^ 32)
  else if off = 0x020 then own m.imgaddr
  else if off = 0x028 then if isOwner s p then none else some 0
  else if off = 0x030 then n m.plimit
  else if off = 0x038 then n m.tlimit
  else if off = 0x040 then own (BitVec.ofNat 64 (m.logpos + m.lognext * 2 ^ 16 + m.follow.toNat * 2 ^ 31))
  else if 0x100 ≤ off ∧ off < 0x500 then own (logWord s ((off - 0x100) / 32) ((off - 0x100) / 8 % 4))
  else some 0

/-! ## Firmware images (R393, R394) -/

/-- A field of an image: n little-endian bytes at an offset. -/
def imageField (h : List Byte) (off n : Nat) : Nat := ofBytes ((h.drop off).take n)

/-- The checks of R393 on a header and a body: 0, or the code of the first that fails. -/
def checkImage (h body : List Byte) : Nat :=
  let key := imageField h 18 2
  let modulus := (h.drop 96).take 512
  let svn := imageField h 8 4
  let wl := imageField h 12 2
  let lo := imageField h 14 2
  let hi := imageField h 16 2
  if 8 ≤ key || Config.keyRevoked key
      || BitVec.ofNat 512 (ofBytesBE (sha512 ((h.drop 96).take 516))) != Config.keyDigest key then 3
  else if !pssVerify (ofBytesBE modulus) (imageField h 608 4) (h.take 1024) ((h.drop 1024).take 512)
      || sha512 body != (h.drop 32).take 64 then 2
  else if svn < Config.fusedSvn then 4
  else if !(lo ≤ Nat.max 1 (wl - 2) && lo ≤ hi && wl ≤ hi) then 5
  else 0

/-- The checks, LENGTH among the fields that the signature covers: one that is no multiple of 4 KiB is answered as a bad
signature, behind a bad key: DESIGN CHOICE, log 77. -/
def imageCode (h body : List Byte) : Nat :=
  let c := checkImage h body
  if c != 3 && imageField h 24 8 % 4096 != 0 then 2 else c

/-- The running image is the one with this header. -/
def runImage (h : List Byte) (m : Mgmt) : Mgmt :=
  { m with wlayout := imageField h 12 2, laymin := imageField h 14 2, laymax := imageField h 16 2, svn := imageField h 8 4
           header := h }

/-- The addresses whose LAYOUT the new image does not read: evicted records, queue saves, tenants (R394). -/
def staleLayouts (s : State) (lo hi : Nat) : List Nat :=
  let bad (n : Nat) : Bool := n < lo || hi < n
  let recs := s.tenants.flatMap fun e => (e.2.slots.filter fun x =>
    x.2.taken && x.2.evicted.isSome && bad (memGet s (recordPa s e.1 x.1 + 40) 2)).map fun x => recordPa s e.1 x.1
  let saves := (s.queues.filter fun e => e.2.state == 5 && bad (memGet s e.2.save 2)).map fun e => e.2.save
  let images := (s.tenants.filter fun e => bad e.2.layout).map fun e => e.2.save
  recs ++ saves ++ images

/-- The hayward and every front end restart (R386, R394). -/
def restartFronts (s : State) : State := resetLom (resetLom ((List.range 8).foldl resetFront s) 16) 17

/-- Activation, performed whole in one step, so that its holds hold nothing up (R394). -/
def activate (s : State) : State :=
  let a := s.mgmt.imgaddr.toNat
  let h := coherentBytes s a 2048
  let len := imageField h 24 8
  let body := coherentBytes s (a + 2048) len
  let code := if a % 4096 != 0 then 2 else imageCode h body
  if code != 0 then updMgmt s fun m => { m with code := code }
  else
    let bad := staleLayouts s (imageField h 14 2) (imageField h 16 2)
    if !bad.isEmpty then updMgmt s fun m => { m with code := 6, count := bad.length, first := (bad.head?).getD 0 % 2 ^ 32 }
    else
      let slot := 1 - s.mgmt.bootSlot
      let s := restartFronts { s with flash := sset s.flash slot (h ++ body) }
      let s := updMgmt s fun m =>
        { runImage h m with bootSlot := slot, code := 0, count := 0, first := 0, stage := if m.stage = 3 then 1 else m.stage }
      logNote s 0 (imageField h 8 4) a

def execActivate (p : Port) (v : W64) (s : State) : Out :=
  ownerWrite p (fun s => if v != 1 || s.mgmt.code = 1 then s else activate s) s

/-! ## The staged start (R387, R388, R396, R397) -/

def execStageADone (s : State) : Out :=
  .next (if s.power == .on && s.mgmt.stage = 0 then updMgmt s fun m => { m with stage := 1 } else s)

/-- The header of the image in a flash slot, and the code of the first check it fails, or 0. -/
def flashImage (s : State) (slot : Nat) : List Byte × Nat :=
  let l := sread [] s.flash slot
  let h := l.take 2048
  (h, imageCode h ((l.drop 2048).take (imageField h 24 8)))

/-- The mills with the shipped routines, as firmware loads them (R282, R287). -/
def loadMills (s : State) : State :=
  (List.range 256).foldl (fun s g => updChan s g fun k => { k with mill := k.mill.loaded }) s

/-- Firmware runs, from the boot slot or from the other, and croft die 0 is trained; else the start has failed. The first check
that fails sets CODE (R393). -/
def execStageBDone (s : State) : Out :=
  .next <|
    if s.power != .on || s.mgmt.stage != 1 || s.mgmt.stb then s
    else
      let go (slot code : Nat) (h : List Byte) : State :=
        updMgmt (loadMills s) fun m => { runImage h m with bootSlot := slot, stb := true, dies := m.dies ||| 1, code := code }
      let b := s.mgmt.bootSlot
      let (h, code) := flashImage s b
      let (h', code') := flashImage s (1 - b)
      if code = 0 then go b s.mgmt.code h
      else if code' = 0 then go (1 - b) code h'
      else updMgmt s fun m => { m with stage := 3, code := code' }

/-- The threshers that stay out of service: a failed one takes the spare where the spare is unused (R397). -/
def deadThreshers (f : Nat) (failed : List Nat) : List Nat := if Config.spareUsed f then failed else failed.drop 1

/-- A log entry of an event that happened or not. -/
def noteIf (c : Bool) (s : State) (aux addr : Nat) : State :=
  let t := (logNote s 0 aux addr).mgmt
  updMgmt s fun m => { m with
    log := if c then t.log else m.log, lognext := if c then t.lognext else m.lognext
    logpos := if c then t.logpos else m.logpos }

/-- What stage C logs (R388, R392, R396, R397): failed threshers, dies, floor dies and droveway, and the spares of the fused map. -/
def stageLog (s : State) (floors : Nat) (failed : List Nat) (dwy : Bool) : State :=
  let s := failed.foldl (fun s t => logNote s 0 1 t) s
  let s := (List.range 8).foldl (fun s d => noteIf (!s.mgmt.dies.getLsbD d) s 2 d) s
  let s := (List.range 2).foldl (fun s f => noteIf (!floors.testBit f) s 3 f) s
  let s := noteIf (!dwy) s 4 0
  let s := noteIf Config.croftSpares s 5 0
  (List.range 2).foldl (fun s f => noteIf (Config.spareUsed f) s 6 f) s

def execStageCDone (trained floors : Nat) (failed0 failed1 : List Nat) (dwy : Bool) (s : State) : Out :=
  .next <|
    if s.power != .on || s.mgmt.stage != 1 || !s.mgmt.stb then s
    else
      let d0 := deadThreshers 0 failed0
      let d1 := deadThreshers 1 failed1
      let s := updFair (updFair s 0 fun k => { k with dead := d0 }) 1 fun k => { k with dead := d1 }
      let s := updMgmt s fun m => { m with
        stage := 2, dies := m.dies ||| BitVec.ofNat 8 trained, floors := BitVec.ofNat 2 floors
        thr0 := if floors % 2 = 1 then 32 - d0.length else 0, thr1 := if floors / 2 % 2 = 1 then 32 - d1.length else 0, dwy := dwy }
      stageLog s floors (failed0 ++ failed1) dwy

end Sys2Proof.Machine
end

