-- ==== Sys2Proof/Machine/Sync.lean ====
section
/-! DEFINITION. Bins, barriers, cribs and channels: ops 0x40 to 0x43, and what the barrier network and the crib slices
do with their requests (R184 to R196, R279, R280, R381). -/

namespace Sys2Proof.Machine

/-! ## WAITB (R188, R189) -/

def execWaitb (h : Hdr) (a : BReg) (b : Src) (s : State) : Out :=
  scalar h (srcRn b) (fun s =>
    let n := (rdSrc s b).setWidth 32
    let x := rdB s a
    if (me s).stage == .open && n.ule x then flashL1 (retire (wrB s a (x - n))) s.cur.1
    else suspend .bin a.val n.toNat 0 0 s) s

/-! ## Barriers (R190, R191) -/

def barParam (sc id : Nat) : Nat := sc + id * 2 ^ 4
/-- The acting context's unwaited arrival at a barrier. -/
def myArrival (s : State) (sc id : Nat) : Option (Nat × Nat × Nat) :=
  (me s).arrivals.find? fun a => a.1 == sc && a.2.1 == id
def dropArrival (s : State) (sc id : Nat) : State :=
  updMe s fun k => { k with arrivals := k.arrivals.filter fun a => !(a.1 == sc && a.2.1 == id) }

/-- An arrival still on its way, or counted in the open generation (R191). -/
def arrivalOpen (s : State) (c i : Nat) (sc id gen : Nat) : Bool :=
  let who := agentOf s c i
  let b := barrierAt s (tenAt s who.ten).set (barrierKey c sc id)
  b.gen == gen || gen == 2 ^ 64

/-- The generation an unwaited arrival belongs to is recorded when it reaches the network; until then it is 2^64. -/
def noGen : Nat := 2 ^ 64

/-- The value a barrier completion writes (R190). -/
def abortVal (ab : Bool) : Nat := if ab then 0x80000000 else 0
/-- Whether a past generation of a barrier ended with ABORT. -/
def genAborted (s : State) (c sc id gen : Nat) : Bool :=
  (barrierAt s (tenAt s ((croftAt s c).tenant.getD 0)).set (barrierKey c sc id)).aborted.contains gen

def arriveMe (s : State) (sc id n : Nat) (bin : Option Nat) : State := sendArrival s s.cur.1 s.cur.2 sc id n bin

/-- An acquire at a barrier's scope (R173). -/
def barAcquire (sc : Nat) (s : State) : State := if scopeWide sc then flashL1 s s.cur.1 else s

def execBar (h : Hdr) (sc : Scope) (id : Fin 16) (d : GReg) (b : Src) (s : State) : Out :=
  scalar h (.g d :: srcRn b) (fun s =>
    let n := scopeNum sc
    sealThen true (fun s =>
      -- an earlier unwaited arrival of this context is waited for first, as in BARA
      match myArrival s n id.val with
      | some a =>
          if arrivalOpen s s.cur.1 s.cur.2 n id.val a.2.2 then
            waitTurn s
          else waitTurn (barAcquire n (dropArrival s n id.val))
      | none =>
          let s := arriveMe s n id.val ((rdSrc s b).toNat % 2 ^ 64) none
          parkMe .barrier (barParam n id.val) 0 d.val 0 s) s) s

def execBara (h : Hdr) (sc : Scope) (id : Fin 16) (bin : Option BReg) (b : Src) (s : State) : Out :=
  scalar h (srcRn b) (fun s =>
    let n := scopeNum sc
    let N := (rdSrc s b).toNat
    let arrive (s : State) : State :=
      if (me s).busy then waitTurn s
      else
        let s := arriveMe s n id.val N (bin.map Fin.val)
        let s := if bin.isSome then s else updMe s fun k => { k with arrivals := k.arrivals ++ [(n, id.val, noGen)] }
        if (me s).stage = .sealed then retireRunNext s else retire s
    match myArrival s n id.val with
    | none => arrive s
    | some a =>
        if arrivalOpen s s.cur.1 s.cur.2 n id.val a.2.2 then
          sealThen true (fun s =>
            let s := parkMe .barrier (barParam n id.val) 0 0 0 s
            updMe s fun k => { k with park := k.park.map fun p => { p with rearrive := some (n, id.val, N, bin.map Fin.val) } }) s
        else arrive (barAcquire n (dropArrival s n id.val))) s

def execBarw (h : Hdr) (sc : Scope) (id : Fin 16) (d : GReg) (s : State) : Out :=
  scalar h [.g d] (fun s =>
    let n := scopeNum sc
    match myArrival s n id.val with
    | none => barAcquire n (retire (wrG s d 0))
    | some a =>
        if arrivalOpen s s.cur.1 s.cur.2 n id.val a.2.2 then
          suspend .barrier (barParam n id.val) 0 d.val 0 s
        else
          let v := abortVal (genAborted s s.cur.1 n id.val a.2.2)
          let s := dropArrival (wrG s d (BitVec.ofNat 64 v)) n id.val
          barAcquire n (if (me s).stage = .sealed then retireRunNext s else retire s)) s

/-- Update the unwaited arrivals of a continuation, live or evicted; an evicted one's frame shows them too (R230). -/
def updArrivals (s : State) (t name : Nat) (f : List (Nat × Nat × Nat) → List (Nat × Nat × Nat)) : State :=
  match findName s t name with
  | some (c, i) => updCtx s c i fun k => { k with arrivals := f k.arrivals }
  | none =>
      let s := updSlot s t name fun k => { k with arrivals := f k.arrivals }
      let k := slotAt s t name
      if k.taken && k.evicted.isSome then memPut s (framePa s t name + 48) 10 (arrivalBits k.arrivals) else s

/-- The completed generation reaches one participant: its completion landing, its parked BAR or BARW, or nothing yet
(R190, R191). A BARA that waited for its earlier arrival goes on to its own, with its bin or as an unwaited arrival. -/
def releaseArrival (sc id : Nat) (ab : Bool) (s : State) (a : Arrival) : State :=
  let (t, name) := (a.who.ten, a.who.name)
  match a.bin, (if agentLives s a.who then parkOf s t name else none) with
  | some b, _ => landBin s ⟨t, name, b⟩ ab
  | none, none => s
  | none, some p =>
      if p.kind = .barrier && p.param = barParam sc id && !p.served then
        let s := updArrivals s t name fun l => l.filter fun x => !(x.1 == sc && x.2.1 == id)
        let s := match p.rearrive with
          | some (_, _, _, none) => updArrivals s t name fun l => l ++ [(sc, id, noGen)]
          | _ => s
        serveName s t name (if p.rearrive.isSome then 0 else abortVal ab) false
      else s

/-- A generation completes (R190). -/
def completeGen (s : State) (b key sc id : Nat) (ab : Bool) : State :=
  let k := barrierAt s b key
  let k' : Barrier := { k with
    gen := k.gen + 1, arrived := [], n := 0, aborted := if ab then k.aborted ++ [k.gen] else k.aborted }
  let s := updSet s b fun x => { x with barriers := sset x.barriers key k' }
  k.arrived.foldl (releaseArrival sc id ab) s

def execBarrierArrival (s : State) : Out :=
  .next <| match deliverable s (argN s 0) with
    | some (.arrive b _ n a id sc) =>
        let s := drop s (argN s 0)
        let key := barrierKey a.who.core sc id
        let k := barrierAt s b key
        let N := if k.arrived.isEmpty then Nat.max 1 n else k.n
        let k' := { k with n := N, arrived := k.arrived ++ [a] }
        let s := updSet s b fun x => { x with barriers := sset x.barriers key k' }
        -- an arrival that may be waited for later learns its generation
        let s := if a.bin.isSome then s else updArrivals s a.who.ten a.who.name fun l =>
          l.map fun x => if x.1 = sc && x.2.1 = id && x.2.2 = noGen then (sc, id, k.gen) else x
        if N ≤ k'.arrived.length then completeGen s b key sc id false else s
    | _ => s

/-- The root receives ABORT for a pod-scope generation (R381). -/
def execPodCollectiveAbort (s : State) : Out :=
  .next <| match deliverable s (argN s 0) with
    | some (.abort b id gen who) =>
        let s := drop s (argN s 0)
        let key := barrierKey 0 6 id
        let k := barrierAt s b key
        if k.gen = gen && !k.arrived.isEmpty then
          let s := completeGen s b key 6 id true
          report s b agRoot false (mkReport cABORTED who.ctx who.core 7 who.ten 0 0 id gen)
        else s
    | _ => s

/-! ## Cribs at issue (R192 to R194) -/

def cribNum (s : State) (a : GReg) : Nat := (rdG s a).toNat % 2 ^ 13

/-- Send a crib request and await the slice's answer. -/
def cribAsk (c : Nat) (op : CribOp) (fin : Done) (run : RunEnd) (acq : Bool) (crib : Option Nat) (s : State) : State :=
  let a := Await.plain 1 0 fin run
  awaitMe { a with acq := acq, crib := crib, wake := (.crib, c, 0) } (send s ⟨[5, (meAgent s).ten, (meAgent s).name, c], .crib (meAgent s) (mySetId s) c op, none⟩)

def execCradd (h : Hdr) (a : GReg) (b : VReg) (s : State) : Out :=
  scalar h [.g a, .v b] (fun s =>
    sealThen false (fun s => cribAsk (cribNum s a) (.add ((rdV s b).setWidth 512)) .none .begin false none s) s) s
def execCrtake (h : Hdr) (d : VReg) (a : GReg) (s : State) : Out :=
  scalar h [.v d, .g a] (fun s =>
    sealThen true (fun s => cribAsk (cribNum s a) .take (.crib d.val none) .begin true (some (cribNum s a)) s) s) s
def execCrtry (h : Hdr) (d : VReg) (a : GReg) (b : PReg) (s : State) : Out :=
  scalar h [.v d, .g a] (fun s =>
    sealThen false (fun s => cribAsk (cribNum s a) .tryTake (.crib d.val (some b.val)) .begin true none s) s) s
def execCrstat (h : Hdr) (d a : GReg) (s : State) : Out :=
  scalar h [.g d, .g a] (fun s => cribAsk (cribNum s a) .stat (.g d.val 8 false) .keep false none s) s

/-- CRINIT: ALIGN, then PERM on the loft's bytes; it performs after the seal in the run that begins with it (R193). -/
def execCrinit (h : Hdr) (a b : GReg) (size : Fin 16777216) (s : State) : Out :=
  privileged h [.g a, .g b] (fun s =>
    let base := (rdG s b).toNat
    if base % 64 != 0 then raiseOp cALIGN 0 base s
    else if !rangeOk (winsOf s) Window.rw base (64 * size.val) then raiseOp cPERM 0 base s
    else sealThen false (fun s =>
      cribAsk (cribNum s a) (.bind base size.val (winsOf s)) .none .restart false none (runAtAccess s)) s) s
def execCrinitUnbind (h : Hdr) (a : GReg) (s : State) : Out :=
  privileged h [.g a] (fun s =>
    sealThen false (fun s => cribAsk (cribNum s a) .unbind .none .restart false none (runAtAccess s)) s) s

/-! ## Cribs at the slice (R193, R194, R280) -/

/-- CRIBFAULT's aux for a request, if it is refused so (R193). -/
def cribBad (s : State) (set c : Nat) (op : CribOp) : Option Nat :=
  let k := cribAt s c
  if 4608 ≤ c then some 4
  else match op, k.set with
    | .bind .., none => none
    | _, none => some 1
    | op, some b =>
        if b != set then some 1
        else match op with
          | .bind .. => if k.q.isEmpty then none else some 3
          | .unbind => if k.q.isEmpty then none else some 3
          | _ => none

/-- An answer of crib c (R276, R289). -/
def cribReply (s : State) (c : Nat) (who : Agent) (r : Reply) : State := replyTo s (homeCell who c) who r
def cribFault (s : State) (c : Nat) (who : Agent) (aux : Nat) : State :=
  cribReply s c who { okReply 0 8 0 with err := some (cCRIBFAULT, aux, 0) }

/-- A record's reply: 64 bytes and the bit that says it was taken. -/
def recordReply (s : State) (c : Nat) (who : Agent) (r : BitVec 512) : State :=
  cribReply s c who (okReply 0 65 (r.toNat + 2 ^ 512))

/-- Make the loft's pages resident: the physical address of each block, or the first fault (R193, R279). -/
def loftPages (set core : Nat) (ws : Sparse Window) (asid : Nat) : Nat → Nat → State → List Nat → State × Except (Nat × Nat × Nat) (List Nat)
  | 0, _, s, acc => (s, .ok acc.reverse)
  | n + 1, va, s, acc =>
      match coverOf ws va with
      | none => (s, .error (cPROT, 0, va))
      | some w =>
          let r := resolve s asid w va (some core)
          match translate s r.chan asid va r.glob with
          | (s, .fault c) => (s, .error (c, r.chan, va))
          | (s, .ok f ro _) =>
              if ro then (s, .error (cPROT, r.chan, va))
              else match nameFrame s r.chan f (tagOf r.glob asid) (va / 4096) (if r.ft then some (bankField r.bank) else none) with
                | none => (s, .error (cSYN, r.chan, va))
                | some s => loftPages set core ws asid n (va + 64) s ((f * 4096 + va % 4096) :: acc)

/-- CRINIT binds a crib, its loft's pages under the windows that its check passed under (R193, R295, R336). CRTAKEs that wait at a crib
that is unbound are listed no more, and stay parked: DESIGN CHOICE, log 65. -/
def cribBind (s : State) (who : Agent) (set c base size : Nat) (wins : Sparse Window) : State :=
  let st := setAtId s set
  match loftPages set who.core wins st.asid size base s [] with
  | (s, .error (code, chan, va)) =>
      send (faultPacket s chan code who .atomic st.asid va true) ⟨[], .fault who 0 0 code va st.gen false, some (Config.channelCell chan)⟩
  | (s, .ok pas) =>
      cribReply (setCrib s c { Crib.empty with
        set := some set, loft := base, size := size, pas := pas, waiters := (cribAt s c).waiters }) c who (okReply 0 8 0)

/-- One crib operation (R194, R280). -/
def cribApply (s : State) (who : Agent) (set c : Nat) (op : CribOp) : State :=
  let k := cribAt s c
  match cribBad s set c op with
  | some aux => cribFault s c who aux
  | none => match op with
    | .add r =>
        match k.waiters with
        | w :: ws => cribReply (recordReply (setCrib s c { k with waiters := ws }) c w r) c who (okReply 0 8 0)
        | [] => match cribPush s c r with
            | some s => cribReply s c who (okReply 0 8 0)
            | none => cribFault s c who 2
    | .tryTake => match cribPop s c with
        | some (r, s) => recordReply s c who r
        | none => cribReply s c who (okReply 0 65 0)
    | .take => match cribPop s c with
        | some (r, s) => recordReply s c who r
        | none =>
            if k.waiters.length < Config.cribWaiters then
              cribReply (setCrib s c { k with waiters := k.waiters ++ [who] }) c who { okReply 0 65 0 with listed := true }
            else cribReply s c who { okReply 0 65 0 with refused := true }
    | .stat => cribReply s c who (okReply 0 8 (k.q.length + k.held % 2 ^ 24 * 2 ^ 8 + (if k.held != 0 then 2 ^ 62 else 0) + 2 ^ 63))
    | .unbind => cribReply (setCrib s c Crib.empty) c who (okReply 0 8 0)
    | .bind base size wins => cribBind s who set c base size wins

/-- A crib operation at its slice: who, set, crib, operation. -/
abbrev CribReq : Type := Agent × Nat × Nat × CribOp

/-- The place of a crib operation among those that reach its slice in one cycle: those of the field's drove first, by the
croft's field-local number, then those of the meadow port, by core index (R296). -/
def cribRank (r : CribReq) : Nat :=
  let c := r.1.core
  if fieldOf c = r.2.2.1 / 64 then rowOf c % 8 * 8 + colOf c % 8 else 64 + c
/-- Insert by rank, behind those of the same rank. -/
def rankIn (r : CribReq) : List CribReq → List CribReq
  | [] => [r]
  | x :: xs => if cribRank r < cribRank x then r :: x :: xs else x :: rankIn r xs

/-- The crib operations among the packets an event names, those apart that the operations waiting at the arithmetic unit of the crib's
bank keep back (R275). -/
def cribReqs (s : State) : List (Nat × CribReq) :=
  s.arg.eraseDups.filterMap fun n => match deliverable s n with
    | some (.crib who set c op) => if (bankAt s c).queue.any (fun q => ofUnit q && !stalled s c q) then none else some (n, who, set, c, op)
    | _ => none

/-- One cycle of a slice: the operations that the event names and that go to the first one's slice arrive together, and are
applied in the order of R296. The event is that of the one applied first. -/
def cribCycle (want : CribOp → Bool) (s : State) : State :=
  match cribReqs s with
  | [] => s
  | x :: xs =>
      let here := x :: xs.filter fun y => y.2.2.2.1 / 4 == x.2.2.2.1 / 4
      let order := here.foldl (fun l y => rankIn y.2 l) []
      match order.head? with
      | none => s
      | some r =>
          if !want r.2.2.2 then s
          else
            let rest := ((List.range s.net.length).zip s.net).filter fun f => !(here.any fun y => y.1 == f.1)
            order.foldl (fun s r => cribApply s r.1 r.2.1 r.2.2.1 r.2.2.2) { s with net := rest.map Prod.snd }

def execCribAppend (s : State) : Out := .next (cribCycle (fun o => match o with | .add _ => true | _ => false) s)
def execCribTake (s : State) : Out := .next (cribCycle (fun o => o == .take || o == .tryTake) s)
def execCribStat (s : State) : Out := .next (cribCycle (fun o => o == .stat) s)
def execCribBind (s : State) : Out :=
  .next (cribCycle (fun o => match o with | .bind .. => true | .unbind => true | _ => false) s)

def execCrtakeRetry (s : State) : Out :=
  .next <|
    let c := argN s 0
    let i := argN s 1
    let k := ctxAt s c i
    match k.mode, k.await with
    | .awaiting, some a =>
        match a.retry, a.crib with
        | some t, some q =>
            if t.toNat ≤ (croftAt s c).cyc.toNat then
              let who := agentOf s c i
              send (updCtx s c i fun k => { k with await := some { a with retry := none } })
                ⟨[5, who.ten, who.name, q], .crib who (tenAt s who.ten).set q .take, none⟩
            else s
        | _, _ => s
    | _, _ => s

/-! ## Channels (R195, R196) -/

def chanTarget (x : W64) : Nat × Nat := (x.toNat % 2 ^ 24, x.toNat / 2 ^ 24 % 32)

def execChsend (h : Hdr) (a b : GReg) (s : State) : Out :=
  scalar h [.g a, .g b, .g (b + 1)] (fun s =>
    let (t, ch) := chanTarget (rdG s a)
    if !inSet s (mySetId s) t then raiseOp cPERM 0 (rdG s a).toNat s
    else sealThen false (fun s =>
      let rq : CroftOp := .chsend ch (rdG s b) (rdG s (b + 1))
      let w := (Await.plain 1 0 .none .begin)
      awaitMe { w with again := some (t, rq), wake := (.chanSpace, (rdG s a).toNat % 2 ^ 29, 0) }
        (sendCroft s s.cur.1 s.cur.2 t 1 rq none (.reply 0))) s) s

def execChnext (h : Hdr) (d a : GReg) (s : State) : Out :=
  stewardOnly h [.g d, .g (d + 1), .g a] (fun s =>
    match (if (me s).stage = .open then nextChan (tenAt s (myTen s)) else none) with
    | some ch => retire (flashL1 (chanTake s (myTen s) s.cur.1 s.cur.2 ch d.val a.val none) s.cur.1)
    | none => suspend .chan 0 0 d.val a.val s) s

/-- CHHOLD, CHREADY: within the turn for the issuing tenant, else posted (R185, R196). -/
def chanBit (f : Nat → CroftOp) (set : Chan → Chan) (h : Hdr) (a : GReg) (s : State) : Out :=
  scalar h [.g a] (fun s =>
    let (t, ch) := chanTarget (rdG s a)
    if !inSet s (mySetId s) t then raiseOp cPERM 0 (rdG s a).toNat s
    else if t = myTen s then retire (setChan s t ch (set (chanOf (tenAt s t) ch)))
    else
      let k := classTo s.cur.1 (fieldOf (tenAt s t).core)
      if 255 < countOf k (me s) + 1 then waitTurn s
      else
        let s := tick s
        let s := sendCroft s s.cur.1 s.cur.2 t 1 (f ch) none (.cls k s.now)
        retire (updMe s fun x => addCount k 1 x)) s

def execChhold (h : Hdr) (set : Bool) (a : GReg) (s : State) : Out :=
  chanBit (fun c => .chhold c set) (fun k => { k with h := set }) h a s
def execChready (h : Hdr) (set : Bool) (a : GReg) (s : State) : Out :=
  chanBit (fun c => .chready c set) (fun k => { k with y := set }) h a s

/-- CHBIND writes a channel's slot and bits; .unbind leaves the queue (R196). .unbind leaves H and Y too, whatever its .h and .y
say, since R196 gives it the slot alone: DESIGN CHOICE, log 66. -/
def chanBind (slot : State → Option Nat) (hold ready : Bool) (h : Hdr) (regs : List Rn) (a : GReg) (s : State) : Out :=
  stewardOnly h regs (fun s =>
    let ch := (rdG s a).toNat % 32
    let k := chanOf (tenAt s (myTen s)) ch
    match slot s with
    | some x => retire (setChan s (myTen s) ch { k with slot := some x, h := hold, y := ready })
    | none => retire (setChan s (myTen s) ch { k with slot := none })) s

def execChbind (h : Hdr) (hold ready : Bool) (a b : GReg) (s : State) : Out :=
  chanBind (fun s => some ((rdG s b).toNat % 2 ^ 57)) hold ready h [.g a, .g b] a s
def execChbindUnbind (h : Hdr) (hold ready : Bool) (a : GReg) (s : State) : Out :=
  chanBind (fun _ => none) hold ready h [.g a] a s

end Sys2Proof.Machine
end

