-- ==== Sys2Proof/Machine/Work.lean ====
section
/-! DEFINITION. Counted stores, multicasts, frees and mill calls at issue: STC, STCM, FREEB, MCALL (R203 to R211, R281). -/

namespace Sys2Proof.Machine

/-! ## STC (R203, R205) -/

def stcBytes (s : State) : StcData → List Byte
  | .g r => toBytes 8 (rdG s r).toNat
  | .pair r => toBytes 16 ((rdG s r).toNat + (rdG s (r + 1)).toNat * 2 ^ 64)
  | .v r => toBytes 64 (rdV s r).toNat
def stcRns : StcData → List Rn
  | .g r => [.g r] | .pair r => [.g r, .g (r + 1)] | .v r => [.v r]

/-- Bytes cross a 64-byte block. -/
def crosses (a n : Nat) : Bool := 64 < a % 64 + n

/-- The address a report gives for an address of a space. -/
def addrIn (sp : Space) (a : Nat) : Nat := (placeOf sp a).elim a Place.addr

def execStc (h : Hdr) (o : StcO) (s : State) : Out :=
  scalar h (stcRns o.data ++ [.g o.base, .g o.x]) (fun s =>
    let a := (rdG s o.base + o.disp.signExtend 64).toNat
    let bs := stcBytes s o.data
    let t := targetOf (rdG s o.x)
    if crosses a bs.length then raiseOp cALIGN 0 (addrIn o.space a) s
    else match checkEl s needW o.space a bs.length with
      | .error (c, x) => raiseOp c 0 x s
      | .ok p =>
          if !inSet s (mySetId s) t.ten then raiseOp cPERM 0 (addrIn o.space a) s
          else if (me s).busy then waitTurn s
          else
            let s' := postStore s [⟨p, [(p.pos, bs)], none, some t⟩]
            retire (match p with | .own _ => landBin s' t false | _ => s')) s

/-! ## STCM, FREEB (R206, R207, R281) -/

def stcmBytes (s : State) : StcmData → List Byte
  | .g r => toBytes 8 (rdG s r).toNat
  | .v r => toBytes 64 (rdV s r).toNat
def stcmRns : StcmData → List Rn
  | .g r => [.g r] | .v r => [.v r]

/-- The tenants that receive a multicast: those of the issuing set on the masked fields of its die, but its own. -/
def receivers (s : State) (mask : Nat) : List Nat :=
  let c := s.cur.1
  (s.crofts.filter fun e =>
    e.1 != c && dieOf e.1 == dieOf c && mask.testBit (fieldOf e.1 % 9)
      && (match e.2.tenant with | some t => inSet s (mySetId s) t | none => false)).filterMap fun e => e.2.tenant

def execStcm (h : Hdr) (o : StcmO) (s : State) : Out :=
  scalar h (stcmRns o.data ++ [.g o.base, .g o.x]) (fun s =>
    let off := (rdG s o.base + o.disp.signExtend 64).toNat % 2 ^ 16
    let bs := stcmBytes s o.data
    let x := (rdG s o.x).toNat
    let f (lo n : Nat) : Nat := x / 2 ^ lo % 2 ^ n
    if off % bs.length != 0 then raiseOp cALIGN 0 (ownBase + off) s
    else if (me s).busy then waitTurn s
    else
      let who := meAgent s
      let ts := receivers s (f 0 9)
      if ts.isEmpty then retire (landBin s ⟨who.ten, who.name, f 19 3⟩ false)
      else
        let k := if f 0 9 = 2 ^ (fieldOf s.cur.1 % 9) then 1 else 2
        let s := tick s
        let id := s.now
        let s := ts.foldl (fun s t =>
          sendCroft s s.cur.1 s.cur.2 t 1 (.stcm (unitsOf [(off, bs)]) (f 9 7) (f 16 3) (f 24 8)) none (.cls k id)) s
        let ways := ts.map fun t => (t, Config.treePath s.cur.1 (tenAt s t).core)
        let s := updTen s who.ten fun y => { y with frees := y.frees ++ [⟨f 24 8, who.name, f 19 3, ways, ts, []⟩] }
        retire (updMe s (addCount k 1))) s

/-- The croft of tenant t holds a delivered multicast of (sender, tag) that it has not freed. -/
def holdsMulticast (s : State) (t sender tag : Nat) : Bool :=
  ((tenAt s sender).frees.any fun f => f.tag == tag && f.left.contains t)
    && !(s.net.any fun f => match f.msg with
      | .croft t' _ w (.stcm _ _ _ g) _ _ _ => t' == t && w.ten == sender && g == tag
      | .free sd g b _ _ _ => sd == sender && g == tag && b == t
      | _ => false)

def execFreeb (h : Hdr) (a : GReg) (tag : BitVec 8) (s : State) : Out :=
  scalar h [.g a] (fun s =>
    let sender := (rdG s a).toNat % 2 ^ 24
    let t := myTen s
    if !holdsMulticast s t sender tag.toNat then retire s
    else
      let k := classTo s.cur.1 (fieldOf (tenAt s sender).core)
      if 255 < countOf k (me s) + 1 then waitTurn s
      else
        let s := tick s
        let who := meAgent s
        retire (updMe (send s ⟨[6, t, who.name, sender], .free sender tag.toNat t who k s.now, none⟩) (addCount k 1))) s

/-! ## MCALL (R210, R211) -/

/-- Progress of an MCALL in `sub`: argument block asked for, call sent, accepted, refused; 8 more where a run began at
the MCALL to read its block. -/
def mcAsked : Nat := 1
def mcSent : Nat := 2
def mcTaken : Nat := 3
def mcNone : Nat := 4

/-- A fault met after the seal belongs to the run that begins with the MCALL; the read of its block has begun that run
already (R226). -/
def raiseLate (code aux addr more : Nat) (s : State) : State :=
  if more = 0 then raiseSealed code aux addr s else raiseOp code aux addr s

/-- The call has its arguments: its range is checked, under the windows of the turn that has them, and it goes to the mill of the start
VA's channel (R211, R336). -/
def sendCall (e : Fin 32) (bin : BReg) (buf more : Nat) (s : State) : State :=
  let w (i : Nat) : Nat := buf / 2 ^ (64 * i) % 2 ^ 64
  let wins := (mySet s).windows
  match coverOf wins (w 0) with
  | none => raiseLate cPERM 0 (w 0) more s
  | some x =>
      if !rangeOk wins Window.rw (w 0) (w 1) then raiseLate cPERM 0 (w 0) more s
      else
        let who := meAgent s
        let b (i : Nat) : W64 := BitVec.ofNat 64 (w i)
        let call : Call := ⟨mySetId s, channelFor x (w 0), who, e.val, b 0, b 1, b 2, b 3, .bin ⟨who.ten, who.name, bin.val⟩,
          [(w 0, w 1)], wins⟩
        waitTurn (setSub (mcSent + more) (send (updMe s fun k => { k with await := none }) ⟨[], .mcall call, none⟩))

/-- The MCALL is done: a new run begins at the next slot. -/
def endCall (more : Nat) (s : State) : State :=
  if more = 0 then retireRunNext s
  else updMe (retire s) fun k => { k with shadow := k.regs, runStart := k.pc }

/-- After the seal. The MCALL waits in the rotation for its mill (R211); R185's table has it leave the rotation until the
acceptance: DESIGN CHOICE, log 67, and so for SHOOT, FAIRCTL and SWAPCTL (R214). -/
def mcallStep (e : Fin 32) (bin : BReg) (p : Place) (s : State) : State :=
  let k := me s
  let n := k.sub % 8
  let more := k.sub / 8 * 8
  if n = mcSent then waitTurn s
  else if n = mcTaken then endCall more s
  else if n = mcNone then raiseLate cILL 1 0 more s
  else match k.await with
    | some a => sendCall e bin a.buf more s
    | none =>
        let parts := loadParts s false p 32 0
        match parts.findSome? fun q => match q with | .poison x => some x | _ => none with
        | some x => raiseLate cUE 0 x more s
        | none =>
            let buf := parts.foldl (fun b q => match q with
              | .now pos n v => b ||| (v % 2 ^ (8 * n) * 2 ^ (8 * pos)) | _ => b) 0
            let pend := parts.filter partPending
            if pend.isEmpty then sendCall e bin buf more (drawStale s (mySetId s))
            else
              let s := if more = 0 then runAtAccess s else s
              let s := pend.foldl sendPart s
              let a := Await.plain pend.length buf (.args e.val bin.val) .keep
              let s := awaitMe { a with fills := pend.filterMap partFill } s
              updMe s fun k => { k with stage := .sealed, sub := mcAsked + 8 }

def execMcall (h : Hdr) (e : Fin 32) (a : GReg) (bin : BReg) (s : State) : Out :=
  scalar h [.g a] (fun s =>
    let va := (rdG s a).toNat
    if va % 8 != 0 then raiseOp cALIGN 0 (addrIn .virt va) s
    else match checkEl s needR .virt va 32 with
      | .error (c, x) => raiseOp c 0 x s
      | .ok p => sealThen true (mcallStep e bin p) s) s

end Sys2Proof.Machine
end

