-- ==== Sys2Proof/Machine/Dispatch.lean ====
section
/-! DEFINITION. exec: one arm for each step of the opcode table. -/

namespace Sys2Proof.Machine

def exec (i : Instr) (s : State) : Host.Outcome State Fault Refusal :=
  match i with
  | .nop => Sys2Proof.Machine.execNop s
  | .brk h code => Sys2Proof.Machine.execBrk h code s
  | .trap h code => Sys2Proof.Machine.execTrap h code s
  | .add h o => Sys2Proof.Machine.execAdd h o s
  | .sub h o => Sys2Proof.Machine.execSub h o s
  | .mul h o => Sys2Proof.Machine.execMul h o s
  | .mulh h o => Sys2Proof.Machine.execMulh h o s
  | .mulhn h o => Sys2Proof.Machine.execMulhn h o s
  | .div h o => Sys2Proof.Machine.execDiv h o s
  | .divn h o => Sys2Proof.Machine.execDivn h o s
  | .rem h o => Sys2Proof.Machine.execRem h o s
  | .remn h o => Sys2Proof.Machine.execRemn h o s
  | .and h o => Sys2Proof.Machine.execAnd h o s
  | .or h o => Sys2Proof.Machine.execOr h o s
  | .xor h o => Sys2Proof.Machine.execXor h o s
  | .andn h o => Sys2Proof.Machine.execAndn h o s
  | .shl h o => Sys2Proof.Machine.execShl h o s
  | .shr h o => Sys2Proof.Machine.execShr h o s
  | .sha h o => Sys2Proof.Machine.execSha h o s
  | .rol h o => Sys2Proof.Machine.execRol h o s
  | .min h o => Sys2Proof.Machine.execMin h o s
  | .max h o => Sys2Proof.Machine.execMax h o s
  | .minn h o => Sys2Proof.Machine.execMinn h o s
  | .maxn h o => Sys2Proof.Machine.execMaxn h o s
  | .abs h o => Sys2Proof.Machine.execAbs h o s
  | .cmpp h o => Sys2Proof.Machine.execCmpp h o s
  | .setc h o => Sys2Proof.Machine.execSetc h o s
  | .clz h o => Sys2Proof.Machine.execClz h o s
  | .ctz h o => Sys2Proof.Machine.execCtz h o s
  | .popc h o => Sys2Proof.Machine.execPopc h o s
  | .brev h o => Sys2Proof.Machine.execBrev h o s
  | .bswap h o => Sys2Proof.Machine.execBswap h o s
  | .bfx h d a b => Sys2Proof.Machine.execBfx h d a b s
  | .bfxn h d a b => Sys2Proof.Machine.execBfxn h d a b s
  | .bfi h d a b c => Sys2Proof.Machine.execBfi h d a b c s
  | .sel h d a b c => Sys2Proof.Machine.execSel h d a b c s
  | .mov h d a => Sys2Proof.Machine.execMov h d a s
  | .li h d ix => Sys2Proof.Machine.execLi h d ix s
  | .lih h d ix => Sys2Proof.Machine.execLih h d ix s
  | .mfs h d n => Sys2Proof.Machine.execMfs h d n s
  | .mts h n a => Sys2Proof.Machine.execMts h n a s
  | .mfb h d a => Sys2Proof.Machine.execMfb h d a s
  | .mtb h d b => Sys2Proof.Machine.execMtb h d b s
  | .mfp h hi d a => Sys2Proof.Machine.execMfp h hi d a s
  | .mtp h hi d a => Sys2Proof.Machine.execMtp h hi d a s
  | .lea h d base index xs disp => Sys2Proof.Machine.execLea h d base index xs disp s
  | .br h disp => Sys2Proof.Machine.execBr h disp s
  | .bc h c a disp => Sys2Proof.Machine.execBc h c a disp s
  | .bcmp h o => Sys2Proof.Machine.execBcmp h o s
  | .loop h a disp => Sys2Proof.Machine.execLoop h a disp s
  | .call h b disp => Sys2Proof.Machine.execCall h b disp s
  | .jmp h a => Sys2Proof.Machine.execJmp h a s
  | .jmpl h a b => Sys2Proof.Machine.execJmpl h a b s
  | .ret h a => Sys2Proof.Machine.execRet h a s
  | .vadd h o => Sys2Proof.Machine.execVadd h o s
  | .vsub h o => Sys2Proof.Machine.execVsub h o s
  | .vmul h o => Sys2Proof.Machine.execVmul h o s
  | .vfma h o => Sys2Proof.Machine.execVfma h o s
  | .vfms h o => Sys2Proof.Machine.execVfms h o s
  | .vfnma h o => Sys2Proof.Machine.execVfnma h o s
  | .vdiv h o => Sys2Proof.Machine.execVdiv h o s
  | .vsqrt h o => Sys2Proof.Machine.execVsqrt h o s
  | .vrcp h o => Sys2Proof.Machine.execVrcp h o s
  | .vrsq h o => Sys2Proof.Machine.execVrsq h o s
  | .vmin h o => Sys2Proof.Machine.execVmin h o s
  | .vmax h o => Sys2Proof.Machine.execVmax h o s
  | .vabs h o => Sys2Proof.Machine.execVabs h o s
  | .vneg h o => Sys2Proof.Machine.execVneg h o s
  | .vmulh h o => Sys2Proof.Machine.execVmulh h o s
  | .vadds h o => Sys2Proof.Machine.execVadds h o s
  | .vsubs h o => Sys2Proof.Machine.execVsubs h o s
  | .vand h o => Sys2Proof.Machine.execVand h o s
  | .vor h o => Sys2Proof.Machine.execVor h o s
  | .vxor h o => Sys2Proof.Machine.execVxor h o s
  | .vandn h o => Sys2Proof.Machine.execVandn h o s
  | .vshl h o => Sys2Proof.Machine.execVshl h o s
  | .vshr h o => Sys2Proof.Machine.execVshr h o s
  | .vsha h o => Sys2Proof.Machine.execVsha h o s
  | .vcmp h o => Sys2Proof.Machine.execVcmp h o s
  | .vsel h o => Sys2Proof.Machine.execVsel h o s
  | .pand h o => Sys2Proof.Machine.execPand h o s
  | .por h o => Sys2Proof.Machine.execPor h o s
  | .pxor h o => Sys2Proof.Machine.execPxor h o s
  | .pnot h d a => Sys2Proof.Machine.execPnot h d a s
  | .vcnt h o => Sys2Proof.Machine.execVcnt h o s
  | .vfirst h o => Sys2Proof.Machine.execVfirst h o s
  | .vpermb h d a b => Sys2Proof.Machine.execVpermb h d a b s
  | .vperm h o => Sys2Proof.Machine.execVperm h o s
  | .vshuf h mode o => Sys2Proof.Machine.execVshuf h mode o s
  | .vbcast h o => Sys2Proof.Machine.execVbcast h o s
  | .vext h o => Sys2Proof.Machine.execVext h o s
  | .vins h o => Sys2Proof.Machine.execVins h o s
  | .vidx h o => Sys2Proof.Machine.execVidx h o s
  | .vmov h o => Sys2Proof.Machine.execVmov h o s
  | .vslide h o c => Sys2Proof.Machine.execVslide h o c s
  | .vred h op t d a c => Sys2Proof.Machine.execVred h op t d a c s
  | .vscan h op t d a c => Sys2Proof.Machine.execVscan h op t d a c s
  | .vdot4 h uns su d a b c => Sys2Proof.Machine.execVdot4 h uns su d a b c s
  | .vxaccClr h d => Sys2Proof.Machine.execVxaccClr h d s
  | .vxaccAdd h d a b => Sys2Proof.Machine.execVxaccAdd h d a b s
  | .vxaccRd h t d a => Sys2Proof.Machine.execVxaccRd h t d a s
  | .vcvt h o => Sys2Proof.Machine.execVcvt h o s
  | .ld h o => Sys2Proof.Machine.execLd h o s
  | .st h o => Sys2Proof.Machine.execSt h o s
  | .ldq h o => Sys2Proof.Machine.execLdq h o s
  | .stq h o => Sys2Proof.Machine.execStq h o s
  | .ldv h o => Sys2Proof.Machine.execLdv h o s
  | .stv h o => Sys2Proof.Machine.execStv h o s
  | .ldvs h o => Sys2Proof.Machine.execLdvs h o s
  | .stvs h o => Sys2Proof.Machine.execStvs h o s
  | .gath h o => Sys2Proof.Machine.execGath h o s
  | .scat h o => Sys2Proof.Machine.execScat h o s
  | .ldfe h keep o => Sys2Proof.Machine.execLdfe h keep o s
  | .stfe h force o => Sys2Proof.Machine.execStfe h force o s
  | .festat h o => Sys2Proof.Machine.execFestat h o s
  | .setmark h o => Sys2Proof.Machine.execSetmark h o s
  | .getmark h o => Sys2Proof.Machine.execGetmark h o s
  | .pref h na a => Sys2Proof.Machine.execPref h na a s
  | .invl h ix a => Sys2Proof.Machine.execInvl h ix a s
  | .fence h k sc => Sys2Proof.Machine.execFence h k sc s
  | .drain h m => Sys2Proof.Machine.execDrain h m s
  | .amo h o => Sys2Proof.Machine.execAmo h o s
  | .amof h o => Sys2Proof.Machine.execAmof h o s
  | .cas h o => Sys2Proof.Machine.execCas h o s
  | .cas2 h o => Sys2Proof.Machine.execCas2 h o s
  | .vamo h o => Sys2Proof.Machine.execVamo h o s
  | .waitb h a b => Sys2Proof.Machine.execWaitb h a b s
  | .bar h sc id d b => Sys2Proof.Machine.execBar h sc id d b s
  | .bara h sc id bin b => Sys2Proof.Machine.execBara h sc id bin b s
  | .barw h sc id d => Sys2Proof.Machine.execBarw h sc id d s
  | .cradd h a b => Sys2Proof.Machine.execCradd h a b s
  | .crtake h d a => Sys2Proof.Machine.execCrtake h d a s
  | .crtry h d a b => Sys2Proof.Machine.execCrtry h d a b s
  | .crstat h d a => Sys2Proof.Machine.execCrstat h d a s
  | .crinit h a b size => Sys2Proof.Machine.execCrinit h a b size s
  | .crinitUnbind h a => Sys2Proof.Machine.execCrinitUnbind h a s
  | .chsend h a b => Sys2Proof.Machine.execChsend h a b s
  | .chnext h d a => Sys2Proof.Machine.execChnext h d a s
  | .chhold h set a => Sys2Proof.Machine.execChhold h set a s
  | .chready h set a => Sys2Proof.Machine.execChready h set a s
  | .chbind h hold ready a b => Sys2Proof.Machine.execChbind h hold ready a b s
  | .chbindUnbind h hold ready a => Sys2Proof.Machine.execChbindUnbind h hold ready a s
  | .hire h o => Sys2Proof.Machine.execHire h o s
  | .hstat h d a => Sys2Proof.Machine.execHstat h d a s
  | .hdrop h d a => Sys2Proof.Machine.execHdrop h d a s
  | .shpush h d base x => Sys2Proof.Machine.execShpush h d base x s
  | .stc h o => Sys2Proof.Machine.execStc h o s
  | .stcm h o => Sys2Proof.Machine.execStcm h o s
  | .freeb h a tag => Sys2Proof.Machine.execFreeb h a tag s
  | .glean h e a bin => Sys2Proof.Machine.execGlean h e a bin s
  | .wkick h d base disp own => Sys2Proof.Machine.execWkick h d base disp own s
  | .mcall h e a bin => Sys2Proof.Machine.execMcall h e a bin s
  | .spawn h d a b budget => Sys2Proof.Machine.execSpawn h d a b budget s
  | .reap h d a => Sys2Proof.Machine.execReap h d a s
  | .exit h a => Sys2Proof.Machine.execExit h a s
  | .susp h tag => Sys2Proof.Machine.execSusp h tag s
  | .resume h a tag => Sys2Proof.Machine.execResume h a tag s
  | .yield h => Sys2Proof.Machine.execYield h s
  | .shoot h d a b => Sys2Proof.Machine.execShoot h d a b s
  | .fairctlResume h d a floor => Sys2Proof.Machine.execFairctlResume h d a floor s
  | .fairctlDrop h d a floor => Sys2Proof.Machine.execFairctlDrop h d a floor s
  | .fairctlStat h d floor => Sys2Proof.Machine.execFairctlStat h d floor s
  | .swapctlWindow h d b die => Sys2Proof.Machine.execSwapctlWindow h d b die s
  | .swapctlTheta h d b die => Sys2Proof.Machine.execSwapctlTheta h d b die s
  | .swapctlEnable h d b die => Sys2Proof.Machine.execSwapctlEnable h d b die s
  | .swapctlRead h d die => Sys2Proof.Machine.execSwapctlRead h d die s
  | .millEnd m => Sys2Proof.Machine.execMillEnd m s
  | .millBr m => Sys2Proof.Machine.execMillBr m s
  | .millLi m => Sys2Proof.Machine.execMillLi m s
  | .millAdd m => Sys2Proof.Machine.execMillAdd m s
  | .lfill m => Sys2Proof.Machine.execLfill m s
  | .lcopy m => Sys2Proof.Machine.execLcopy m s
  | .lfma m => Sys2Proof.Machine.execLfma m s
  | .lscal m => Sys2Proof.Machine.execLscal m s
  | .lred m => Sys2Proof.Machine.execLred m s
  | .ltz m => Sys2Proof.Machine.execLtz m s
  | .lzmk m => Sys2Proof.Machine.execLzmk m s
  | .stw m => Sys2Proof.Machine.execStw m s
  | .packetNop p => Sys2Proof.Machine.execPacketNop p s
  | .launch p => Sys2Proof.Machine.execLaunch p s
  | .copyPacket p => Sys2Proof.Machine.execCopyPacket p s
  | .millPacket p => Sys2Proof.Machine.execMillPacket p s
  | .waitmem p => Sys2Proof.Machine.execWaitmem p s
  | .ib p => Sys2Proof.Machine.execIb p s
  | .loopPacket p => Sys2Proof.Machine.execLoopPacket p s
  | .ffence p => Sys2Proof.Machine.execFfence p s
  | .signal p => Sys2Proof.Machine.execSignal p s
  | .qconfig f q base size vec => Sys2Proof.Machine.execQconfig f q base size vec s
  | .qenable f q => Sys2Proof.Machine.execQenable f q s
  | .qdisable f q => Sys2Proof.Machine.execQdisable f q s
  | .mrconfig f base size vec => Sys2Proof.Machine.execMrconfig f base size vec s
  | .irqroute f vec addr data => Sys2Proof.Machine.execIrqroute f vec addr data s
  | .fbind f set => Sys2Proof.Machine.execFbind f set s
  | .qpreempt f q => Sys2Proof.Machine.execQpreempt f q s
  | .qrestore f q => Sys2Proof.Machine.execQrestore f q s
  | .ashoot f va len => Sys2Proof.Machine.execAshoot f va len s
  | .lmRfetch o => Sys2Proof.Machine.execLmRfetch o s
  | .lmBext o => Sys2Proof.Machine.execLmBext o s
  | .lmSwait d a => Sys2Proof.Machine.execLmSwait d a s
  | .lmDisp o => Sys2Proof.Machine.execLmDisp o s
  | .lmdoneRead rd => Sys2Proof.Machine.execLmdoneRead rd s
  | .registerWrite w => Sys2Proof.Machine.execRegisterWrite w s
  | .apertureRead f addr len => Sys2Proof.Machine.execApertureRead f addr len s
  | .apertureWrite f addr bytes => Sys2Proof.Machine.execApertureWrite f addr bytes s
  | .hostAtomic f addr expect new => Sys2Proof.Machine.execHostAtomic f addr expect new s
  | .kickWrite f off v => Sys2Proof.Machine.execKickWrite f off v s
  | .millRingKick f v => Sys2Proof.Machine.execMillRingKick f v s
  | .mailboxDoorbell v => Sys2Proof.Machine.execMailboxDoorbell v s
  | .lockInterface f => Sys2Proof.Machine.execLockInterface f s
  | .startInterface f => Sys2Proof.Machine.execStartInterface f s
  | .stopInterface f => Sys2Proof.Machine.execStopInterface f s
  | .getDeviceInterfaceState f => Sys2Proof.Machine.execGetDeviceInterfaceState f s
  | .getDeviceInterfaceReport f => Sys2Proof.Machine.execGetDeviceInterfaceReport f s
  | .spdmMeasurementRequest ix => Sys2Proof.Machine.execSpdmMeasurementRequest ix s
  | .tdispInterfaceError f => Sys2Proof.Machine.execTdispInterfaceError f s
  | .ownerClaim p v => Sys2Proof.Machine.execOwnerClaim p v s
  | .handoverRelease p => Sys2Proof.Machine.execHandoverRelease p s
  | .handoverWithdraw p => Sys2Proof.Machine.execHandoverWithdraw p s
  | .handoverOffer p target => Sys2Proof.Machine.execHandoverOffer p target s
  | .activate p v => Sys2Proof.Machine.execActivate p v s
  | .logposWrite p v => Sys2Proof.Machine.execLogposWrite p v s
  | .plimitWrite p v => Sys2Proof.Machine.execPlimitWrite p v s
  | .tlimitWrite p v => Sys2Proof.Machine.execTlimitWrite p v s
  | .throttle watts temps => Sys2Proof.Machine.execThrottle watts temps s
  | .thermalTrip temp => Sys2Proof.Machine.execThermalTrip temp s
  | .softError e => Sys2Proof.Machine.execSoftError e s
  | .tenantCreate x => Sys2Proof.Machine.execTenantCreate x s
  | .tenantSetDeletion set => Sys2Proof.Machine.execTenantSetDeletion set s
  | .stageCDone trained floors failed0 failed1 dwy => Sys2Proof.Machine.execStageCDone trained floors failed0 failed1 dwy s
  | .laneRepair module lane ok => Sys2Proof.Machine.execLaneRepair module lane ok s
  | .runSeal => Sys2Proof.Machine.execRunSeal s
  | .park => Sys2Proof.Machine.execPark s
  | .postedStoreAck => Sys2Proof.Machine.execPostedStoreAck s
  | .accessReply => Sys2Proof.Machine.execAccessReply s
  | .faultAnswer => Sys2Proof.Machine.execFaultAnswer s
  | .abortWaitEnd => Sys2Proof.Machine.execAbortWaitEnd s
  | .landing => Sys2Proof.Machine.execLanding s
  | .parkedWake => Sys2Proof.Machine.execParkedWake s
  | .eviction => Sys2Proof.Machine.execEviction s
  | .recordTake => Sys2Proof.Machine.execRecordTake s
  | .launchSow => Sys2Proof.Machine.execLaunchSow s
  | .homeStore => Sys2Proof.Machine.execHomeStore s
  | .homeLoad => Sys2Proof.Machine.execHomeLoad s
  | .homeAtomic => Sys2Proof.Machine.execHomeAtomic s
  | .barnFill => Sys2Proof.Machine.execBarnFill s
  | .droveCombine => Sys2Proof.Machine.execDroveCombine s
  | .droveSplit => Sys2Proof.Machine.execDroveSplit s
  | .remoteCroftAccess => Sys2Proof.Machine.execRemoteCroftAccess s
  | .remoteFeRequest => Sys2Proof.Machine.execRemoteFeRequest s
  | .feRetry => Sys2Proof.Machine.execFeRetry s
  | .channelMessage => Sys2Proof.Machine.execChannelMessage s
  | .resumeArrival => Sys2Proof.Machine.execResumeArrival s
  | .barrierArrival => Sys2Proof.Machine.execBarrierArrival s
  | .podCollectiveAbort => Sys2Proof.Machine.execPodCollectiveAbort s
  | .cribAppend => Sys2Proof.Machine.execCribAppend s
  | .cribTake => Sys2Proof.Machine.execCribTake s
  | .cribStat => Sys2Proof.Machine.execCribStat s
  | .cribBind => Sys2Proof.Machine.execCribBind s
  | .crtakeRetry => Sys2Proof.Machine.execCrtakeRetry s
  | .stcmDelivery => Sys2Proof.Machine.execStcmDelivery s
  | .multicastFree => Sys2Proof.Machine.execMulticastFree s
  | .fairRegister => Sys2Proof.Machine.execFairRegister s
  | .fairGrant => Sys2Proof.Machine.execFairGrant s
  | .sheafArrival => Sys2Proof.Machine.execSheafArrival s
  | .lastSegment => Sys2Proof.Machine.execLastSegment s
  | .landingEngineGrant => Sys2Proof.Machine.execLandingEngineGrant s
  | .landingFault => Sys2Proof.Machine.execLandingFault s
  | .rickPreempt => Sys2Proof.Machine.execRickPreempt s
  | .landingPacketIssue => Sys2Proof.Machine.execLandingPacketIssue s
  | .translationWalk => Sys2Proof.Machine.execTranslationWalk s
  | .millCallAccept => Sys2Proof.Machine.execMillCallAccept s
  | .routerPowerDown => Sys2Proof.Machine.execRouterPowerDown s
  | .routerWake => Sys2Proof.Machine.execRouterWake s
  | .packetDrop => Sys2Proof.Machine.execPacketDrop s
  | .lossReport => Sys2Proof.Machine.execLossReport s
  | .faultPacketReoffer => Sys2Proof.Machine.execFaultPacketReoffer s
  | .haywardPacketDelivery => Sys2Proof.Machine.execHaywardPacketDelivery s
  | .swapWindowClose => Sys2Proof.Machine.execSwapWindowClose s
  | .swapStateCrossed => Sys2Proof.Machine.execSwapStateCrossed s
  | .routersSwitched => Sys2Proof.Machine.execRoutersSwitched s
  | .drainMarker => Sys2Proof.Machine.execDrainMarker s
  | .relocate => Sys2Proof.Machine.execRelocate s
  | .servicePeriodEnd => Sys2Proof.Machine.execServicePeriodEnd s
  | .borderQuiesced => Sys2Proof.Machine.execBorderQuiesced s
  | .borderRelocated => Sys2Proof.Machine.execBorderRelocated s
  | .borderBanksEmpty => Sys2Proof.Machine.execBorderBanksEmpty s
  | .borderShootsDone => Sys2Proof.Machine.execBorderShootsDone s
  | .debugRelease => Sys2Proof.Machine.execDebugRelease s
  | .debugKill => Sys2Proof.Machine.execDebugKill s
  | .debugFreeze => Sys2Proof.Machine.execDebugFreeze s
  | .debugZeroCounts => Sys2Proof.Machine.execDebugZeroCounts s
  | .debugEvict => Sys2Proof.Machine.execDebugEvict s
  | .queueSaveWrite => Sys2Proof.Machine.execQueueSaveWrite s
  | .pollTick => Sys2Proof.Machine.execPollTick s
  | .watchdogExpiry => Sys2Proof.Machine.execWatchdogExpiry s
  | .powerGood => Sys2Proof.Machine.execPowerGood s
  | .stageADone => Sys2Proof.Machine.execStageADone s
  | .stageBDone => Sys2Proof.Machine.execStageBDone s
  | .powerLoss => Sys2Proof.Machine.execPowerLoss s

end Sys2Proof.Machine
end

