-- ==== Sys2Proof/Machine/Cycle.lean ====
section
/-! DEFINITION. A croft cycle: which context owns it, the fetch of its line, the fetch checks, and the issue of a slot
or a pair (R30, R34, R61 to R72, R77, R217). -/

namespace Sys2Proof.Machine

/-! ## Lines (R61, R62, R66, R67) -/

def slotWord (d : LineWord) (i : Nat) : Nat := d.toNat / 2 ^ (96 * i) % 2 ^ 96
def lineWord (d : LineWord) : Nat := d.toNat / 2 ^ 480
def tgtBit (d : LineWord) (i : Nat) : Bool := (lineWord d).testBit (27 + i)
/-- Slots i and i + 1 issue as a pair. -/
def pairBit (d : LineWord) (i : Nat) : Bool := i < 4 && (lineWord d).testBit (23 + i)

/-- Ones among the low n bits, odd. -/
def oddOnes : Nat → Nat → Bool
  | 0, _ => false
  | n + 1, x => (x % 2 == 1) != oddOnes n (x / 2)
/-- The parity of slot i, and of line-word bits [31:6], is even with its bit (R62). -/
def slotParity (d : LineWord) (i : Nat) : Bool := oddOnes 96 (slotWord d i) == (lineWord d).testBit i
def lineParity (d : LineWord) : Bool := oddOnes 26 (lineWord d / 64) == (lineWord d).testBit 5

/-- The rules of R66. -/
def lineOk (d : LineWord) : Bool :=
  lineWord d / 64 % 2 ^ 17 == 0 &&
  (List.range 4).all fun i => !(pairBit d i && (pairBit d (i + 1) || tgtBit d (i + 1)))

def opOf (w : Nat) : Nat := w / 2 ^ 88 % 256
def classC (op : Nat) : Bool := op == 0 || (0x10 ≤ op && op ≤ 0x14) || (0x20 ≤ op && op ≤ 0x25)
def vectorOp (op : Nat) : Bool := 0x20 ≤ op && op ≤ 0x25
/-- The composition rule of R67. -/
def pairOk (lo hi : Nat) : Bool :=
  (classC (opOf lo) || classC (opOf hi)) && !(vectorOp (opOf lo) && vectorOp (opOf hi)) && opOf lo != 0x18

/-! ## Fetch (R70, R72) -/

/-- A fetch that misses: the context leaves the rotation until the line comes. -/
def fetchLine (s : State) : State :=
  let a := (me s).pc
  let la := a / 64
  let s := send s ⟨[], .home ⟨meAgent s, .fetch, resOf s (la * 64), la * 64, .fetch, none, .none⟩, none⟩
  updMe s fun k => { k with
    mode := .awaiting, turn := .waiting
    await := some { Await.plain 1 0 .none .keep with slot := a, base := a, fills := [la] } }

/-- A fault of the fetch checks at slot `a`; the context resumes at its pc, and an instruction that waits over several turns, released
and fetched again, goes on from where it was. -/
def fetchFault (s : State) (code a aux addr : Nat) : State :=
  let s := updMe s fun k => { k with tgt := none }
  let k := me s
  updMe (freezeAt s s.cur.1 s.cur.2 code a k.pc aux addr) fun x => { x with turn := .decodeFault, stage := k.stage, sub := k.sub }

/-- A failure of parity check k (a slot, or 5 for the line word) at slot `a`: the line is fetched once more; where the line
was fetched again for the same check, PARITY (R70). The line that faulted stays in the cache as fetched again, so that a context released
to issue from it faults again at once: DESIGN CHOICE, log 98. -/
def parityFault (s : State) (l : ILine) (k a : Nat) : State :=
  if l.failed = some k then fetchFault s cPARITY a 0 0
  else
    let c := myCroft s
    fetchLine (setCroft s s.cur.1 { c with
      icache := c.icache.filter fun x => x.la != l.la, reparity := c.reparity ++ [(l.la, k)] })

/-- The parity checks of slots i and, in a pair, i + 1 have passed, and the line word's on the line's first issue: the first
by any context after the line was fetched, once for each fetch of it. R71's 'when a context first issues from a line after fetching it' may also be read as once
for each context: DESIGN CHOICE, log 97. -/
def passed (s : State) (l : ILine) (i : Nat) (paired : Bool) : State :=
  -- the line's first issue is over once the rules of R66 are found kept, too (R71)
  let ok (k : Nat) : Bool := k == i || (paired && k == i + 1) || (k == 5 && !l.checked)
  let c := myCroft s
  let upd (x : ILine) : ILine :=
    if x.la = l.la then { x with checked := x.checked || lineOk x.data, failed := if x.failed.any ok then none else x.failed } else x
  setCroft s s.cur.1 { c with icache := c.icache.map upd }

/-! ## Issue (R68, R69, R77) -/

/-- Run the instruction of one slot from a state; none is ILL. -/
def runSlot (i : Option Instr) (s : State) : Out :=
  match i with
  | none => .next (raiseDec cILL s)
  | some i => exec i s

/-- The state in which a slot of a pair issues. -/
def inGroup (s : State) (g : Group) (high : Bool) : State := updMe s fun k => { k with grp := some { g with high := high } }
def outGroup (s : State) : State := updMe s fun k => { k with grp := none }

def groupOf (s : State) : Group :=
  ⟨(me s).regs, (me s).pc, false, winsOf s, hcapOf s, svrouteOf s, pwinOf s, (me s).o1, (me s).o2, (me s).o3, (me s).runseq⟩

/-- Write a register by its specifier (R15). -/
def fillSpec (n : Nat) (ones : Bool) (r : Regs) : Regs :=
  let v (w : Nat) : BitVec w := if ones then BitVec.allOnes w else 0
  if h : n < 64 then putG r ⟨n, h⟩ (v 64)
  else if h : n - 64 < 32 then putV r ⟨n - 64, h⟩ (v 1024)
  else if h : n - 96 < 8 then putP r ⟨n - 96, h⟩ (v 128)
  else r
def readSpec (n : Nat) (r : Regs) : Nat :=
  if h : n < 64 then (getG r ⟨n, h⟩).toNat
  else if h : n - 64 < 32 then (getV r ⟨n - 64, h⟩).toNat
  else if h : n - 96 < 8 then (getP r ⟨n - 96, h⟩).toNat
  else 0

def outState (o : Out) (s : State) : State := match o with | .next t => t | _ => s

/-- The bits of its destination that the higher slot writes, whatever stood there (R34). -/
def writtenBits (hi : Option Instr) (n : Nat) (s : State) : Nat :=
  let go (ones : Bool) : Nat :=
    let s := updRegs s (fillSpec n ones)
    readSpec n (me (outState (runSlot hi s) s)).regs
  2 ^ 1024 - 1 - (go false ^^^ go true)

/-- The progress of a seal or of an instruction that takes several turns, as the pair found it (R68). -/
def atStage (s : State) (k : Context) : Context := { k with stage := (me s).stage, sub := (me s).sub }

/-- A run that the lower slot began after the pair starts with what the higher slot wrote (R68); a run that began with the
lower slot's access keeps the registers before the pair (R182, R221). -/
def shadowPair (g : Group) (s l : State) (k : Context) : Context :=
  if k.mode = .running && (me l).runStart != g.base
      && ((me l).runseq != (me s).runseq || (me l).runStart != (me s).runStart) then { k with shadow := k.regs }
  else k

/-- A pair that leaves the rotation: what it owes its end, and a fault of its slot (R34, R69). -/
def owing (o : Owing) (k : Context) : Context :=
  if k.mode = .awaiting then { k with owe := o }
  else if k.mode = .parked then { k with park := k.park.map fun p => { p with owe := o } }
  else k

/-- The lower slot may count a landing in a bin of its own context within the turn, and the higher slot writes a bin: a landing in the
cycle of an MTB adds to what the MTB writes (R31). -/
def landsOnWrite (lo hi : Option Instr) : Bool :=
  match lo, hi with
  | some (.stc _ _), some (.mtb _ _ _) => true
  | some (.stcm _ _), some (.mtb _ _ _) => true
  | _, _ => false

/-- Both slots take effect: the higher one on the state the lower one left, with the sources of the group. Where the
lower one gives the context up (EXIT, an evicting YIELD: neither writes a register), or lands in a bin that the higher one writes, the
higher one goes first. -/
def runBoth (s : State) (g : Group) (lo hi : Option Instr) (hiWord : Nat) (late : Option Late) : Out :=
  match runSlot lo (inGroup s g false) with
  | .next l =>
      if (me l).mode = .free || (me l).mode = .exited || landsOnWrite lo hi then
        match runSlot hi (inGroup s g true) with
        | .next u =>
            match runSlot lo (updMe (inGroup u g false) fun k => atStage s { k with pc := (me s).pc }) with
            | .next t => .next (outGroup t)
            | o => o
        | o => o
      else
        let l := updMe (inGroup l g true) fun k => if k.mode = .running then atStage s k else k
        let n := hiWord / 2 ^ 64 % 128
        let keep := if (me l).mode = .running then none else some (n, writtenBits hi n l)
        match runSlot hi l with
        | .next u => .next (outGroup (updMe u fun k =>
            if k.mode = .running then shadowPair g s l k else owing ⟨some g.regs, keep, late⟩ k))
        | o => o
  | o => o

/-- The write that a slot makes beyond the context's g, v and p registers and fpcsr: of a special register (R110), or of a bin. -/
def lateOf (i : Option Instr) (s : State) : Option Late :=
  match i with
  | some (.mts h n a) => if n.val != 3 && guardTrue h s then some (.special n.val (rdG s a)) else none
  | some (.mtb h d b) => if guardTrue h s then some (.bin d.val ((rdSrc s b).setWidth 32)) else none
  | _ => none
def withoutLate (i : Option Instr) : Option Instr :=
  match i with
  | some (.mts h n a) => if n.val = 3 then some (.mts h n a) else some .nop
  | some (.mtb _ _ _) => some .nop
  | i => i
/-- The write waits for the other slot: a special register's while an answer can still be a fault of that slot (R69), a bin's while
that slot is parked (R68). -/
def Late.waits (x : Late) (k : Context) : Bool :=
  match x with
  | .special _ _ => k.mode == .awaiting || (k.mode == .parked && k.park.any fun p => p.kind == .feFull)
  | .bin _ _ => k.mode == .parked
/-- The higher slot is a WAITB of the bin, whose own write stands (R34). -/
def overwritten (hi : Option Instr) (x : Late) : Bool :=
  match hi, x with
  | some (.waitb _ a _), .bin k _ => a.val == k
  | _, _ => false

/-- Both slots take effect together: a write that must wait for the partner's completion takes effect with it, and neither
retires without the other (R68, R69). -/
def bothSlots (s : State) (g : Group) (lo hi : Option Instr) (hiWord : Nat) : Out :=
  let r := runBoth s g lo hi hiWord none
  match lateOf lo (inGroup s g false) <|> lateOf hi (inGroup s g true) with
  | none => r
  | some x =>
      if x.waits (me (outState r s)) then
        runBoth s g (withoutLate lo) (withoutLate hi) hiWord (if overwritten hi x then none else some x)
      else r

/-- What a pair comes to, from what each slot comes to alone (R30, R68, R69, R75). -/
def pairTurn (l u : Turn) : Turn × Bool :=
  if l = .decodeFault then (l, false) else if u = .decodeFault then (u, true)
  else if l = .gateWait then (l, false) else if u = .gateWait then (u, true)
  else if l = .operandFault then (l, false) else if u = .operandFault then (u, true)
  else if l = .waiting then (l, false) else if u = .waiting then (u, true)
  else (.issued, false)

/-- An instruction goes on that has passed its checks: it waits in the rotation, or reads the argument block of its MCALL (R77, R211). -/
def goesOn (k : Context) : Bool :=
  (k.mode == .running && k.turn == .waiting) ||
    (k.mode == .awaiting && k.await.any fun a => match a.fin with | .args _ _ => true | _ => false)

/-- The words of a slot or pair that goes on stay with the context, so that its fetch checks are made once (R77), and so do the windows
that it passed its operand check under (R336). -/
def keepFetched (lo : Nat) (hi : Option Nat) (ws : Sparse Window) (s : State) : State :=
  let k := me s
  if goesOn k then updMe s fun k => { k with fetched := some (lo, hi), wins := some ws }
  else if k.mode = .running && k.turn = .gateWait then updMe s fun k => { k with fetched := some (lo, hi), wins := none }
  else if k.fetched.isSome then updMe s fun k => { k with fetched := none, wins := none }
  else s

def issuePair (s : State) (loWord hiWord : Nat) : Out :=
  let g := groupOf s
  let lo := decode loWord
  let hi := decode hiWord
  match runSlot lo (inGroup s g false), runSlot hi (inGroup s g true) with
  | .next l, .next u =>
      match pairTurn (me l).turn (me u).turn with
      | (.issued, _) => bothSlots s g lo hi hiWord
      | (_, false) => .next (outGroup l)
      | (_, true) => .next (outGroup u)
  | .next _, o => o
  | o, _ => o

/-- Issue a slot or a pair whose fetch checks are made (R77). -/
def issueWords (s : State) (lo : Nat) (hi : Option Nat) : Out :=
  let s := updMe s fun k => { k with tgt := none, turn := .issued, raised := 0 }
  let ws := winsOf s
  let r := match hi with | some h => issuePair s lo h | none => runSlot (decode lo) s
  match r with
  | .next t => .next (keepFetched lo hi ws t)
  | r => r

/-- Issue from a line the croft holds (R65 to R71). -/
def issueFrom (s : State) (l : ILine) : Out :=
  let a := (me s).pc
  let i := a % 64 / 12
  let d := l.data
  let paired := pairBit d i
  let go (s : State) : Out := issueWords s (slotWord d i) (if paired then some (slotWord d (i + 1)) else none)
  if !l.checked && !lineParity d then .next (parityFault s l 5 a)
  else if !slotParity d i then .next (parityFault s l i a)
  else if paired && !slotParity d (i + 1) then .next (parityFault s l (i + 1) (nextOf a))
  else
    let s := passed s l i paired
    if !l.checked && !lineOk d then .next (fetchFault s cLINEWORD a 0 0)
    else if paired && !pairOk (slotWord d i) (slotWord d (i + 1)) then .next (fetchFault s cLINEWORD a 0 0)
    else match (me s).tgt with
      | some aux => if !tgtBit d i then .next (fetchFault s cBTGT a aux a) else go s
      | none => go s

/-- One owned cycle of a ready context (R217). A context started at an address that is no slot address, which R63 lets no
transfer reach, faults BTGT there (log 63). What waits in the rotation goes on without new fetch checks (R77). -/
def turnOf (s : State) : Out :=
  let a := (me s).pc
  match (me s).fetched with
  | some (lo, hi) => issueWords s lo hi
  | none =>
  if !rightAt (mySet s).windows Window.x (a / 64 * 64) then .next (fetchFault s cPERM a 0 a)
  else if !slotOk a then .next (fetchFault s cBTGT a ((me s).tgt.getD 0) a)
  else match (myCroft s).icache.find? fun l => l.la == a / 64 with
    | none => .next (fetchLine s)
    | some l => issueFrom s l

/-- The next cycle of a croft: its owner issues if it is ready, else the cycle is a bubble. cyc is advanced before the turn,
so that an MFS of it reads a count that includes its own cycle: DESIGN CHOICE, log 64. Without power no clock runs (R398). -/
def cycleCroft (s : State) (c : Nat) : Out :=
  if s.power != .on then .next s else
  let k := croftAt s c
  let i := k.cyc.toNat % 16
  let s := { setCroft s c { k with cyc := k.cyc + 1 } with cur := (c, i) }
  if (ctxAt s c i).mode = .running && k.tenant.isSome && !k.stopped then turnOf s else .next s

end Sys2Proof.Machine
end

