-- ==== Sys2Proof/Machine/Rv64.lean ====
section
/-! DEFINITION. The base instructions of the Lomwen cores: RV64IMAC with Zicsr, Zba and Zbb in machine mode. R318 names the
sets and does not define them: everything here is PRESUMED from the RISC-V manuals (log 51). These words are no rows of the
opcode table, so they are no constructors of Instr; the acting core is `State.unit`. -/

namespace Sys2Proof.Machine

/-- What an operation of OP, OP-32 or an immediate form of one computes. -/
inductive RvAlu where
  | add | sub | sll | slt | sltu | xor | srl | sra | or | and | addw | subw | sllw | srlw | sraw
  | mul | mulh | mulhsu | mulhu | div | divu | rem | remu | mulw | divw | divuw | remw | remuw
  | adduw | sh1add | sh2add | sh3add | sh1adduw | sh2adduw | sh3adduw | slluw
  | andn | orn | xnor | min | minu | max | maxu | rol | ror | rolw | rorw
  | clz | ctz | cpop | clzw | ctzw | cpopw | sextb | sexth | zexth | rev8 | orcb
  deriving DecidableEq, Repr

/-- A base instruction, its compressed spelling expanded: widths in bytes, branch and load kinds by funct3. -/
inductive Rv where
  | alu (op : RvAlu) (d a b : Fin 32) | alui (op : RvAlu) (d a : Fin 32) (i : W64)
  | lui (d : Fin 32) (i : W64) | auipc (d : Fin 32) (i : W64)
  | jal (d : Fin 32) (i : W64) | jalr (d a : Fin 32) (i : W64) | branch (f3 : Nat) (a b : Fin 32) (i : W64)
  | load (f3 : Nat) (d a : Fin 32) (i : W64) | store (n : Nat) (a b : Fin 32) (i : W64)
  | lr (n : Nat) (d a : Fin 32) | sc (n : Nat) (d a b : Fin 32) | amo (f5 n : Nat) (d a b : Fin 32)
  | csr (f3 : Nat) (d a : Fin 32) (n : Nat) | fence | ecall | ebreak | mret | wfi
  deriving DecidableEq, Repr

/-! ## Values -/

def sx32 (x : W64) : W64 := (x.setWidth 32).signExtend 64
def zx32 (x : W64) : W64 := (x.setWidth 32).setWidth 64

/-- Division and remainder: toward zero; by zero, all ones and the dividend. -/
def rvDiv {w : Nat} (a b : BitVec w) : BitVec w := if b = 0 then BitVec.allOnes w else BitVec.ofInt w (a.toInt.tdiv b.toInt)
def rvDivu {w : Nat} (a b : BitVec w) : BitVec w := if b = 0 then BitVec.allOnes w else BitVec.ofNat w (a.toNat / b.toNat)
def rvRem {w : Nat} (a b : BitVec w) : BitVec w := if b = 0 then a else BitVec.ofInt w (a.toInt.tmod b.toInt)
def rvRemu {w : Nat} (a b : BitVec w) : BitVec w := if b = 0 then a else BitVec.ofNat w (a.toNat % b.toNat)

def rvAlu (op : RvAlu) (a b : W64) : W64 :=
  let n := b.toNat % 64
  let m := b.toNat % 32
  let x : W32 := a.setWidth 32
  let y : W32 := b.setWidth 32
  let count (f : Nat → Nat → Nat) (N : Nat) : W64 := BitVec.ofNat 64 (f N (a.toNat % 2 ^ N))
  match op with
  | .add => a + b | .sub => a - b | .xor => a ^^^ b | .or => a ||| b | .and => a &&& b
  | .sll => a <<< n | .srl => a >>> n | .sra => a.sshiftRight n
  | .slt => if a.slt b then 1 else 0
  | .sltu => if a.ult b then 1 else 0
  | .addw => (x + y).signExtend 64 | .subw => (x - y).signExtend 64
  | .sllw => (x <<< m).signExtend 64 | .srlw => (x >>> m).signExtend 64 | .sraw => (x.sshiftRight m).signExtend 64
  | .mul => a * b
  | .mulh => BitVec.ofInt 64 (a.toInt * b.toInt / 2 ^ 64)
  | .mulhsu => BitVec.ofInt 64 (a.toInt * b.toNat / 2 ^ 64)
  | .mulhu => BitVec.ofNat 64 (a.toNat * b.toNat / 2 ^ 64)
  | .div => rvDiv a b | .divu => rvDivu a b | .rem => rvRem a b | .remu => rvRemu a b
  | .mulw => (x * y).signExtend 64
  | .divw => (rvDiv x y).signExtend 64 | .divuw => (rvDivu x y).signExtend 64
  | .remw => (rvRem x y).signExtend 64 | .remuw => (rvRemu x y).signExtend 64
  | .adduw => zx32 a + b
  | .sh1add => (a <<< 1) + b | .sh2add => (a <<< 2) + b | .sh3add => (a <<< 3) + b
  | .sh1adduw => (zx32 a <<< 1) + b | .sh2adduw => (zx32 a <<< 2) + b | .sh3adduw => (zx32 a <<< 3) + b
  | .slluw => zx32 a <<< n
  | .andn => a &&& ~~~b | .orn => a ||| ~~~b | .xnor => ~~~(a ^^^ b)
  | .min => if a.slt b then a else b
  | .minu => if a.ult b then a else b
  | .max => if a.slt b then b else a
  | .maxu => if a.ult b then b else a
  | .rol => a.rotateLeft n | .ror => a.rotateRight n
  | .rolw => (x.rotateLeft m).signExtend 64 | .rorw => (x.rotateRight m).signExtend 64
  | .clz => count countLz 64 | .ctz => count countTz 64 | .cpop => count popCount 64
  | .clzw => count countLz 32 | .ctzw => count countTz 32 | .cpopw => count popCount 32
  | .sextb => (a.setWidth 8).signExtend 64 | .sexth => (a.setWidth 16).signExtend 64 | .zexth => (a.setWidth 16).setWidth 64
  | .rev8 => BitVec.ofNat 64 (reverseDigits 256 8 a.toNat 0)
  | .orcb => BitVec.ofNat 64 (ofBytes ((toBytes 8 a.toNat).map fun z => if z = 0 then 0 else 0xFF))

/-! ## Decoding: 32-bit words -/

def rvBits (w lo n : Nat) : Nat := w / 2 ^ lo % 2 ^ n
def rvReg (w lo : Nat) : Fin 32 := ⟨w / 2 ^ lo % 32, Nat.mod_lt _ (by decide)⟩
def rvSx (n v : Nat) : W64 := (BitVec.ofNat n v).signExtend 64

def rvOp (f7 f3 : Nat) : Option RvAlu :=
  match f7, f3 with
  | 0x00, 0 => some .add | 0x00, 1 => some .sll | 0x00, 2 => some .slt | 0x00, 3 => some .sltu
  | 0x00, 4 => some .xor | 0x00, 5 => some .srl | 0x00, 6 => some .or | 0x00, 7 => some .and
  | 0x20, 0 => some .sub | 0x20, 5 => some .sra | 0x20, 4 => some .xnor | 0x20, 6 => some .orn | 0x20, 7 => some .andn
  | 0x01, 0 => some .mul | 0x01, 1 => some .mulh | 0x01, 2 => some .mulhsu | 0x01, 3 => some .mulhu
  | 0x01, 4 => some .div | 0x01, 5 => some .divu | 0x01, 6 => some .rem | 0x01, 7 => some .remu
  | 0x10, 2 => some .sh1add | 0x10, 4 => some .sh2add | 0x10, 6 => some .sh3add
  | 0x05, 4 => some .min | 0x05, 5 => some .minu | 0x05, 6 => some .max | 0x05, 7 => some .maxu
  | 0x30, 1 => some .rol | 0x30, 5 => some .ror
  | _, _ => none

def rvOp32 (f7 f3 rs2 : Nat) : Option RvAlu :=
  match f7, f3 with
  | 0x00, 0 => some .addw | 0x00, 1 => some .sllw | 0x00, 5 => some .srlw | 0x20, 0 => some .subw | 0x20, 5 => some .sraw
  | 0x01, 0 => some .mulw | 0x01, 4 => some .divw | 0x01, 5 => some .divuw | 0x01, 6 => some .remw | 0x01, 7 => some .remuw
  | 0x04, 0 => some .adduw
  | 0x04, 4 => if rs2 = 0 then some .zexth else none
  | 0x10, 2 => some .sh1adduw | 0x10, 4 => some .sh2adduw | 0x10, 6 => some .sh3adduw
  | 0x30, 1 => some .rolw | 0x30, 5 => some .rorw
  | _, _ => none

/-- OP-IMM: the operation and whether the immediate is a 6-bit shift amount (else the 12-bit field). -/
def rvOpImm (w f3 : Nat) : Option (RvAlu × Bool) :=
  match f3 with
  | 0 => some (.add, false) | 2 => some (.slt, false) | 3 => some (.sltu, false) | 4 => some (.xor, false)
  | 6 => some (.or, false) | 7 => some (.and, false)
  | 1 => match rvBits w 20 12 with
      | 0x600 => some (.clz, true) | 0x601 => some (.ctz, true) | 0x602 => some (.cpop, true)
      | 0x604 => some (.sextb, true) | 0x605 => some (.sexth, true)
      | _ => if rvBits w 26 6 = 0 then some (.sll, true) else none
  | _ => match rvBits w 20 12 with
      | 0x287 => some (.orcb, true) | 0x6B8 => some (.rev8, true)
      | _ => match rvBits w 26 6 with
          | 0x00 => some (.srl, true) | 0x10 => some (.sra, true) | 0x18 => some (.ror, true) | _ => none

def rvOpImm32 (w f3 : Nat) : Option (RvAlu × Bool) :=
  match f3 with
  | 0 => some (.addw, false)
  | 1 => match rvBits w 20 12 with
      | 0x600 => some (.clzw, true) | 0x601 => some (.ctzw, true) | 0x602 => some (.cpopw, true)
      | _ => if rvBits w 25 7 = 0 then some (.sllw, true) else if rvBits w 26 6 = 2 then some (.slluw, true) else none
  | 5 => match rvBits w 25 7 with
      | 0x00 => some (.srlw, true) | 0x20 => some (.sraw, true) | 0x30 => some (.rorw, true) | _ => none
  | _ => none

def rvSystem (w f3 : Nat) : Option Rv :=
  if f3 = 0 then
    if w = 0x00000073 then some .ecall else if w = 0x00100073 then some .ebreak
    else if w = 0x30200073 then some .mret else if w = 0x10500073 then some .wfi else none
  else if f3 = 4 then none
  else some (.csr f3 (rvReg w 7) (rvReg w 15) (rvBits w 20 12))

def rvAmo (w f3 : Nat) : Option Rv :=
  let n := 2 ^ f3
  let d := rvReg w 7
  let a := rvReg w 15
  let b := rvReg w 20
  let f5 := rvBits w 27 5
  if f3 != 2 && f3 != 3 then none
  else if f5 = 2 then if b = 0 then some (.lr n d a) else none
  else if f5 = 3 then some (.sc n d a b)
  else if [0, 1, 4, 8, 12, 16, 20, 24, 28].contains f5 then some (.amo f5 n d a b) else none

/-- The base instruction in a 32-bit word. -/
def rvDecode (w : Nat) : Option Rv :=
  let d := rvReg w 7
  let a := rvReg w 15
  let b := rvReg w 20
  let f3 := rvBits w 12 3
  let imm := rvSx 12 (rvBits w 20 12)
  let shamt : W64 := BitVec.ofNat 64 (rvBits w 20 6)
  match w % 128 with
  | 0x33 => (rvOp (rvBits w 25 7) f3).map fun op => .alu op d a b
  | 0x3B => (rvOp32 (rvBits w 25 7) f3 b.val).map fun op => .alu op d a b
  | 0x13 => (rvOpImm w f3).map fun p => .alui p.1 d a (if p.2 then shamt else imm)
  | 0x1B => (rvOpImm32 w f3).map fun p => .alui p.1 d a (if p.2 then shamt else imm)
  | 0x37 => some (.lui d (rvSx 32 (rvBits w 12 20 * 2 ^ 12)))
  | 0x17 => some (.auipc d (rvSx 32 (rvBits w 12 20 * 2 ^ 12)))
  | 0x6F => some (.jal d (rvSx 21
      (rvBits w 21 10 * 2 + rvBits w 20 1 * 2 ^ 11 + rvBits w 12 8 * 2 ^ 12 + rvBits w 31 1 * 2 ^ 20)))
  | 0x67 => if f3 = 0 then some (.jalr d a imm) else none
  | 0x63 => if f3 = 2 || f3 = 3 then none
      else some (.branch f3 a b (rvSx 13
        (rvBits w 8 4 * 2 + rvBits w 25 6 * 2 ^ 5 + rvBits w 7 1 * 2 ^ 11 + rvBits w 31 1 * 2 ^ 12)))
  | 0x03 => if f3 = 7 then none else some (.load f3 d a imm)
  | 0x23 => if f3 < 4 then some (.store (2 ^ f3) a b (rvSx 12 (rvBits w 7 5 + rvBits w 25 7 * 2 ^ 5))) else none
  | 0x0F => if f3 = 0 then some .fence else none
  | 0x2F => rvAmo w f3
  | 0x73 => rvSystem w f3
  | _ => none

/-! ## Decoding: 16-bit words -/

/-- x8 to x15, from a 3-bit field. -/
def rvcReg (h lo : Nat) : Fin 32 := ⟨8 + h / 2 ^ lo % 8, by omega⟩

def rvc0 (h : Nat) : Option Rv :=
  let w : W64 := BitVec.ofNat 64 (rvBits h 10 3 * 2 ^ 3 + rvBits h 6 1 * 2 ^ 2 + rvBits h 5 1 * 2 ^ 6)
  let x : W64 := BitVec.ofNat 64 (rvBits h 10 3 * 2 ^ 3 + rvBits h 5 2 * 2 ^ 6)
  let sp := rvBits h 11 2 * 2 ^ 4 + rvBits h 7 4 * 2 ^ 6 + rvBits h 6 1 * 2 ^ 2 + rvBits h 5 1 * 2 ^ 3
  match rvBits h 13 3 with
  | 0 => if sp = 0 then none else some (.alui .add (rvcReg h 2) 2 (BitVec.ofNat 64 sp))
  | 2 => some (.load 2 (rvcReg h 2) (rvcReg h 7) w)
  | 3 => some (.load 3 (rvcReg h 2) (rvcReg h 7) x)
  | 6 => some (.store 4 (rvcReg h 7) (rvcReg h 2) w)
  | 7 => some (.store 8 (rvcReg h 7) (rvcReg h 2) x)
  | _ => none

def rvcArith (h : Nat) : Option Rv :=
  let a := rvcReg h 7
  let b := rvcReg h 2
  let sh : W64 := BitVec.ofNat 64 (rvBits h 2 5 + rvBits h 12 1 * 2 ^ 5)
  match rvBits h 10 2, rvBits h 12 1, rvBits h 5 2 with
  | 0, _, _ => some (.alui .srl a a sh)
  | 1, _, _ => some (.alui .sra a a sh)
  | 2, _, _ => some (.alui .and a a (rvSx 6 (rvBits h 2 5 + rvBits h 12 1 * 2 ^ 5)))
  | _, 0, 0 => some (.alu .sub a a b) | _, 0, 1 => some (.alu .xor a a b)
  | _, 0, 2 => some (.alu .or a a b) | _, 0, _ => some (.alu .and a a b)
  | _, _, 0 => some (.alu .subw a a b) | _, _, 1 => some (.alu .addw a a b)
  | _, _, _ => none

def rvc1 (h : Nat) : Option Rv :=
  let d := rvReg h 7
  let imm := rvSx 6 (rvBits h 2 5 + rvBits h 12 1 * 2 ^ 5)
  let sp := rvBits h 6 1 * 2 ^ 4 + rvBits h 2 1 * 2 ^ 5 + rvBits h 5 1 * 2 ^ 6 + rvBits h 3 2 * 2 ^ 7 + rvBits h 12 1 * 2 ^ 9
  let up := rvBits h 2 5 * 2 ^ 12 + rvBits h 12 1 * 2 ^ 17
  let j := rvBits h 3 3 * 2 + rvBits h 11 1 * 2 ^ 4 + rvBits h 2 1 * 2 ^ 5 + rvBits h 7 1 * 2 ^ 6 + rvBits h 6 1 * 2 ^ 7
    + rvBits h 9 2 * 2 ^ 8 + rvBits h 8 1 * 2 ^ 10 + rvBits h 12 1 * 2 ^ 11
  let br := rvBits h 3 2 * 2 + rvBits h 10 2 * 2 ^ 3 + rvBits h 2 1 * 2 ^ 5 + rvBits h 5 2 * 2 ^ 6 + rvBits h 12 1 * 2 ^ 8
  match rvBits h 13 3 with
  | 0 => some (.alui .add d d imm)
  | 1 => if d = 0 then none else some (.alui .addw d d imm)
  | 2 => some (.alui .add d 0 imm)
  | 3 => if d = 2 then if sp = 0 then none else some (.alui .add 2 2 (rvSx 10 sp))
      else if up = 0 then none else some (.lui d (rvSx 18 up))
  | 4 => rvcArith h
  | 5 => some (.jal 0 (rvSx 12 j))
  | 6 => some (.branch 0 (rvcReg h 7) 0 (rvSx 9 br))
  | _ => some (.branch 1 (rvcReg h 7) 0 (rvSx 9 br))

def rvc2 (h : Nat) : Option Rv :=
  let d := rvReg h 7
  let b := rvReg h 2
  let n (x : Nat) : W64 := BitVec.ofNat 64 x
  match rvBits h 13 3 with
  | 0 => some (.alui .sll d d (n (rvBits h 2 5 + rvBits h 12 1 * 2 ^ 5)))
  | 2 => if d = 0 then none
      else some (.load 2 d 2 (n (rvBits h 4 3 * 2 ^ 2 + rvBits h 12 1 * 2 ^ 5 + rvBits h 2 2 * 2 ^ 6)))
  | 3 => if d = 0 then none
      else some (.load 3 d 2 (n (rvBits h 5 2 * 2 ^ 3 + rvBits h 12 1 * 2 ^ 5 + rvBits h 2 3 * 2 ^ 6)))
  | 4 =>
      if rvBits h 12 1 = 0 then
        if b = 0 then if d = 0 then none else some (.jalr 0 d 0) else some (.alu .add d 0 b)
      else if b = 0 then if d = 0 then some .ebreak else some (.jalr 1 d 0)
      else some (.alu .add d d b)
  | 6 => some (.store 4 2 b (n (rvBits h 9 4 * 2 ^ 2 + rvBits h 7 2 * 2 ^ 6)))
  | 7 => some (.store 8 2 b (n (rvBits h 10 3 * 2 ^ 3 + rvBits h 7 3 * 2 ^ 6)))
  | _ => none

/-- The base instruction in a 16-bit word whose low two bits are not 11. -/
def rvcDecode (h : Nat) : Option Rv :=
  match h % 4 with
  | 0 => rvc0 h
  | 1 => rvc1 h
  | _ => rvc2 h

/-! ## Control and status registers -/

/-- What a control register reads; none where there is none. mcycle and minstret read free values. -/
def rvCsrRead (s : State) (n : Nat) : Option W64 :=
  let k := lom s
  match n with
  | 0x300 => some (k.mstatus ||| 0x1800) | 0x301 => some 0x8000000000001105 | 0x304 => some k.mie
  | 0x305 => some k.mtvec | 0x340 => some k.mscratch | 0x341 => some k.mepc | 0x342 => some k.mcause
  | 0x343 | 0x344 | 0x320 => some 0
  | 0xB00 | 0xB02 => some (Config.rvCounter s.free)
  | _ =>
      if (0x323 ≤ n && n ≤ 0x33F) || (0xB03 ≤ n && n ≤ 0xB1F) then some 0
      else if 0xF11 ≤ n && n ≤ 0xF15 then some (Config.rvIdentity n s.unit)
      else none
def rvCsrWrite (n : Nat) (v : W64) (s : State) : State :=
  updLom s s.unit fun k => match n with
    | 0x300 => { k with mstatus := v &&& 0x88 }
    | 0x304 => { k with mie := v &&& 0x888 }
    | 0x305 => { k with mtvec := v &&& ~~~2 }
    | 0x340 => { k with mscratch := v }
    | 0x341 => { k with mepc := v &&& ~~~1 }
    | 0x342 => { k with mcause := v }
    | _ => k

/-! ## Execution -/

/-- The instruction of len bytes is done. -/
def rvNext (len : Nat) (s : State) : State := updLom s s.unit fun k => { k with pc := k.pc + BitVec.ofNat 64 len }
def rvGoto (pc : W64) (s : State) : State := updLom s s.unit fun k => { k with pc := pc }
/-- A word of n bytes at an address, sign-extended. -/
def rvLoadS (s : State) (a n : Nat) : W64 := (BitVec.ofNat (8 * n) (lomLoad s a n)).signExtend 64
def rvTaken (f3 : Nat) (a b : W64) : Bool :=
  match f3 with
  | 0 => a == b | 1 => a != b | 4 => a.slt b | 5 => !a.slt b | 6 => a.ult b | _ => !a.ult b
def rvAmoVal (f5 n : Nat) (x y : Nat) : Nat :=
  let sx (v : Nat) : Int := (BitVec.ofNat (8 * n) v).toInt
  match f5 with
  | 1 => y | 0 => (x + y) % 2 ^ (8 * n) | 4 => x ^^^ y | 12 => x &&& y | 8 => x ||| y
  | 16 => if sx x < sx y then x else y
  | 20 => if sx x < sx y then y else x
  | 24 => Nat.min x y
  | _ => Nat.max x y

/-- A CSR instruction; lmdone is read as its own row says, and writes to it are dropped. -/
def rvCsr (f3 : Nat) (d a : Fin 32) (n : Nat) (s : State) : Out :=
  let swap : Bool := f3 % 4 = 1
  let src : W64 := if 4 ≤ f3 then BitVec.ofNat 64 a.val else xreg s a
  let writes := swap || a != 0
  if n = 0x7C0 then if swap && d = 0 then .next (lomNext s) else execLmdoneRead d s
  else match rvCsrRead s n with
    | none => .next (lomTrap 2 s)
    | some v =>
        if writes && 0xC00 ≤ n then .next (lomTrap 2 s)
        else
          let v' := if swap then src else if f3 % 4 = 2 then v ||| src else v &&& ~~~src
          let s := if writes then rvCsrWrite n v' s else s
          .next (lomNext (setX d v (draw s)))

/-- The address of an access, if the core reaches its bytes and an atomic's is aligned; else the trap's cause. -/
def rvAddr (s : State) (a : W64) (n : Nat) (atomic store : Bool) (k : Nat → State) : State :=
  let x := a.toNat
  if atomic && x % n != 0 then lomTrap (if store then 6 else 4) s
  else if !lomReach x n then lomTrap (if store then 7 else 5) s
  else k x

/-- The 64-byte block a reservation watches. -/
def rvBlock (s : State) (a : Nat) : LineWord := BitVec.ofNat 512 (lomLoad s (a / 64 * 64) 64)

def rvExec (r : Rv) (len : Nat) (s : State) : Out :=
  let x (i : Fin 32) : W64 := xreg s i
  let k := lom s
  let link : W64 := k.pc + BitVec.ofNat 64 len
  match r with
  | .alu op d a b => .next (rvNext len (setX d (rvAlu op (x a) (x b)) s))
  | .alui op d a i => .next (rvNext len (setX d (rvAlu op (x a) i) s))
  | .lui d i => .next (rvNext len (setX d i s))
  | .auipc d i => .next (rvNext len (setX d (k.pc + i) s))
  | .jal d i => .next (rvGoto (k.pc + i) (setX d link s))
  | .jalr d a i => .next (rvGoto ((x a + i) &&& ~~~1) (setX d link s))
  | .branch f3 a b i => .next (if rvTaken f3 (x a) (x b) then rvGoto (k.pc + i) s else rvNext len s)
  | .load f3 d a i =>
      let n := 2 ^ (f3 % 4)
      .next (rvAddr s (x a + i) n false false fun p =>
        rvNext len (setX d (if f3 < 4 then rvLoadS s p n else BitVec.ofNat 64 (lomLoad s p n)) s))
  | .store n a b i =>
      .next (rvAddr s (x a + i) n false true fun p => rvNext len (lomStore s p n ((x b).toNat % 2 ^ (8 * n))))
  | .lr n d a =>
      .next (rvAddr s (x a) n true false fun p =>
        rvNext len (setX d (rvLoadS s p n) (updLom s s.unit fun k => { k with resv := some (p, rvBlock s p) })))
  | .sc n d a b =>
      .next (rvAddr s (x a) n true true fun p =>
        let ok := k.resv == some (p, rvBlock s p)
        let t := if ok then lomStore s p n ((x b).toNat % 2 ^ (8 * n)) else s
        rvNext len (setX d (if ok then 0 else 1) (updLom t t.unit fun k => { k with resv := none })))
  | .amo f5 n d a b =>
      .next (rvAddr s (x a) n true true fun p =>
        let v := rvAmoVal f5 n (lomLoad s p n) ((x b).toNat % 2 ^ (8 * n))
        rvNext len (setX d (rvLoadS s p n) (lomStore s p n v)))
  | .csr f3 d a n => rvCsr f3 d a n s
  | .fence | .wfi => .next (rvNext len s)
  | .ecall => .next (lomTrap 11 s)
  | .ebreak => .next (lomTrap 3 s)
  | .mret => .next (updLom s s.unit fun k => { k with pc := k.mepc, mstatus := if k.mstatus.getLsbD 7 then 0x88 else 0x80 })

/-- The base instruction at the core's pc: fetched from where the core reaches, a 16-bit word where its low two bits are not
11; anything that is no instruction is illegal, mcause 2. -/
def rvStep (s : State) : Out :=
  let pc := (lom s).pc.toNat
  if !lomReach pc 2 then .next (lomTrap 1 s)
  else
    let h := lomLoad s pc 2
    if h % 4 != 3 then match rvcDecode h with
      | some r => rvExec r 2 s
      | none => .next (lomTrap 2 s)
    else if !lomReach pc 4 then .next (lomTrap 1 s)
    else match rvDecode (lomLoad s pc 4) with
      | some r => rvExec r 4 s
      | none => .next (lomTrap 2 s)

end Sys2Proof.Machine
end

