-- ==== Sys2Proof/Machine/Agents.lean ====
section
/-! DEFINITION. The agents other than crofts: how a mill, a Lomwen core, a queue, the mailbox and an event of the package
take their steps; and the placing of a word where the next step fetches. -/

namespace Sys2Proof.Machine

/-! ## Mills (R282, R284) -/

/-- The micro-word at a mill's micro-address. -/
def microWord (s : State) (g : Nat) : BitVec 128 :=
  let m := (chanAt s g).mill
  sread 0 m.store m.upc

/-- The next step of a mill, on a die in service (R388): idle without a call and while a step waits in the fault bay. -/
def millStep (s : State) (g : Nat) : Out :=
  let m := (chanAt s g).mill
  if !dieUp s (g / 32) || m.call.isNone || m.wait then .next s
  else match decodeMicro (microWord s g).toNat with
    | some i => exec i { s with unit := g }
    | none => .next (millError { s with unit := g })

/-! ## Lomwen cores (R318, R319) -/

/-- A Lomwen core runs: all 18 do once stage B has completed (R387), and from stage C on only those of dies in service (R388) and the
hayward's two, the last. -/
def lomwenUp (s : State) (i : Nat) : Bool := s.mgmt.stb && (16 ≤ i || s.mgmt.stage != 2 || dieUp s (i / 2))
/-- The next instruction of a Lomwen core that runs: a custom instruction where its word is one, else a base instruction; a custom-0 word
that is no instruction of R319 is illegal, mcause 2. -/
def lomwenStep (s : State) (i : Nat) : Out :=
  let s := { s with unit := i }
  let pc := (lom s).pc.toNat
  if Config.lomwens ≤ i then .fault .noCore
  else if !lomwenUp s i then .next s
  else match (if lomReach pc 4 then decodeLm (lomLoad s pc 4) else none) with
  | some j => exec j s
  | none => rvStep s

/-! ## Queues, the mailbox (R312, R313) -/

/-- The packet at the issue point of a queue issues. -/
def issueStep (s : State) (q : Nat) : Out :=
  let s := { s with unit := q }
  let k := queueAt s q
  match nth k.items k.ip with
  | some (.pkt i _) => exec i s
  | some (.bad code rep _) => .next (badPacket s q code rep)
  | _ => .next s

/-- Firmware performs the pending request, in its turn among the requests of its function (R330). -/
def mailboxStep (s : State) : Out :=
  if !s.mailbox.pending || (funcAt s (s.mailbox.req[0].toNat / 256 % 128)).stopping then .next s
  else match decodeRequest s.mailbox.req with
    | some i => exec i s
    | none => .next (answer s stBad)

/-! ## Events -/

/-- The rows of the opcode table that a schedule may name at any moment: hardware conditions, host and hayward requests. -/
def isEvent : Instr → Bool
  | .registerWrite _ | .apertureRead _ _ _ | .apertureWrite _ _ _ | .hostAtomic _ _ _ _ | .kickWrite _ _ _ | .millRingKick _ _
  | .mailboxDoorbell _ | .lockInterface _ | .startInterface _ | .stopInterface _ | .getDeviceInterfaceState _
  | .getDeviceInterfaceReport _ | .spdmMeasurementRequest _ | .tdispInterfaceError _ | .ownerClaim _ _ | .handoverRelease _
  | .handoverWithdraw _ | .handoverOffer _ _ | .activate _ _ | .logposWrite _ _ | .plimitWrite _ _ | .tlimitWrite _ _
  | .throttle _ _ | .thermalTrip _ | .softError _ | .tenantCreate _ | .tenantSetDeletion _ | .stageCDone _ _ _ _ _
  | .laneRepair _ _ _ => true
  | .runSeal | .park | .postedStoreAck | .accessReply | .faultAnswer | .abortWaitEnd | .landing | .parkedWake | .eviction
  | .recordTake | .launchSow | .homeStore | .homeLoad | .homeAtomic | .barnFill | .droveCombine | .droveSplit
  | .remoteCroftAccess | .remoteFeRequest | .feRetry | .channelMessage | .resumeArrival | .barrierArrival
  | .podCollectiveAbort | .cribAppend | .cribTake | .cribStat | .cribBind | .crtakeRetry | .stcmDelivery | .multicastFree
  | .fairRegister | .fairGrant | .sheafArrival | .lastSegment | .landingEngineGrant | .landingFault | .rickPreempt
  | .landingPacketIssue | .translationWalk | .millCallAccept | .routerPowerDown | .routerWake | .packetDrop | .lossReport
  | .faultPacketReoffer | .haywardPacketDelivery | .swapWindowClose | .swapStateCrossed | .routersSwitched | .drainMarker
  | .relocate | .servicePeriodEnd | .borderQuiesced | .borderRelocated | .borderBanksEmpty | .borderShootsDone
  | .debugRelease | .debugKill | .debugFreeze | .debugZeroCounts | .debugEvict | .queueSaveWrite | .pollTick
  | .watchdogExpiry | .powerGood | .stageADone | .stageBDone | .powerLoss => true
  | _ => false

/-- Events of power, which alone happen while the package is off or tripped (R398). -/
def isPower : Instr → Bool | .powerGood | .powerLoss => true | _ => false
/-- Events that firmware of the hayward brings about: none before stage B has completed (R387, R388). -/
def byFirmware : Instr → Bool
  | .registerWrite (.mailbox _ _) | .registerWrite (.mgmt _ _ _) => false
  | .registerWrite _ | .throttle _ _ | .tenantCreate _ | .tenantSetDeletion _ | .queueSaveWrite | .relocate | .servicePeriodEnd
  | .haywardPacketDelivery => true
  | _ => false
/-- The bank of the operation that a home event names is in service; a step whose address no window covers goes back to its mill. -/
def homeUp (s : State) : Bool := (homeReq s).all fun x => Config.banks ≤ x.2.res.bank || dieUp s (x.2.res.bank / 576)
/-- The die or floor die whose bank, crib, weighbridge, mill, fair or front end does the work of an event is in service: before stage C
only die 0 and its 32 channels are, and a die that failed training never is (R387, R388). -/
def inService (s : State) : Instr → Bool
  | .homeStore | .homeLoad | .homeAtomic => homeUp s
  | .landing => match deliverable s (argN s 0) with | some (.croft ..) => true | _ => homeUp s
  | .translationWalk => dieUp s (argN s 0 / 32)
  | .barnFill => match deliverable s (argN s 0) with | some (.fill b ..) => dieUp s (b / 576) | _ => true
  | .cribAppend | .cribTake | .cribStat | .cribBind => (cribReqs s).all fun x => dieUp s (x.2.2.2.1 / 576)
  | .fairRegister => match deliverable s (argN s 0) with | some (.hire h) => floorUp s h.floor | _ => true
  | .millCallAccept => match deliverable s (argN s 0) with | some (.mcall c) => dieUp s (c.chan / 32) | _ => true
  | .watchdogExpiry => argN s 0 < 8 && dieUp s (argN s 0)
  | .launchSow => dieUp s (argN s 0)
  | _ => true
/-- An event that can happen now. -/
def canHappen (s : State) (i : Instr) : Bool :=
  isEvent i && (s.power == .on || isPower i) && (s.mgmt.stb || !byFirmware i) && inService s i

/-- The step of the agent a schedule names; without power, none but an event of power (R398). -/
def agentStep (s : State) (m : Sched) : Out :=
  if s.power != .on && (match m with | .event _ _ => false | _ => true) then .next s
  else match m with
  | .cycle c => cycleCroft s c
  | .lomwen i => lomwenStep s i
  | .mill g => millStep s g
  | .fetch q j => .next (fetchPacket s q j)
  | .issue q => issueStep s q
  | .ring f j => .next (if dieUp s (f % 8) then ringService s f j else s)
  | .mailbox => mailboxStep s
  | .event i arg => if canHappen { s with arg := arg } i then exec i { s with arg := arg } else .next s

/-! ## Placing a word (the host's interface) -/

/-- A fetch line that holds word w in slot 0 and zeros (NOP) elsewhere, with its parities (R61, R62). -/
def lineWith (w : Nat) : LineWord :=
  let x := w % 2 ^ 96
  BitVec.ofNat 512 (x + (if oddOnes 96 x then 1 else 0) * 2 ^ 480)

/-- A slot's word, on context 1 of croft 0: a privileged hand of tenant 0 at slot address 0, its line in the cache, under
a window that grants R, W and X for the page. -/
def placeSlot (s : State) (w : Nat) : State :=
  let win : Window := ⟨0xF, 0, 0x10010, 0x101, []⟩
  let set : TSet := { TSet.empty with count := 1, asid := 1, windows := [(0, win)] }
  let ten : Tenant := { Tenant.empty with set := 0, core := 0 }
  let ctx : Context := { Context.empty with
    mode := .running, priv := true, budget := 0x2040, name := 0, runseq := 1, epoch := 1, origin := .firmware }
  let k : Croft := { croftAt s 0 with
    cyc := 1, tenant := some 0, ctxs := [(1, ctx)], icache := [⟨0, lineWith w, none, false⟩], stopped := false, quiesce := false }
  { s with
    crofts := sset s.crofts 0 k, tenants := sset s.tenants 0 ten, sets := sset s.sets 0 set, power := .on, sched := [], cur := (0, 0) }

/-- A Lomwen word, at the pc of core 0, after stage B. -/
def placeLomwen (s : State) (w : Nat) : State :=
  let k := lomAt s 0
  let put (x : Lomwen) : Lomwen := { x with
    pc := 0x80000000, rfetch := none, sram := storeBytes k.sram 0x80000000 (toBytes 4 w) }
  { updMgmt (updLom s 0 put) (fun m => { m with stb := true, dies := m.dies ||| 1 }) with power := .on, sched := [.lomwen 0] }

/-- A micro-word, at micro-address 0 of mill 0, on a die in service, which runs a call. -/
def placeMicro (s : State) (w : Nat) : State :=
  let c : Call := ⟨0, 0, setAgent 0, 0, 0, 0, 0, 0, .ring 0 0 false, [], []⟩
  let put (k : Mill) : Mill := { k with
    store := sset k.store 0 (BitVec.ofNat 128 w), upc := 0, call := some c, wait := false }
  { updMgmt (updChan s 0 fun k => { k with mill := put k.mill }) (fun m => { m with dies := m.dies ||| 1 }) with
    power := .on, sched := [.mill 0] }

end Sys2Proof.Machine
end

