-- ==== Sys2Proof/Machine/Step.lean ====
section
/-! DEFINITION. One step of the package: what the hardware does before anything else, where there is some; else the agent at the
head of the schedule moves; with no schedule, the croft that moved last takes its next cycle. -/

namespace Sys2Proof.Machine

def step (s : State) : Host.Outcome State Fault Refusal :=
  match pressing s with
  | some (i, arg) => exec i { s with arg := arg }
  | none => match s.sched with
    | [] => cycleCroft s s.cur.1
    | m :: ms => agentStep { s with sched := ms } m

/-- The state whose next step fetches and runs the word: a slot, a Lomwen word or a micro-word, by its number of bits. -/
def State.withFetchWord (s : State) (nbits w : Nat) : State :=
  if nbits = 32 then placeLomwen s w else if nbits = 128 then placeMicro s w else placeSlot s w

end Sys2Proof.Machine
end

