-- ==== Sys2Proof/Safety.lean ====
section
/-! DEFINITION. The terms in which claims are made: the canonical form of memories, which instructions issue, what a retired
instruction leaves, and what a frozen context is. -/

namespace Sys2Proof.Machine

/-- The canonical form of a memory of bytes: addresses strictly rising, no listed byte equal to zero, what an unlisted
address reads as. -/
def Memory.wf (m : Sparse Byte) : Bool := swf 0 m

/-- A step that neither faults nor refuses. -/
def State.Runs (s : State) : Prop := ∃ t, step s = .next t

/-! ## Issue (R22, R74, R75, R77) -/

/-- An instruction with these register fields passes the budget check and its gate, and its guard g is true. -/
structure Clear (h : Hdr) (rs : List Rn) (g : Bool) (s : State) : Prop where
  budget : rs.all (inBudget (me s).budget) = true
  gate : gateClear h s = true
  guard : g = true

/-- A scalar instruction issues. -/
abbrev Issues (h : Hdr) (rs : List Rn) (s : State) : Prop := Clear h rs (guardTrue h s) s
/-- A vector instruction on elements of width w issues: some element is active. -/
abbrev VIssues (h : Hdr) (w : Nat) (rs : List Rn) (s : State) : Prop :=
  Clear h rs ((List.range (1024 / w)).any (active (guardBits h s) w)) s

/-- The run of the acting context can end here at once: nothing outstanding, nothing held, its croft not quiescing. -/
structure Quiet (s : State) : Prop where
  open_ : (me s).stage = .open
  sub : (me s).sub = 0
  idle : (me s).busy = false
  held : (me s).held = []
  quiesce : (myCroft s).quiesce = false

/-! ## What changes -/

/-- Nothing but the acting context's record differs: no memory, no other context, no packet. -/
structure SameElsewhere (s t : State) : Prop where
  rest : { t with crofts := s.crofts } = s
  crofts : ∀ c, c ≠ s.cur.1 → croftAt t c = croftAt s c
  ctxs : ∀ i, i ≠ s.cur.2 → ctxAt t s.cur.1 i = ctxAt s s.cur.1 i
  croft : { croftAt t s.cur.1 with ctxs := [] } = { croftAt s s.cur.1 with ctxs := [] }

/-- The acting context passed to pc n with registers r; nothing else changed. -/
structure Passed (s t : State) (r : Regs) (n : Nat) (tgt : Option Nat) : Prop where
  same : SameElsewhere s t
  ctx : me t = { me s with regs := r, pc := n, tgt := tgt, turn := .issued, stage := .open, sub := 0 }

/-- The acting context retired with registers r; nothing else changed. -/
abbrev Retired (s t : State) (r : Regs) : Prop := Passed s t r (nextSlot s) (me s).tgt

/-- The acting context is frozen by a fault of its slot, its run open, registers and counts as they stood; every memory and
every other context is as before (R373). -/
structure Froze (s t : State) (turn : Turn) (resume : Nat) : Prop where
  ctx : me t = { me s with
    mode := .frozen, pc := resume, stage := .open, sub := 0, await := none, fetched := none, wins := none, turn := turn }
  crofts : ∀ c, c ≠ s.cur.1 → croftAt t c = croftAt s c
  ctxs : ∀ i, i ≠ s.cur.2 → ctxAt t s.cur.1 i = ctxAt s s.cur.1 i
  mem : t.mem = s.mem
  croftMem : ∀ n, (tenAt t n).mem = (tenAt s n).mem
  cur : t.cur = s.cur

/-- The header of a Kazkai instruction but NOP (R73, R74, R75). -/
def headerOf : Instr → Option Hdr
  | .brk h _ | .trap h _ | .add h _ | .sub h _ | .mul h _ | .mulh h _ | .mulhn h _ | .div h _ | .divn h _ | .rem h _
  | .remn h _ | .and h _ | .or h _ | .xor h _ | .andn h _ | .shl h _ | .shr h _ | .sha h _ | .rol h _ | .min h _ | .max h _
  | .minn h _ | .maxn h _ | .abs h _ | .cmpp h _ | .setc h _ | .clz h _ | .ctz h _ | .popc h _ | .brev h _ | .bswap h _
  | .bfx h _ _ _ | .bfxn h _ _ _ | .bfi h _ _ _ _ | .sel h _ _ _ _ | .mov h _ _ | .li h _ _ | .lih h _ _ | .mfs h _ _
  | .mts h _ _ | .mfb h _ _ | .mtb h _ _ | .mfp h _ _ _ | .mtp h _ _ _ | .lea h _ _ _ _ _ | .br h _ | .bc h _ _ _
  | .bcmp h _ | .loop h _ _ | .call h _ _ | .jmp h _ | .jmpl h _ _ | .ret h _ | .vadd h _ | .vsub h _ | .vmul h _
  | .vfma h _ | .vfms h _ | .vfnma h _ | .vdiv h _ | .vsqrt h _ | .vrcp h _ | .vrsq h _ | .vmin h _ | .vmax h _ | .vabs h _
  | .vneg h _ | .vmulh h _ | .vadds h _ | .vsubs h _ | .vand h _ | .vor h _ | .vxor h _ | .vandn h _ | .vshl h _
  | .vshr h _ | .vsha h _ | .vcmp h _ | .vsel h _ | .pand h _ | .por h _ | .pxor h _ | .pnot h _ _ | .vcnt h _
  | .vfirst h _ | .vpermb h _ _ _ | .vperm h _ | .vshuf h _ _ | .vbcast h _ | .vext h _ | .vins h _ | .vidx h _ | .vmov h _
  | .vslide h _ _ | .vred h _ _ _ _ _ | .vscan h _ _ _ _ _ | .vdot4 h _ _ _ _ _ _ | .vxaccClr h _ | .vxaccAdd h _ _ _
  | .vxaccRd h _ _ _ | .vcvt h _ | .ld h _ | .st h _ | .ldq h _ | .stq h _ | .ldv h _ | .stv h _ | .ldvs h _ | .stvs h _
  | .gath h _ | .scat h _ | .ldfe h _ _ | .stfe h _ _ | .festat h _ | .setmark h _ | .getmark h _ | .pref h _ _
  | .invl h _ _ | .fence h _ _ | .drain h _ | .amo h _ | .amof h _ | .cas h _ | .cas2 h _ | .vamo h _ | .waitb h _ _
  | .bar h _ _ _ _ | .bara h _ _ _ _ | .barw h _ _ _ | .cradd h _ _ | .crtake h _ _ | .crtry h _ _ _ | .crstat h _ _
  | .crinit h _ _ _ | .crinitUnbind h _ | .chsend h _ _ | .chnext h _ _ | .chhold h _ _ | .chready h _ _
  | .chbind h _ _ _ _ | .chbindUnbind h _ _ _ | .hire h _ | .hstat h _ _ | .hdrop h _ _ | .shpush h _ _ _ | .stc h _
  | .stcm h _ | .freeb h _ _ | .glean h _ _ _ | .wkick h _ _ _ _ | .mcall h _ _ _ | .spawn h _ _ _ _ | .reap h _ _
  | .exit h _ | .susp h _ | .resume h _ _ | .yield h | .shoot h _ _ _ | .fairctlResume h _ _ _ | .fairctlDrop h _ _ _
  | .fairctlStat h _ _ | .swapctlWindow h _ _ _ | .swapctlTheta h _ _ _ | .swapctlEnable h _ _ _ | .swapctlRead h _ _ => some h
  | _ => none

end Sys2Proof.Machine
end

