-- ==== Sys2Proof/Certificates/Slice0/Obligations.lean ====
section
/-! DEFINITION. The statements about this model, for the provers. Every statement about a next state gives it for every state
and operands that meet the hypotheses it names. -/

namespace Sys2Proof.Machine

/-! ## Tables of independent readings -/

/-- Op 0x10 without .chk, at width n (R96 to R98). -/
def aluMeanings : List ((Hdr → Alu → Instr) × ((n : Nat) → BitVec n → BitVec n → BitVec n)) :=
  [(.add, fun _ x y => x + y), (.sub, fun _ x y => x - y), (.mul, fun _ x y => x * y),
   (.mulh, fun n x y => BitVec.ofInt n (x.toInt * y.toInt / 2 ^ 64)),
   (.mulhn, fun n x y => BitVec.ofNat n (x.toNat * y.toNat / 2 ^ 64)),
   (.div, fun n x y => if y = 0 then BitVec.allOnes n else x.sdiv y),
   (.divn, fun n x y => if y = 0 then BitVec.allOnes n else x.udiv y),
   (.rem, fun _ x y => if y = 0 then x else x.srem y), (.remn, fun _ x y => if y = 0 then x else x.umod y),
   (.and, fun _ x y => x &&& y), (.or, fun _ x y => x ||| y), (.xor, fun _ x y => x ^^^ y), (.andn, fun _ x y => x &&& ~~~y),
   (.shl, fun n x y => x <<< (y.toNat % n)), (.shr, fun n x y => x >>> (y.toNat % n)),
   (.sha, fun n x y => x.sshiftRight (y.toNat % n)), (.rol, fun n x y => x.rotateLeft (y.toNat % n)),
   (.min, fun _ x y => if x.sle y then x else y), (.max, fun _ x y => if x.sle y then y else x),
   (.minn, fun _ x y => if x.ule y then x else y), (.maxn, fun _ x y => if x.ule y then y else x)]

/-- A result at 64 bits, or at 32 bits sign-extended under .w (R98). -/
def atWidth (w : Bool) (f : (n : Nat) → BitVec n → BitVec n → BitVec n) (x y : W64) : W64 :=
  if w then (f 32 (x.setWidth 32) (y.setWidth 32)).signExtend 64 else f 64 x y

/-- The conditions on which a .chk form faults OVF, at width n (R96). -/
def aluOverflows : List ((Hdr → Alu → Instr) × ((n : Nat) → BitVec n → BitVec n → Prop)) :=
  [(.add, fun _ x y => (x + y).toInt ≠ x.toInt + y.toInt), (.sub, fun _ x y => (x - y).toInt ≠ x.toInt - y.toInt),
   (.mul, fun _ x y => (x * y).toInt ≠ x.toInt * y.toInt),
   (.div, fun n x y => y = 0 ∨ (x = BitVec.intMin n ∧ y.toInt = -1)), (.divn, fun _ _ y => y = 0),
   (.rem, fun _ _ y => y = 0), (.remn, fun _ _ y => y = 0),
   (.shl, fun n x y => (x <<< (y.toNat % n)).toInt ≠ x.toInt * 2 ^ (y.toNat % n))]

/-- The conditions of R85 on 64-bit values. -/
def Cond.holds (c : Cond) (a b : W64) : Prop :=
  match c with
  | .eq => a = b | .ne => a ≠ b | .lt => a.toInt < b.toInt | .le => a.toInt ≤ b.toInt | .gt => b.toInt < a.toInt
  | .ge => b.toInt ≤ a.toInt | .ltn => a.toNat < b.toNat | .len => a.toNat ≤ b.toNat | .gtn => b.toNat < a.toNat
  | .gen => b.toNat ≤ a.toNat

/-- What a unary bit operation on the low n bits of x gives: r, below 2^n (R101, R102). -/
def clzIs (n : Nat) (x : W64) (r : Nat) : Prop :=
  r ≤ n ∧ (∀ i < r, x.getLsbD (n - 1 - i) = false) ∧ (r < n → x.getLsbD (n - 1 - r) = true)
def ctzIs (n : Nat) (x : W64) (r : Nat) : Prop :=
  r ≤ n ∧ (∀ i < r, x.getLsbD i = false) ∧ (r < n → x.getLsbD r = true)
def popcIs (n : Nat) (x : W64) (r : Nat) : Prop := r = ((List.range n).filter fun i => x.getLsbD i).length
def brevIs (n : Nat) (x : W64) (r : Nat) : Prop := r < 2 ^ n ∧ ∀ i < n, r.testBit i = x.getLsbD (n - 1 - i)
def bswapIs (n : Nat) (x : W64) (r : Nat) : Prop :=
  r < 2 ^ n ∧ ∀ j < n / 8, ∀ k < 8, r.testBit (8 * j + k) = x.getLsbD (8 * (n / 8 - 1 - j) + k)
def bitMeanings : List ((Hdr → BitU → Instr) × (Nat → W64 → Nat → Prop)) :=
  [(.clz, clzIs), (.ctz, ctzIs), (.popc, popcIs), (.brev, brevIs), (.bswap, bswapIs)]

/-- Signed and unsigned reading of an element of width w. -/
def sgn (w x : Nat) : Int := (BitVec.ofNat w x).toInt
/-- An integer brought into w bits. -/
def wrapTo (w : Nat) (x : Int) : Nat := (x % 2 ^ w).toNat
/-- An element of an integer type as the type reads it (R124). -/
def asInt (t : ElemType) (x : Nat) : Int := if t.inS then sgn t.width x else x
def clampTo (t : ElemType) (x : Int) : Int :=
  if t.inS then Max.max (-(2 ^ (t.width - 1))) (Min.min x (2 ^ (t.width - 1) - 1)) else Max.max 0 (Min.min x (2 ^ t.width - 1))

/-- Integer results of the element-wise instructions on integer types, elements x and y (R124 to R127). -/
def vecInts : List ((Hdr → VBin → Instr) × (ElemType → Nat → Nat → Int)) :=
  [(.vadd, fun t x y => asInt t x + asInt t y), (.vsub, fun t x y => asInt t x - asInt t y),
   (.vmul, fun t x y => asInt t x * asInt t y), (.vmin, fun t x y => Min.min (asInt t x) (asInt t y)),
   (.vmax, fun t x y => Max.max (asInt t x) (asInt t y)),
   (.vmulh, fun t x y => asInt t x * asInt t y / 2 ^ t.width),
   (.vadds, fun t x y => clampTo t (asInt t x + asInt t y)), (.vsubs, fun t x y => clampTo t (asInt t x - asInt t y)),
   (.vshl, fun t x y => if y < t.width then x * 2 ^ y else 0), (.vshr, fun t x y => if y < t.width then x / 2 ^ y else 0),
   (.vsha, fun t x y => if y < t.width then sgn t.width x / 2 ^ y else if sgn t.width x < 0 then -1 else 0)]
/-- Bitwise results, on every element type. -/
def vecBits : List ((Hdr → VBin → Instr) × (Nat → Nat → Nat)) :=
  [(.vand, fun x y => x &&& y), (.vor, fun x y => x ||| y), (.vxor, fun x y => x ^^^ y), (.vandn, fun x y => x ^^^ (x &&& y))]
/-- Floating results with their flags, by the arithmetic of R37 to R48 on the type. -/
def vecFloats : List ((Hdr → VBin → Instr) × (ElemType → FMode → Nat → Nat → Nat × Nat)) :=
  [(.vadd, floatBin addF), (.vsub, floatBin subF), (.vmul, floatBin mulF), (.vdiv, floatBin divF),
   (.vmin, floatBin fun f md => minmaxF f md.fz false), (.vmax, floatBin fun f md => minmaxF f md.fz true)]
def vecFused : List ((Hdr → VTri → Instr) × (ElemType → FMode → Nat → Nat → Nat → Nat × Nat)) :=
  [(.vfma, floatTri false false), (.vfms, floatTri false true), (.vfnma, floatTri true false)]
def vecUnary : List ((Hdr → VUn → Instr) × (ElemType → FMode → Nat → Nat × Nat)) :=
  [(.vsqrt, floatUn sqrtF), (.vrcp, floatUn rcpF), (.vrsq, floatUn rsqF),
   (.vabs, floatUn fun f _ => absF f), (.vneg, floatUn fun f _ => negF f)]

/-- The number that a pattern of a format stands for; none for an infinity or a NaN (R40, R41). -/
noncomputable def numOf (f : Fmt) (x : Nat) : Option ℝ :=
  let fr := x % 2 ^ f.mb
  let ex := x / 2 ^ f.mb % 2 ^ f.eb
  let m : ℝ := if ex = 0 then fr else 2 ^ f.mb + fr
  let z : ℝ := m * 2 ^ ((Max.max 1 ex : ℤ) - (2 ^ (f.eb - 1) - 1) - f.mb)
  if ex = 2 ^ f.eb - 1 ∧ (f.inf = true ∨ fr = 2 ^ f.mb - 1) then none
  else some (if x.testBit (f.mb + f.eb) then -z else z)
/-- A pattern is a NaN (R41). -/
def nanPat (f : Fmt) (x : Nat) : Prop :=
  x / 2 ^ f.mb % 2 ^ f.eb = 2 ^ f.eb - 1 ∧ if f.inf then x % 2 ^ f.mb ≠ 0 else x % 2 ^ f.mb = 2 ^ f.mb - 1
/-- The pattern r, which stands for q, is the number z rounded by rm within the numbers of the format: to the nearest, a tie to the even
pattern; toward zero; up; down (R45). -/
def RoundsTo (f : Fmt) (rm : Nat) (z q : ℝ) (r : Nat) : Prop :=
  ∀ y p, numOf f y = some p →
    match rm with
    | 0 => |q - z| ≤ |p - z| ∧ (p ≠ q → |p - z| = |q - z| → r % 2 = 0)
    | 1 => |q| ≤ |z| ∧ 0 ≤ q * z ∧ (|p| ≤ |z| → 0 ≤ p * z → |p| ≤ |q|)
    | 2 => z ≤ q ∧ (z ≤ p → q ≤ p)
    | _ => q ≤ z ∧ (p ≤ z → p ≤ q)
/-- The sign bit of a pattern, an infinity, and a signalling NaN (R41). -/
abbrev negPat (f : Fmt) (x : Nat) : Bool := x.testBit (f.mb + f.eb)
def infPat (f : Fmt) (x : Nat) : Prop := f.inf = true ∧ x / 2 ^ f.mb % 2 ^ f.eb = 2 ^ f.eb - 1 ∧ x % 2 ^ f.mb = 0
def signallingPat (f : Fmt) (x : Nat) : Prop := f.inf = true ∧ nanPat f x ∧ x / 2 ^ (f.mb - 1) % 2 = 0
/-- The largest number of a format, and the step above it (R40). -/
noncomputable def maxOf (f : Fmt) : ℝ := if f.inf then (2 - 2 ^ (-f.mb : ℤ)) * 2 ^ (2 ^ (f.eb - 1) - 1) else 448
noncomputable def topStep (f : Fmt) : ℝ := if f.inf then 2 ^ ((2 ^ (f.eb - 1) - 1 : ℤ) - f.mb) else 32
/-- A number that rounds by rm to one beyond every number of the format (R45, R49). -/
def Overflows (f : Fmt) (rm : Nat) (z : ℝ) : Prop :=
  match rm with
  | 0 => if f.inf then maxOf f + topStep f / 2 ≤ |z| else maxOf f + topStep f / 2 < |z|
  | 1 => maxOf f + topStep f ≤ |z|
  | 2 => maxOf f < z ∨ z ≤ -(maxOf f + topStep f)
  | _ => z < -maxOf f ∨ maxOf f + topStep f ≤ z
/-- A number that, rounded by rm to the format's fraction bits with no bound on the exponent, lies below every normal number (R46). -/
def Tiny (f : Fmt) (rm : Nat) (z : ℝ) : Prop :=
  let u : ℝ := 2 ^ (1 - (2 ^ (f.eb - 1) - 1) : ℤ)
  let h : ℝ := 2 ^ (-(2 ^ (f.eb - 1) - 1) - f.mb : ℤ)
  match rm with
  | 0 => |z| < u - h / 2
  | 1 => |z| < u
  | 2 => -u < z ∧ z ≤ u - h
  | _ => -u + h ≤ z ∧ z < u
/-- A result and its flags are the number z rounded by rm. On overflow an infinity or the largest number by rm (always the largest where
sat holds, R49), with OF and NX; else the rounded number, with NX just where it is not exact and UF where it is tiny as well (R45, R46).
A result of a number other than 0 has its sign. -/
def Delivers (f : Fmt) (rm : Nat) (sat : Bool) (z : ℝ) (r : Nat × Nat) : Prop :=
  (Overflows f rm z → r.2 = OF ||| NX ∧
    if sat = false ∧ (rm = 0 ∨ (rm = 2 ∧ 0 < z) ∨ (rm = 3 ∧ z < 0)) then infPat f r.1
    else numOf f r.1 = some (if z < 0 then -maxOf f else maxOf f)) ∧
  (¬ Overflows f rm z → ∃ q, numOf f r.1 = some q ∧ RoundsTo f rm z q r.1 ∧ r.2 < 4 ∧ (r.2.testBit 0 ↔ q ≠ z) ∧
    (r.2.testBit 1 ↔ q ≠ z ∧ Tiny f rm z)) ∧
  (z ≠ 0 → (negPat f r.1 = true ↔ z < 0))
/-- The sign of a sum that is 0, of terms with signs p and q (IEEE 754 under R126). -/
def zeroSign (rm : Nat) (p q : Bool) : Bool := if p = q then p else rm == 3
/-- R42: a signalling NaN operand or an invalid operation gives the default NaN with NV, another NaN operand the default NaN alone; with
neither the result is no NaN and NV stays down. -/
def NanRule (f : Fmt) (signalling nan invalid : Prop) (r : Nat × Nat) : Prop :=
  (signalling ∨ invalid → r = (nanF f, NV)) ∧ (nan → ¬ signalling → ¬ invalid → r = (nanF f, 0)) ∧
  (¬ nan → ¬ invalid → ¬ nanPat f r.1 ∧ r.2 < 16)
/-- R47: an operand read under FZ, and a result delivered under FZ. -/
def fzIn (f : Fmt) (x : Nat) : Nat := if x / 2 ^ f.mb % 2 ^ f.eb = 0 then signF f (negPat f x) else x
def fzOut (f : Fmt) (r : Nat × Nat) : Nat × Nat :=
  if r.1 / 2 ^ f.mb % 2 ^ f.eb = 0 ∧ r.1 % 2 ^ f.mb ≠ 0 then (signF f (negPat f r.1), UF ||| NX) else r
/-- An element of any integer type as R37 and R38 read it, and a number brought into the type's range. -/
def intVal (t : ElemType) (x : Nat) : Int :=
  match t with
  | .t2 => if x = 2 then 0 else sgn 2 x
  | .s4 => sgn 4 x
  | t => asInt t x
def intClamp (t : ElemType) (x : Int) : Int :=
  match t with
  | .t2 => Max.max (-1) (Min.min x 1)
  | .s4 => Max.max (-8) (Min.min x 7)
  | t => clampTo t x
/-- The conditions of R85 on numbers, and on integer elements of width w (R128). -/
def numCond (c : Cond) (x y : ℝ) : Prop :=
  match c with
  | .eq => x = y | .ne => x ≠ y | .lt | .ltn => x < y | .le | .len => x ≤ y | .gt | .gtn => y < x | .ge | .gen => y ≤ x
def elemCond (c : Cond) (w x y : Nat) : Prop :=
  match c with
  | .ltn | .len | .gtn | .gen => numCond c x y
  | _ => numCond c ((BitVec.ofNat w x).toInt) ((BitVec.ofNat w y).toInt)
/-- A number rounded to an integer by rm (R45). -/
noncomputable def roundInt (rm : Nat) (z : ℝ) : ℤ :=
  match rm with
  | 0 => if z - ⌊z⌋ < 1 / 2 ∨ (z - ⌊z⌋ = 1 / 2 ∧ ⌊z⌋ % 2 = 0) then ⌊z⌋ else ⌊z⌋ + 1
  | 1 => if z < 0 then ⌈z⌉ else ⌊z⌋
  | 2 => ⌈z⌉
  | _ => ⌊z⌋

/-- An element-wise result: active elements hold f, the others what they held (R12, R123). -/
def EachElem (w : Nat) (g : PWord) (old new : VWord) (f : Nat → Nat) : Prop :=
  ∀ i < 1024 / w, elem w new i = if active g w i then f i % 2 ^ w else elem w old i

/-- A vector result: the context retires with v[d] element by element, and flags fl raised, nothing else changed. -/
def VecRetired (s t : State) (w : Nat) (g : PWord) (d : VReg) (f : Nat → Nat × Nat) : Prop :=
  ∃ x : VWord, ∃ fl : Nat, EachElem w g (getV (me s).regs d) x (fun i => (f i).1) ∧
    (∀ b, fl.testBit b ↔ ∃ i < 1024 / w, active g w i ∧ (f i).2.testBit b) ∧
    SameElsewhere s t ∧
    me t = { me s with
      regs := { putV (me s).regs d x with fpcsr := (me s).regs.fpcsr ||| BitVec.ofNat 64 (fl * 16) }
      raised := (me s).raised ||| BitVec.ofNat 64 (fl * 16)
      pc := nextSlot s, turn := .issued, stage := .open, sub := 0 }

/-- A relative target: the slot disp slots on, in linear slot order (R63, R115). -/
def relTarget (s : State) (disp : BitVec 50) : Int := linOf (thisSlot s) + disp.toInt

end Sys2Proof.Machine

namespace Sys2Proof.Machine

/-! ## Terms of the memory statements -/

/-- The state in which a run has sealed, and the state in which a run has begun at the instruction itself. -/
def sealOf (s : State) : State := sealRun s s.cur.1 s.cur.2
def runFromSeal (s : State) : State := runAtAccess (sealOf s)

/-- The acting context left the rotation to wait for the replies of the packets fs, which it sent; its registers, and every
byte of memory, are as before (R149). -/
structure Awaits (s t : State) (fs : List Flight) (fin : Done) (run : RunEnd) : Prop where
  mode : (me t).mode = .awaiting
  pc : (me t).pc = nextSlot s
  await : ∃ a, (me t).await = some a ∧ a.left = fs.length ∧ a.fin = fin ∧ a.run = run ∧ a.slot = thisSlot s
  regs : (me t).regs = (me s).regs
  net : t.net = s.net ++ fs
  mem : t.mem = s.mem
  croftMem : ∀ n, (tenAt t n).mem = (tenAt s n).mem
  crofts : ∀ c, c ≠ s.cur.1 → croftAt t c = croftAt s c
  cur : t.cur = s.cur

/-- An n-byte access at address a of a space reaches own croft memory at off, inside it, and meets no poison. -/
structure OwnAt (s : State) (sp : Space) (a n off : Nat) : Prop where
  place : placeOf sp a = some (.own off)
  inside : off + n ≤ 0x10000
  clean : poisonIn (fun b => cmMark s (myTen s) b) off n = none
  /-- no store of the context to its own tenant by the remote forms is on its way to these bytes (R147, R151) -/
  fresh : forward s (myTen s + 1) off n = none

/-- The acting context retired, its registers as before, and of memory only bytes and earmarks of its own croft memory, at the
offsets named, changed: p says which bytes hold which value, marked which blocks hold which earmark. -/
structure OwnStored (s t : State) (p : Nat → Option Byte) (marked : Nat → Option Mark) : Prop where
  ctx : me t = me (retire s)
  bytes : ∀ a, sread 0 (tenAt t (myTen s)).mem a = (p a).getD (sread 0 (tenAt s (myTen s)).mem a)
  marks : ∀ a, cmMark t (myTen s) a = (marked a).getD (cmMark s (myTen s) a)
  rest : { tenAt t (myTen s) with mem := [], marks := [] } = { tenAt s (myTen s) with mem := [], marks := [] }
  tenants : ∀ n, n ≠ myTen s → tenAt t n = tenAt s n
  others : { t with crofts := s.crofts, tenants := s.tenants } = s

/-- Byte b of a little-endian value (R36). -/
def byteOf (x b : Nat) : Byte := BitVec.ofNat 8 (x / 256 ^ b)
/-- The bytes [off, off + n) hold x, and no other byte is named. -/
def bytesAt (off n x : Nat) (a : Nat) : Option Byte := if off ≤ a ∧ a < off + n then some (byteOf x (a - off)) else none
/-- Every 64-byte block that [off, off + n) touches takes the earmark m, if there is one. -/
def marksAt (off n : Nat) (m : Option Mark) (a : Nat) : Option Mark :=
  if off / 64 ≤ a / 64 ∧ a / 64 ≤ (off + n - 1) / 64 then m else none

/-- Addresses of the elements of the vector forms (R158, R161). -/
def ldvAddr (s : State) (a : Addr) (w i : Nat) : Nat := (ea s a + BitVec.ofNat 64 (i * (w / 8))).toNat
def strideAddr (s : State) (a : Addr) (i : Nat) : Nat :=
  (rdG s a.base + a.disp.signExtend 64 + BitVec.ofNat 64 i * (rdG s a.index <<< a.xs.val)).toNat
def gatherAddr (s : State) (o : GsO) (w i : Nat) : Nat :=
  (rdG s o.base + (BitVec.ofInt 64 (sgn w (elem w (rdV s o.x) i)) <<< o.xs.val) + o.disp.signExtend 64).toNat
/-- The bytes of a vector store to own croft memory: those of the highest active element that covers the byte. -/
def VecBytes (s : State) (h : Hdr) (w : Nat) (d : VReg) (off : Nat → Nat) (p : Nat → Option Byte) : Prop :=
  ∀ a, (p a = none ∧ ∀ i < 1024 / w, active (guardBits h s) w i = true → ¬ (off i ≤ a ∧ a < off i + w / 8)) ∨
    (∃ i < 1024 / w, active (guardBits h s) w i = true ∧ off i ≤ a ∧ a < off i + w / 8 ∧
      p a = some (byteOf (elem w (rdV s d) i) (a - off i)) ∧
      ∀ j < 1024 / w, i < j → active (guardBits h s) w j = true → ¬ (off j ≤ a ∧ a < off j + w / 8))
/-- No store of the context to its own tenant by the remote forms is on its way (R151). -/
abbrev NoneBehind (s : State) : Prop := ∀ q ∈ (me s).posted, q.space ≠ myTen s + 1

/-- An n-byte access at p passes its checks, and neither a posted store of the context nor the L1 serves a byte of it; p is no place of
own croft memory (R148, R149, R151, R378). -/
def Unserved (s : State) (na debug : Bool) (p : Place) (n : Nat) : Prop :=
  match p with
  | .own _ => False
  | .virt va => rangeOk (winsOf s) Window.r va n = true ∧ forward s 0 va n = none ∧
      (na = true ∨ ∀ l ∈ pieces 32 va n, l1Find s s.cur.1 (tagOf (resOf s l.1).glob (resOf s l.1).asid) (l.1 / 32) = none)
  | .rem t off => off + n ≤ 0x10000 ∧ inSet s (mySetId s) t = true ∧ forward s (t + 1) off n = none
  | .dbg t off => debug = true ∧ (me s).priv = true ∧ off + n ≤ 0x4000 ∧ inSet s (mySetId s) t = true ∧
      forward s (t + 1 + 2 ^ 24) off n = none
/-- The requests of such a load to byte pos of its result: one for each aligned 16-byte unit, the first of each 32-byte line of device
memory bringing the line into the L1 unless the form says .na (R149, R152, R245). -/
def loadRequests (s : State) (na : Bool) (p : Place) (n pos : Nat) : List Flight :=
  let croft (t off : Nat) (op : Nat → Nat → Nat → CroftOp) : List Flight := (pieces 16 off n).map fun q =>
    ⟨[2, (meAgent s).ten, (meAgent s).name, t], .croft t (tenAt s t).epoch (meAgent s) (op q.1 q.2 (pos + (q.1 - off))) none
      (.reply (pos + (q.1 - off))) false, none⟩
  match p with
  | .own _ => []
  | .virt va => (pieces 32 va n).flatMap fun l => (pieces 16 l.1 l.2).map fun q =>
      ⟨[], .home ⟨meAgent s, .load, resOf s q.1, q.1, .load q.2 (!na && q.1 == l.1), none, .reply (pos + (q.1 - va))⟩, none⟩
  | .rem t off => croft t off fun a k i => .load [(a, k, i)]
  | .dbg t off => croft t off fun a k _ => .debugLoad a k
/-- n bytes of own croft memory at off that a load reads as v: those of the context's newest store to its own tenant by a remote form
that covers them, else of memory; such a store that overlaps them without covering them; and the poisoned block they touch (R53, R147,
R149, R151). -/
def OwnReads (s : State) (n off v : Nat) : Prop :=
  (forward s (myTen s + 1) off n = none ∧ poisonIn (fun b => cmMark s (myTen s) b) off n = none ∧ v = cmGet s (myTen s) off n) ∨
  (v < 2 ^ (8 * n) ∧ forward s (myTen s + 1) off n = some (some v))
def OwnBlocked (s : State) (n off : Nat) : Prop := forward s (myTen s + 1) off n = some none
def OwnPoison (s : State) (n off b : Nat) : Prop :=
  forward s (myTen s + 1) off n = none ∧ poisonIn (fun b => cmMark s (myTen s) b) off n = some b
/-- A load form reads n bytes of own croft memory at off j for each of its elements: it finishes with what it reads, waits in the rotation
where an element is blocked, and faults UE at the block of a poisoned one. -/
def OwnLoad (s : State) (i : Instr) (n : Nat) (els : List Nat) (off : Nat → Nat) (done : (Nat → Nat) → State → Prop) : Prop :=
  (∀ v, (∀ j ∈ els, OwnReads s n (off j) (v j)) → ∃ t, exec i s = .next t ∧ done v t) ∧
  ((∀ j ∈ els, OwnBlocked s n (off j) ∨ ∃ v, OwnReads s n (off j) v) → (∃ j ∈ els, OwnBlocked s n (off j)) →
    exec i s = .next (waitTurn s)) ∧
  (∀ pre j post b, els = pre ++ j :: post → (∀ k ∈ pre ++ post, ∃ v, OwnReads s n (off k) v) → OwnPoison s n (off j) b →
    exec i s = .next (raiseOp cUE 0 (0x01FFFF0000000000 + b) s))
/-- The active elements of a vector form, ascending, and those of their bytes in a result. -/
def activeEls (h : Hdr) (w : Nat) (s : State) : List Nat := (List.range (1024 / w)).filter (active (guardBits h s) w)
def MaskIs (mask : VWord) (w : Nat) (is : List Nat) : Prop := ∀ i < 1024, mask.getLsbD i = decide (i / w ∈ is)

/-- The class a store of the context to a place is counted in (R13, R150): 1 within its field, 2 beyond, 0 for own croft memory. -/
def storeClass (s : State) (p : Place) : Nat :=
  let toField (f : Nat) : Nat := if fieldOf s.cur.1 = f then 1 else 2
  match p with
  | .own _ => 0
  | .virt va => toField ((resOf s va).bank / 64)
  | .rem t _ => toField (fieldOf (tenAt s t).core)
  | .dbg t _ => toField (fieldOf (tenAt s t).core)
/-- The packet of one 64-byte block of a posted store, in its order on the way to its home or croft (R150 to R152). -/
def storeFlight (s : State) (id : Nat) (p : Piece) : Flight :=
  let who := meAgent s
  let k := storeClass s p.at_
  let us := if p.runs = [] then [(p.at_.pos, [])] else unitsOf p.runs
  match p.at_ with
  | .virt va => ⟨homeKey who (resOf s va), .home ⟨who, .store, resOf s va, va, .store us p.mark, p.bin, .cls k id⟩, none⟩
  | .rem t _ => ⟨[2, who.ten, who.name, t], .croft t (tenAt s t).epoch who (.store us p.mark) p.bin (.cls k id) false, none⟩
  | .dbg t off =>
      ⟨[2, who.ten, who.name, t], .croft t (tenAt s t).epoch who (.debugStore off (p.runs.flatMap Prod.snd)) none (.cls k id) false, none⟩
  | .own _ => ⟨[], .ack who 0 id, none⟩
/-- The posted stores of a class that a list of stores makes. -/
def storesIn (s : State) (k : Nat) (ps : List (List Piece)) : Nat :=
  (ps.filter fun p => p.any fun q => storeClass s q.at_ == k).length
/-- The acting context posted the stores ps and retired: their packets are on their way, each store is counted once in every class it
has a packet of and kept for forwarding, and no byte of memory has changed (R14, R150, R151). -/
structure PostedStores (s t : State) (ps : List (List Piece)) : Prop where
  regs : (me t).regs = (me s).regs
  pc : (me t).pc = nextSlot s
  mode : (me t).mode = (me s).mode
  counts : ∀ k ∈ [1, 2, 3], countOf k (me t) = countOf k (me s) + storesIn s k ps
  stores : ∃ id : Nat → Nat, (∀ i, s.now < id i) ∧ (∀ i j, i < j → id i < id j) ∧
    t.net = s.net ++ ps.zipIdx.flatMap (fun e => e.1.map (storeFlight s (id e.2))) ∧
    (me t).posted.map (fun q => (q.id, q.runs, q.mark, q.left)) = (me s).posted.map (fun q => (q.id, q.runs, q.mark, q.left)) ++
      ps.zipIdx.map fun e => (id e.2, e.1.flatMap Piece.runs, (e.1.head?.bind Piece.mark), e.1.map fun q => storeClass s q.at_)
  mem : t.mem = s.mem
  banks : t.banks = s.banks
  croftMem : ∀ n, (tenAt t n).mem = (tenAt s n).mem ∧ (tenAt t n).marks = (tenAt s n).marks
/-- The bytes at a place as the pieces of a store: one for each 64-byte block (R150). -/
def blockPieces (p : Place) (bs : List Byte) (m : Option Mark) : List Piece := blocksOf p bs m
/-- A store form completes: its stores are posted where none raises a count above 255, and it waits in the rotation otherwise. None of
them has gone before. -/
def PostsOrWaits (s : State) (i : Instr) (ps : List (List Piece)) : Prop :=
  (me s).sub = 0 →
  ((∀ k ∈ [1, 2, 3], countOf k (me s) + storesIn s k ps ≤ 255) → ∃ t, exec i s = .next t ∧ PostedStores s t ps) ∧
  ((∃ k ∈ [1, 2, 3], 255 < countOf k (me s) + storesIn s k ps) → exec i s = .next (waitTurn s))
/-- A store of n bytes passes its checks, and is none to own croft memory (R148, R378). -/
def Storable (s : State) (debug : Bool) (p : Place) (n : Nat) : Prop :=
  match p with
  | .own _ => False
  | .virt va => rangeOk (winsOf s) Window.w va n = true
  | .rem t off => off + n ≤ 0x10000 ∧ inSet s (mySetId s) t = true
  | .dbg t off => debug = true ∧ (me s).priv = true ∧ off + n ≤ 0x4000 ∧ inSet s (mySetId s) t = true

/-- An n-byte access at address a fails a check of R148 or R378, with address x in its report; `virt` says whether the form reaches
device memory, `debug` whether it reaches debug windows. -/
def Denied (s : State) (right : Window → Bool) (debug virt : Bool) (sp : Space) (a n x : Nat) : Prop :=
  match placeOf sp a with
  | none => x = a
  | some p => x = p.addr ∧ match p with
    | .own off => 0x10000 < off + n
    | .virt va => virt = false ∨ rangeOk (winsOf s) right va n = false
    | .rem t off => 0x10000 < off + n ∨ inSet s (mySetId s) t = false
    | .dbg t off => debug = false ∨ 0x4000 < off + n ∨ inSet s (mySetId s) t = false
/-- The lowest element that a vector form is denied, those below it admitted (R30). -/
def FirstDenied (s : State) (right : Window → Bool) (sp : Space) (n : Nat) (els : List Nat) (addr : Nat → Nat) (x : Nat) : Prop :=
  ∃ pre i post, els = pre ++ i :: post ∧ (∀ j ∈ pre, ∀ y, ¬ Denied s right false true sp (addr j) n y) ∧
    Denied s right false true sp (addr i) n x
/-- An atomic's address is no admitted address of device memory; and the lowest element of an atomic that is misaligned or so denied,
with its code (R30, R147, R176). -/
def AtomDenied (s : State) (a n x : Nat) : Prop :=
  match placeOf .virt a with
  | none => x = a
  | some (.virt va) => x = va ∧ rangeOk (winsOf s) Window.rw va n = false
  | some p => x = p.addr
def AtomFaults (s : State) (n : Nat) (els : List Nat) (addr : Nat → Nat) (code x : Nat) : Prop :=
  ∃ pre i post, els = pre ++ i :: post ∧ (∀ j ∈ pre, addr j % n = 0 ∧ ∀ y, ¬ AtomDenied s (addr j) n y) ∧
    if addr i % n = 0 then code = cPERM ∧ AtomDenied s (addr i) n x else code = cALIGN ∧ x = addr i

/-- The blocks a marked vector store touches. -/
def VecMarks (s : State) (h : Hdr) (w : Nat) (off : Nat → Nat) (m : Option Mark) (q : Nat → Option Mark) : Prop :=
  ∀ a, q a = if (∃ i < 1024 / w, active (guardBits h s) w i = true ∧ off i / 64 ≤ a / 64 ∧
    a / 64 ≤ (off i + w / 8 - 1) / 64) then m else none

end Sys2Proof.Machine

namespace Sys2Proof.Machine

/-! ## Terms of the run and event statements -/

/-- The acting context ended its run and began the next one at the next slot with registers r (R221, R223). -/
structure NextRun (s t : State) (r : Regs) : Prop where
  mode : (me t).mode = (me s).mode
  regs : (me t).regs = r
  shadow : (me t).shadow = r
  pc : (me t).pc = nextSlot s
  start : (me t).runStart = nextSlot s
  runseq : (me t).runseq = (me s).runseq + 1
  mem : t.mem = s.mem
  cur : t.cur = s.cur

/-- The acting context parked with a wake condition, its run sealed, its registers and all memory as before (R223, R229). -/
structure Parks (s t : State) (kind : Wake) (param count : Nat) : Prop where
  mode : (me t).mode = .parked
  regs : (me t).regs = (me s).regs
  pc : (me t).pc = nextSlot s
  park : ∃ p, (me t).park = some p ∧ p.kind = kind ∧ p.param = param ∧ p.count = count ∧ p.served = false
  mem : t.mem = s.mem
  cur : t.cur = s.cur

/-- A line, by its tag and number, is one that a SHOOT of a range of a space drops (R349). -/
def inShoot (asid : Nat) (r : Nat × Nat) (tag la : Nat) : Prop := (tag = asid ∨ tag = 0xFFFF) ∧ r.1 ≤ la * 64 ∧ la * 64 < r.2
/-- Nothing is under way that a SHOOT of a range of a set waits for, writes back or reports (R348, R349). -/
structure ShootClear (s : State) (b : Nat) (r : Nat × Nat) : Prop where
  alone : (setAtId s b).shoots = []
  walks : ∀ e ∈ s.chans, ∀ w ∈ e.2.walks, w.asid ≠ (setAtId s b).asid
  fills : ∀ f ∈ s.net, ∀ k c tag la pa g ro asid bad, f.msg = .fill k c tag la pa g ro asid bad →
    asid ≠ (setAtId s b).asid ∧ ¬ inShoot (setAtId s b).asid r tag la
  clean : ∀ e ∈ s.banks, ∀ l ∈ e.2.lines, inShoot (setAtId s b).asid r l.asid l.la → l.dirty = false
  parked : ∀ e ∈ s.tenants, ∀ x ∈ e.2.slots, ∀ p, x.2.evicted = some p → p.kind ≠ .resident
/-- A SHOOT of a range of a set has completed: the next generation, its lines and its translations gone (R349). -/
structure ShotDown (s t : State) (b : Nat) (r : Nat × Nat) : Prop where
  gen : (setAtId t b).gen = (setAtId s b).gen + 1
  ended : (setAtId t b).shoots = []
  lines : ∀ e ∈ t.banks, ∀ l ∈ e.2.lines, ¬ inShoot (setAtId s b).asid r l.asid l.la
  tlb : ∀ e ∈ t.chans, ∀ x ∈ e.2.tlb, ¬ (x.asid = (setAtId s b).asid ∧ r.1 ≤ x.vp * 4096 ∧ x.vp * 4096 < r.2)

/-- Nothing of memory, of any croft memory or of any packet changed. -/
structure MemKept (s t : State) : Prop where
  mem : t.mem = s.mem
  marks : t.marks = s.marks
  croftMem : ∀ n, (tenAt t n).mem = (tenAt s n).mem

/-- The n-th packet in flight may arrive, and is m. -/
abbrev Arrives (s : State) (n : Nat) (m : Msg) : Prop := deliverable s n = some m
/-- A packet for a croft, which met no error on a link, may arrive: its tenant is placed and settled. -/
structure ArrivesAt (s : State) (n t e : Nat) (who : Agent) (op : CroftOp) (bin : Option Target) (ack : AckTo) : Prop where
  packet : deliverable s n = some (.croft t e who op bin ack false)
  placed : (s.tenants.any fun x => x.1 == t) = true
  settled : (tenAt s t).move = .settled

end Sys2Proof.Machine

namespace Sys2Proof.Machine

/-- The line buffers of the mills, and those after line x has passed through the buffer that g names (R285). -/
def millLines (s : State) (g : Nat) : LineWord := (chanAt s g).mill.line
def passing (g : Option Nat) (x : LineWord) (ls : Nat → LineWord) (k : Nat) : LineWord := if g = some k then x else ls k
/-- A line step of the acting mill: the line at pa holds x and the earmark m, but its own where that is poisoned; every
other line holds what it held; the mills' line buffers hold ls; the mill goes on to the next micro-address, and no other mill
moves (R284 to R286). -/
structure LineStep (s t : State) (pa : Nat) (x : LineWord) (m : Mark) (ls : Nat → LineWord) : Prop where
  line : physLine t pa = (x, if poisoned (physLine s pa).2 then (physLine s pa).2 else m)
  others : ∀ q, linePa q ≠ linePa pa → physLine t q = physLine s q
  mill : millAt t = { millAt s with upc := ((millAt s).upc + 1) % 256, line := ls s.unit }
  mills : ∀ g, g ≠ s.unit → (chanAt t g).mill = { (chanAt s g).mill with line := ls g }
/-- A step of the acting mill that waits: no line and no register of a mill has changed, and w says whether it waits in a fault bay. -/
structure StepWaits (s t : State) (w : Bool) : Prop where
  lines : ∀ q, physLine t q = physLine s q
  mill : millAt t = { millAt s with wait := w }

/-- Banks are listed once, and hold one line of an address space and line address. -/
def BanksTidy (s : State) : Prop :=
  srising none s.banks = true ∧ ∀ e ∈ s.banks, e.2.lines.Pairwise fun x y => ¬ (x.asid = y.asid ∧ x.la = y.la)

/-- A queue whose packet at the issue point may issue and is its whole stream so far: the ring-level packet of one item,
numbered by seq, with nothing issued and not complete before it (R313). -/
structure AtHead (s : State) (p : Packet) (i : Instr) (next : Nat) (int : Bool) : Prop where
  active : (queueAt s s.unit).state = 2
  free : (queueAt s s.unit).preempt = false ∧ (queueAt s s.unit).disable = false ∧ (queueAt s s.unit).replay = []
  items : ∃ c, (queueAt s s.unit).items = [.pkt i c, .close next int]
  place : (queueAt s s.unit).ip = 0 ∧ (queueAt s s.unit).iter = none ∧ (queueAt s s.unit).skip = none
  before : (queueAt s s.unit).outs = [] ∧ (queueAt s s.unit).closed = []

/-- The ring-level packet retired: HEAD past it, RSEQ one more, its interrupt where it carries bit 31 and IEN is set, and the
queue idle or active by R305 (R314). -/
structure QRetired (s t : State) (next : Nat) (int : Bool) : Prop where
  head : (queueAt t s.unit).head = next
  rseq : (queueAt t s.unit).rseq = (queueAt s s.unit).rseq + 1
  seq : (queueAt t s.unit).seq = (queueAt s s.unit).seq + 1
  none_ : (queueAt t s.unit).items = [] ∧ (queueAt t s.unit).outs = [] ∧ (queueAt t s.unit).closed = []
  state : (queueAt t s.unit).state = if next = (queueAt s s.unit).tail then 1 else 2
  rest : { t with queues := s.queues, out := s.out } = s
  irq : t.out = if int && (queueAt s s.unit).ien then
    (raiseVec s (queueAt s s.unit).func (queueAt s s.unit).vec).out else s.out

/-- The ring-level packet issued and is owed: HEAD stays, and it waits under its number (R310, R314). -/
structure QOwed (s t : State) (next : Nat) (int : Bool) (o : Owed) (st : Nat) : Prop where
  head : (queueAt t s.unit).head = (queueAt s s.unit).head
  rseq : (queueAt t s.unit).rseq = (queueAt s s.unit).rseq
  seq : (queueAt t s.unit).seq = (queueAt s s.unit).seq + 1
  outs : (queueAt t s.unit).outs = [((queueAt s s.unit).seq, o)]
  closed : (queueAt t s.unit).closed = [((queueAt s s.unit).seq, next, int)]
  state : (queueAt t s.unit).state = st
  out : t.out = s.out
  mem : t.mem = s.mem

/-- Lomwen core k of the acting unit went on: its registers are x, nothing else changed but what f says. -/
def LomPassed (s t : State) (f : Lomwen → Lomwen) : Prop :=
  t = updLom s s.unit fun k => { f k with pc := k.pc + 4 }

/-- The acting Lomwen core trapped: mepc, mcause, mstatus, and its pc at the handler (model's choice, log 49). -/
def LomTrapped (s t : State) (cause : Nat) : Prop :=
  lomAt t s.unit = { lomAt s s.unit with
    mepc := (lomAt s s.unit).pc, mcause := BitVec.ofNat 64 cause, mstatus := trapStatus (lomAt s s.unit).mstatus,
    pc := (lomAt s s.unit).mtvec &&& ~~~3 } ∧
  { t with lomwens := s.lomwens } = s

end Sys2Proof.Machine

namespace Sys2Proof.Machine

/-- The place of a context event: its croft and context, and the context there. -/
abbrev evCtx (s : State) : Context := ctxAt s (argN s 0) (argN s 1)
/-- The first packet the event names left the network, and what follows joined it. -/
def netNext (s : State) (fs : List Flight) : List Flight := dropAt s.net (argN s 0) ++ fs
/-- The reply, sent from place src of the meadow or from none, that carries n bytes of value v in place pos, read from block blk; the
answer that reads no block; and an acknowledgement. -/
def replyFlight (src : Option Nat) (who : Agent) (pos n v blk : Nat) : Flight :=
  ⟨[], .reply who ⟨pos, n, v, none, none, none, false, false, blk⟩, src⟩
def answerFlight (src : Option Nat) (who : Agent) (n v : Nat) : Flight := replyFlight src who 0 n v 0
def ackFlight (src : Option Nat) (who : Agent) (cls id : Nat) : Flight := ⟨[], .ack who cls id, src⟩
/-- Nothing of the croft memories and memory but what is said changed. -/
abbrev ByteOf (s : State) (t off : Nat) : Byte := sread 0 (tenAt s t).mem off
/-- The hire an event names. -/
abbrev evHire (s : State) : Option Hire := hireAt s (argN s 0)

end Sys2Proof.Machine

open Sys2Proof Sys2Proof.Machine

/-! ## Scalar instructions -/

/-- R97, R98: every binary row of op 0x10 without .chk gives the result of its row, at its width, in g[d] (writes to g0 are
discarded), and the context passes to the next slot with nothing else changed. -/
def Obligations.AluResults : Prop :=
  ∀ p ∈ aluMeanings, ∀ (h : Hdr) (o : Alu) (s : State), wf (p.1 h o) = true → o.chk = false →
    Issues h ([.g o.d, .g o.a] ++ srcRn o.b) s →
    ∃ t, exec (p.1 h o) s = .next t ∧ Retired s t (putG (me s).regs o.d (atWidth o.w p.2 (rdG s o.a) (rdSrc s o.b)))

/-- R96, R98: a .chk form whose result overflows freezes the context with OVF and writes nothing; one that does not gives the
result of the form without .chk. The packet's zero aux and address are the model's choice (log 32). -/
def Obligations.AluOverflowFaults : Prop :=
  ∀ p ∈ aluOverflows, ∀ (h : Hdr) (o : Alu) (s : State), Issues h ([.g o.d, .g o.a] ++ srcRn o.b) s →
    let ovf := if o.w then p.2 32 ((rdG s o.a).setWidth 32) ((rdSrc s o.b).setWidth 32) else p.2 64 (rdG s o.a) (rdSrc s o.b)
    (ovf → exec (p.1 h { o with chk := true }) s = .next (raiseOp cOVF 0 0 s) ∧
      Froze s (raiseOp cOVF 0 0 s) .operandFault (baseSlot s)) ∧
    (¬ ovf → exec (p.1 h { o with chk := true }) s = exec (p.1 h { o with chk := false }) s)

/-- R96: ABS gives the absolute value, wrapping at the most negative number, where ABS.chk faults OVF. The packet's zero aux
and address are the model's choice (log 32). -/
def Obligations.AbsResults : Prop :=
  ∀ (h : Hdr) (o : AluU) (s : State), Issues h [.g o.d, .g o.a] s →
    let x := rdG s o.a
    let ovf := if o.w then x.setWidth 32 = BitVec.intMin 32 else x = BitVec.intMin 64
    (o.chk = false ∨ ¬ ovf → ∃ t, exec (.abs h o) s = .next t ∧
      Retired s t (putG (me s).regs o.d (atWidth o.w (fun _ x _ => if x.toInt < 0 then -x else x) x 0))) ∧
    (o.chk = true ∧ ovf → exec (.abs h o) s = .next (raiseOp cOVF 0 0 s))

/-- R85, R99, R100: CMPP sets all 128 bits of p[d] where the condition holds and clears them where it does not; SETC writes 1
or 0 to g[d]. -/
def Obligations.CompareResults : Prop :=
  (∀ (h : Hdr) (o : CmpP) (s : State), Issues h (.g o.a :: srcRn o.b) s →
    ∃ t p, exec (.cmpp h o) s = .next t ∧ Retired s t (putP (me s).regs o.d p) ∧
      (Cond.holds o.c (rdG s o.a) (rdSrc s o.b) → p = BitVec.allOnes 128) ∧
      (¬ Cond.holds o.c (rdG s o.a) (rdSrc s o.b) → p = 0)) ∧
  (∀ (h : Hdr) (o : CmpG) (s : State), Issues h ([.g o.d, .g o.a] ++ srcRn o.b) s →
    ∃ t x, exec (.setc h o) s = .next t ∧ Retired s t (putG (me s).regs o.d x) ∧
      (Cond.holds o.c (rdG s o.a) (rdSrc s o.b) → x = 1) ∧ (¬ Cond.holds o.c (rdG s o.a) (rdSrc s o.b) → x = 0))

/-- R101, R102: CLZ, CTZ, POPC, BREV and BSWAP of the low 64 or 32 bits; under .w the result is sign-extended from bit 31. -/
def Obligations.BitOperationResults : Prop :=
  ∀ p ∈ bitMeanings, ∀ (h : Hdr) (o : BitU) (s : State), Issues h [.g o.d, .g o.a] s →
    ∃ t r, exec (p.1 h o) s = .next t ∧ p.2 (if o.w then 32 else 64) (rdG s o.a) r ∧
      Retired s t (putG (me s).regs o.d (if o.w then (BitVec.ofNat 32 r).signExtend 64 else BitVec.ofNat 64 r))

/-- R103 to R105: a field of at most 64 − pos bits is extracted (BFX sign-extends it, and an empty field gives 0) or inserted
(the other bits of g[c] stay); SEL chooses by bit 0 of p[c]. -/
def Obligations.FieldAndSelectResults : Prop :=
  (∀ (h : Hdr) (d a : GReg) (b : Src) (s : State), Issues h ([.g d, .g a] ++ srcRn b) s →
    let pos := (rdSrc s b).toNat % 64
    let len := Nat.min ((rdSrc s b).toNat / 256 % 128) (64 - pos)
    (∃ t x, exec (.bfx h d a b) s = .next t ∧ Retired s t (putG (me s).regs d x) ∧
      ∀ i < 64, x.getLsbD i = if i < len then (rdG s a).getLsbD (pos + i) else len != 0 && (rdG s a).getLsbD (pos + len - 1)) ∧
    (∃ t x, exec (.bfxn h d a b) s = .next t ∧ Retired s t (putG (me s).regs d x) ∧
      ∀ i < 64, x.getLsbD i = (i < len && (rdG s a).getLsbD (pos + i)))) ∧
  (∀ (h : Hdr) (d a : GReg) (b : Src) (c : GReg) (s : State), Issues h ([.g d, .g a, .g c] ++ srcRn b) s →
    let pos := (rdSrc s b).toNat % 64
    let len := Nat.min ((rdSrc s b).toNat / 256 % 128) (64 - pos)
    ∃ t x, exec (.bfi h d a b c) s = .next t ∧ Retired s t (putG (me s).regs d x) ∧
      ∀ i < 64, x.getLsbD i = if pos ≤ i ∧ i < pos + len then (rdG s a).getLsbD (i - pos) else (rdG s c).getLsbD i) ∧
  (∀ (h : Hdr) (d a : GReg) (b : Src) (c : PReg) (s : State), Issues h ([.g d, .g a] ++ srcRn b) s →
    ∃ t, exec (.sel h d a b c) s = .next t ∧
      Retired s t (putG (me s).regs d (if (rdP s c).getLsbD 0 then rdG s a else rdSrc s b)))

/-- R106 to R108, R111 to R113: the moves between register classes and LEA. -/
def Obligations.MoveResults : Prop :=
  (∀ (h : Hdr) (d a : GReg) (s : State), Issues h [.g d, .g a] s →
    ∃ t, exec (.mov h d a) s = .next t ∧ Retired s t (putG (me s).regs d (rdG s a))) ∧
  (∀ (h : Hdr) (d : GReg) (i : W32) (s : State), Issues h [.g d] s →
    (∃ t, exec (.li h d i) s = .next t ∧ Retired s t (putG (me s).regs d (i.signExtend 64))) ∧
    (∃ t x, exec (.lih h d i) s = .next t ∧ Retired s t (putG (me s).regs d x) ∧
      x.toNat / 2 ^ 32 = i.toNat ∧ x.toNat % 2 ^ 32 = (rdG s d).toNat % 2 ^ 32)) ∧
  (∀ (h : Hdr) (d : GReg) (a : BReg) (s : State), Issues h [.g d] s →
    ∃ t, exec (.mfb h d a) s = .next t ∧ Retired s t (putG (me s).regs d ((rdB s a).setWidth 64))) ∧
  (∀ (h : Hdr) (d : BReg) (b : Src) (s : State), Issues h (srcRn b) s →
    ∃ t, exec (.mtb h d b) s = .next t ∧ Retired s t (putB (me s).regs d ((rdSrc s b).setWidth 32))) ∧
  (∀ (h : Hdr) (hi : Bool) (d : GReg) (a : PReg) (s : State), Issues h [.g d] s →
    ∃ t x, exec (.mfp h hi d a) s = .next t ∧ Retired s t (putG (me s).regs d x) ∧
      ∀ i < 64, x.getLsbD i = (rdP s a).getLsbD (if hi then 64 + i else i)) ∧
  (∀ (h : Hdr) (hi : Bool) (d : PReg) (a : GReg) (s : State), Issues h [.g a] s →
    ∃ t p, exec (.mtp h hi d a) s = .next t ∧ Retired s t (putP (me s).regs d p) ∧
      ∀ i < 64, p.getLsbD (if hi then 64 + i else i) = (rdG s a).getLsbD i ∧
        p.getLsbD (if hi then i else 64 + i) = (getP (me s).regs d).getLsbD (if hi then i else 64 + i)) ∧
  (∀ (h : Hdr) (d base index : GReg) (xs : Fin 4) (disp : BitVec 39) (s : State), Issues h [.g d, .g base, .g index] s →
    ∃ t, exec (.lea h d base index xs disp) s = .next t ∧
      Retired s t (putG (me s).regs d (BitVec.ofInt 64 ((rdG s base).toNat + (rdG s index).toNat * 2 ^ xs.val + disp.toInt))))

/-- R10, R15: a write of g0 or of p0 is discarded, they read as 0 and as all ones; any other write is what the register reads
afterwards, and no write of one register reaches another. -/
def Obligations.RegisterWrites : Prop :=
  (∀ (r : Regs) (i j : GReg) (x : W64), getG (putG r i x) j = (if i ≠ 0 ∧ j = i then x else getG r j) ∧ getG r 0 = 0 ∧
    putG r i x = { r with g := (putG r i x).g } ∧ putG r 0 x = r) ∧
  (∀ (r : Regs) (i j : PReg) (x : PWord), getP (putP r i x) j = (if i ≠ 0 ∧ j = i then x else getP r j) ∧
    getP r 0 = BitVec.allOnes 128 ∧ putP r i x = { r with p := (putP r i x).p } ∧ putP r 0 x = r) ∧
  (∀ (r : Regs) (i j : VReg) (x : VWord), getV (putV r i x) j = (if j = i then x else getV r j) ∧
    putV r i x = { r with v := (putV r i x).v }) ∧
  (∀ (r : Regs) (i j : BReg) (x : W32), getB (putB r i x) j = (if j = i then x else getB r j) ∧
    putB r i x = { r with b := (putB r i x).b })

/-- R17 to R20, R24, R27, R109: MFS gives each special register its field of the state, reserved bits reading zero; a register that does
not exist faults ILL and a privileged one PRIV in an unprivileged context. The package number 0 of ctx is the model's choice (log 3). -/
def Obligations.SpecialRegisterReads : Prop :=
  ∀ (h : Hdr) (d : GReg) (n : Fin 32) (s : State), Issues h [.g d] s →
    let ten := tenAt s (myTen s)
    let win := sread ⟨0, 0, 0, 0, []⟩ (mySet s).windows (me s).pwin
    let is (k : Nat) (x : W64) : Prop :=
      n.val = k → ∃ t, exec (.mfs h d n) s = .next t ∧ Retired s t (putG (me s).regs d x)
    is 0x01 (BitVec.ofNat 64 (myTen s + ten.paddock * 2 ^ 24)) ∧
    is 0x02 (((me s).budget &&& 0x3F7F).setWidth 64) ∧
    is 0x03 ((src s).fpcsr &&& 0x11F3) ∧ is 0x04 (myCroft s).cyc ∧ is 0x05 0x10201010 ∧ is 0x06 (BitVec.ofNat 64 (srcCount s 1 % 256)) ∧
    is 0x07 (BitVec.ofNat 64 (srcCount s 2 % 256)) ∧ is 0x08 (BitVec.ofNat 64 (srcCount s 3 % 256)) ∧ is 0x09 (srcRunseq s) ∧
    ((me s).grp = none → srcCount s 1 = (me s).o1 ∧ srcCount s 2 = (me s).o2 ∧ srcCount s 3 = (me s).o3 ∧
      srcRunseq s = (me s).runseq) ∧
    is 0x00 (BitVec.ofNat 64 (s.cur.2 + s.cur.1 * 2 ^ 4 + (me s).priv.toNat * 2 ^ 26 + (me s).name * 2 ^ 27)) ∧
    ((me s).priv = true → (me s).grp = none → is 0x0A ten.hcap ∧ is 0x0B (BitVec.ofNat 64 (me s).pwin) ∧ is 0x10 win.d0 ∧
      is 0x11 win.d1 ∧ is 0x12 win.d2 ∧ is 0x13 win.d3 ∧ is 0x14 (mySet s).svroute) ∧
    ((me s).priv = true → 0x15 ≤ n.val → exec (.mfs h d n) s = .next (raiseDec cILL s)) ∧
    (0x0C ≤ n.val ∧ n.val < 0x10 → exec (.mfs h d n) s = .next (raiseDec cILL s)) ∧
    ((me s).priv = false → n.val = 0x0A ∨ n.val = 0x0B ∨ 0x10 ≤ n.val → exec (.mfs h d n) s = .next (raiseDec cPRIV s))

/-- R17, R18, R110: an MTS that is not in a pair writes the bits a special register has and no others of the state; fpcsr in any context,
the others in a privileged one; a write of a read-only register, or of one that does not exist, is ILL, and an access that only
privileged contexts have is PRIV in the others. -/
def Obligations.SpecialRegisterWrites : Prop :=
  ∀ (h : Hdr) (n : Fin 32) (a : GReg) (s : State), Issues h [.g a] s → (me s).grp = none →
    (n.val = 3 → ∃ t, exec (.mts h n a) s = .next t ∧
      Retired s t { (me s).regs with fpcsr := rdG s a &&& 0x11F3 }) ∧
    (n.val < 0x0A ∧ n.val ≠ 3 ∨ 0x0C ≤ n.val ∧ n.val < 0x10 ∨ (me s).priv = true ∧ 0x15 ≤ n.val →
      exec (.mts h n a) s = .next (raiseDec cILL s)) ∧
    ((me s).priv = false → n.val = 0x0A ∨ n.val = 0x0B ∨ 0x10 ≤ n.val → exec (.mts h n a) s = .next (raiseDec cPRIV s)) ∧
    ((me s).priv = true →
      (n.val = 0x0A → ∃ t, exec (.mts h n a) s = .next t ∧ me t = me (retire s) ∧
        tenAt t (myTen s) = { tenAt s (myTen s) with hcap := rdG s a &&& 0xFFFF } ∧
        (∀ u, u ≠ myTen s → tenAt t u = tenAt s u) ∧ SameElsewhere s { t with tenants := s.tenants }) ∧
      (n.val = 0x0B → ∃ t, exec (.mts h n a) s = .next t ∧ me t = { me (retire s) with pwin := (rdG s a).toNat % 64 } ∧
        SameElsewhere s t) ∧
      (n.val = 0x14 → ∃ t, exec (.mts h n a) s = .next t ∧ me t = me (retire s) ∧
        setAtId t (mySetId s) = { mySet s with svroute := rdG s a &&& 0x9FFFFFFF } ∧
        (∀ b, b ≠ mySetId s → setAtId t b = setAtId s b) ∧ SameElsewhere s { t with sets := s.sets }) ∧
      (0x10 ≤ n.val ∧ n.val < 0x14 → ∃ t, exec (.mts h n a) s = .next t ∧ me t = me (retire s) ∧
        let w := sread ⟨0, 0, 0, 0, []⟩ (mySet s).windows (me s).pwin
        let w' := sread ⟨0, 0, 0, 0, []⟩ (setAtId t (mySetId s)).windows (me s).pwin
        w'.d0 = (if n.val = 0x10 then rdG s a &&& 0x01FFFFFFFFFFF03F else w.d0) ∧
        w'.d1 = (if n.val = 0x11 then rdG s a &&& 0x01FFFFFFFFFFF000 else w.d1) ∧
        w'.d2 = (if n.val = 0x12 then rdG s a &&& 0x00001FFF00FF1FF3 else w.d2) ∧
        w'.d3 = (if n.val = 0x13 then rdG s a &&& 0x000000FFFFFFFFFF else w.d3) ∧
        (∀ i, i ≠ (me s).pwin → sread Window.void (setAtId t (mySetId s)).windows i =
          sread Window.void (mySet s).windows i) ∧
        { setAtId t (mySetId s) with windows := [], stale := [] } = { mySet s with windows := [], stale := [] } ∧
        (∀ b, b ≠ mySetId s → setAtId t b = setAtId s b) ∧ SameElsewhere s { t with sets := s.sets }))

/-- R95, R114 to R119: a taken transfer passes to its target's slot address and owes a TGT check there; one not taken retires;
CALL and JMPL link the next slot; LOOP decrements. -/
def Obligations.TransfersTaken : Prop :=
  (∀ (h : Hdr) (disp : BitVec 50) (s : State), Issues h [] s →
    0 ≤ relTarget s disp → relTarget s disp < 5 * 2 ^ 58 →
    ∃ t, exec (.br h disp) s = .next t ∧ Passed s t (me s).regs (slotAddr (relTarget s disp).toNat) (some 0)) ∧
  (∀ (h : Hdr) (c : Cond) (a : GReg) (disp : BitVec 50) (s : State), Issues h [.g a] s →
    (Cond.holds c (rdG s a) 0 → 0 ≤ relTarget s disp → relTarget s disp < 5 * 2 ^ 58 →
      ∃ t, exec (.bc h c a disp) s = .next t ∧ Passed s t (me s).regs (slotAddr (relTarget s disp).toNat) (some 1)) ∧
    (¬ Cond.holds c (rdG s a) 0 → ∃ t, exec (.bc h c a disp) s = .next t ∧ Retired s t (me s).regs)) ∧
  (∀ (h : Hdr) (o : JCond) (s : State), Issues h [.g o.a, .g o.b] s →
    (Cond.holds o.c (rdG s o.a) (rdG s o.b) → 0 ≤ relTarget s o.disp → relTarget s o.disp < 5 * 2 ^ 58 →
      ∃ t, exec (.bcmp h o) s = .next t ∧ Passed s t (me s).regs (slotAddr (relTarget s o.disp).toNat) (some 2)) ∧
    (¬ Cond.holds o.c (rdG s o.a) (rdG s o.b) → ∃ t, exec (.bcmp h o) s = .next t ∧ Retired s t (me s).regs)) ∧
  (∀ (h : Hdr) (a : GReg) (disp : BitVec 50) (s : State), Issues h [.g a] s →
    (rdG s a ≠ 1 → 0 ≤ relTarget s disp → relTarget s disp < 5 * 2 ^ 58 → ∃ t, exec (.loop h a disp) s = .next t ∧
      Passed s t (putG (me s).regs a (rdG s a - 1)) (slotAddr (relTarget s disp).toNat) (some 7)) ∧
    (rdG s a = 1 → ∃ t, exec (.loop h a disp) s = .next t ∧ Retired s t (putG (me s).regs a 0))) ∧
  (∀ (h : Hdr) (b : GReg) (disp : BitVec 50) (s : State), Issues h [.g b] s →
    0 ≤ relTarget s disp → relTarget s disp < 5 * 2 ^ 58 →
    ∃ t, exec (.call h b disp) s = .next t ∧
      Passed s t (putG (me s).regs b (BitVec.ofNat 64 (nextSlot s))) (slotAddr (relTarget s disp).toNat) (some 3)) ∧
  (∀ (h : Hdr) (a : GReg) (s : State), Issues h [.g a] s → slotOk (rdG s a).toNat = true →
    (∃ t, exec (.jmp h a) s = .next t ∧ Passed s t (me s).regs (rdG s a).toNat (some 4)) ∧
    (∃ t, exec (.ret h a) s = .next t ∧ Passed s t (me s).regs (rdG s a).toNat (some 6))) ∧
  (∀ (h : Hdr) (a b : GReg) (s : State), Issues h [.g a, .g b] s → slotOk (rdG s a).toNat = true →
    ∃ t, exec (.jmpl h a b) s = .next t ∧
      Passed s t (putG (me s).regs b (BitVec.ofNat 64 (nextSlot s))) (rdG s a).toNat (some 5))

/-- R115, R118, R119: a relative target outside the slots, and a register target that is no slot address, fault BTGT on the
transfer itself and write nothing. -/
def Obligations.TransferFaults : Prop :=
  (∀ (h : Hdr) (disp : BitVec 50) (s : State), Issues h [] s → relTarget s disp < 0 ∨ 5 * 2 ^ 58 ≤ relTarget s disp →
    exec (.br h disp) s = .next (raiseOp cBTGT 0 (disp.signExtend 64).toNat s)) ∧
  (∀ (h : Hdr) (c : Cond) (a : GReg) (disp : BitVec 50) (s : State), Issues h [.g a] s → Cond.holds c (rdG s a) 0 →
    relTarget s disp < 0 ∨ 5 * 2 ^ 58 ≤ relTarget s disp →
    exec (.bc h c a disp) s = .next (raiseOp cBTGT 1 (disp.signExtend 64).toNat s)) ∧
  (∀ (h : Hdr) (o : JCond) (s : State), Issues h [.g o.a, .g o.b] s → Cond.holds o.c (rdG s o.a) (rdG s o.b) →
    relTarget s o.disp < 0 ∨ 5 * 2 ^ 58 ≤ relTarget s o.disp →
    exec (.bcmp h o) s = .next (raiseOp cBTGT 2 (o.disp.signExtend 64).toNat s)) ∧
  (∀ (h : Hdr) (a : GReg) (disp : BitVec 50) (s : State), Issues h [.g a] s → rdG s a ≠ 1 →
    relTarget s disp < 0 ∨ 5 * 2 ^ 58 ≤ relTarget s disp →
    exec (.loop h a disp) s = .next (raiseOp cBTGT 7 (disp.signExtend 64).toNat s)) ∧
  (∀ (h : Hdr) (b : GReg) (disp : BitVec 50) (s : State), Issues h [.g b] s →
    relTarget s disp < 0 ∨ 5 * 2 ^ 58 ≤ relTarget s disp →
    exec (.call h b disp) s = .next (raiseOp cBTGT 3 (disp.signExtend 64).toNat s)) ∧
  (∀ (h : Hdr) (a b : GReg) (s : State), Issues h [.g a, .g b] s → slotOk (rdG s a).toNat = false →
    exec (.jmp h a) s = .next (raiseOp cBTGT 4 (rdG s a).toNat s) ∧
    exec (.jmpl h a b) s = .next (raiseOp cBTGT 5 (rdG s a).toNat s) ∧
    exec (.ret h a) s = .next (raiseOp cBTGT 6 (rdG s a).toNat s)) ∧
  (∀ (code aux addr : Nat) (s : State), Froze s (raiseOp code aux addr s) .operandFault (baseSlot s))

/-- What becomes of the packet r of an agent for set b (R374 to R376): two adjacent messages to the route of the set, where its channel
has room and no older packet of the agent waits; held by the hayward where there is no route. LOST in it counts the agent's packets for
that set of which none was sent since. own: the route names the tenant whose steward raised it. -/
def Sends (s t : State) (b who : Nat) (own : Nat → Prop) (r : Report) : Prop :=
  ∀ lost, sread ([], 0) s.reports who = ([], lost) →
    let r := withLost (withLost r lost) (sread 0 (setAtId s b).lost who)
    let told : Prop := sread ([], 0) t.reports who = ([], 0) ∧ sread 0 (setAtId t b).lost who = 0 ∧
      (∀ x, x ≠ b → setAtId t x = setAtId s x)
    (∀ d c, routeOf s b = some (d, c) → roomFor s b = some (d, c) → ¬ own d →
      olderHeld s b who = false →
      (chanOf (tenAt t d) c).q = (chanOf (tenAt s d) c).q ++ [(r.w0, r.w1), (r.w2, r.w3)] ∧
        (setAtId t b).held = (setAtId s b).held ∧ told) ∧
    (routeOf s b = none → (setAtId s b).held.length < Config.haywardPackets →
      (setAtId t b).held = (setAtId s b).held ++ [(who, r)] ∧ (∀ d, (tenAt t d).chans = (tenAt s d).chans) ∧ told)
/-- What becomes of the packet of a fault of the slot being issued. -/
def Reported (s t : State) (code aux addr : Nat) : Prop :=
  let b := (tenAt s (myTen s)).set
  Sends s t b (agCroft s.cur.1) (fun d => s.cur.2 = 0 ∧ d = myTen s)
      (mkReport code s.cur.2 s.cur.1 0 (myTen s) (thisSlot s) (me s).runseq aux addr) ∧
    (routeOf s b = none → t.tenants = s.tenants)

/-- R87, R216: NOP passes on; TRAP freezes its context with code TRAP and its operand in the packet, to go on at the next slot
when it is released; BRK does so where break-enable is set and retires otherwise. -/
def Obligations.NopTrapBreak : Prop :=
  (∀ s : State, ∃ t, exec .nop s = .next t ∧ Retired s t (me s).regs) ∧
  (∀ (h : Hdr) (code : W32) (s : State), Issues h [] s →
    (∃ t, exec (.trap h code) s = .next t ∧ Froze s t .issued (nextSlot s) ∧ Reported s t cTRAP code.toNat 0) ∧
    ((myCroft s).brken = true →
      ∃ t, exec (.brk h code) s = .next t ∧ Froze s t .issued (nextSlot s) ∧ Reported s t cTRAP code.toNat 0) ∧
    ((myCroft s).brken = false → ∃ t, exec (.brk h code) s = .next t ∧ Retired s t (me s).regs))

/-! ## Vector instructions -/

/-- R11, R12, R123 to R127: the integer element-wise instructions, on every integer type, and VAND, VOR, VXOR and VANDN on every element
type, under every predicate: an active element holds the result wrapped to its width, an inactive one what it held, no flag is raised,
and nothing else changes. -/
def Obligations.VectorIntegerResults : Prop :=
  (∀ p ∈ vecInts, ∀ (h : Hdr) (o : VBin) (s : State), wf (p.1 h o) = true → o.t.inI = true →
    VIssues h o.t.width (.v o.d :: .v o.a :: vsrcRn o.b) s →
    ∃ t, exec (p.1 h o) s = .next t ∧ VecRetired s t o.t.width (guardBits h s) o.d (fun i =>
      (wrapTo o.t.width (p.2 o.t (elem o.t.width (rdV s o.a) i) (vsrcElem s o.t o.b i)), 0))) ∧
  (∀ (h : Hdr) (o : VUn) (s : State), o.t.inS = true → VIssues h o.t.width [.v o.d, .v o.a] s →
    (∃ t, exec (.vabs h o) s = .next t ∧ VecRetired s t o.t.width (guardBits h s) o.d (fun i =>
      (wrapTo o.t.width |sgn o.t.width (elem o.t.width (rdV s o.a) i)|, 0))) ∧
    (∃ t, exec (.vneg h o) s = .next t ∧ VecRetired s t o.t.width (guardBits h s) o.d (fun i =>
      (wrapTo o.t.width (-(sgn o.t.width (elem o.t.width (rdV s o.a) i))), 0)))) ∧
  (∀ p ∈ vecBits, ∀ (h : Hdr) (o : VBin) (s : State), VIssues h o.t.width (.v o.d :: .v o.a :: vsrcRn o.b) s →
    ∃ t, exec (p.1 h o) s = .next t ∧ VecRetired s t o.t.width (guardBits h s) o.d (fun i =>
      (p.2 (elem o.t.width (rdV s o.a) i) (vsrcElem s o.t o.b i) % 2 ^ o.t.width, 0)))

/-- R40 to R49: what floating results are. Sums, differences, products, fused forms, quotients and roots are the exact real number rounded
once, with the overflow value, the flags and the sign that go with it; a zero has the sign of IEEE 754, a division of a number by zero is an
infinity with DZ. A NaN operand or an invalid operation gives the default NaN, NV as R42 has it; an infinite operand gives what IEEE 754
gives. VMIN and VMAX give a number where one of two is a NaN, and order -0 below +0; comparisons are of the numbers; one with a NaN is
false but for .ne. Under FZ a subnormal operand is its zero, and so is a subnormal result, with UF and NX. Conversions between floats and
from integers are rounded, to FP8 to the nearest number of the format, to integers rounded and then clamped. For VCVT between h and bf,
and from an e5 subnormal to h under FZ, R48 has no row: there this states the model's choice (log 68). -/
def Obligations.FloatingValues : Prop :=
  (∀ t ∈ [ElemType.d, .f, .bf, .h], ∀ rm < 4, ∀ a b c : Nat, ∀ x y z : ℝ,
    let f := fmtOf t
    let md : FMode := ⟨rm, false⟩
    numOf f a = some x → numOf f b = some y → numOf f c = some z →
    (∀ r v p q, (r, v, p, q) ∈ [(addF f md a b, x + y, negPat f a, negPat f b), (subF f md a b, x - y, negPat f a, !negPat f b),
        (fmaF f md false false a b c, x * y + z, negPat f a != negPat f b, negPat f c),
        (fmaF f md false true a b c, x * y - z, negPat f a != negPat f b, !negPat f c),
        (fmaF f md true false a b c, -(x * y) + z, negPat f a == negPat f b, negPat f c)] →
      Delivers f rm false v r ∧ (v = 0 → negPat f r.1 = zeroSign rm p q)) ∧
    Delivers f rm false (x * y) (mulF f md a b) ∧ (x * y = 0 → negPat f (mulF f md a b).1 = (negPat f a != negPat f b)) ∧
    (y ≠ 0 → Delivers f rm false (x / y) (divF f md a b) ∧ (x = 0 → negPat f (divF f md a b).1 = (negPat f a != negPat f b)) ∧
      Delivers f rm false (1 / y) (rcpF f md b)) ∧
    (y = 0 → (x ≠ 0 → divF f md a b = (infF f (negPat f a != negPat f b), DZ)) ∧ rcpF f md b = (infF f (negPat f b), DZ) ∧
      rsqF f md b = (infF f (negPat f b), DZ) ∧ sqrtF f md b = (signF f (negPat f b), 0)) ∧
    (0 ≤ x → Delivers f rm false (Real.sqrt x) (sqrtF f md a)) ∧ (0 < x → Delivers f rm false (1 / Real.sqrt x) (rsqF f md a)) ∧
    numOf f (minmaxF f false false a b).1 = some (Min.min x y) ∧ numOf f (minmaxF f false true a b).1 = some (Max.max x y) ∧
    (x = 0 → y = 0 → negPat f (minmaxF f false false a b).1 = (negPat f a || negPat f b) ∧
      negPat f (minmaxF f false true a b).1 = (negPat f a && negPat f b)) ∧
    numOf f (absF f a).1 = some |x| ∧ numOf f (negF f a).1 = some (-x) ∧ negPat f (negF f a).1 = !negPat f a ∧
    ∀ k : Cond, k.signed = true → ((condF f false k a b).1 = true ↔ numCond k x y)) ∧
  (∀ t ∈ [ElemType.d, .f, .bf, .h], ∀ rm < 4, ∀ a b c : Nat,
    let f := fmtOf t
    let md : FMode := ⟨rm, false⟩
    let sig := signallingPat f a ∨ signallingPat f b
    let nan := nanPat f a ∨ nanPat f b
    let zeroInf := (infPat f a ∧ numOf f b = some 0) ∨ (numOf f a = some 0 ∧ infPat f b)
    let root := negPat f a = true ∧ ¬ nanPat f a ∧ numOf f a ≠ some 0
    NanRule f sig nan (infPat f a ∧ infPat f b ∧ negPat f a ≠ negPat f b) (addF f md a b) ∧
    NanRule f sig nan (infPat f a ∧ infPat f b ∧ negPat f a = negPat f b) (subF f md a b) ∧
    NanRule f sig nan zeroInf (mulF f md a b) ∧
    NanRule f sig nan ((infPat f a ∧ infPat f b) ∨ (numOf f a = some 0 ∧ numOf f b = some 0)) (divF f md a b) ∧
    NanRule f (signallingPat f a) (nanPat f a) root (sqrtF f md a) ∧ NanRule f (signallingPat f a) (nanPat f a) root (rsqF f md a) ∧
    NanRule f (signallingPat f a) (nanPat f a) False (rcpF f md a) ∧
    NanRule f (signallingPat f a) (nanPat f a) False (absF f a) ∧ NanRule f (signallingPat f a) (nanPat f a) False (negF f a) ∧
    (∀ ng nc, (ng && nc) = false →
      let p := (negPat f a != negPat f b) != ng
      let big := (infPat f a ∨ infPat f b) ∧ ¬ nan ∧ ¬ zeroInf
      let bad := zeroInf ∨ (big ∧ infPat f c ∧ p ≠ (negPat f c != nc))
      NanRule f (sig ∨ signallingPat f c) (nan ∨ nanPat f c) bad (fmaF f md ng nc a b c) ∧
      (¬ nan → ¬ nanPat f c → ¬ bad → (big → fmaF f md ng nc a b c = (infF f p, 0)) ∧
        (¬ big → infPat f c → fmaF f md ng nc a b c = (infF f (negPat f c != nc), 0)))) ∧
    (infPat f a → ¬ nanPat f b →
      (¬ (infPat f b ∧ negPat f a ≠ negPat f b) → addF f md a b = (infF f (negPat f a), 0) ∧ addF f md b a = (infF f (negPat f a), 0)) ∧
      (¬ (infPat f b ∧ negPat f a = negPat f b) → subF f md a b = (infF f (negPat f a), 0) ∧ subF f md b a = (infF f (!negPat f a), 0)) ∧
      (numOf f b ≠ some 0 → mulF f md a b = (infF f (negPat f a != negPat f b), 0) ∧
        mulF f md b a = (infF f (negPat f a != negPat f b), 0)) ∧
      (¬ infPat f b → divF f md a b = (infF f (negPat f a != negPat f b), 0) ∧
        divF f md b a = (signF f (negPat f a != negPat f b), 0)) ∧
      rcpF f md a = (signF f (negPat f a), 0) ∧
      (negPat f a = false → sqrtF f md a = (infF f false, 0) ∧ rsqF f md a = (0, 0))) ∧
    (∀ mx, (sig → (minmaxF f false mx a b).2 = NV) ∧ (¬ sig → (minmaxF f false mx a b).2 = 0) ∧
      (nanPat f a → ¬ nanPat f b → (minmaxF f false mx a b).1 = b ∧ (minmaxF f false mx b a).1 = b) ∧
      (nanPat f a → nanPat f b → (minmaxF f false mx a b).1 = nanF f) ∧
      (infPat f a → ¬ nanPat f b → ¬ infPat f b → (minmaxF f false mx a b).1 = (if negPat f a = mx then b else a) ∧
        (minmaxF f false mx b a).1 = if negPat f a = mx then b else a) ∧
      (infPat f a → infPat f b → infPat f (minmaxF f false mx a b).1 ∧
        negPat f (minmaxF f false mx a b).1 = if mx then negPat f a && negPat f b else negPat f a || negPat f b)) ∧
    (∀ k : Cond, k.signed = true → (nan → ((condF f false k a b).1 = true ↔ k = .ne)) ∧
      (sig ∨ (nan ∧ k ≠ .eq ∧ k ≠ .ne) → (condF f false k a b).2 = NV) ∧
      (¬ (sig ∨ (nan ∧ k ≠ .eq ∧ k ≠ .ne)) → (condF f false k a b).2 = 0) ∧
      (infPat f a → ¬ nanPat f b → ¬ infPat f b →
        ((condF f false k a b).1 = true ↔ if negPat f a then k ∈ [.lt, .le, .ne] else k ∈ [.gt, .ge, .ne]) ∧
        ((condF f false k b a).1 = true ↔ if negPat f a then k ∈ [.gt, .ge, .ne] else k ∈ [.lt, .le, .ne])) ∧
      (infPat f a → infPat f b → ((condF f false k a b).1 = true ↔
        if negPat f a = negPat f b then k ∈ [.eq, .le, .ge] else if negPat f a then k ∈ [.lt, .le, .ne] else k ∈ [.gt, .ge, .ne])))) ∧
  (∀ t ∈ [ElemType.d, .f, .bf, .h], ∀ rm < 4, ∀ a b c : Nat,
    let f := fmtOf t
    (∀ op ∈ [addF f, subF f, mulF f, divF f], op ⟨rm, true⟩ a b = fzOut f (op ⟨rm, false⟩ (fzIn f a) (fzIn f b))) ∧
    (∀ op ∈ [sqrtF f, rcpF f, rsqF f], op ⟨rm, true⟩ a = fzOut f (op ⟨rm, false⟩ (fzIn f a))) ∧
    (∀ ng nc, fmaF f ⟨rm, true⟩ ng nc a b c = fzOut f (fmaF f ⟨rm, false⟩ ng nc (fzIn f a) (fzIn f b) (fzIn f c))) ∧
    (∀ mx, minmaxF f true mx a b = minmaxF f false mx (fzIn f a) (fzIn f b)) ∧
    (∀ k, condF f true k a b = condF f false k (fzIn f a) (fzIn f b)) ∧
    ∀ inf, (∀ u ∈ [ElemType.d, .f, .bf, .h], convert ⟨rm, true⟩ inf t u a = fzOut (fmtOf u) (convert ⟨rm, false⟩ inf t u (fzIn f a))) ∧
      ∀ u, u ∈ [ElemType.e4, .e5] ∨ Machine.ElemType.isInt u = true → convert ⟨rm, true⟩ inf t u a = convert ⟨rm, false⟩ inf t u (fzIn f a)) ∧
  (∀ s ∈ [ElemType.d, .f, .bf, .h, .e5, .e4], ∀ rm < 4, ∀ a : Nat,
    let cv (t : ElemType) := convert ⟨rm, false⟩ false s t a
    (s ∈ [ElemType.e5, .e4] → ∀ inf, (∀ t ∈ [ElemType.d, .f, .bf, .h], convert ⟨rm, true⟩ inf s t a = fzOut (fmtOf t) (convert ⟨rm, false⟩ inf s t a)) ∧
      ∀ t, t ∈ [ElemType.e4, .e5] ∨ Machine.ElemType.isInt t = true → convert ⟨rm, true⟩ inf s t a = convert ⟨rm, false⟩ inf s t a) ∧
    (∀ x : ℝ, numOf (fmtOf s) a = some x →
      (∀ t ∈ [ElemType.d, .f, .bf, .h], Delivers (fmtOf t) rm false x (cv t)) ∧
      (∀ t ∈ [ElemType.e4, .e5], Delivers (fmtOf t) 0 true x (cv t)) ∧ Delivers (fmtOf .e5) 0 false x (convert ⟨rm, false⟩ true s .e5 a) ∧
      (x = 0 → ∀ t ∈ [ElemType.d, .f, .bf, .h, .e5, .e4], cv t = (signF (fmtOf t) (negPat (fmtOf s) a), 0)) ∧
      (∀ t : ElemType, Machine.ElemType.isInt t = true → cv t = (wrapTo t.width (intClamp t (roundInt rm x)),
        if intClamp t (roundInt rm x) ≠ roundInt rm x then NV else if roundInt rm x = x then 0 else NX))) ∧
    (nanPat (fmtOf s) a → (∀ t : ElemType, Machine.ElemType.isInt t = true → cv t = (0, NV)) ∧
      ∀ t ∈ [ElemType.d, .f, .bf, .h, .e5, .e4], (signallingPat (fmtOf s) a → cv t = (nanF (fmtOf t), NV)) ∧
        (¬ signallingPat (fmtOf s) a → cv t = (nanF (fmtOf t), 0))) ∧
    (infPat (fmtOf s) a → let n := negPat (fmtOf s) a
      (∀ t : ElemType, Machine.ElemType.isInt t = true → cv t = (wrapTo t.width (intClamp t (if n then -(2 ^ 64) else 2 ^ 64)), NV)) ∧
      (∀ t ∈ [ElemType.d, .f, .bf, .h], cv t = (infF (fmtOf t) n, 0)) ∧ (∀ t ∈ [ElemType.e5, .e4], cv t = (maxF (fmtOf t) n, OF ||| NX)) ∧
      convert ⟨rm, false⟩ true s .e5 a = (infF (fmtOf .e5) n, 0))) ∧
  (∀ s : ElemType, Machine.ElemType.isInt s = true → ∀ rm < 4, ∀ fz, ∀ a < 2 ^ s.width,
    let cv (t : ElemType) := convert ⟨rm, fz⟩ false s t a
    (∀ t ∈ [ElemType.d, .f, .bf, .h], Delivers (fmtOf t) rm false (intVal s a) (cv t)) ∧
    (∀ t ∈ [ElemType.e5, .e4], Delivers (fmtOf t) 0 true (intVal s a) (cv t)) ∧
    Delivers (fmtOf .e5) 0 false (intVal s a) (convert ⟨rm, fz⟩ true s .e5 a) ∧
    (intVal s a = 0 → ∀ t ∈ [ElemType.d, .f, .bf, .h, .e5, .e4], cv t = (0, 0)) ∧
    ∀ t : ElemType, Machine.ElemType.isInt t = true → cv t = (wrapTo t.width (if s.width < t.width then intVal s a else intClamp t (intVal s a)), 0))

/-- R34, R123, R124: the floating element-wise instructions: an active element holds the operation's result, the flags of the
active elements alone are raised together, and an inactive element keeps its value. What numbers the operations give is stated in
FloatingValues. -/
def Obligations.VectorFloatingResults : Prop :=
  (∀ p ∈ vecFloats, ∀ (h : Hdr) (o : VBin) (s : State), o.t.inF = true →
    VIssues h o.t.width (.v o.d :: .v o.a :: vsrcRn o.b) s →
    ∃ t, exec (p.1 h o) s = .next t ∧ VecRetired s t o.t.width (guardBits h s) o.d (fun i =>
      p.2 o.t (fmode s) (elem o.t.width (rdV s o.a) i) (vsrcElem s o.t o.b i))) ∧
  (∀ p ∈ vecFused, ∀ (h : Hdr) (o : VTri) (s : State), o.t.inF = true →
    VIssues h o.t.width (.v o.d :: .v o.a :: .v o.c :: vsrcRn o.b) s →
    ∃ t, exec (p.1 h o) s = .next t ∧ VecRetired s t o.t.width (guardBits h s) o.d (fun i =>
      p.2 o.t (fmode s) (elem o.t.width (rdV s o.a) i) (vsrcElem s o.t o.b i) (elem o.t.width (rdV s o.c) i))) ∧
  (∀ p ∈ vecUnary, ∀ (h : Hdr) (o : VUn) (s : State), o.t.inF = true → VIssues h o.t.width [.v o.d, .v o.a] s →
    ∃ t, exec (p.1 h o) s = .next t ∧ VecRetired s t o.t.width (guardBits h s) o.d (fun i =>
      p.2 o.t (fmode s) (elem o.t.width (rdV s o.a) i)))

/-- R12, R128 to R132: VCMP writes the lanes of the active elements of p[d], raises the flags of those elements, and changes no other
register; VSEL chooses by p[c]; predicate logic acts bit by bit under the guard; VCNT counts and VFIRST finds the active elements that
p[a] marks. -/
def Obligations.VectorPredicateResults : Prop :=
  (∀ (h : Hdr) (o : VCmp) (s : State), wf (.vcmp h o) = true → VIssues h o.t.width (.v o.a :: vsrcRn o.b) s →
    let c (i : Nat) := vcond o.t (fmode s) o.c (elem o.t.width (rdV s o.a) i) (vsrcElem s o.t o.b i)
    (o.t.inI = true → ∀ x y, x < 2 ^ o.t.width → y < 2 ^ o.t.width →
      ((vcond o.t (fmode s) o.c x y).1 = true ↔ elemCond o.c o.t.width x y) ∧ (vcond o.t (fmode s) o.c x y).2 = 0) ∧
    ∃ t p fl, exec (.vcmp h o) s = .next t ∧ SameElsewhere s t ∧
      me t = { me s with
        regs := { putP (me s).regs o.d p with fpcsr := (me s).regs.fpcsr ||| BitVec.ofNat 64 (fl * 16) }
        raised := (me s).raised ||| BitVec.ofNat 64 (fl * 16)
        pc := nextSlot s, turn := .issued, stage := .open, sub := 0 } ∧
      (∀ b, fl.testBit b ↔ ∃ i < 1024 / o.t.width, active (guardBits h s) o.t.width i ∧ (c i).2.testBit b) ∧
      (∀ b < 128, p.getLsbD b =
        if active (guardBits h s) o.t.width (b / (o.t.width / 8)) then (c (b / (o.t.width / 8))).1
        else (getP (me s).regs o.d).getLsbD b)) ∧
  (∀ (h : Hdr) (o : VSelO) (s : State), VIssues h o.t.width ([.v o.d, .v o.a] ++ vsrcRn o.b) s →
    ∃ t x, exec (.vsel h o) s = .next t ∧ Retired s t (putV (me s).regs o.d x) ∧
      EachElem o.t.width (guardBits h s) (getV (me s).regs o.d) x (fun i =>
        if active (rdP s o.c) o.t.width i then elem o.t.width (rdV s o.a) i else vsrcElem s o.t o.b i)) ∧
  (∀ (h : Hdr) (o : PBin) (s : State), VIssues h 8 [] s →
    let is (i : Instr) (f : Bool → Bool → Bool) : Prop := ∃ t p, exec i s = .next t ∧ Retired s t (putP (me s).regs o.d p) ∧
      ∀ b < 128, p.getLsbD b = if (guardBits h s).getLsbD b then f ((rdP s o.a).getLsbD b) ((rdP s o.b).getLsbD b)
        else (getP (me s).regs o.d).getLsbD b
    is (.pand h o) (· && ·) ∧ is (.por h o) (· || ·) ∧ is (.pxor h o) (· != ·) ∧ is (.pnot h o.d o.a) fun x _ => !x) ∧
  (∀ (h : Hdr) (o : VCount) (s : State), VIssues h o.t.width [.g o.d] s →
    let on (i : Nat) : Prop := i < 1024 / o.t.width ∧ active (guardBits h s) o.t.width i ∧ active (rdP s o.a) o.t.width i
    (∃ t n, exec (.vcnt h o) s = .next t ∧ Retired s t (putG (me s).regs o.d (BitVec.ofNat 64 n)) ∧
      ∃ l : List Nat, l.length = n ∧ l.Nodup ∧ ∀ i, i ∈ l ↔ on i) ∧
    (∃ t n, exec (.vfirst h o) s = .next t ∧ Retired s t (putG (me s).regs o.d (BitVec.ofNat 64 n)) ∧
      ((on n ∧ ∀ i < n, ¬ on i) ∨ (n = 1024 / o.t.width ∧ ∀ i, ¬ on i))))

/-- R133 to R137: the permutes and moves, element by element; a source index outside the register gives 0; VEXT reads an element
whatever the guard. -/
def Obligations.PermuteResults : Prop :=
  (∀ (h : Hdr) (d a : VReg) (b : VSrc) (s : State), VIssues h 8 ([.v d, .v a] ++ vsrcRn b) s →
    ∃ t x, exec (.vpermb h d a b) s = .next t ∧ Retired s t (putV (me s).regs d x) ∧
      EachElem 8 (guardBits h s) (getV (me s).regs d) x (fun i =>
        if vsrcElem s .s8 b i < 128 then elem 8 (rdV s a) (vsrcElem s .s8 b i) else 0)) ∧
  (∀ (h : Hdr) (o : VPermO) (s : State), VIssues h o.t.width [.v o.d, .v o.a, .v o.b] s →
    let w := o.t.width
    let n := 1024 / w
    let gives (i : Instr) (f : Nat → Nat) : Prop := ∃ t x, exec i s = .next t ∧ Retired s t (putV (me s).regs o.d x) ∧
      EachElem w (guardBits h s) (getV (me s).regs o.d) x f
    let a := elem w (rdV s o.a)
    let b := elem w (rdV s o.b)
    gives (.vperm h o) (fun i => if b i < n then a (b i) else 0) ∧
    gives (.vshuf h 0 o) (fun i => if i % 2 = 0 then a (i / 2) else b (i / 2)) ∧
    gives (.vshuf h 1 o) (fun i => if i % 2 = 0 then a (n / 2 + i / 2) else b (n / 2 + i / 2)) ∧
    gives (.vshuf h 2 o) (fun i => if i < n / 2 then a (2 * i) else b (2 * i - n)) ∧
    gives (.vshuf h 3 o) (fun i => if i < n / 2 then a (2 * i + 1) else b (2 * i + 1 - n))) ∧
  (∀ (h : Hdr) (o : VPermO) (c : GReg) (s : State), VIssues h o.t.width [.v o.d, .v o.a, .v o.b, .g c] s →
    let n := 1024 / o.t.width
    ∃ t x, exec (.vslide h o c) s = .next t ∧ Retired s t (putV (me s).regs o.d x) ∧
      EachElem o.t.width (guardBits h s) (getV (me s).regs o.d) x (fun i =>
        let j := i + (rdG s c).toNat
        if j < n then elem o.t.width (rdV s o.a) j else if j < 2 * n then elem o.t.width (rdV s o.b) (j - n) else 0)) ∧
  (∀ (h : Hdr) (o : VFromG) (s : State), VIssues h o.t.width (.v o.d :: srcRn o.b) s →
    (∀ r, o.b = .reg r → ∃ t x, exec (.vbcast h o) s = .next t ∧ Retired s t (putV (me s).regs o.d x) ∧
      EachElem o.t.width (guardBits h s) (getV (me s).regs o.d) x (fun _ => (rdG s r).toNat % 2 ^ o.t.width)) ∧
    (∀ k, o.b = .imm k → ∃ t x, exec (.vbcast h o) s = .next t ∧ Retired s t (putV (me s).regs o.d x) ∧
      EachElem o.t.width (guardBits h s) (getV (me s).regs o.d) x (fun _ => immElem o.t k)) ∧
    (∃ t x, exec (.vidx h o) s = .next t ∧ Retired s t (putV (me s).regs o.d x) ∧
      EachElem o.t.width (guardBits h s) (getV (me s).regs o.d) x (fun i => ((rdSrc s o.b).toNat + i) % 2 ^ o.t.width))) ∧
  (∀ (h : Hdr) (o : VUn) (s : State), VIssues h o.t.width [.v o.d, .v o.a] s →
    ∃ t x, exec (.vmov h o) s = .next t ∧ Retired s t (putV (me s).regs o.d x) ∧
      EachElem o.t.width (guardBits h s) (getV (me s).regs o.d) x (elem o.t.width (rdV s o.a))) ∧
  (∀ (h : Hdr) (o : VExtO) (s : State), VIssues h o.t.width ([.g o.d, .v o.a] ++ srcRn o.b) s →
    ∃ t x, exec (.vext h o) s = .next t ∧ Retired s t (putG (me s).regs o.d x) ∧
      (1024 / o.t.width ≤ (rdSrc s o.b).toNat → x = 0) ∧
      ((rdSrc s o.b).toNat < 1024 / o.t.width →
        let e := elem o.t.width (rdV s o.a) (rdSrc s o.b).toNat
        x = if o.t = .t2 ∧ e = 2 then 0
          else if o.t.inS ∨ o.t = .s4 ∨ o.t = .t2 then BitVec.ofInt 64 (sgn o.t.width e) else BitVec.ofNat 64 e)) ∧
  (∀ (h : Hdr) (o : VInsO) (s : State), VIssues h o.t.width ([.v o.d, .g o.a] ++ srcRn o.b) s →
    ∃ t x, exec (.vins h o) s = .next t ∧ Retired s t (putV (me s).regs o.d x) ∧
      ∀ i < 1024 / o.t.width, elem o.t.width x i =
        if i = (rdSrc s o.b).toNat ∧ active (guardBits h s) o.t.width i then (rdG s o.a).toNat % 2 ^ o.t.width
        else elem o.t.width (getV (me s).regs o.d) i)

/-- One node of a reduction, by the type (R139): integers wrap and compare as the type reads them. -/
def nodeValue (op : RedOp) (t : ElemType) (md : FMode) (a b : Nat) : Nat × Nat :=
  if t.inI then
    (match op with
      | .add => wrapTo t.width (asInt t a + asInt t b) | .min => wrapTo t.width (Min.min (asInt t a) (asInt t b))
      | .max => wrapTo t.width (Max.max (asInt t a) (asInt t b)) | .and => a &&& b | .or => a ||| b | .xor => a ^^^ b, 0)
  else
    match op with
    | .min => floatBin (fun f md => minmaxF f md.fz false) t md a b
    | .max => floatBin (fun f md => minmaxF f md.fz true) t md a b
    | _ => floatBin addF t md a b
/-- What a reduction of nothing gives (R58, R139). -/
def nothingReduced (op : RedOp) (t : ElemType) : Nat :=
  match op with
  | .add | .or | .xor => 0
  | .and => 2 ^ t.width - 1
  | .min => if t.inS then 2 ^ (t.width - 1) - 1 else if t.inI then 2 ^ t.width - 1 else nanF (fmtOf t)
  | .max => if t.inS then 2 ^ (t.width - 1) else if t.inI then 0 else nanF (fmtOf t)
/-- Two values of which either may be absent: a lone one passes as it is. -/
def joinPresent (f : Nat → Nat → Nat × Nat) (a b : Option Nat × Nat) : Option Nat × Nat :=
  match a.1, b.1 with
  | some x, some y => (some (f x y).1, a.2 ||| b.2 ||| (f x y).2)
  | some x, none => (some x, a.2 ||| b.2)
  | none, y => (y, a.2 ||| b.2)
/-- Node i of level l of the tree of R58 over the values y, with the flags raised below it. -/
def treeValue (f : Nat → Nat → Nat × Nat) (y : Nat → Option Nat) : Nat → Nat → Option Nat × Nat
  | 0, i => (y i, 0)
  | l + 1, i => joinPresent f (treeValue f y l (2 * i)) (treeValue f y l (2 * i + 1))
/-- The present elements, floating ones read under FZ (R47, R139). -/
def presentAt (h : Hdr) (t : ElemType) (a : VReg) (c : PReg) (s : State) (i : Nat) : Option Nat :=
  let x := elem t.width (rdV s a) i
  if active (guardBits h s) t.width i && active (rdP s c) t.width i then
    some (if t.inI then x else flushF (fmtOf t) (fmode s).fz x)
  else none

/-- R58, R138 to R141: VRED writes the root of R58's tree over the present elements, or the value of an empty reduction, extended
by the type; VSCAN the running value at each active element; an integer sum is the sum whatever the tree; VDOT4 adds four
products. -/
def Obligations.ReductionResults : Prop :=
  (∀ (h : Hdr) (op : RedOp) (t : ElemType) (d : GReg) (a : VReg) (c : PReg) (s : State), wf (.vred h op t d a c) = true →
    VIssues h t.width [.g d, .v a] s →
    let r := treeValue (nodeValue op t (fmode s)) (presentAt h t a c s) (Nat.log2 (1024 / t.width)) 0
    let v := r.1.getD (nothingReduced op t)
    ∃ u, exec (.vred h op t d a c) s = .next u ∧ SameElsewhere s u ∧
      me u = { me s with
        regs := { putG (me s).regs d (if t.inS then BitVec.ofInt 64 (sgn t.width v) else BitVec.ofNat 64 v) with
          fpcsr := (me s).regs.fpcsr ||| BitVec.ofNat 64 (r.2 * 16) }
        raised := (me s).raised ||| BitVec.ofNat 64 (r.2 * 16)
        pc := nextSlot s, turn := .issued, stage := .open, sub := 0 }) ∧
  (∀ (h : Hdr) (t : ElemType) (a : VReg) (c : PReg) (s : State), t.inI = true →
    ((treeValue (nodeValue .add t (fmode s)) (presentAt h t a c s) (Nat.log2 (1024 / t.width)) 0).1.getD 0) % 2 ^ t.width =
      (((List.range (1024 / t.width)).filter fun i =>
        active (guardBits h s) t.width i && active (rdP s c) t.width i).map (elem t.width (rdV s a))).sum % 2 ^ t.width) ∧
  (∀ (h : Hdr) (op : RedOp) (t : ElemType) (d a : VReg) (c : PReg) (s : State), wf (.vscan h op t d a c) = true →
    VIssues h t.width [.v d, .v a] s →
    let run (n : Nat) := (List.range n).foldl (fun z i => joinPresent (nodeValue op t (fmode s)) z (presentAt h t a c s i, 0)) (none, 0)
    let fl := (run (1024 / t.width)).2
    ∃ u x, exec (.vscan h op t d a c) s = .next u ∧ SameElsewhere s u ∧
      EachElem t.width (guardBits h s) (getV (me s).regs d) x (fun i => (run (i + 1)).1.getD (nothingReduced op t)) ∧
      me u = { me s with
        regs := { putV (me s).regs d x with fpcsr := (me s).regs.fpcsr ||| BitVec.ofNat 64 (fl * 16) }
        raised := (me s).raised ||| BitVec.ofNat 64 (fl * 16)
        pc := nextSlot s, turn := .issued, stage := .open, sub := 0 }) ∧
  (∀ (h : Hdr) (uns su : Bool) (d a : VReg) (b : VSrc) (c : VReg) (s : State), VIssues h 32 ([.v d, .v a, .v c] ++ vsrcRn b) s →
    let f (u : Bool) (x : Nat) : Int := if u then x else sgn 8 x
    let y (i : Nat) : Nat := match b with | .reg r => elem 8 (rdV s r) i | .imm k => k.toNat % 256
    ∃ u x, exec (.vdot4 h uns su d a b c) s = .next u ∧ Retired s u (putV (me s).regs d x) ∧
      EachElem 32 (guardBits h s) (getV (me s).regs d) x (fun i => wrapTo 32 (sgn 32 (elem 32 (rdV s c) i)
        + f uns (elem 8 (rdV s a) (4 * i)) * f (uns || su) (y (4 * i))
        + f uns (elem 8 (rdV s a) (4 * i + 1)) * f (uns || su) (y (4 * i + 1))
        + f uns (elem 8 (rdV s a) (4 * i + 2)) * f (uns || su) (y (4 * i + 2))
        + f uns (elem 8 (rdV s a) (4 * i + 3)) * f (uns || su) (y (4 * i + 3)))))

/-- R54, R55, R142 to R146: VXACC.clr empties the accumulators, .add aligns and adds, .rd converts the first sixteen, and VCVT
converts element by element; flags of active elements alone. What numbers the conversions give is stated in FloatingValues. -/
def Obligations.AccumulatorAndConvertResults : Prop :=
  (∀ (h : Hdr) (d : VReg) (s : State), VIssues h 64 [.v d] s →
    ∃ t x, exec (.vxaccClr h d) s = .next t ∧ Retired s t (putV (me s).regs d x) ∧
      EachElem 64 (guardBits h s) (getV (me s).regs d) x (fun _ => 0x800000000000)) ∧
  (∀ (h : Hdr) (d a : VReg) (b : VSrc) (s : State), VIssues h 64 ([.v d, .v a] ++ vsrcRn b) s →
    ∃ t, exec (.vxaccAdd h d a b) s = .next t ∧ VecRetired s t 64 (guardBits h s) d (fun i =>
      let x := sgn 64 (elem 64 (rdV s a) i)
      let e := match b with | .reg r => sgn 16 (elem 64 (rdV s r) i) | .imm k => sgn 16 k.toNat
      (accPack (accAdd (accUnpack (elem 64 (rdV s d) i)) (Max.max (-(2 ^ 46 - 1)) (Min.min (2 ^ 46 - 1) x)) e),
       if |x| < 2 ^ 46 then 0 else NV))) ∧
  (∀ (h : Hdr) (ty : ElemType) (d a : VReg) (s : State), wf (.vxaccRd h ty d a) = true → VIssues h ty.width [.v d, .v a] s →
    ∃ t, exec (.vxaccRd h ty d a) s = .next t ∧ VecRetired s t ty.width (guardBits h s) d (fun i =>
      if i < 16 then accConvert ty (accUnpack (elem 64 (rdV s a) i)) else (elem ty.width (getV (me s).regs d) i, 0))) ∧
  (∀ (h : Hdr) (o : VCvtO) (s : State), wf (.vcvt h o) = true → VIssues h o.t.width [.v o.d, .v o.a] s →
    ∃ t, exec (.vcvt h o) s = .next t ∧ VecRetired s t o.t.width (guardBits h s) o.d (fun i =>
      let n := 1024 / o.s.width
      let cv (j : Nat) := convert (fmode s) o.inf o.s o.t (elem o.s.width (rdV s o.a) j)
      if o.s.width < o.t.width then cv (o.part.val * (1024 / o.t.width) + i)
      else if o.part.val * n ≤ i ∧ i < o.part.val * n + n then cv (i - o.part.val * n)
      else (elem o.t.width (getV (me s).regs o.d) i, 0)))

/-! ## Memory -/

/-- R53, R147, R149, R151, R156 to R161: loads from own croft memory finish in their turn, little-endian: LD extends by its size code,
LDQ fills a register pair, the vector forms fill the active elements from their addresses. A load that overlaps a store which the
context has sent to its own tenant by a remote form takes that store's bytes where it covers them, and waits where it does not; a
poisoned block faults UE with its address (its zero aux is log 32). -/
def Obligations.OwnLoads : Prop :=
  (∀ (h : Hdr) (o : LdO) (s : State) (off : Nat), Issues h (.g o.d :: addrRn o.a) s →
    let n := if o.size.val < 4 then 2 ^ o.size.val else 2 ^ (o.size.val - 4)
    placeOf o.a.space (ea s o.a).toNat = some (.own off) → off + n ≤ 0x10000 →
    OwnLoad s (.ld h o) n [0] (fun _ => off) fun v t => Retired s t (putG (me s).regs o.d
      (if o.size.val < 4 then BitVec.ofNat 64 (v 0) else BitVec.ofInt 64 (sgn (8 * n) (v 0))))) ∧
  (∀ (h : Hdr) (o : LdqO) (s : State) (off : Nat), wf (.ldq h o) = true → Issues h ([.g o.d, .g (o.d + 1)] ++ addrRn o.a) s →
    placeOf o.a.space (ea s o.a).toNat = some (.own off) → off + 16 ≤ 0x10000 →
    OwnLoad s (.ldq h o) 16 [0] (fun _ => off) fun v t => Retired s t (putG (putG (me s).regs o.d
      (BitVec.ofNat 64 (v 0))) (o.d + 1) (BitVec.ofNat 64 (v 0 / 2 ^ 64)))) ∧
  (∀ (h : Hdr) (o : LdvO) (s : State) (off : Nat → Nat),
    let w := vsizeWidth o.size
    VIssues h w (.v o.d :: addrRn o.a) s →
    (∀ i ∈ activeEls h w s, placeOf o.a.space (ldvAddr s o.a w i) = some (.own (off i)) ∧ off i + w / 8 ≤ 0x10000) →
    OwnLoad s (.ldv h o) (w / 8) (activeEls h w s) off fun v t => ∃ x, Retired s t (putV (me s).regs o.d x) ∧
      EachElem w (guardBits h s) (getV (me s).regs o.d) x v) ∧
  (∀ (h : Hdr) (o : VsO) (s : State) (off : Nat → Nat), wf (.ldvs h o) = true →
    let w := vsizeWidth o.size
    VIssues h w (.v o.d :: addrRn o.a) s →
    (∀ i ∈ activeEls h w s, placeOf o.a.space (strideAddr s o.a i) = some (.own (off i)) ∧ off i + w / 8 ≤ 0x10000) →
    OwnLoad s (.ldvs h o) (w / 8) (activeEls h w s) off fun v t => ∃ x, Retired s t (putV (me s).regs o.d x) ∧
      EachElem w (guardBits h s) (getV (me s).regs o.d) x v) ∧
  (∀ (h : Hdr) (o : GsO) (s : State) (off : Nat → Nat), wf (.gath h o) = true →
    let w := vsizeWidth o.size
    VIssues h w [.v o.d, .g o.base, .v o.x] s →
    (∀ i ∈ activeEls h w s, placeOf o.space (gatherAddr s o w i) = some (.own (off i)) ∧ off i + w / 8 ≤ 0x10000) →
    OwnLoad s (.gath h o) (w / 8) (activeEls h w s) off fun v t => ∃ x, Retired s t (putV (me s).regs o.d x) ∧
      EachElem w (guardBits h s) (getV (me s).regs o.d) x v)

/-- R150, R156 to R161, R168, R169: stores to own croft memory put exactly their bytes, little-endian, a vector store element by
element in ascending order; a .mk form writes the earmark of every block it touches, and a poison earmark from an unprivileged context
faults PRIV, with zero aux and the address of its first byte (log 32). Every store form waits in the rotation behind a store of the context
to its own tenant by a remote form (log 82). -/
def Obligations.OwnStores : Prop :=
  (∀ (h : Hdr) (o : StO) (s : State) (off : Nat), Issues h ([.g o.d] ++ addrRn o.a ++ emRn o.em) s →
    placeOf o.a.space (ea s o.a).toNat = some (.own off) → off + 2 ^ o.size.val ≤ 0x10000 →
    (markBad s (markOf s o.em) = true → exec (.st h o) s = .next (raiseOp cPRIV 0 (ea s o.a).toNat s)) ∧
    ((me s).sub = 0 → markBad s (markOf s o.em) = false → NoneBehind s → ∃ t, exec (.st h o) s = .next t ∧
      OwnStored s t (bytesAt off (2 ^ o.size.val) (rdG s o.d).toNat) (marksAt off (2 ^ o.size.val) (markOf s o.em))) ∧
    ((me s).sub = 0 → markBad s (markOf s o.em) = false → ¬ NoneBehind s → exec (.st h o) s = .next (waitTurn s))) ∧
  (∀ (h : Hdr) (o : StqO) (s : State) (off : Nat), wf (.stq h o) = true →
    Issues h ([.g o.d, .g (o.d + 1)] ++ addrRn o.a ++ emRn o.em) s →
    placeOf o.a.space (ea s o.a).toNat = some (.own off) → off + 16 ≤ 0x10000 →
    (markBad s (markOf s o.em) = true → exec (.stq h o) s = .next (raiseOp cPRIV 0 (ea s o.a).toNat s)) ∧
    ((me s).sub = 0 → markBad s (markOf s o.em) = false → NoneBehind s → ∃ t, exec (.stq h o) s = .next t ∧
      OwnStored s t (bytesAt off 16 ((rdG s o.d).toNat + (rdG s (o.d + 1)).toNat * 2 ^ 64))
        (marksAt off 16 (markOf s o.em))) ∧
    ((me s).sub = 0 → markBad s (markOf s o.em) = false → ¬ NoneBehind s → exec (.stq h o) s = .next (waitTurn s))) ∧
  (∀ (h : Hdr) (o : StvO) (s : State) (off : Nat → Nat),
    let w := vsizeWidth o.size
    VIssues h w (.v o.d :: addrRn o.a ++ emRn o.em) s →
    (∀ i < 1024 / w, active (guardBits h s) w i = true →
      placeOf o.a.space (ldvAddr s o.a w i) = some (.own (off i)) ∧ off i + w / 8 ≤ 0x10000) →
    (∀ i is, markBad s (markOf s o.em) = true → activeEls h w s = i :: is →
      exec (.stv h o) s = .next (raiseOp cPRIV 0 (ldvAddr s o.a w i) s)) ∧
    ((me s).sub = 0 → markBad s (markOf s o.em) = false → NoneBehind s → ∃ t p q, exec (.stv h o) s = .next t ∧
      OwnStored s t p q ∧ VecBytes s h w o.d off p ∧ VecMarks s h w off (markOf s o.em) q) ∧
    ((me s).sub = 0 → markBad s (markOf s o.em) = false → ¬ NoneBehind s → exec (.stv h o) s = .next (waitTurn s))) ∧
  (∀ (h : Hdr) (o : VsO) (s : State) (off : Nat → Nat), wf (.stvs h o) = true →
    let w := vsizeWidth o.size
    VIssues h w (.v o.d :: addrRn o.a) s → (me s).sub = 0 →
    (∀ i < 1024 / w, active (guardBits h s) w i = true →
      placeOf o.a.space (strideAddr s o.a i) = some (.own (off i)) ∧ off i + w / 8 ≤ 0x10000) →
    (NoneBehind s → ∃ t p, exec (.stvs h o) s = .next t ∧ OwnStored s t p (fun _ => none) ∧ VecBytes s h w o.d off p) ∧
    (¬ NoneBehind s → exec (.stvs h o) s = .next (waitTurn s))) ∧
  (∀ (h : Hdr) (o : GsO) (s : State) (off : Nat → Nat), wf (.scat h o) = true →
    let w := vsizeWidth o.size
    VIssues h w [.v o.d, .g o.base, .v o.x] s → (me s).sub = 0 →
    (∀ i < 1024 / w, active (guardBits h s) w i = true →
      placeOf o.space (gatherAddr s o w i) = some (.own (off i)) ∧ off i + w / 8 ≤ 0x10000) →
    (NoneBehind s → ∃ t p, exec (.scat h o) s = .next t ∧ OwnStored s t p (fun _ => none) ∧ VecBytes s h w o.d off p) ∧
    (¬ NoneBehind s → exec (.scat h o) s = .next (waitTurn s)))

/-- R149, R151, R238, R336: a load of device virtual memory that its windows admit and that lies in one 32-byte line waits in
the rotation while a posted store of its context overlaps it without covering it; takes the bytes of the newest posted store
that covers it, or of a clean L1 line (free values where the line's window was changed without a SHOOT); and otherwise leaves
the rotation with a request on its way to the line's home for each aligned 16-byte unit. Every other load form, and every form
to another croft or a debug window, that nothing serves in its turn leaves the rotation with the requests of all its active elements.
The free values are those of log 55. -/
def Obligations.VirtualLoads : Prop :=
  (∀ (h : Hdr) (o : LdO) (s : State) (va : Nat), Issues h (.g o.d :: addrRn o.a) s →
    let n := if o.size.val < 4 then 2 ^ o.size.val else 2 ^ (o.size.val - 4)
    let res (x : Nat) : W64 := if o.size.val < 4 then BitVec.ofNat 64 x else BitVec.ofInt 64 (sgn (8 * n) x)
    placeOf o.a.space (ea s o.a).toNat = some (.virt va) → rangeOk (winsOf s) Window.r va n = true → va % 32 + n ≤ 32 →
    let r := resOf s va
    let u := drawStale s (mySetId s)
    (forward s 0 va n = some none → exec (.ld h o) s = .next (waitTurn s)) ∧
    (∀ v < 2 ^ (8 * n), forward s 0 va n = some (some v) →
      ∃ t, exec (.ld h o) s = .next t ∧ Retired u t (putG (me s).regs o.d (res (undefAt s (mySetId s) va n v)))) ∧
    (∀ l, forward s 0 va n = none → o.na = false → l1Find s s.cur.1 (tagOf r.glob r.asid) (va / 32) = some l → poisoned l.mark = false →
      ∃ t, exec (.ld h o) s = .next t ∧
        Retired u t (putG (me s).regs o.d
          (res (undefAt s (mySetId s) va n (l.data.toNat / 2 ^ (8 * (va % 32)) % 2 ^ (8 * n)))))) ∧
    (forward s 0 va n = none →
      o.na = true ∨ l1Find s s.cur.1 (tagOf r.glob r.asid) (va / 32) = none →
      ∃ t, exec (.ld h o) s = .next t ∧
        Awaits u t ((pieces 16 va n).map fun q => ⟨[], .home ⟨meAgent s, .load, resOf s q.1, q.1,
          .load q.2 (!o.na && q.1 == va), none, .reply (q.1 - va)⟩, none⟩) (.g o.d.val n (4 ≤ o.size.val)) .keep)) ∧
  (∀ (h : Hdr) (o : LdO) (s : State) (p : Place), Issues h (.g o.d :: addrRn o.a) s →
    let n := if o.size.val < 4 then 2 ^ o.size.val else 2 ^ (o.size.val - 4)
    placeOf o.a.space (ea s o.a).toNat = some p → Unserved s o.na true p n →
    ∃ t, exec (.ld h o) s = .next t ∧ Awaits s t (loadRequests s o.na p n 0) (.g o.d.val n (4 ≤ o.size.val)) .keep) ∧
  (∀ (h : Hdr) (o : LdqO) (s : State) (p : Place), wf (.ldq h o) = true → Issues h ([.g o.d, .g (o.d + 1)] ++ addrRn o.a) s →
    placeOf o.a.space (ea s o.a).toNat = some p → Unserved s o.na true p 16 →
    ∃ t, exec (.ldq h o) s = .next t ∧ Awaits s t (loadRequests s o.na p 16 0) (.pair o.d.val) .keep) ∧
  (∀ (h : Hdr) (o : LdvO) (s : State) (p : Nat → Place),
    let w := vsizeWidth o.size
    VIssues h w (.v o.d :: addrRn o.a) s →
    (∀ i ∈ activeEls h w s, placeOf o.a.space (ldvAddr s o.a w i) = some (p i) ∧ Unserved s o.na false (p i) (w / 8)) →
    ∃ t mask, exec (.ldv h o) s = .next t ∧ MaskIs mask w (activeEls h w s) ∧
      Awaits s t ((activeEls h w s).flatMap fun i => loadRequests s o.na (p i) (w / 8) (i * (w / 8))) (.v o.d.val mask 0) .keep) ∧
  (∀ (h : Hdr) (o : VsO) (s : State) (p : Nat → Place), wf (.ldvs h o) = true →
    let w := vsizeWidth o.size
    let step := rdG s o.a.index <<< o.a.xs.val
    VIssues h w (.v o.d :: addrRn o.a) s →
    (∀ i ∈ activeEls h w s, placeOf o.a.space (strideAddr s o.a i) = some (p i) ∧ Unserved s o.na false (p i) (w / 8)) →
    ∃ t mask, exec (.ldvs h o) s = .next t ∧ MaskIs mask w (activeEls h w s) ∧
      (step ≠ 0 → Awaits s t ((activeEls h w s).flatMap fun i => loadRequests s o.na (p i) (w / 8) (i * (w / 8)))
        (.v o.d.val mask 0) .keep) ∧
      (step = 0 → Awaits s t (((activeEls h w s).take 1).flatMap fun i => loadRequests s o.na (p i) (w / 8) 0)
        (.v o.d.val mask w) .keep)) ∧
  (∀ (h : Hdr) (o : GsO) (s : State) (p : Nat → Place), wf (.gath h o) = true →
    let w := vsizeWidth o.size
    VIssues h w [.v o.d, .g o.base, .v o.x] s →
    (∀ i ∈ activeEls h w s, placeOf o.space (gatherAddr s o w i) = some (p i) ∧ Unserved s o.na false (p i) (w / 8)) →
    ∃ t mask, exec (.gath h o) s = .next t ∧ MaskIs mask w (activeEls h w s) ∧
      Awaits s t ((activeEls h w s).flatMap fun i => loadRequests s o.na (p i) (w / 8) (i * (w / 8))) (.v o.d.val mask 0) .keep)

/-- R14, R150, R151, R239: a store to device virtual memory within one 64-byte block is posted: one packet on its way to the
home, its class count raised by one, its own bytes kept for forwarding, and the L1 lines it covers removed; it waits while its
class count is 255. Every store form to device memory, another croft or a debug window posts a store for each active element, or with
an earmark for each block, of a packet for each block; it waits where they do not all fit below 255 (log 81). That a store counts once in
each ordering class that one of its blocks has is the model's reading (log 29). -/
def Obligations.VirtualStores : Prop :=
  (∀ (h : Hdr) (o : StO) (s : State) (va : Nat), Issues h ([.g o.d] ++ addrRn o.a ++ emRn o.em) s →
    (me s).sub = 0 → markBad s (markOf s o.em) = false →
    let n := 2 ^ o.size.val
    placeOf o.a.space (ea s o.a).toNat = some (.virt va) → rangeOk (winsOf s) Window.w va n = true → va % 64 + n ≤ 64 →
    let r := resOf s va
    let k := if fieldOf s.cur.1 = r.bank / 64 then 1 else 2
    let bs := toBytes n (rdG s o.d).toNat
    (me s).o1 ≤ 255 → (me s).o2 ≤ 255 → (me s).o3 ≤ 255 →
    (255 ≤ countOf k (me s) → exec (.st h o) s = .next (waitTurn s)) ∧
    (countOf k (me s) < 255 → ∃ t, exec (.st h o) s = .next t ∧ (me t).regs = (me s).regs ∧ (me t).pc = nextSlot s ∧
      t.net = s.net ++ [⟨homeKey (meAgent s) r,
        .home ⟨meAgent s, .store, r, va, .store (unitsOf [(va, bs)]) (markOf s o.em), none, .cls k (s.now + 1)⟩, none⟩] ∧
      countOf k (me t) = countOf k (me s) + 1 ∧
      (me t).posted = (me s).posted ++ [⟨s.now + 1, 0, va, [(va, bs)], markOf s o.em, [k]⟩] ∧
      (∀ l ∈ (myCroft t).l1, ¬ (va / 32 ≤ l.la ∧ l.la ≤ (va + n - 1) / 32)) ∧
      t.mem = s.mem ∧ t.tenants = s.tenants ∧ t.banks = s.banks)) ∧
  (∀ (h : Hdr) (o : StO) (s : State) (p : Place), Issues h ([.g o.d] ++ addrRn o.a ++ emRn o.em) s →
    placeOf o.a.space (ea s o.a).toNat = some p → Storable s true p (2 ^ o.size.val) → markBad s (markOf s o.em) = false →
    let ps := blockPieces p (toBytes (2 ^ o.size.val) (rdG s o.d).toNat) (markOf s o.em)
    PostsOrWaits s (.st h o) (if o.em.isSome then ps.map fun q => [q] else [ps])) ∧
  (∀ (h : Hdr) (o : StqO) (s : State) (p : Place), wf (.stq h o) = true →
    Issues h ([.g o.d, .g (o.d + 1)] ++ addrRn o.a ++ emRn o.em) s →
    placeOf o.a.space (ea s o.a).toNat = some p → Storable s true p 16 → markBad s (markOf s o.em) = false →
    let ps := blockPieces p (toBytes 16 ((rdG s o.d).toNat + (rdG s (o.d + 1)).toNat * 2 ^ 64)) (markOf s o.em)
    PostsOrWaits s (.stq h o) (if o.em.isSome then ps.map fun q => [q] else [ps])) ∧
  (∀ (h : Hdr) (o : StvO) (s : State) (p : Nat → Place),
    let w := vsizeWidth o.size
    VIssues h w (.v o.d :: addrRn o.a ++ emRn o.em) s → markBad s (markOf s o.em) = false →
    (∀ i ∈ activeEls h w s, placeOf o.a.space (ldvAddr s o.a w i) = some (p i) ∧ Storable s false (p i) (w / 8)) →
    let ps := (activeEls h w s).map fun i => blockPieces (p i) (toBytes (w / 8) (elem w (rdV s o.d) i)) (markOf s o.em)
    PostsOrWaits s (.stv h o) (if o.em.isSome then (mergeBlocks ps.flatten).map fun q => [q] else ps)) ∧
  (∀ (h : Hdr) (o : VsO) (s : State) (p : Nat → Place), wf (.stvs h o) = true →
    let w := vsizeWidth o.size
    VIssues h w (.v o.d :: addrRn o.a) s →
    (∀ i ∈ activeEls h w s, placeOf o.a.space (strideAddr s o.a i) = some (p i) ∧ Storable s false (p i) (w / 8)) →
    PostsOrWaits s (.stvs h o)
      ((activeEls h w s).map fun i => blockPieces (p i) (toBytes (w / 8) (elem w (rdV s o.d) i)) none)) ∧
  (∀ (h : Hdr) (o : GsO) (s : State) (p : Nat → Place), wf (.scat h o) = true →
    let w := vsizeWidth o.size
    VIssues h w [.v o.d, .g o.base, .v o.x] s →
    (∀ i ∈ activeEls h w s, placeOf o.space (gatherAddr s o w i) = some (p i) ∧ Storable s false (p i) (w / 8)) →
    PostsOrWaits s (.scat h o)
      ((activeEls h w s).map fun i => blockPieces (p i) (toBytes (w / 8) (elem w (rdV s o.d) i)) none))

/-- R30, R147, R148, R162, R169, R176, R209, R377, R378: an access whose place fails a check faults PERM with its address, and does
nothing else: every load, store and earmark form, of device memory that no window admits, past the end of a croft's memory, of a tenant
outside the set, of a debug window that the form does not reach; a vector form for its lowest such element. A misaligned atomic or
full/empty word faults ALIGN, an atomic of croft memory PERM, an unprivileged access of a debug window PRIV, after the checks that raise
PERM (log 30). The zero aux is the model's choice (log 32), and so is PERM for WKICK of its own mailbox word by a remote address (log 102). -/
def Obligations.PermissionFaults : Prop :=
  (∀ (h : Hdr) (o : LdO) (s : State) (x : Nat), Issues h (.g o.d :: addrRn o.a) s →
    Denied s Window.r true true o.a.space (ea s o.a).toNat (ldBytes o.size.val) x → exec (.ld h o) s = .next (raiseOp cPERM 0 x s)) ∧
  (∀ (h : Hdr) (o : StO) (s : State) (x : Nat), Issues h ([.g o.d] ++ addrRn o.a ++ emRn o.em) s →
    Denied s Window.w true true o.a.space (ea s o.a).toNat (2 ^ o.size.val) x → exec (.st h o) s = .next (raiseOp cPERM 0 x s)) ∧
  (∀ (h : Hdr) (o : LdqO) (s : State) (x : Nat), Issues h ([.g o.d, .g (o.d + 1)] ++ addrRn o.a) s →
    Denied s Window.r true true o.a.space (ea s o.a).toNat 16 x → exec (.ldq h o) s = .next (raiseOp cPERM 0 x s)) ∧
  (∀ (h : Hdr) (o : StqO) (s : State) (x : Nat), Issues h ([.g o.d, .g (o.d + 1)] ++ addrRn o.a ++ emRn o.em) s →
    Denied s Window.w true true o.a.space (ea s o.a).toNat 16 x → exec (.stq h o) s = .next (raiseOp cPERM 0 x s)) ∧
  (∀ (s : State) (sp : Space) (a t off : Nat), placeOf sp a = some (.dbg t off) → (me s).priv = false →
    inSet s (mySetId s) t = true → let x := (Place.dbg t off).addr
    (∀ (h : Hdr) (o : LdO), o.a.space = sp → (ea s o.a).toNat = a → off + ldBytes o.size.val ≤ 0x4000 →
      Issues h (.g o.d :: addrRn o.a) s → exec (.ld h o) s = .next (raiseOp cPRIV 0 x s)) ∧
    (∀ (h : Hdr) (o : StO), o.a.space = sp → (ea s o.a).toNat = a → off + 2 ^ o.size.val ≤ 0x4000 →
      Issues h ([.g o.d] ++ addrRn o.a ++ emRn o.em) s → exec (.st h o) s = .next (raiseOp cPRIV 0 x s)) ∧
    (∀ (h : Hdr) (o : LdqO), o.a.space = sp → (ea s o.a).toNat = a → off + 16 ≤ 0x4000 →
      Issues h ([.g o.d, .g (o.d + 1)] ++ addrRn o.a) s → exec (.ldq h o) s = .next (raiseOp cPRIV 0 x s)) ∧
    (∀ (h : Hdr) (o : StqO), o.a.space = sp → (ea s o.a).toNat = a → off + 16 ≤ 0x4000 →
      Issues h ([.g o.d, .g (o.d + 1)] ++ addrRn o.a ++ emRn o.em) s → exec (.stq h o) s = .next (raiseOp cPRIV 0 x s))) ∧
  (∀ (h : Hdr) (o : GAddr) (s : State) (x : Nat), Issues h (.g o.d :: addrRn o.a) s → let a := (ea s o.a).toNat
    (Denied s Window.w false true o.a.space a 1 x → exec (.setmark h o) s = .next (raiseOp cPERM 0 x s)) ∧
    (Denied s Window.r false true o.a.space a 1 x → exec (.getmark h o) s = .next (raiseOp cPERM 0 x s)) ∧
    (Denied s (fun _ => true) false false o.a.space a 1 x → exec (.festat h o) s = .next (raiseOp cPERM 0 x s)) ∧
    (a % 8 = 0 → Denied s (fun _ => true) false false o.a.space a 8 x → ∀ f, exec (.ldfe h f o) s = .next (raiseOp cPERM 0 x s) ∧
      exec (.stfe h f o) s = .next (raiseOp cPERM 0 x s))) ∧
  (∀ (h : Hdr) (o : LdvO) (s : State) (x : Nat), let w := vsizeWidth o.size
    VIssues h w (.v o.d :: addrRn o.a) s → FirstDenied s Window.r o.a.space (w / 8) (activeEls h w s) (ldvAddr s o.a w) x →
    exec (.ldv h o) s = .next (raiseOp cPERM 0 x s)) ∧
  (∀ (h : Hdr) (o : StvO) (s : State) (x : Nat), let w := vsizeWidth o.size
    let els := activeEls h w s
    VIssues h w (.v o.d :: addrRn o.a ++ emRn o.em) s →
    FirstDenied s Window.w o.a.space (w / 8) (if markBad s (markOf s o.em) then els.take 1 else els) (ldvAddr s o.a w) x →
    exec (.stv h o) s = .next (raiseOp cPERM 0 x s)) ∧
  (∀ (h : Hdr) (o : VsO) (s : State) (x : Nat), let w := vsizeWidth o.size
    VIssues h w (.v o.d :: addrRn o.a) s →
    (wf (.ldvs h o) = true → FirstDenied s Window.r o.a.space (w / 8) (activeEls h w s) (strideAddr s o.a) x →
      exec (.ldvs h o) s = .next (raiseOp cPERM 0 x s)) ∧
    (wf (.stvs h o) = true → FirstDenied s Window.w o.a.space (w / 8) (activeEls h w s) (strideAddr s o.a) x →
      exec (.stvs h o) s = .next (raiseOp cPERM 0 x s))) ∧
  (∀ (h : Hdr) (o : GsO) (s : State) (x : Nat), let w := vsizeWidth o.size
    VIssues h w [.v o.d, .g o.base, .v o.x] s →
    (wf (.gath h o) = true → FirstDenied s Window.r o.space (w / 8) (activeEls h w s) (gatherAddr s o w) x →
      exec (.gath h o) s = .next (raiseOp cPERM 0 x s)) ∧
    (wf (.scat h o) = true → FirstDenied s Window.w o.space (w / 8) (activeEls h w s) (gatherAddr s o w) x →
      exec (.scat h o) s = .next (raiseOp cPERM 0 x s))) ∧
  (∀ (h : Hdr) (o : AmoO) (s : State) (c x : Nat), Issues h [.g o.d, .g o.base, .g o.x] s →
    AtomFaults s (if o.size = .b64 then 8 else 4) [0] (fun _ => (rdG s o.base + o.disp.signExtend 64).toNat) c x →
    exec (.amo h o) s = .next (raiseOp c 0 x s)) ∧
  (∀ (h : Hdr) (o : AmofO) (s : State) (c x : Nat), Issues h [.g o.d, .g o.base, .g o.x] s →
    AtomFaults s (fsBytes o.size) [0] (fun _ => (rdG s o.base + o.disp.signExtend 64).toNat) c x →
    exec (.amof h o) s = .next (raiseOp c 0 x s)) ∧
  (∀ (h : Hdr) (o : CasO) (s : State) (c x : Nat), Issues h [.g o.d, .g o.base, .g o.x] s →
    AtomFaults s (if o.size = .b64 then 8 else 4) [0] (fun _ => (rdG s o.base + o.disp.signExtend 64).toNat) c x →
    exec (.cas h o) s = .next (raiseOp c 0 x s)) ∧
  (∀ (h : Hdr) (o : Cas2O) (s : State) (c x : Nat), Issues h [.g o.d, .g (o.d + 1), .g o.base, .g o.x, .g (o.x + 1)] s →
    AtomFaults s 16 [0] (fun _ => (rdG s o.base + o.disp.signExtend 64).toNat) c x → exec (.cas2 h o) s = .next (raiseOp c 0 x s)) ∧
  (∀ (h : Hdr) (o : VamoO) (s : State) (c x : Nat), let w := 8 * vopBytes o.op
    VIssues h w [.v o.d, .g o.base, .v o.x] s →
    AtomFaults s (vopBytes o.op) (activeEls h w s) (fun i => (rdG s o.base +
      (BitVec.ofInt 64 (sgn w (elem w (rdV s o.x) i)) <<< o.xs.val) + o.disp.signExtend 64).toNat) c x →
    exec (.vamo h o) s = .next (raiseOp c 0 x s)) ∧
  (∀ (h : Hdr) (d base : GReg) (disp : BitVec 39) (own : Bool) (s : State), Issues h [.g d, .g base] s →
    let a := (rdG s base + disp.signExtend 64).toNat
    let p := placeOf (if own then .own else .virt) a
    a % 8 = 0 → p ≠ some (.own (0xFF00 + 8 * s.cur.2)) →
    exec (.wkick h d base disp own) s = .next (raiseOp cPERM 0 (p.elim a Place.addr) s))

/-- R53, R167 to R174: earmarks of blocks, the hints, fences and drains. SETMARK of own croft memory is done in its turn, behind stores of
the context to its own tenant by a remote form (log 82); elsewhere it is a posted store without bytes. GETMARK takes the earmark of
a pending store of the context to the block, or else of the own block, or asks the block's home or croft. INVL of a croft address, and
the zero aux of PRIV, are the model's choices (logs 83, 32). -/
def Obligations.EarmarksHintsFences : Prop :=
  (∀ (h : Hdr) (o : GAddr) (s : State) (off : Nat), Issues h (.g o.d :: addrRn o.a) s →
    placeOf o.a.space (ea s o.a).toNat = some (.own off) → off < 0x10000 →
    ((me s).sub = 0 → markBad s (some ((rdG s o.d).setWidth 16)) = false →
      (NoneBehind s → ∃ t, exec (.setmark h o) s = .next t ∧
        OwnStored s t (fun _ => none) (marksAt off 1 (some ((rdG s o.d).setWidth 16)))) ∧
      (¬ NoneBehind s → exec (.setmark h o) s = .next (waitTurn s))) ∧
    (markBad s (some ((rdG s o.d).setWidth 16)) = true →
      exec (.setmark h o) s = .next (raiseOp cPRIV 0 (ea s o.a).toNat s)) ∧
    (∀ m, m = (forwardMark s (.own (off / 64 * 64))).getD (cmMark s (myTen s) off) → poisoned m = false →
      ∃ t, exec (.getmark h o) s = .next t ∧ Retired s t (putG (me s).regs o.d (m.setWidth 64)))) ∧
  (∀ (h : Hdr) (o : GAddr) (s : State) (p : Place), Issues h (.g o.d :: addrRn o.a) s →
    placeOf o.a.space (ea s o.a).toNat = some p →
    (Storable s false p 1 → markBad s (some ((rdG s o.d).setWidth 16)) = false →
      PostsOrWaits s (.setmark h o) [[⟨blockPlace p, [], some ((rdG s o.d).setWidth 16), none⟩]]) ∧
    (∀ va, p = .virt va → rangeOk (winsOf s) Window.r va 1 = true → forwardMark s (.virt (va / 64 * 64)) = none →
      let r := resOf s (va / 64 * 64)
      l1Find s s.cur.1 (tagOf r.glob r.asid) (va / 32) = none → ∃ t, exec (.getmark h o) s = .next t ∧
        Awaits s t [⟨[], .home ⟨meAgent s, .load, r, va, .getmark, none, .reply 0⟩, none⟩] (.g o.d.val 2 false) .keep) ∧
    (∀ n off, p = .rem n off → off < 0x10000 → inSet s (mySetId s) n = true → forwardMark s (.rem n (off / 64 * 64)) = none →
      ∃ t, exec (.getmark h o) s = .next t ∧ Awaits s t [⟨[2, (meAgent s).ten, (meAgent s).name, n],
        .croft n (tenAt s n).epoch (meAgent s) (.getmark (off / 64 * 64)) none (.reply 0) false, none⟩] (.g o.d.val 2 false) .keep)) ∧
  (∀ (h : Hdr) (na : Bool) (a : Addr) (s : State), Issues h (addrRn a) s →
    ∃ t, exec (.pref h na a) s = .next t ∧ me t = me (retire s) ∧ t.mem = s.mem ∧ t.tenants = s.tenants ∧
      ((∀ va, placeOf a.space (ea s a).toNat = some (.virt va) → rangeOk (winsOf s) (fun _ => true) va 1 = false) →
        t.net = s.net) ∧
      (∀ va, placeOf a.space (ea s a).toNat = some (.virt va) → rangeOk (winsOf s) (fun _ => true) va 1 = true →
        let r := resOf s va
        let held : Prop := l1Find s s.cur.1 (tagOf r.glob r.asid) (va / 32) ≠ none
        ∃ fill, t.net = s.net ++ [⟨[], .home ⟨meAgent s, .load, r, va, .pref fill, none, .none⟩, none⟩] ∧
          (fill = none ↔ na = true ∨ held) ∧ (∀ id, fill = some id → (va / 32, id) ∈ (myCroft t).prefs) ∧
          (fill = none → (myCroft t).prefs = (myCroft s).prefs))) ∧
  (∀ (h : Hdr) (i : Bool) (a : Addr) (s : State), Issues h (addrRn a) s →
    ∃ t, exec (.invl h i a) s = .next t ∧ me t = me (retire s) ∧ { t with crofts := s.crofts } = s ∧
      (i = true → (myCroft t).l1 = (myCroft s).l1 ∧
        ∀ l, l ∈ (myCroft t).icache ↔ l ∈ (myCroft s).icache ∧ l.la ≠ (ea s a).toNat / 64) ∧
      (i = false → (myCroft t).icache = (myCroft s).icache ∧
        ∀ l, l ∈ (myCroft t).l1 ↔ l ∈ (myCroft s).l1 ∧ l.la ≠ (ea s a).toNat / 32)) ∧
  (∀ (h : Hdr) (k : FenceKind) (sc : Scope) (s : State), Issues h [] s →
    (k ≠ .acq → (me s).busy = true → exec (.fence h k sc) s = .next (waitTurn s)) ∧
    (k = .acq ∨ (me s).busy = false → ∃ t, exec (.fence h k sc) s = .next t ∧ (me t).pc = nextSlot s ∧
      (me t).regs = (me s).regs ∧ { t with crofts := s.crofts } = s ∧
      (k = .rel ∨ sc = .core ∨ sc = .quad → (myCroft t).l1 = (myCroft s).l1) ∧
      (k ≠ .rel → sc = .field ∨ sc = .die ∨ sc = .pkg ∨ sc = .pod → (myCroft t).l1 = []))) ∧
  (∀ (h : Hdr) (m : Fin 8) (s : State), Issues h [] s →
    let left := (m.val.testBit 0 ∧ (me s).o1 ≠ 0) ∨ (m.val.testBit 1 ∧ (me s).o2 ≠ 0) ∨ (m.val.testBit 2 ∧ (me s).o3 ≠ 0)
    (left → exec (.drain h m) s = .next (waitTurn s)) ∧
    (¬ left → ∃ t, exec (.drain h m) s = .next t ∧ Retired s t (me s).regs))

/-- R162 to R165, R209: full/empty words of own croft memory. LDFE of a full word takes it and empties it, LDFE.keep leaves it full, STFE
of an empty word and STFE.force write it and fill it, FESTAT reads the eight bits of the block, or faults UE where it is poisoned (log
24); an own operation whose condition does not hold parks the context on the word with its counts drained. WKICK fills its mailbox word
with the low half of its operand and its name, and sets the bit of its context in the summary word. The forms to another croft send their
request. The zero aux of ALIGN is the model's choice (log 32). -/
def Obligations.FullEmptyWords : Prop :=
  (∀ (h : Hdr) (o : GAddr) (s : State) (off : Nat), Issues h (.g o.d :: addrRn o.a) s → Quiet s →
    OwnAt s o.a.space (ea s o.a).toNat 8 off → (ea s o.a).toNat % 8 = 0 → off < 0xFC00 → (tenAt s (myTen s)).waiters = [] →
    (cmFull s (myTen s) off = true → ∃ t, exec (.ldfe h false o) s = .next t ∧
      (me t).regs = putG (me s).regs o.d (BitVec.ofNat 64 (cmGet s (myTen s) off 8)) ∧ (me t).pc = nextSlot s ∧
      (me t).runseq = (me s).runseq + 1 ∧ cmFull t (myTen s) off = false ∧
      (∀ a, sread 0 (tenAt t (myTen s)).mem a = sread 0 (tenAt s (myTen s)).mem a)) ∧
    (cmFull s (myTen s) off = true → ∃ t, exec (.ldfe h true o) s = .next t ∧
      Retired s t (putG (me s).regs o.d (BitVec.ofNat 64 (cmGet s (myTen s) off 8)))) ∧
    (cmFull s (myTen s) off = false → ∃ t, exec (.ldfe h false o) s = .next t ∧ (me t).mode = .parked ∧
      (me t).pc = nextSlot s ∧ (∃ p, (me t).park = some p ∧ p.kind = .feFull ∧ p.d = o.d.val) ∧
      (∃ w, (tenAt t (myTen s)).waiters = [w] ∧ w.off = off ∧ w.op = .ldfe))) ∧
  (∀ (h : Hdr) (force : Bool) (o : GAddr) (s : State) (off : Nat), Issues h (.g o.d :: addrRn o.a) s → Quiet s →
    placeOf o.a.space (ea s o.a).toNat = some (.own off) → off + 8 ≤ 0x10000 → (ea s o.a).toNat % 8 = 0 →
    (tenAt s (myTen s)).waiters = [] →
    (force = true ∨ cmFull s (myTen s) off = false → ∃ t, exec (.stfe h force o) s = .next t ∧
      (me t).regs = (me s).regs ∧ (me t).pc = nextSlot s ∧ (me t).runseq = (me s).runseq + 1 ∧
      cmFull t (myTen s) off = true ∧ cmGet t (myTen s) off 8 = (rdG s o.d).toNat ∧
      (∀ a, a < off ∨ off + 8 ≤ a → sread 0 (tenAt t (myTen s)).mem a = sread 0 (tenAt s (myTen s)).mem a)) ∧
    (force = false ∧ cmFull s (myTen s) off = true → ∃ t, exec (.stfe h force o) s = .next t ∧ (me t).mode = .parked ∧
      (∃ p, (me t).park = some p ∧ p.kind = .feEmpty))) ∧
  (∀ (h : Hdr) (o : GAddr) (s : State) (off : Nat), Issues h (.g o.d :: addrRn o.a) s →
    placeOf o.a.space (ea s o.a).toNat = some (.own off) → off < 0x10000 →
    (poisoned (cmMark s (myTen s) off) = false →
      ∃ t x, exec (.festat h o) s = .next t ∧ Retired s t (putG (me s).regs o.d x) ∧ x.toNat < 256 ∧
        ∀ j < 8, x.getLsbD j = cmFull s (myTen s) (off / 64 * 64 + 8 * j)) ∧
    (poisoned (cmMark s (myTen s) off) = true →
      exec (.festat h o) s = .next (raiseOp cUE 0 (0x01FFFF0000000000 + off / 64 * 64) s))) ∧
  (∀ (h : Hdr) (d base : GReg) (disp : BitVec 39) (own : Bool) (s : State), Issues h [.g d, .g base] s → Quiet s →
    let a := (rdG s base + disp.signExtend 64).toNat
    placeOf (if own then .own else .virt) a = some (.own (0xFF00 + 8 * s.cur.2)) → a % 8 = 0 → s.cur.2 < 16 →
    (tenAt s (myTen s)).waiters = [] → cmFull s (myTen s) (0xFF00 + 8 * s.cur.2) = false →
    ∃ t, exec (.wkick h d base disp own) s = .next t ∧ (me t).pc = nextSlot s ∧ (me t).runseq = (me s).runseq + 1 ∧
      cmFull t (myTen s) (0xFF00 + 8 * s.cur.2) = true ∧ cmFull t (myTen s) 0xFF80 = true ∧
      cmGet t (myTen s) (0xFF00 + 8 * s.cur.2) 8 = ((rdG s d).toNat % 2 ^ 16 + (me s).name * 2 ^ 16) % 2 ^ 64 ∧
      (cmGet t (myTen s) 0xFF80 8).testBit s.cur.2 = true) ∧
  (∀ (h : Hdr) (o : GAddr) (s : State) (n off : Nat), Issues h (.g o.d :: addrRn o.a) s →
    placeOf o.a.space (ea s o.a).toNat = some (.rem n off) → inSet s (mySetId s) n = true →
    let ask (op : CroftOp) : List Flight := [⟨[2, (meAgent s).ten, (meAgent s).name, n],
      .croft n (tenAt s n).epoch (meAgent s) op none (.reply 0) false, none⟩]
    (off < 0x10000 → ∃ t, exec (.festat h o) s = .next t ∧ Awaits s t (ask (.festat off)) (.g o.d.val 8 false) .keep) ∧
    (Quiet s → off + 8 ≤ 0x10000 → (ea s o.a).toNat % 8 = 0 →
      (∀ keep, ∃ t, exec (.ldfe h keep o) s = .next t ∧
        Awaits s t (ask (.fe (if keep then .keep else .ldfe) off 0)) (.g o.d.val 8 false) .begin) ∧
      (∀ force, ∃ t, exec (.stfe h force o) s = .next t ∧
        Awaits s t (ask (.fe (if force then .force else .stfe) off (rdG s o.d))) .none .begin))) ∧
  (∀ (h : Hdr) (keep force : Bool) (o : GAddr) (s : State), Issues h (.g o.d :: addrRn o.a) s → (ea s o.a).toNat % 8 ≠ 0 →
    let x := (placeOf o.a.space (ea s o.a).toNat).elim (ea s o.a).toNat Place.addr
    exec (.ldfe h keep o) s = .next (raiseOp cALIGN 0 x s) ∧ exec (.stfe h force o) s = .next (raiseOp cALIGN 0 x s))

/-- R175 to R183: a no-return atomic joins the held ones in its turn; a returning one seals the run, begins the next at itself,
and waits for the reply of its home with one request on its way for each address. -/
def Obligations.AtomicsIssue : Prop :=
  let admitted (s : State) (va n : Nat) : Prop := va % n = 0 ∧ va < vaEnd ∧ rangeOk (winsOf s) Window.rw va n = true
  let request (s : State) (va n : Nat) (f : AtomF) (x e : Nat) : Flight :=
    ⟨[4, (meAgent (runFromSeal s)).ten, (meAgent (runFromSeal s)).name, va], .home ⟨meAgent (runFromSeal s), .atomic, resOf (runFromSeal s) va, va,
      .atom n f (.one (meAgent (runFromSeal s)) x e true 0 0 (s.now + 1)), none, .reply 0⟩, none⟩
  (∀ (h : Hdr) (o : AmoO) (s : State), Issues h [.g o.d, .g o.base, .g o.x] s → Quiet s →
    let n := if o.size = .b64 then 8 else 4
    let va := (rdG s o.base + o.disp.signExtend 64).toNat
    admitted s va n →
    (o.nr = true → ∃ t, exec (.amo h o) s = .next t ∧ (me t).regs = (me s).regs ∧ (me t).pc = nextSlot s ∧
      SameElsewhere s t ∧ ∃ k, (me t).held = [k] ∧ k.va = va ∧ k.n = n ∧ k.f = .int o.op ∧ k.x = (rdG s o.x).toNat) ∧
    (o.nr = false → ∃ t, exec (.amo h o) s = .next t ∧
      Awaits s t [request s va n (.int o.op) (rdG s o.x).toNat 0] (.g o.d.val n (o.size == .s32)) .restart ∧
      (me t).runseq = (me s).runseq + 1 ∧ (me t).runStart = baseSlot s)) ∧
  (∀ (h : Hdr) (o : AmofO) (s : State), Issues h [.g o.d, .g o.base, .g o.x] s → Quiet s →
    let n := match o.size with | .bf => 2 | .f => 4 | .bf2 => 4 | .d => 8 | .f2 => 8
    let va := (rdG s o.base + o.disp.signExtend 64).toNat
    admitted s va n →
    (o.nr = true → ∃ t, exec (.amof h o) s = .next t ∧ (me t).regs = (me s).regs ∧ (me t).pc = nextSlot s ∧
      SameElsewhere s t ∧ ∃ k, (me t).held = [k] ∧ k.va = va ∧ k.n = n ∧ k.f = .flt o.op o.size) ∧
    (o.nr = false → ∃ t, exec (.amof h o) s = .next t ∧
      Awaits s t [request s va n (.flt o.op o.size) (rdG s o.x).toNat 0] (.g o.d.val n false) .restart)) ∧
  (∀ (h : Hdr) (o : CasO) (s : State), Issues h [.g o.d, .g o.base, .g o.x] s → Quiet s →
    let n := if o.size = .b64 then 8 else 4
    let va := (rdG s o.base + o.disp.signExtend 64).toNat
    admitted s va n → ∃ t, exec (.cas h o) s = .next t ∧
      Awaits s t [request s va n .cas (rdG s o.x).toNat (rdG s o.d).toNat] (.g o.d.val n (o.size == .s32)) .restart) ∧
  (∀ (h : Hdr) (o : Cas2O) (s : State), Issues h [.g o.d, .g (o.d + 1), .g o.base, .g o.x, .g (o.x + 1)] s → Quiet s →
    let va := (rdG s o.base + o.disp.signExtend 64).toNat
    admitted s va 16 → ∃ t, exec (.cas2 h o) s = .next t ∧
      Awaits s t [request s va 16 .cas ((rdG s o.x).toNat + (rdG s (o.x + 1)).toNat * 2 ^ 64)
        ((rdG s o.d).toNat + (rdG s (o.d + 1)).toNat * 2 ^ 64)] (.pair o.d.val) .restart) ∧
  (∀ (h : Hdr) (o : VamoO) (s : State),
    let n := vopBytes o.op
    VIssues h (8 * n) [.v o.d, .g o.base, .v o.x] s → Quiet s →
    let addr (i : Nat) : Nat :=
      (rdG s o.base + (BitVec.ofInt 64 (sgn (8 * n) (elem (8 * n) (rdV s o.x) i)) <<< o.xs.val) + o.disp.signExtend 64).toNat
    let x (i : Nat) : Nat := elem (8 * n) (rdV s o.d) i
    let f : AtomF := match o.op with | .int q _ => .int q | .flt q z => .flt q z
    let is := (List.range (1024 / (8 * n))).filter (active (guardBits h s) (8 * n))
    (∀ i ∈ is, admitted s (addr i) n) →
    (o.nr = true → ∃ t, exec (.vamo h o) s = .next t ∧ (me t).regs = (me s).regs ∧ (me t).pc = nextSlot s ∧
      SameElsewhere s t ∧ (me t).held.map (fun k => (k.va, k.n, k.f, k.x)) = is.map fun i => (addr i, n, f, x i)) ∧
    (o.nr = false → ∃ t mask, exec (.vamo h o) s = .next t ∧
      Awaits s t (is.zipIdx.map fun j =>
        ⟨[4, (meAgent (runFromSeal s)).ten, (meAgent (runFromSeal s)).name, addr j.1], .home ⟨meAgent (runFromSeal s), .atomic,
          resOf (runFromSeal s) (addr j.1), addr j.1, .atom n f (.one (meAgent (runFromSeal s)) (x j.1) 0 true (j.1 * n) 0 (s.now + 1 + j.2)),
          none, .reply (j.1 * n)⟩, none⟩) (.v o.d.val mask 0) .restart ∧
      ∀ i < 1024, mask.getLsbD i = decide (i / (8 * n) ∈ is)))

/-- R59, R176, R177: what the barn's unit computes for each integer operation, on w bits; compare and swap stores only where the
value found is the one expected; and for each floating one, on each half of a pair (R44): the sum rounded to the nearest, the lesser and
the greater number, the default NaN of a sum with a NaN, and the number where one operand of a minimum or maximum is none. -/
def Obligations.AtomicValues : Prop :=
  (∀ p ∈ [(FSize.bf, ElemType.bf, 1), (.f, .f, 1), (.d, .d, 1), (.bf2, .bf, 2), (.f2, .f, 2)], ∀ old x e j : Nat,
    let f := fmtOf p.2.1
    let n := fsBytes p.1
    let part (v : Nat) : Nat := v / 2 ^ (p.2.1.width * j) % 2 ^ p.2.1.width
    let value (o : FOp) : Nat := part (atomVal (.flt o p.1) n old x e)
    old < 2 ^ (8 * n) → j < p.2.2 →
    (∀ a b : ℝ, numOf f (part old) = some a → numOf f (part x) = some b →
      (∃ fl, Delivers f 0 false (a + b) (value .fadd, fl)) ∧ numOf f (value .fmin) = some (Min.min a b) ∧
        numOf f (value .fmax) = some (Max.max a b)) ∧
    (nanPat f (part old) ∨ nanPat f (part x) → value .fadd = nanF f) ∧
    (nanPat f (part old) → ¬ nanPat f (part x) → value .fmin = part x ∧ value .fmax = part x) ∧
    (nanPat f (part x) → ¬ nanPat f (part old) → value .fmin = part old ∧ value .fmax = part old)) ∧
  ∀ n ∈ [4, 8], ∀ old < 2 ^ (8 * n), ∀ x e : Nat,
    let w := 8 * n
    let y := x % 2 ^ w
    atomVal (.int .add) n old x e = (old + x) % 2 ^ w ∧ atomVal (.int .and) n old x e = old &&& y ∧
    atomVal (.int .or) n old x e = old ||| y ∧ atomVal (.int .xor) n old x e = old ^^^ y ∧
    atomVal (.int .xchg) n old x e = y ∧
    sgn w (atomVal (.int .min) n old x e) = Min.min (sgn w old) (sgn w y) ∧
    sgn w (atomVal (.int .max) n old x e) = Max.max (sgn w old) (sgn w y) ∧
    atomVal (.int .minn) n old x e = Min.min old y ∧ atomVal (.int .maxn) n old x e = Max.max old y ∧
    atomVal .cas n old x e = if old = e % 2 ^ w then y else old

/-! ## Bins, barriers, cribs, channels, work and contexts -/

/-- R188 to R191: WAITB takes its count from a bin that holds it and acquires, else parks on the bin; BAR arrives and parks;
BARA arrives and goes on; BARW without an arrival writes 0. The generation number of an arrival in flight is the model's own. -/
def Obligations.BinsAndBarriers : Prop :=
  (∀ (h : Hdr) (a : BReg) (b : Src) (s : State), Issues h (srcRn b) s → Quiet s →
    let n := (rdSrc s b).setWidth 32
    (n.toNat ≤ (rdB s a).toNat → ∃ t, exec (.waitb h a b) s = .next t ∧ (me t).regs = putB (me s).regs a (rdB s a - n) ∧
      (me t).pc = nextSlot s ∧ (me t).mode = (me s).mode ∧ (myCroft t).l1 = [] ∧ t.cur = s.cur ∧ MemKept s t) ∧
    ((rdB s a).toNat < n.toNat → ∃ t, exec (.waitb h a b) s = .next t ∧ Parks s t .bin a.val n.toNat)) ∧
  (∀ (h : Hdr) (sc : Scope) (id : Fin 16) (d : GReg) (b : Src) (s : State), Issues h (.g d :: srcRn b) s → Quiet s →
    (me s).arrivals = [] → ∃ t, exec (.bar h sc id d b) s = .next t ∧ Parks s t .barrier (sc.code + id.val * 16) 0 ∧
      ∃ who, t.net = s.net ++ [⟨[], .arrive (mySetId s) 0 (rdSrc s b).toNat ⟨who, none⟩ id.val sc.code, none⟩] ∧
        who.name = (me s).name ∧ who.ten = myTen s) ∧
  (∀ (h : Hdr) (sc : Scope) (id : Fin 16) (bin : Option BReg) (b : Src) (s : State), Issues h (srcRn b) s → Quiet s →
    (me s).arrivals = [] → ∃ t, exec (.bara h sc id bin b) s = .next t ∧ (me t).regs = (me s).regs ∧
      (me t).pc = nextSlot s ∧ (me t).mode = (me s).mode ∧ MemKept s t ∧
      t.net = s.net ++ [⟨[], .arrive (mySetId s) 0 (rdSrc s b).toNat ⟨meAgent s, bin.map Fin.val⟩ id.val sc.code, none⟩] ∧
      (bin = none → (me t).arrivals = [(sc.code, id.val, 2 ^ 64)]) ∧ (bin ≠ none → (me t).arrivals = [])) ∧
  (∀ (h : Hdr) (sc : Scope) (id : Fin 16) (d : GReg) (s : State), Issues h [.g d] s → (me s).arrivals = [] →
    ∃ t, exec (.barw h sc id d) s = .next t ∧ (me t).regs = putG (me s).regs d 0 ∧ (me t).pc = nextSlot s ∧
      (me t).mode = (me s).mode ∧ MemKept s t)

/-- R192 to R196: the crib instructions seal and ask the slice that g[a] names; CRINIT checks its loft; CHSEND asks the channel's
owner; CHHOLD, CHREADY and CHBIND write the bits of a channel of the issuing tenant; CHNEXT takes the oldest message of the
first deliverable channel. CHBIND.unbind leaving H and Y is the model's choice (log 66), and so are the zero aux and the g[a] in the
address of the ALIGN and PERM packets (log 32). -/
def Obligations.CribsAndChannelsIssue : Prop :=
  let ask (s : State) (who : Agent) (c : Nat) (op : CribOp) : List Flight :=
    [⟨[5, who.ten, who.name, c], .crib who (mySetId s) c op, none⟩]
  (∀ (h : Hdr) (a : GReg) (b : VReg) (s : State), Issues h [.g a, .v b] s → Quiet s →
    ∃ t, exec (.cradd h a b) s = .next t ∧
      Awaits s t (ask s (meAgent s) ((rdG s a).toNat % 2 ^ 13) (.add ((rdV s b).setWidth 512))) .none .begin) ∧
  (∀ (h : Hdr) (d : VReg) (a : GReg) (s : State), Issues h [.v d, .g a] s → Quiet s →
    (∃ t, exec (.crtake h d a) s = .next t ∧
      Awaits s t (ask s (meAgent s) ((rdG s a).toNat % 2 ^ 13) .take) (.crib d.val none) .begin) ∧
    (∀ p : PReg, ∃ t, exec (.crtry h d a p) s = .next t ∧
      Awaits s t (ask s (meAgent s) ((rdG s a).toNat % 2 ^ 13) .tryTake) (.crib d.val (some p.val)) .begin)) ∧
  (∀ (h : Hdr) (d a : GReg) (s : State), Issues h [.g d, .g a] s →
    ∃ t, exec (.crstat h d a) s = .next t ∧
      Awaits s t (ask s (meAgent s) ((rdG s a).toNat % 2 ^ 13) .stat) (.g d.val 8 false) .keep) ∧
  (∀ (h : Hdr) (a b : GReg) (size : Fin 16777216) (s : State), Issues h [.g a, .g b] s → (me s).priv = true →
    ((rdG s b).toNat % 64 ≠ 0 → exec (.crinit h a b size) s = .next (raiseOp cALIGN 0 (rdG s b).toNat s)) ∧
    (Quiet s → (rdG s b).toNat % 64 = 0 → rangeOk (winsOf s) Window.rw (rdG s b).toNat (64 * size.val) = true →
      ∃ t, exec (.crinit h a b size) s = .next t ∧
        Awaits s t (ask s (meAgent (runFromSeal s)) ((rdG s a).toNat % 2 ^ 13) (.bind (rdG s b).toNat size.val (winsOf s))) .none .restart)) ∧
  (∀ (h : Hdr) (a : GReg) (s : State), Issues h [.g a] s → (me s).priv = true → Quiet s →
    ∃ t, exec (.crinitUnbind h a) s = .next t ∧
      Awaits s t (ask s (meAgent (runFromSeal s)) ((rdG s a).toNat % 2 ^ 13) .unbind) .none .restart) ∧
  (∀ (h : Hdr) (a b : GReg) (s : State), Issues h [.g a, .g b, .g (b + 1)] s → Quiet s →
    let ten := (rdG s a).toNat % 2 ^ 24
    (inSet s (mySetId s) ten = false → exec (.chsend h a b) s = .next (raiseOp cPERM 0 (rdG s a).toNat s)) ∧
    (inSet s (mySetId s) ten = true → ∃ t, exec (.chsend h a b) s = .next t ∧
      Awaits s t [⟨remKey (meAgent s) ten, .croft ten (tenAt s ten).epoch (meAgent s)
        (.chsend ((rdG s a).toNat / 2 ^ 24 % 32) (rdG s b) (rdG s (b + 1))) none (.reply 0) false, none⟩] .none .begin)) ∧
  (∀ (h : Hdr) (on : Bool) (a : GReg) (s : State), Issues h [.g a] s → inSet s (mySetId s) (myTen s) = true →
    (rdG s a).toNat % 2 ^ 24 = myTen s →
    let ch := (rdG s a).toNat / 2 ^ 24 % 32
    (∃ t, exec (.chhold h on a) s = .next t ∧ me t = me (retire s) ∧ MemKept s t ∧
      chanOf (tenAt t (myTen s)) ch = { chanOf (tenAt s (myTen s)) ch with h := on }) ∧
    (∃ t, exec (.chready h on a) s = .next t ∧ me t = me (retire s) ∧ MemKept s t ∧
      chanOf (tenAt t (myTen s)) ch = { chanOf (tenAt s (myTen s)) ch with y := on })) ∧
  (∀ (h : Hdr) (hold ready : Bool) (a b : GReg) (s : State), Issues h [.g a, .g b] s → s.cur.2 = 0 →
    let ch := (rdG s a).toNat % 32
    (∃ t, exec (.chbind h hold ready a b) s = .next t ∧ me t = me (retire s) ∧
      chanOf (tenAt t (myTen s)) ch =
        ⟨some ((rdG s b).toNat % 2 ^ 57), hold, ready, (chanOf (tenAt s (myTen s)) ch).q⟩)) ∧
  (∀ (h : Hdr) (hold ready : Bool) (a : GReg) (s : State), Issues h [.g a] s → s.cur.2 = 0 →
    let ch := (rdG s a).toNat % 32
    (∃ t, exec (.chbindUnbind h hold ready a) s = .next t ∧ me t = me (retire s) ∧
      chanOf (tenAt t (myTen s)) ch = { chanOf (tenAt s (myTen s)) ch with slot := none })) ∧
  (∀ (h : Hdr) (d a : GReg) (ch : Nat) (m0 m1 : W64) (q : List (W64 × W64)) (s : State),
    wf (.chnext h d a) = true → Issues h [.g d, .g (d + 1), .g a] s → s.cur.2 = 0 →
    (me s).stage = .open → nextChan (tenAt s (myTen s)) = some ch → (tenAt s (myTen s)).senders = [] →
    (chanOf (tenAt s (myTen s)) ch).q = (m0, m1) :: q → a ≠ d → a ≠ d + 1 →
    ∃ t, exec (.chnext h d a) s = .next t ∧ (me t).pc = nextSlot s ∧
      (me t).regs = putG (putG (putG (me s).regs d m0) (d + 1) m1) a
        (BitVec.ofNat 64 (ch * 2 ^ 58 + (chanOf (tenAt s (myTen s)) ch).slot.getD 0)) ∧
      (chanOf (tenAt t (myTen s)) ch).q = q ∧ (tenAt t (myTen s)).lastChan = ch ∧ (myCroft t).l1 = [])

/-- R197 to R202, R204: a hire whose operands pass their checks seals, reserves a job-ring entry and goes to its fair; HSTAT and
HDROP of a hire that is not of this continuation answer 0; HSTAT of an own hire answers its status word; HDROP of an own hire
that is over answers the packets counted, that of a live one stops it and answers them, at once where no packet of it is on its
way and else when the last has been counted; SHPUSH, on the wain alone, sends a block and counts it outbound. That HSTAT
answers the status the hire has at its issue is the model's reading (log 34). -/
def Obligations.HiresIssue : Prop :=
  (∀ (h : Hdr) (o : HireO) (s : State) (e : Nat), wf (.hire h o) = true →
    Issues h [.g o.d] s → (∀ i (hi : o.s.val + i < 64), i < 4 → inBudget (me s).budget (.g ⟨o.s.val + i, hi⟩) = true) → Quiet s →
    hireBad s (hireReqOf s o) = none → freeRing s (myTen s) = some e → fairLoad s (hireReqOf s o).floor < 1024 →
    ∃ t q, exec (.hire h o) s = .next t ∧ Awaits s t [⟨[], .hire q, none⟩] (.hire o.d.val e) .begin ∧
      q = { hireReqOf s o with ring := e } ∧ (tenAt t (myTen s)).ring = (tenAt s (myTen s)).ring ++ [e]) ∧
  (∀ (h : Hdr) (d a : GReg) (s : State), Issues h [.g d, .g a] s → myHire s (rdG s a) = none →
    (∃ t, exec (.hstat h d a) s = .next t ∧ Awaits s t [answerFlight none (meAgent s) 8 0] (.g d.val 8 false) .keep) ∧
    (∃ t, exec (.hdrop h d a) s = .next t ∧ Awaits s t [answerFlight none (meAgent s) 8 0] (.g d.val 8 false) .keep)) ∧
  (∀ (h : Hdr) (d a : GReg) (s : State) (x : Hire), Issues h [.g d, .g a] s → myHire s (rdG s a) = some x →
    (∃ t, exec (.hstat h d a) s = .next t ∧
      Awaits s t [answerFlight none (meAgent s) 8 (x.state + x.bad.toNat * 2 ^ 8 + x.clamp.toNat * 2 ^ 9 + x.lfault.toNat * 2 ^ 10
        + x.sent % 2 ^ 16 * 2 ^ 16)] (.g d.val 8 false) .keep) ∧
    (x.live = false → x.dropping = false → ∃ t, exec (.hdrop h d a) s = .next t ∧
      Awaits s t [answerFlight none (meAgent s) 8 x.counted.length] (.g d.val 8 false) .keep) ∧
    (x.live = true → x.dropping = false → x.issued = [] → x.waiters = [] → ∃ t y, exec (.hdrop h d a) s = .next t ∧
      (me t).mode = .awaiting ∧ (me t).pc = nextSlot s ∧ (me t).regs = (me s).regs ∧ t.mem = s.mem ∧
      t.net = s.net ++ [answerFlight none (meAgent s) 8 x.counted.length] ∧
      hireAt t x.id = some y ∧ y.state = 6 ∧ y.counted = x.counted) ∧
    (x.live = true → x.dropping = false → ∀ i ∈ x.issued, i ∉ x.counted → i ∉ x.parked →
      ∃ t y, exec (.hdrop h d a) s = .next t ∧ (me t).mode = .awaiting ∧ (me t).pc = nextSlot s ∧
        (me t).regs = (me s).regs ∧ t.mem = s.mem ∧ t.net = s.net ∧
        hireAt t x.id = some y ∧ y.stopped = true ∧ y.dropping = true ∧ y.waiters = x.waiters ++ [meAgent s])) ∧
  (∀ (h : Hdr) (d : VReg) (base x : GReg) (s : State), Issues h [.v d, .g base, .g x] s →
    (s.cur.2 ≠ 15 → exec (.shpush h d base x) s = .next (raiseDec cPRIV s)) ∧
    (s.cur.2 = 15 → (me s).o2 < 255 → ∃ t, exec (.shpush h d base x) s = .next t ∧ (me t).pc = nextSlot s ∧
      (me t).regs = (me s).regs ∧ (me t).o2 = (me s).o2 + 1 ∧ t.mem = s.mem ∧
      t.net = s.net ++ [⟨[4, (meAgent s).ten, (meAgent s).name, (rdG s base).toNat % 2],
        .sheaf (meAgent s) (rdG s base).toNat ((rdG s x).toNat / 2 ^ 32 % 2) ((rdG s x).toNat / 2 ^ 16 % 2 ^ 16)
          ((rdG s x).setWidth 16) ((rdV s d).setWidth 512) (s.now + 1), none⟩]))

/-- R203 to R208, R210, R211, R249, R268, R281: STC to own croft memory stores and counts its bin in the turn, to another place it posts
its store with the bin; STCM, FREEB, GLEAN and MCALL as their entries say where nothing stands in their way, GLEAN once nothing of its
context is outstanding. That GLEAN waits in the rotation, faults UE on a poisoned descriptor and sets bit 15 of the summary, the free of
a multicast without receiver, and an MCALL waiting in the rotation for its mill are the model's reading (logs 60, 24, 27, 28, 67). -/
def Obligations.CountedStoresAndCalls : Prop :=
  (∀ (h : Hdr) (o : StcO) (s : State) (off : Nat), wf (.stc h o) = true → Issues h (stcRns o.data ++ [.g o.base, .g o.x]) s →
    let a := (rdG s o.base + o.disp.signExtend 64).toNat
    let bs := stcBytes s o.data
    let bin := targetOf (rdG s o.x)
    placeOf o.space a = some (.own off) → off + bs.length ≤ 0x10000 → a % 64 + bs.length ≤ 64 →
    inSet s (mySetId s) bin.ten = true → (me s).busy = false → bin.ten = myTen s →
    ∀ hb : bin.bin < 8, findName s (myTen s) bin.name = some s.cur → (slotAt s (myTen s) bin.name).evicted = none →
    ∃ t, exec (.stc h o) s = .next t ∧ (me t).pc = nextSlot s ∧
      (me t).regs = putB (me s).regs ⟨bin.bin, hb⟩ (getB (me s).regs ⟨bin.bin, hb⟩ + 1) ∧
      (∀ b, sread 0 (tenAt t (myTen s)).mem b =
        if off ≤ b ∧ b < off + bs.length then bs.getD (b - off) 0 else sread 0 (tenAt s (myTen s)).mem b)) ∧
  (∀ (h : Hdr) (o : StcO) (s : State) (p : Place), wf (.stc h o) = true → Issues h (stcRns o.data ++ [.g o.base, .g o.x]) s →
    let a := (rdG s o.base + o.disp.signExtend 64).toNat
    let bs := stcBytes s o.data
    let bin := targetOf (rdG s o.x)
    placeOf o.space a = some p → Storable s false p bs.length → a % 64 + bs.length ≤ 64 →
    inSet s (mySetId s) bin.ten = true → (me s).busy = false →
    ∃ t, exec (.stc h o) s = .next t ∧ PostedStores s t [[⟨p, [(p.pos, bs)], none, some bin⟩]]) ∧
  (∀ (h : Hdr) (o : StcmO) (s : State), Issues h (stcmRns o.data ++ [.g o.base, .g o.x]) s →
    let off := (rdG s o.base + o.disp.signExtend 64).toNat % 2 ^ 16
    let n := (stcmBytes s o.data).length
    let f (lo k : Nat) : Nat := (rdG s o.x).toNat / 2 ^ lo % 2 ^ k
    let ts := receivers s (f 0 9)
    let k := if f 0 9 = 2 ^ (fieldOf s.cur.1 % 9) then 1 else 2
    (off % n ≠ 0 → exec (.stcm h o) s = .next (raiseOp cALIGN 0 (0x01FFFF0000000000 + off) s)) ∧
    (off % n = 0 → (me s).busy = true → exec (.stcm h o) s = .next (waitTurn s)) ∧
    (off % n = 0 → (me s).busy = false → ts = [] → ∀ hb : f 19 3 < 8, findName s (myTen s) (me s).name = some s.cur →
      (slotAt s (myTen s) (me s).name).evicted = none →
      ∃ t, exec (.stcm h o) s = .next t ∧ (me t).pc = nextSlot s ∧ t.net = s.net ∧
        (me t).regs = putB (me s).regs ⟨f 19 3, hb⟩ (getB (me s).regs ⟨f 19 3, hb⟩ + 1)) ∧
    (off % n = 0 → (me s).busy = false → ts ≠ [] →
      ∃ t m, exec (.stcm h o) s = .next t ∧ (me t).pc = nextSlot s ∧ (me t).regs = (me s).regs ∧ t.mem = s.mem ∧
        t.net = s.net ++ ts.map (fun r => ⟨[2, myTen s, (me s).name, r], .croft r (tenAt s r).epoch (meAgent s)
          (.stcm (unitsOf [(off, stcmBytes s o.data)]) (f 9 7) (f 16 3) (f 24 8)) none (.cls k (s.now + 1)) false, none⟩) ∧
        (∀ j ∈ [1, 2, 3], countOf j (me t) = countOf j (me s) + if j = k then 1 else 0) ∧
        (tenAt t (myTen s)).frees = (tenAt s (myTen s)).frees ++ [m] ∧ m.tag = f 24 8 ∧ m.name = (me s).name ∧ m.bin = f 19 3 ∧
        m.left = ts)) ∧
  (∀ (h : Hdr) (a : GReg) (tag : BitVec 8) (s : State), Issues h [.g a] s →
    let sender := (rdG s a).toNat % 2 ^ 24
    let k := if fieldOf s.cur.1 = fieldOf (tenAt s sender).core then 1 else 2
    (holdsMulticast s (myTen s) sender tag.toNat = false → ∃ t, exec (.freeb h a tag) s = .next t ∧
      Retired s t (me s).regs) ∧
    (holdsMulticast s (myTen s) sender tag.toNat = true → 255 ≤ countOf k (me s) → exec (.freeb h a tag) s = .next (waitTurn s)) ∧
    (holdsMulticast s (myTen s) sender tag.toNat = true → countOf k (me s) < 255 →
      ∃ t, exec (.freeb h a tag) s = .next t ∧ (me t).pc = nextSlot s ∧ (me t).regs = (me s).regs ∧
        (∀ j ∈ [1, 2, 3], countOf j (me t) = countOf j (me s) + if j = k then 1 else 0) ∧
        t.net = s.net ++ [⟨[6, myTen s, (me s).name, sender],
          .free sender tag.toNat (myTen s) (meAgent s) k (s.now + 1), none⟩])) ∧
  (∀ (h : Hdr) (e : Fin 8) (a : GReg) (bin : BReg) (s : State) (r : Nat), Issues h [.g a] s →
    let off := (rdG s a).toNat % 2 ^ 16
    off % 8 = 0 → off + 32 ≤ 0x10000 →
    (∀ b, poisonIn (fun b => cmMark s (myTen s) b) off 32 = some b →
      exec (.glean h e a bin) s = .next (raiseOp cUE 0 (0x01FFFF0000000000 + b) s)) ∧
    (poisonIn (fun b => cmMark s (myTen s) b) off 32 = none → (me s).busy = true →
      exec (.glean h e a bin) s = .next (waitTurn s)) ∧
    (poisonIn (fun b => cmMark s (myTen s) b) off 32 = none → (me s).busy = false →
    freeRing s (myTen s) = some r → r < 16 → (tenAt s (myTen s)).waiters = [] →
    ∃ t, exec (.glean h e a bin) s = .next t ∧ (me t).pc = nextSlot s ∧ (me t).regs = (me s).regs ∧
      (tenAt t (myTen s)).ring = (tenAt s (myTen s)).ring ++ [r] ∧
      cmGet t (myTen s) (0xFE00 + 32 * e.val) 32 = cmGet s (myTen s) off 32 ∧
      cmFull t (myTen s) (0xFC00 + 32 * r) = true ∧ (cmGet t (myTen s) 0xFF80 8).testBit 15 = true)) ∧
  (∀ (h : Hdr) (e : Fin 32) (a : GReg) (bin : BReg) (s : State) (off : Nat) (w : Window), Issues h [.g a] s → Quiet s →
    (rdG s a).toNat % 8 = 0 → (me s).await = none → OwnAt s .virt (rdG s a).toNat 32 off →
    let va := cmGet s (myTen s) off 8
    let len := cmGet s (myTen s) (off + 8) 8
    coverOf (mySet s).windows va = some w → rangeOk (mySet s).windows Window.rw va len = true →
    ∃ t c, exec (.mcall h e a bin) s = .next t ∧ t.net = s.net ++ [⟨[], .mcall c, none⟩] ∧ c.entry = e.val ∧ c.va.toNat = va ∧
      c.len.toNat = len ∧ c.chan = channelFor w va ∧ c.done = .bin ⟨myTen s, (me s).name, bin.val⟩ ∧
      (me t).pc = (me s).pc ∧ (me t).regs = (me s).regs ∧ t.mem = s.mem)

/-- R212, R213, R228, R325: the context instructions, where their runs can seal at once. SPAWN by the steward starts the lowest free
hand under the lowest free name, with its seeds, and writes its name and number, or writes 0 where there is none; REAP frees an
exited hand and returns its value, or 0 for another; EXIT waits for the hires of its hand and ends its continuation, and for a member of
a launch counts its exit, the last of which completes the launch with its done bit, its interrupt at both Lomwen cores of the die and its
queue packet; SUSP takes a pending resume or parks;
RESUME posts one, counted in its class; YIELD begins the next run where no record waits, and gives its hand up to one where no hand is free. A SPAWN
waits behind a queued record (the model's reading, log 70). The zero aux and the g[a] in the address of the PERM packet are the model's
choice (log 32). -/
def Obligations.ContextInstructions : Prop :=
  (∀ (h : Hdr) (d a b : GReg) (bud : BitVec 14) (s : State), Issues h [.g d, .g a, .g b] s → Quiet s →
    (s.cur.2 ≠ 0 → exec (.spawn h d a b bud) s = .next (raiseDec cPRIV s)) ∧
    (s.cur.2 = 0 → hasRecord s (myTen s) = false → ∀ i k, freeHand s s.cur.1 = some i → freeName s (myTen s) = some k →
      ∃ t, exec (.spawn h d a b bud) s = .next t ∧ NextRun s t (putG (me s).regs d (BitVec.ofNat 64 (k * 256 + i))) ∧
        let y := ctxAt t s.cur.1 i
        y.mode = .running ∧ y.pc = (rdG s a).toNat % 2 ^ 57 ∧ y.runseq = 1 ∧ y.name = k ∧ y.budget = bud ∧
          y.priv = (me s).priv ∧ (slotAt t (myTen s) k).taken = true ∧
          { y.regs with g := Regs.zero.g } = Regs.zero ∧
          ∀ j : GReg, getG y.regs j = if j = 1 ∧ gAdmitted bud 1 = true then rdG s b
            else if j = 4 ∧ gAdmitted bud 4 = true then 0x01FFFF0000000000 else 0) ∧
    (s.cur.2 = 0 → hasRecord s (myTen s) = true → freeHand s s.cur.1 ≠ none → freeName s (myTen s) ≠ none →
      ∃ t, exec (.spawn h d a b bud) s = .next t ∧ (me t).turn = .waiting ∧ (me t).pc = (me s).pc ∧
        (me t).regs = (me s).regs) ∧
    (s.cur.2 = 0 → freeHand s s.cur.1 = none ∨ freeName s (myTen s) = none →
      ∃ t, exec (.spawn h d a b bud) s = .next t ∧ NextRun s t (putG (me s).regs d 0))) ∧
  (∀ (h : Hdr) (d a : GReg) (s : State), Issues h [.g d, .g a] s → Quiet s → s.cur.2 = 0 →
    let i := (rdG s a).toNat % 16
    (1 ≤ i → i ≤ 14 → (ctxAt s s.cur.1 i).mode = .exited → ∃ t, exec (.reap h d a) s = .next t ∧
      NextRun s t (putG (me s).regs d (BitVec.ofNat 64 (2 ^ 32 + (ctxAt s s.cur.1 i).exitVal))) ∧
      (ctxAt t s.cur.1 i).mode = .free) ∧
    ((ctxAt s s.cur.1 i).mode ≠ .exited ∨ i = 0 ∨ i = 15 →
      ∃ t, exec (.reap h d a) s = .next t ∧ NextRun s t (putG (me s).regs d 0))) ∧
  (∀ (h : Hdr) (a : GReg) (s : State), Issues h [.g a] s → Quiet s →
    (s.cur.2 = 0 ∨ s.cur.2 = 15 → exec (.exit h a) s = .next (raiseDec cPRIV s)) ∧
    (1 ≤ s.cur.2 → s.cur.2 ≤ 14 → (me s).hires ≠ [] → ∃ t, exec (.exit h a) s = .next t ∧ (me t).turn = .waiting ∧
      (me t).pc = (me s).pc ∧ (me t).mode = (me s).mode) ∧
    (1 ≤ s.cur.2 → s.cur.2 ≤ 14 → (me s).hires = [] → (me s).origin = .spawned →
      ∃ t, exec (.exit h a) s = .next t ∧ (me t).mode = .exited ∧ (me t).exitVal = (rdG s a).toNat % 2 ^ 32 ∧
        (me t).regs = (me s).regs ∧ t.mem = s.mem ∧ t.dies = s.dies ∧
        ((me s).name < 64 → (slotAt t (myTen s) (me s).name).taken = false)) ∧
    (∀ d id m n l, 1 ≤ s.cur.2 → s.cur.2 ≤ 14 → (me s).hires = [] → (me s).origin = .launch d id m →
      ((dieAt s d).launches.find? fun e => e.2.id == id) = some (n, l) → n < 64 →
      ∃ t, exec (.exit h a) s = .next t ∧ (me t).mode = .free ∧ (me t).regs = (me s).regs ∧ t.mem = s.mem ∧
        ((me s).name < 64 → (slotAt t (myTen s) (me s).name).taken = false) ∧
        (l.exited + 1 ≠ l.size → dieAt t d = { dieAt s d with
          launches := sset (dieAt s d).launches n { l with exited := l.exited + 1, live := l.live.erase m } } ∧
          t.queues = s.queues ∧ t.lomwens = s.lomwens) ∧
        (l.exited + 1 = l.size → dieAt t d = { dieAt s d with
          launches := sdel (dieAt s d).launches n, lmdone := (dieAt s d).lmdone ||| BitVec.ofNat 64 (2 ^ n) } ∧
          (∀ i ∈ [2 * d, 2 * d + 1], lomAt t i = { lomAt s i with pending := (lomAt s i).pending ||| 2 }) ∧
          (∀ i, i ∉ [2 * d, 2 * d + 1] → lomAt t i = lomAt s i) ∧ (l.q = none → t.queues = s.queues) ∧
          ∀ q k, l.q = some (q, k) → ∀ o ∈ (queueAt t q).outs, o.1 ≠ k))) ∧
  (∀ (h : Hdr) (tag : BitVec 8) (s : State), Issues h [] s → Quiet s →
    (tag.toNat ∈ (tenAt s (myTen s)).resumes → ∃ t, exec (.susp h tag) s = .next t ∧ NextRun s t (me s).regs ∧
      (myCroft t).l1 = [] ∧ (tenAt t (myTen s)).resumes = (tenAt s (myTen s)).resumes.erase tag.toNat) ∧
    (tag.toNat ∉ (tenAt s (myTen s)).resumes → ∃ t, exec (.susp h tag) s = .next t ∧ Parks s t .resume tag.toNat 0)) ∧
  (∀ (h : Hdr) (a : GReg) (tag : BitVec 8) (s : State), Issues h [.g a] s → Quiet s →
    let ten := (rdG s a).toNat % 2 ^ 24
    (inSet s (mySetId s) ten = false → exec (.resume h a tag) s = .next (raiseOp cPERM 0 (rdG s a).toNat s)) ∧
    (inSet s (mySetId s) ten = true → ∃ t who id, exec (.resume h a tag) s = .next t ∧ NextRun s t (me s).regs ∧
      let k := if fieldOf s.cur.1 = fieldOf (tenAt s ten).core then 1 else 2
      t.net = s.net ++ [⟨[2, myTen s, (me s).name, ten], .croft ten (tenAt s ten).epoch who (.resume tag.toNat) none (.cls k id) false,
        none⟩] ∧ who.ten = myTen s ∧ who.name = (me s).name ∧ s.now < id ∧
      ∀ j ∈ [1, 2, 3], countOf j (me t) = countOf j (me s) + if j = k then 1 else 0)) ∧
  (∀ (h : Hdr) (s : State), Issues h [] s → Quiet s →
    (hasRecord s (myTen s) = false ∨ s.cur.2 = 0 ∨ s.cur.2 = 15 ∨ freeHand s s.cur.1 ≠ none →
      ∃ t, exec (.yield h) s = .next t ∧ NextRun s t (me s).regs) ∧
    (1 ≤ s.cur.2 → s.cur.2 ≤ 14 → hasRecord s (myTen s) = true → freeHand s s.cur.1 = none →
      ∃ t, exec (.yield h) s = .next t ∧ (me t).mode = .free ∧ (slotAt t (myTen s) (me s).name).evicted.isSome = true))

/-- R88, R202, R214, R215, R349: the privileged instructions fault PRIV in an unprivileged context; in a privileged one SWAPCTL
writes the fields of its die and reads them; FAIRCTL .resume re-queues a hire that stands at a rick and writes its status word,
and writes that of another hire as it stands, .drop acts as HDROP, .stat counts the hires queued, the free threshers and the
ricks in use, 0 for a hire that is none of its floor's; SHOOT with no older walk or fill under way advances the generation and completes
in its turn, its lines and translations of the range gone. SWAPCTL's writes leave g[d] (the model's reading, log 38). -/
def Obligations.PrivilegedInstructions : Prop :=
  (∀ (h : Hdr) (d a b : GReg) (f : Bool) (n : Fin 8) (z : Fin 16777216) (s : State), (me s).priv = false →
    ∀ i ∈ [Instr.shoot h d a b, .fairctlResume h d a f, .fairctlDrop h d a f, .fairctlStat h d f, .swapctlWindow h d b n,
      .swapctlTheta h d b n, .swapctlEnable h d b n, .swapctlRead h d n, .crinit h a b z, .crinitUnbind h a],
      exec i s = .next (raiseDec cPRIV s)) ∧
  (∀ (h : Hdr) (d b : GReg) (n : Fin 8) (s : State), Issues h [.g d, .g b] s → (me s).priv = true → Quiet s →
    (∃ t, exec (.swapctlWindow h d b n) s = .next t ∧ NextRun s t (me s).regs ∧
      dieAt t n.val = { dieAt s n.val with window := Max.max 1 (Min.min (rdG s b).toNat (2 ^ 24)) }) ∧
    (∃ t, exec (.swapctlTheta h d b n) s = .next t ∧ NextRun s t (me s).regs ∧
      dieAt t n.val = { dieAt s n.val with theta := (rdG s b).toNat % 2 ^ 32 }) ∧
    (∃ t, exec (.swapctlEnable h d b n) s = .next t ∧ NextRun s t (me s).regs ∧
      dieAt t n.val = { dieAt s n.val with enable := (rdG s b).getLsbD 0 })) ∧
  (∀ (h : Hdr) (d : GReg) (n : Fin 8) (s : State), Issues h [.g d] s → (me s).priv = true → Quiet s →
    ∃ t x, exec (.swapctlRead h d n) s = .next t ∧ NextRun s t (putG (me s).regs d x) ∧
      x.toNat % 2 ^ 25 = (dieAt s n.val).window % 2 ^ 25 ∧ x.getLsbD 31 = (dieAt s n.val).enable ∧
      x.toNat / 2 ^ 32 = (dieAt s n.val).theta % 2 ^ 32) ∧
  (∀ (h : Hdr) (d a : GReg) (f : Bool) (s : State), Issues h [.g d, .g a] s → (me s).priv = true → Quiet s →
    let status (st : Nat) (lf : Bool) (x : Hire) : W64 :=
      BitVec.ofNat 64 (st + x.bad.toNat * 2 ^ 8 + x.clamp.toNat * 2 ^ 9 + lf.toNat * 2 ^ 10 + x.sent % 2 ^ 16 * 2 ^ 16)
    (floorHire s a f = none →
      (∃ t, exec (.fairctlResume h d a f) s = .next t ∧ NextRun s t (putG (me s).regs d 0)) ∧
      (∃ t, exec (.fairctlDrop h d a f) s = .next t ∧ NextRun s t (putG (me s).regs d 0))) ∧
    (∀ x, floorHire s a f = some x →
      (x.state = 3 → x.dropping = false → ∃ t y, exec (.fairctlResume h d a f) s = .next t ∧
        NextRun s t (putG (me s).regs d (status 1 false x)) ∧ hireAt t x.id = some y ∧ y.state = 1 ∧ y.resumed = true ∧
        y.parked = []) ∧
      (x.state ≠ 3 → ∃ t, exec (.fairctlResume h d a f) s = .next t ∧
        NextRun s t (putG (me s).regs d (status x.state x.lfault x)) ∧ t.fairs = s.fairs) ∧
      (x.live = false → x.dropping = false → ∃ t, exec (.fairctlDrop h d a f) s = .next t ∧
        NextRun s t (putG (me s).regs d (BitVec.ofNat 64 x.counted.length)) ∧ t.fairs = s.fairs) ∧
      (x.live = true → x.dropping = false → x.issued = [] → ∃ t y, exec (.fairctlDrop h d a f) s = .next t ∧
        NextRun s t (putG (me s).regs d (BitVec.ofNat 64 x.counted.length)) ∧ hireAt t x.id = some y ∧ y.state = 6))) ∧
  (∀ (h : Hdr) (d : GReg) (f : Bool) (s : State), Issues h [.g d] s → (me s).priv = true → Quiet s →
    let k := fairAt s f.toNat
    ∃ t, exec (.fairctlStat h d f) s = .next t ∧ NextRun s t (putG (me s).regs d (BitVec.ofNat 64
      (((hiresOf k).filter fun x => x.state == 1).length
        + (if s.mgmt.floors.getLsbD f.toNat then (freeThreshers k).length else 0) * 2 ^ 16
        + ((hiresOf k).filter fun x => x.rick).length * 2 ^ 24)))) ∧
  (∀ (h : Hdr) (d a b : GReg) (s : State), Issues h [.g d, .g a, .g b] s → (me s).priv = true → Quiet s →
    let r := shootRange (rdG s a).toNat (rdG s b).toNat
    ShootClear s (mySetId s) r →
    ∃ t, exec (.shoot h d a b) s = .next t ∧ NextRun s t (putG (me s).regs d (((mySet s).gen + 1).setWidth 64)) ∧
      ShotDown s t (mySetId s) r)

/-! ## Mills -/

/-- R282, R284: END ends the call, begins the next one at its entry with its arguments, and counts the completion of an MCALL in
its bin; BR, LI and ADD change the micro-address and one register. -/
def Obligations.MillRegisterSteps : Prop :=
  ∀ (o : Micro) (s : State) (c : Call), running s = some c →
    let go (t : State) (m : Mill) : Prop := millAt t = m ∧ { t with chans := s.chans, banks := s.banks } = s ∧
      ∀ b, (bankAt t b).lines = (bankAt s b).lines
    let taken : Prop := o.cond = 0 ∨ (o.cond = 1 ∧ (millAt s).z = true) ∨ (o.cond = 2 ∧ (millAt s).z = false) ∨
      (o.cond = 3 ∧ (millAt s).m[o.ra] ≠ 0) ∨ (o.cond = 4 ∧ (millAt s).m[o.ra] = 0)
    (∃ t, exec (.millLi o) s = .next t ∧
      go t { millAt s with m := (millAt s).m.set o.rd o.imm, upc := ((millAt s).upc + 1) % 256 }) ∧
    (∃ t, exec (.millAdd o) s = .next t ∧
      go t { millAt s with m := (millAt s).m.set o.rd ((millAt s).m[o.ra] + o.imm), upc := ((millAt s).upc + 1) % 256 }) ∧
    (taken → ∃ t, exec (.millBr o) s = .next t ∧ go t { millAt s with upc := o.tgt.toNat }) ∧
    (¬ taken → ∃ t, exec (.millBr o) s = .next t ∧ go t { millAt s with upc := ((millAt s).upc + 1) % 256 }) ∧
    (∃ t, exec (.millEnd o) s = .next t ∧
      ((millAt s).queue = [] → (millAt t).call = none) ∧
      (∀ d q, (millAt s).queue = d :: q → (millAt t).call = some d ∧ (millAt t).queue = q ∧ (millAt t).z = false ∧
        (millAt t).upc = (sread (false, 0) (millAt s).entry d.entry).2 ∧
        (millAt t).m = #v[d.va, d.len &&& ~~~63, d.a1, d.a2, 0, 0, 0, 0])) ∧
    (∀ (b : Target) (i : Nat × Nat) (hb : b.bin < 8), c.done = .bin b → findName s b.ten b.name = some i →
      (slotAt s b.ten b.name).evicted = none → ∃ t, exec (.millEnd o) s = .next t ∧
        getB (ctxAt t i.1 i.2).regs ⟨b.bin, hb⟩ = getB (ctxAt s i.1 i.2).regs ⟨b.bin, hb⟩ + 1 ∧ t.mem = s.mem)

/-- R284 to R286: each line step whose line is reached changes one line as its row says, element by element in the type's
arithmetic of R59, leaves every other line and register, and goes on, a line that no barn holds having passed through the line buffer of
the channel that owns its frame; a line that is not reached makes the step wait, no line changed, in a fault bay where its page
faults and for its turn or its fill at the line's home otherwise. Steps on poisoned lines, the word an unaligned STW writes, and the zero
that LRED leaves above its type are the model's reading and choice (logs 36, 35, 87). -/
def Obligations.MillLineSteps : Prop :=
  ∀ (o : Micro) (s : State) (c : Call), running s = some c → BanksTidy s →
    let r (i : Fin 8) : Nat := (mreg s i).toNat
    let t := microType o
    let a := (mreg s o.rb).toNat % 2 ^ t.width
    let la := r o.ra / 64 * 64
    let ld := r o.rd / 64 * 64
    let one (l : Nat) (w : Bool) : Reach := reachLine (leaveBanks s s.unit [(l, false)]) c l w false
    let first : Reach := reachLine (leaveBanks s s.unit [(la, true), (ld, false)]) c la false true
    let writes : List Instr := [.lfill o, .lzmk o, .stw o]
    let reads : List Instr := [.ltz o, .lred o]
    let both : List Instr := [.lcopy o, .lfma o, .lscal o]
    (∀ r' pa wt g, one ld true = .at_ r' pa wt g →
      let old := physLine s pa
      let ls (x : LineWord) := passing g x (millLines s)
      (∃ t x, exec (.lfill o) s = .next t ∧ LineStep s t pa x old.2 (ls x) ∧ ∀ i < 8, lineElem 64 x i = o.imm.toNat) ∧
      (∃ t, exec (.lzmk o) s = .next t ∧ LineStep s t pa old.1 0 (ls old.1)) ∧
      (∃ t x, exec (.stw o) s = .next t ∧ LineStep s t pa x old.2 (ls x) ∧ ∀ i < 8,
        lineElem 64 x i = if i = r o.rd % 64 / 8 then r o.ra else lineElem 64 old.1 i)) ∧
    (∀ r' pa wt g, one la false = .at_ r' pa wt g →
      let ls := passing g (physLine s pa).1 (millLines s)
      (∃ u, exec (.ltz o) s = .next u ∧ (∀ q, physLine u q = physLine s q) ∧
        (∀ k, k ≠ s.unit → (chanAt u k).mill = { (chanAt s k).mill with line := ls k }) ∧
        millAt u = { millAt s with
          z := (physLine s pa).1 == 0, upc := ((millAt s).upc + 1) % 256, line := ls s.unit }) ∧
      (∃ u, exec (.lred o) s = .next u ∧ (∀ q, physLine u q = physLine s q) ∧
        (∀ k, k ≠ s.unit → (chanAt u k).mill = { (chanAt s k).mill with line := ls k }) ∧
        let v := (List.range (512 / t.width)).foldl (fun v i => lineAdd t v (lineElem t.width (physLine s pa).1 i))
          (r o.rd % 2 ^ t.width)
        millAt u = { millAt s with
          m := (millAt s).m.set o.rd (BitVec.ofNat 64 v), upc := ((millAt s).upc + 1) % 256, line := ls s.unit })) ∧
    (∀ r' pa wt g r'' pb wt' h, first = .at_ r' pa wt g → reachLine r' c ld true false = .at_ r'' pb wt' h →
      let x := (physLine s pa).1
      let ls (z : LineWord) := passing h z (passing g x (millLines s))
      (∃ u, exec (.lcopy o) s = .next u ∧ LineStep s u pb x (physLine s pa).2 (ls x)) ∧
      (∃ u z, exec (.lfma o) s = .next u ∧ LineStep s u pb z (physLine s pb).2 (ls z) ∧ ∀ i < 512 / t.width,
        lineElem t.width z i = lineFma t a (lineElem t.width x i) (lineElem t.width (physLine s pb).1 i) % 2 ^ t.width) ∧
      (∃ u z, exec (.lscal o) s = .next u ∧ LineStep s u pb z (physLine s pb).2 (ls z) ∧ ∀ i < 512 / t.width,
        lineElem t.width z i = lineMul t a (lineElem t.width x i) % 2 ^ t.width)) ∧
    (∀ r', (one ld true = .wait r' → ∀ i ∈ writes, exec i s = .next r' ∧ StepWaits s r' true) ∧
      (one ld true = .busy r' → ∀ i ∈ writes, exec i s = .next r' ∧ StepWaits s r' false) ∧
      (one la false = .wait r' → ∀ i ∈ reads, exec i s = .next r' ∧ StepWaits s r' true) ∧
      (one la false = .busy r' → ∀ i ∈ reads, exec i s = .next r' ∧ StepWaits s r' false) ∧
      (first = .wait r' → ∀ i ∈ both, exec i s = .next r' ∧ StepWaits s r' true) ∧
      (first = .busy r' → ∀ i ∈ both, exec i s = .next r' ∧ StepWaits s r' false) ∧
      (∀ u pa wt g, first = .at_ u pa wt g → reachLine u c ld true false = .wait r' →
        ∀ i ∈ both, exec i s = .next r' ∧ StepWaits s r' true) ∧
      (∀ u pa wt g, first = .at_ u pa wt g → reachLine u c ld true false = .busy r' →
        ∀ i ∈ both, exec i s = .next r' ∧ StepWaits s r' false))

/-! ## Lomwen cores -/

/-- R318 to R324: the custom instructions. LM.BEXT extracts a field or raises 27; LM.SWAIT waits, takes the pending signals of its mask
and clears them, or raises 28; LM.RFETCH returns 0 at the end of its ring, or raises 24, 25 or 26; with its checks passed, it reads its
packet unit by unit, and with the last one copies the words into SRAM, moves FETCH and returns LEN (log 7); LM.DISP takes a launch slot or
raises 29 or 30; a read of lmdone returns the bits and clears them. x0 reads zero and discards writes. The entry of a trap and the
function a cursor reads for are the model's choices (logs 48, 49). -/
def Obligations.LomwenInstructions : Prop :=
  (∀ (o : LmO) (s : State),
    let b := (xreg s o.b).toNat
    (b / 256 % 128 = 0 ∨ 64 < b % 64 + b / 256 % 128 → ∃ t, exec (.lmBext o) s = .next t ∧ LomTrapped s t 27) ∧
    (b / 256 % 128 ≠ 0 → b % 64 + b / 256 % 128 ≤ 64 → ∃ t, exec (.lmBext o) s = .next t ∧
      LomPassed s t (fun k => if o.d = 0 then k else
        { k with x := k.x.set o.d (BitVec.ofNat 64 ((xreg s o.a).toNat / 2 ^ (b % 64) % 2 ^ (b / 256 % 128))) }))) ∧
  (∀ (d a : Fin 32) (s : State),
    let m := xreg s a
    let p := (lomAt s s.unit).pending
    (m = 0 ∨ 64 ≤ m.toNat → ∃ t, exec (.lmSwait d a) s = .next t ∧ LomTrapped s t 28) ∧
    (m ≠ 0 → m.toNat < 64 → p &&& m = 0 → exec (.lmSwait d a) s = .next s) ∧
    (m ≠ 0 → m.toNat < 64 → p &&& m ≠ 0 → ∃ t, exec (.lmSwait d a) s = .next t ∧
      LomPassed s t (fun k => { k with
        pending := p &&& ~~~ (p &&& m), x := if d = 0 then k.x else k.x.set d (p &&& m) }))) ∧
  (∀ (o : LmO) (s : State), (lomAt s s.unit).rfetch = none →
    let c := (xreg s o.a).toNat
    let k := cursorQueue s c
    let d := (xreg s o.b).toNat
    (c % 8 ≠ 0 ∨ k.log2 < 12 ∨ 25 < k.log2 → ∃ t, exec (.lmRfetch o) s = .next t ∧ LomTrapped s t 25) ∧
    (c % 8 = 0 → 12 ≤ k.log2 → k.log2 ≤ 25 →
      (k.fetch = k.tail → ∃ t, exec (.lmRfetch o) s = .next t ∧
        LomPassed s t (fun k => if o.d = 0 then k else { k with x := k.x.set o.d 0 })) ∧
      (k.fetch ≠ k.tail → k.host = false → funcSet s k.func = none →
        ∃ t, exec (.lmRfetch o) s = .next t ∧ LomTrapped s t 26) ∧
      (k.fetch ≠ k.tail → k.host = true →
        let len := loadBytes s.hostMem (k.base + k.fetch) 8 / 256 % 256
        let avail := (k.tail + 2 ^ k.log2 - k.fetch % 2 ^ k.log2) % 2 ^ k.log2
        (len = 0 ∨ avail < 8 * len → ∃ t, exec (.lmRfetch o) s = .next t ∧ LomTrapped s t 24) ∧
        (len ≠ 0 → 8 * len ≤ avail → d % 8 ≠ 0 ∨ inSram d (8 * len) = false →
          ∃ t, exec (.lmRfetch o) s = .next t ∧ LomTrapped s t 25) ∧
        (len ≠ 0 → 8 * len ≤ avail → d % 8 = 0 → inSram d (8 * len) = true →
          exec (.lmRfetch o) s = .next (updLom s s.unit fun x => { x with rfetch := some (len, k) }))))) ∧
  (∀ (o : LmO) (s : State) (len : Nat) (k : Queue), (lomAt s s.unit).rfetch = some (len, k) → k.host = true →
    let c := (xreg s o.a).toNat
    let d := (xreg s o.b).toNat
    let now (i : Nat) : W64 := BitVec.ofNat 64 (loadBytes s.hostMem (k.base + (k.fetch + 8 * i) % 2 ^ k.log2) 8)
    ∃ ws, (∀ w ∈ k.words, w ∈ ws) ∧ (∀ w ∈ ws, w ∈ k.words ∨ (w.1 < len ∧ w.2 = now w.1 ∧ ∀ x ∈ k.words, x.1 ≠ w.1)) ∧
      ((∃ i < len, ∀ w ∈ k.words, w.1 ≠ i) → ∃ i < len, (∀ w ∈ k.words, w.1 ≠ i) ∧ ∃ w ∈ ws, w.1 = i) ∧
      ((∃ i < len, ∀ w ∈ ws, w.1 ≠ i) → exec (.lmRfetch o) s = .next { updLom s s.unit fun x =>
        { x with rfetch := some (len, { k with words := ws }) } with free := s.free + 1 }) ∧
      (∀ xs : List W64, (∀ i < len, ∃ w, ws.find? (fun w => w.1 == i) = some w ∧ xs[i]? = some w.2) → xs.length = len →
        inSram (c + 20) 4 = true → k.log2 ≤ 25 →
        ∃ t, exec (.lmRfetch o) s = .next t ∧ (lomAt t s.unit).pc = (lomAt s s.unit).pc + 4 ∧ (lomAt t s.unit).rfetch = none ∧
          (o.d ≠ 0 → (lomAt t s.unit).x[o.d] = BitVec.ofNat 64 len) ∧
          (∀ x, x < c + 20 ∨ c + 24 ≤ x → sread 0 (lomAt t s.unit).sram x =
            sread 0 (storeBytes (lomAt s s.unit).sram d (xs.flatMap fun w => toBytes 8 w.toNat)) x) ∧
          loadBytes (lomAt t s.unit).sram (c + 20) 4 = (k.fetch + 8 * len) % 2 ^ k.log2)) ∧
  (∀ (o : LmO) (s : State),
    let a := (xreg s o.a).toNat
    let ws := (List.range 5).map fun i => BitVec.ofNat 64 (lomLoad s (a + 8 * i) 8)
    let w0 := (ws.getD 0 0).toNat
    let p : Packet := ⟨w0.testBit 16, w0.testBit 17, BitVec.ofNat 8 (w0 / 2 ^ 24), ws⟩
    let f := (queueAt s ((xreg s o.b).toNat % 4096)).func
    let l := launchOf p none ((funcSet s f).getD 0) (s.now + 1)
    let ok : Prop := a % 8 = 0 ∧ inSram a 40 = true ∧ wf (.launch p) = true ∧ slotOk l.entry = true
    (¬ ok → ∃ t, exec (.lmDisp o) s = .next t ∧ LomTrapped s t 29) ∧
    (ok → launchRefused s f l = true → ∃ t, exec (.lmDisp o) s = .next t ∧ LomTrapped s t 30) ∧
    (ok → launchRefused s f l = false → freeLaunch s (s.unit / 2) = none → exec (.lmDisp o) s = .next s) ∧
    (∀ n, ok → launchRefused s f l = false → freeLaunch s (s.unit / 2) = some n → ∃ t, exec (.lmDisp o) s = .next t ∧
      (dieAt t (s.unit / 2)).launches = sset (dieAt s (s.unit / 2)).launches n l ∧
      (lomAt t s.unit).pc = (lomAt s s.unit).pc + 4 ∧ (o.d ≠ 0 → (lomAt t s.unit).x[o.d] = BitVec.ofNat 64 n) ∧
      t.mem = s.mem)) ∧
  (∀ (d : Fin 32) (s : State), ∃ t, exec (.lmdoneRead d) s = .next t ∧
    (dieAt t (s.unit / 2)).lmdone = 0 ∧ (lomAt t s.unit).pc = (lomAt s s.unit).pc + 4 ∧
    (d ≠ 0 → (lomAt t s.unit).x[d] = (dieAt s (s.unit / 2)).lmdone) ∧ (lomAt t s.unit).x.toList.take 1 =
      (lomAt s s.unit).x.toList.take 1 ∧ t.mem = s.mem)

/-! ## Queues -/

/-- R309 to R311, R313 to R316: a packet that stands alone at the issue point of its queue. NOP and FFENCE complete at once and the ring-level
packet retires; IB and LOOP give way to their bodies; LAUNCH takes a launch slot, COPY and MILL send a mill call, WAITMEM reads
its word and the queue waits, SIGNAL writes or adds its value, and each waits for its completion. A COPY whose
destination fails its check stops its queue with ERR 0x07 (the model's reading, log 43). A queue that is not active,
and a packet that waits for earlier ones, issue nothing. -/
def Obligations.PacketsIssue : Prop :=
  let active (s : State) : Nat := if (queueAt s s.unit).head = (queueAt s s.unit).tail then 1 else 2
  (∀ (p : Packet) (s : State) (next : Nat) (int : Bool),
    (AtHead s p (.packetNop p) next int → ∃ t, exec (.packetNop p) s = .next t ∧ QRetired s t next int) ∧
    (AtHead s p (.ffence p) next int → ∃ t, exec (.ffence p) s = .next t ∧ QRetired s t next int) ∧
    (∀ l : Launch, AtHead s p (.launch p) next int →
      l = launchOf p (some (s.unit, (queueAt s s.unit).seq)) ((funcSet s (queueAt s s.unit).func).getD 0) (s.now + 1) →
      slotOk l.entry = true → launchRefused s (queueAt s s.unit).func l = false →
      ∀ n, freeLaunch s (s.unit / 512) = some n → ∃ t, exec (.launch p) s = .next t ∧ QOwed s t next int .launch (active s) ∧
        (dieAt t (s.unit / 512)).launches = sset (dieAt s (s.unit / 512)).launches n l) ∧
    (∀ b c, AtHead s p (.copyPacket p) next int → funcSet s (queueAt s s.unit).func = some b →
      rangeOk (setAtId s b).windows Window.w (pword p 2).toNat (pword p 3).toNat = true →
      setCall s b 1 (pword p 1) (pword p 3) (pword p 2) 0 (.queue s.unit (queueAt s s.unit).seq)
        [((pword p 2).toNat, (pword p 3).toNat)] = some c →
      ∃ t, exec (.copyPacket p) s = .next t ∧ QOwed s t next int .call (active s) ∧ t.net = s.net ++ [⟨[], .mcall c, none⟩]) ∧
    (∀ b, AtHead s p (.copyPacket p) next int → funcSet s (queueAt s s.unit).func = some b →
      rangeOk (setAtId s b).windows Window.w (pword p 2).toNat (pword p 3).toNat = false →
      ∃ t, exec (.copyPacket p) s = .next t ∧ (queueAt t s.unit).state = 4 ∧ (queueAt t s.unit).err = 7 ∧
        (queueAt t s.unit).head = (queueAt s s.unit).head ∧ t.net = s.net) ∧
    (∀ b c, AtHead s p (.millPacket p) next int → funcSet s (queueAt s s.unit).func = some b →
      setCall s b (p.f 0 32 5) (pword p 1) (pword p 2) (pword p 3) (pword p 4)
        (.queue s.unit (queueAt s s.unit).seq) [] = some c →
      ∃ t, exec (.millPacket p) s = .next t ∧ QOwed s t next int .call (active s) ∧ t.net = s.net ++ [⟨[], .mcall c, none⟩]) ∧
    (∀ b r, AtHead s p (.waitmem p) next int → funcSet s (queueAt s s.unit).func = some b →
      rangeOk (setAtId s b).windows Window.r (p.f 1 0 64) 8 = true → hostRes s b (p.f 1 0 64) = some r →
      ∃ t, exec (.waitmem p) s = .next t ∧ t.mem = s.mem ∧
        queueAt t s.unit = { queueAt s s.unit with state := 3, outs := [((queueAt s s.unit).seq, .waitmem p)] } ∧
        t.net = s.net ++ [⟨[], .home ⟨setAgent b, .host, r, p.f 1 0 64, .load 8 false, none,
          .queue s.unit (queueAt s s.unit).seq⟩, none⟩]) ∧
    (∀ b r, AtHead s p (.signal p) next int → funcSet s (queueAt s s.unit).func = some b →
      p.kf.getLsbD 1 = false → rangeOk (setAtId s b).windows Window.w (p.f 1 0 64) 8 = true →
      hostRes s b (p.f 1 0 64) = some r →
      ∃ t, exec (.signal p) s = .next t ∧ QOwed s t next int (.signal (p.kf.getLsbD 0)) (active s) ∧
        t.net = s.net ++ [⟨[], .home ⟨setAgent b, .host, r, p.f 1 0 64, .store [(p.f 1 0 64, toBytes 8 (p.f 2 0 64))] none,
          none, .queue s.unit (queueAt s s.unit).seq⟩, none⟩]) ∧
    (∀ b r, AtHead s p (.signal p) next int → funcSet s (queueAt s s.unit).func = some b →
      p.kf.getLsbD 1 = true → rangeOk (setAtId s b).windows Window.rw (p.f 1 0 64) 8 = true →
      hostRes s b (p.f 1 0 64) = some r →
      ∃ t, exec (.signal p) s = .next t ∧ QOwed s t next int (.signal (p.kf.getLsbD 0)) (active s) ∧
        t.net = s.net ++ [⟨[], .home ⟨setAgent b, .host, r, p.f 1 0 64,
          .atom 8 (.int .add) (.one (setAgent b) (p.f 2 0 64) 0 false 0 0 0), none,
          .queue s.unit (queueAt s s.unit).seq⟩, none⟩])) ∧
  (∀ (p : Packet) (s : State) (i j : Instr) (c d : Cursor) (rest : List Item),
    let k := queueAt s s.unit
    k.state = 2 → k.preempt = false → k.disable = false → k.replay = [] → k.ip = 0 → k.iter = none → k.skip = none →
    k.outs = [] → k.closed = [] → k.items = .pkt i c :: .pkt j d :: rest →
    (i = .ib p → ∃ t, exec i s = .next t ∧ (queueAt t s.unit).items = .pkt j d :: rest ∧
      (queueAt t s.unit).head = k.head ∧ { t with queues := s.queues } = s) ∧
    (i = .loopPacket p → ∃ t, exec i s = .next t ∧ (queueAt t s.unit).items = .pkt j d :: rest ∧
      (queueAt t s.unit).iter = some (p.f 0 32 16, true) ∧ (queueAt t s.unit).head = k.head ∧
      { t with queues := s.queues } = s)) ∧
  (∀ (p : Packet) (s : State),
    let k := queueAt s s.unit
    (k.state ≠ 2 ∨ k.preempt = true ∨ k.disable = true → ∀ i ∈ [Instr.packetNop p, .launch p, .copyPacket p, .millPacket p,
      .waitmem p, .ib p, .loopPacket p, .ffence p, .signal p], exec i s = .next s) ∧
    (k.state = 2 → k.replay = [] → k.outs ≠ [] → exec (.ffence p) s = .next s ∧ exec (.signal p) s = .next s))

/-- R312, R329, R330, R349, R351: the management requests. A request of a locked interface is refused LOCKED, one on a queue of another
function BAD; else each has its effect and answers OK, QDISABLE and QPREEMPT once issued work has completed and the save is written, and
until then they stay pending. ASHOOT with no older walk or fill under way completes at once. The doorbell makes a request pending for the
owner's driver. An enabled queue keeps what it had issued but a WAITMEM (log 90). The status of a request with several faults, and the
physical address of a save, are the model's reading (logs 12, 46, 56, 39). -/
def Obligations.ManagementRequests : Prop :=
  (∀ (f q : Nat) (base size vec addr data set : W64) (v : Nat) (s : State), isLocked s f = true → s.mailbox.begun = false →
    ∀ i ∈ [Instr.qconfig f q base size vec, .qenable f q, .qdisable f q, .mrconfig f base size vec, .irqroute f v addr data,
      .fbind f set], exec i s = .next (answer s 0x21)) ∧
  (∀ (f q : Nat) (s : State), isLocked s f = false → s.mailbox.begun = false → (queueAt s q).func ≠ f → ∀ i ∈ [Instr.qenable f q, .qdisable f q,
    .qpreempt f q, .qrestore f q], exec i s = .next (answer s 0x01)) ∧
  (∀ (f q : Nat) (base size vec : W64) (s : State), wf (.qconfig f q base size vec) = true → isLocked s f = false →
    ((queueAt s q).state ≠ 0 → exec (.qconfig f q base size vec) s = .next (answer s 0x02)) ∧
    ((queueAt s q).state = 0 → ∃ t, exec (.qconfig f q base size vec) s = .next t ∧ t.mailbox = (answer s 0).mailbox ∧
      { t with queues := s.queues, mailbox := s.mailbox } = s ∧
      (let k := queueAt t q
       k.base = base.toNat % 2 ^ 57 ∧ k.host = base.getLsbD 57 ∧ k.log2 = size.toNat ∧ k.vec = vec.toNat % 256 ∧
        k.ien = vec.getLsbD 8 ∧ k.func = f ∧ k.state = 0 ∧ k.head = 0 ∧ k.fetch = 0 ∧ k.tail = 0 ∧ k.err = 0))) ∧
  (∀ (f q : Nat) (s : State), isLocked s f = false → (queueAt s q).func = f →
    (s.mgmt.dies.getLsbD (q / 512) = true → ∃ t, exec (.qenable f q) s = .next t ∧ t.mailbox = (answer s 0).mailbox ∧
      (queueAt t q).state = 1 ∧ (queueAt t q).head = (queueAt s q).tail ∧ (queueAt t q).fetch = (queueAt s q).tail ∧
      (queueAt t q).err = 0 ∧ (queueAt t q).items = [] ∧
      (∀ o, o ∈ (queueAt t q).outs ↔ o ∈ (queueAt s q).outs ∧ o.2 ≠ .failed ∧ ∀ p, o.2 ≠ .waitmem p)) ∧
    (s.mailbox.begun = false → (∀ o ∈ (queueAt s q).outs, o.2 = .failed) → ∃ t, exec (.qdisable f q) s = .next t ∧
      t.mailbox = (answer s 0).mailbox ∧ (queueAt t q).state = 0) ∧
    (s.mailbox.begun = false → (queueAt s q).state ≠ 0 → ∀ o ∈ (queueAt s q).outs, o.2 ≠ .failed →
      ∃ t, exec (.qdisable f q) s = .next t ∧ t.mailbox = { s.mailbox with begun := true } ∧
        (queueAt t q).disable = true ∧ (queueAt t q).outs = (queueAt s q).outs)) ∧
  (∀ (f q : Nat) (s : State), s.mailbox.begun = true →
    ((queueAt s q).state = 0 → exec (.qdisable f q) s = .next (answer s 0)) ∧
    ((queueAt s q).func = f → (queueAt s q).state = 5 → exec (.qpreempt f q) s = .next (answer s 0))) ∧
  (∀ (f : Nat) (base size vec : W64) (s : State), wf (.mrconfig f base size vec) = true → isLocked s f = false →
    ∃ t, exec (.mrconfig f base size vec) s = .next t ∧ t.mailbox = (answer s 0).mailbox ∧
      (let k := (funcAt t f).mring
       k.base = base.toNat % 2 ^ 57 ∧ k.host = base.getLsbD 57 ∧ k.log2 = size.toNat ∧ k.vec = vec.toNat % 256 ∧
        k.ien = vec.getLsbD 8)) ∧
  (∀ (f v : Nat) (addr data : W64) (s : State), isLocked s f = false →
    ∃ t, exec (.irqroute f v addr data) s = .next t ∧ t.mailbox = (answer s 0).mailbox ∧
      sread (0, 0) (funcAt t f).irqs v = (addr, data)) ∧
  (∀ (f : Nat) (set : W64) (s : State), isLocked s f = false →
    let b := set.toNat % 2 ^ 24
    (b = 0xFFFFFF → ∃ t, exec (.fbind f set) s = .next t ∧ t.mailbox = (answer s 0).mailbox ∧ (funcAt t f).set = none) ∧
    (b ≠ 0xFFFFFF → (setAtId s b).count = 0 → exec (.fbind f set) s = .next (answer s 0x01)) ∧
    (b ≠ 0xFFFFFF → (setAtId s b).count ≠ 0 → ∃ t, exec (.fbind f set) s = .next t ∧
      t.mailbox = (answer s 0).mailbox ∧ (funcAt t f).set = some b)) ∧
  (∀ (f q : Nat) (s : State), (queueAt s q).func = f →
    (s.mailbox.begun = false → (queueAt s q).state = 1 ∨ (queueAt s q).state = 2 ∨ (queueAt s q).state = 3 →
      ∃ t, exec (.qpreempt f q) s = .next t ∧ t.mailbox = { s.mailbox with begun := true } ∧
        queueAt t q = { queueAt s q with preempt := true }) ∧
    ((queueAt s q).state = 5 → ∃ t, exec (.qrestore f q) s = .next t ∧ t.mailbox = (answer s 0).mailbox ∧
      (queueAt t q).tail = memGet s ((queueAt s q).save + 12) 4 ∧ (queueAt t q).save = 0 ∧
      (queueAt t q).state = (if (queueAt s q).head = (queueAt t q).tail then 1 else 2))) ∧
  (∀ (f : Nat) (va len : W64) (s : State) (b : Nat), funcSet s f = some b → s.mailbox.gen = none →
    ShootClear s b (shootRange va.toNat len.toNat) →
    ∃ t, exec (.ashoot f va len) s = .next t ∧ t.mailbox.reply0 = 0 ∧ t.mailbox.pending = false ∧
      t.mailbox.reply1 = ((setAtId s b).gen + 1).setWidth 64 ∧ ShotDown s t b (shootRange va.toNat len.toNat) ∧ t.mem = s.mem) ∧
  (∀ (v : W64) (s : State), s.mailbox.pending = false →
    (v ≠ 1 → exec (.mailboxDoorbell v) s = .next s) ∧
    (s.mgmt.owner ≠ 1 ∨ s.mgmt.stb = false → exec (.mailboxDoorbell 1) s = .next (answer s 0x02)) ∧
    (s.mgmt.owner = 1 → s.mgmt.stb = true → ∃ t, exec (.mailboxDoorbell 1) s = .next t ∧ t.mailbox.pending = true ∧
      t.mailbox.reply0 = 0x80 ∧ t.mailbox.req = s.mailbox.req ∧ (lomAt t 1).pending.getLsbD 4 = true))

/-! ## The host, interfaces, ownership, start -/

/-- R302, R303, R306, R327, R351: the host's accesses. A read or compare-and-swap goes to its home under its tag, or completes
unsupported; a write joins its function's stream and is performed in the order sent; a kick moves TAIL, stops its queue with
ERR 0x06 where it is no ring position, and writes the save of a pre-empted queue; a read of a kick register gives HEAD and
STATE to the function that owns the queue. One completion per line and the fields of a host access's fault packet are the
model's choices, and a kick of a pre-empted queue writing TAIL into its save, at a physical address, its reading (logs 22, 14, 39). -/
def Obligations.HostAccesses : Prop :=
  (∀ (f addr len : Nat) (s : State), (2 ^ 41 < addr + len ∨ funcSet s f = none) →
    exec (.apertureRead f addr len) s = .next { s with out := s.out ++ [.done s.tag false 0], tag := s.tag + 1 } ∧
    ∀ bs : List Byte, bs.length = len → exec (.apertureWrite f addr bs) s = .next s) ∧
  (∀ (f addr len b : Nat) (s : State), funcSet s f = some b → addr + len ≤ 2 ^ 41 →
    (rangeOk (setAtId s b).windows Window.r addr len = false → ∃ t, exec (.apertureRead f addr len) s = .next t ∧
      t.out = s.out ++ [.done s.tag false 0] ∧ t.net = s.net ∧ t.mem = s.mem) ∧
    (∀ r, rangeOk (setAtId s b).windows Window.r addr len = true → 0 < len → addr % 64 + len ≤ 64 →
      hostRes s b addr = some r → exec (.apertureRead f addr len) s = .next { s with
        net := s.net ++ [⟨[], .home ⟨setAgent b, .host, r, addr, .load len false, none, .host s.tag⟩, none⟩], tag := s.tag + 1 }) ∧
    (∀ bs : List Byte, bs.length = len → rangeOk (setAtId s b).windows Window.w addr len = false →
      ∃ t, exec (.apertureWrite f addr bs) s = .next t ∧ t.net = s.net ∧ t.mem = s.mem ∧ t.funcs = s.funcs) ∧
    (∀ (bs : List Byte) (r : Res), bs.length = len → 0 < len → addr % 64 + len ≤ 64 →
      rangeOk (setAtId s b).windows Window.w addr len = true → hostRes s b addr = some r →
      ((funcAt s f).stream = [] → (funcAt s f).flying = false → ∃ t, exec (.apertureWrite f addr bs) s = .next t ∧
        t.net = s.net ++ [⟨[], .home ⟨setAgent b, .host, r, addr, .store (unitsOf [(addr, bs)]) none, none, .stream f⟩, none⟩] ∧
        funcAt t f = { funcAt s f with stream := [.write addr bs (some (b, r))], flying := true } ∧ t.mem = s.mem) ∧
      ((funcAt s f).stream ≠ [] → (funcAt s f).flying = true → ∃ t, exec (.apertureWrite f addr bs) s = .next t ∧
        t.net = s.net ∧ funcAt t f = { funcAt s f with stream := (funcAt s f).stream ++ [.write addr bs (some (b, r))] }))) ∧
  (∀ (f addr b : Nat) (x y : W64) (r : Res) (s : State), funcSet s f = some b → addr % 8 = 0 → addr + 8 ≤ 2 ^ 41 →
    rangeOk (setAtId s b).windows Window.rw addr 8 = true → hostRes s b addr = some r →
    exec (.hostAtomic f addr x y) s = .next { s with
      net := s.net ++ [⟨[], .home ⟨setAgent b, .host, r, addr,
        .atom 8 .cas (.one (setAgent b) y.toNat x.toNat true 0 0 0), none, .host s.tag⟩, none⟩], tag := s.tag + 1 }) ∧
  (∀ (f off : Nat) (v : W64) (s : State), off % 8 = 0 → off < 0x8000 → (funcAt s f).stream = [] →
    (funcAt s f).flying = false →
    let q := off / 8
    let k := queueAt s q
    let x := v.toNat % 2 ^ 32
    (k.func ≠ f ∨ k.state = 0 ∨ k.state = 4 → ∃ t, exec (.kickWrite f off v) s = .next t ∧ t.queues = s.queues ∧
      t.mem = s.mem) ∧
    (k.func = f → k.state = 5 → ∃ t, exec (.kickWrite f off v) s = .next t ∧ memGet t (k.save + 12) 4 = x ∧
      t.queues = s.queues) ∧
    (k.func = f → k.state = 1 ∨ k.state = 2 ∨ k.state = 3 → x % 8 ≠ 0 ∨ 2 ^ k.log2 ≤ x →
      ∃ t, exec (.kickWrite f off v) s = .next t ∧ (queueAt t q).state = 4 ∧ (queueAt t q).err = 6 ∧
        (queueAt t q).tail = k.tail) ∧
    (k.func = f → k.disable = false → k.state = 1 ∨ k.state = 2 ∨ k.state = 3 → x % 8 = 0 → x < 2 ^ k.log2 →
      ∃ t, exec (.kickWrite f off v) s = .next t ∧
        queueAt t q = { k with tail := x, state := if k.state = 3 then 3 else if k.head = x then 1 else 2 } ∧
        (lomAt t (2 * (q / 512))).pending.getLsbD 0 = true ∧ t.mem = s.mem)) ∧
  (∀ (f q : Nat) (s : State), q < 4096 → s.mgmt.stb = true → controlRead s f (8 * q) =
    some (if (queueAt s q).func = f then BitVec.ofNat 64 ((queueAt s q).head % 2 ^ 32 + (queueAt s q).state % 16 * 2 ^ 32)
      else 0)) ∧
  (∀ (f : Nat) (v : W64) (s : State), (funcAt s f).stream = [] → (funcAt s f).flying = false →
    let k := (funcAt s f).mring
    let x := v.toNat % 2 ^ 32
    (k.state = 0 ∨ k.state = 4 → ∃ t, exec (.millRingKick f v) s = .next t ∧ funcAt t f = funcAt s f) ∧
    (k.state = 1 ∨ k.state = 2 → x % 8 ≠ 0 ∨ 2 ^ k.log2 ≤ x → ∃ t, exec (.millRingKick f v) s = .next t ∧
      (funcAt t f).mring.state = 4 ∧ (funcAt t f).mring.err = 6) ∧
    (k.state = 1 ∨ k.state = 2 → k.disable = false → x % 8 = 0 → x < 2 ^ k.log2 →
      ∃ t, exec (.millRingKick f v) s = .next t ∧
        (funcAt t f).mring = { k with tail := x, state := if k.head = x then 1 else 2 } ∧
        (lomAt t (2 * (f % 8) + 1)).pending.getLsbD 2 = true))

/-- R322, R328 to R330, R395: TDISP and SPDM. A TDISP request raises signal 4 of the firmware core; where the function has a
request in the mailbox or a stop that is not complete it waits. LOCK takes an unlocked virtual function and keeps its report,
START a locked one; STOP and an interface error unlock it once its work is done, and it stays in error and stopping until then;
another request is refused; before stage B has completed a request waits. Measurement 3 is the security version and layout, 5 the
owner and ticket, and none is given before stage A. The bytes of measurements are the model's choice (log 16), and so are the answer
to a request that finds no report (log 21) and the wait for stage B (log 92). -/
def Obligations.InterfaceRequests : Prop :=
  let told (s : State) : State := raiseSignal s 0 1 4
  let held (f : Nat) (s : State) : Prop :=
    (s.mailbox.pending = true ∧ s.mailbox.req[0].toNat / 256 % 128 = f) ∨ (funcAt s f).stopping = true
  let say (s : State) (o : HostOut) : State := { told s with out := s.out ++ [o] }
  (∀ s : State, (lomAt (told s) 1).pending = (lomAt s 1).pending ||| 16 ∧ { told s with lomwens := s.lomwens } = s) ∧
  (∀ (f : Nat) (s : State), s.mgmt.stb = false →
    (∀ i ∈ [Instr.lockInterface f, .startInterface f, .getDeviceInterfaceState f, .getDeviceInterfaceReport f],
      exec i s = .next s) ∧
    ((funcAt s f).stopping = false → exec (.stopInterface f) s = .next s)) ∧
  (∀ (f : Nat) (s : State), s.mgmt.stb = true → held f s → ∀ i ∈ [Instr.lockInterface f, .startInterface f,
    .getDeviceInterfaceState f, .getDeviceInterfaceReport f], exec i s = .next (told s)) ∧
  (∀ (f : Nat) (s : State), s.mgmt.stb = true → held f s → (funcAt s f).stopping = false →
    exec (.stopInterface f) s = .next (told s)) ∧
  (∀ (f : Nat) (s : State), s.mgmt.stb = true → ¬ held f s →
    let virt : Prop := 1 ≤ f ∧ f ≤ 64
    (¬ virt ∨ (funcAt s f).tdi ≠ .unlocked → exec (.lockInterface f) s = .next (say s (.refused f))) ∧
    (virt → (funcAt s f).tdi = .unlocked → ∃ t, exec (.lockInterface f) s = .next t ∧
      funcAt t f = { funcAt s f with tdi := .locked, report := some (reportOf s f) } ∧
      t.out = s.out ++ [.tdi f .locked] ∧ { t with funcs := s.funcs, out := s.out } = told s) ∧
    (¬ virt ∨ (funcAt s f).tdi ≠ .locked → exec (.startInterface f) s = .next (say s (.refused f))) ∧
    (virt → (funcAt s f).tdi = .locked → ∃ t, exec (.startInterface f) s = .next t ∧
      funcAt t f = { funcAt s f with tdi := .run } ∧ t.out = s.out ++ [.tdi f .run] ∧
      { t with funcs := s.funcs, out := s.out } = told s) ∧
    (¬ virt ∨ (funcAt s f).tdi = .unlocked → exec (.stopInterface f) s = .next (say s (.refused f))) ∧
    (virt → (funcAt s f).tdi ≠ .unlocked → (∀ e ∈ s.queues, e.2.func = f → e.2.outs = []) →
      (funcAt s f).mring.outs = [] →
      (∃ t, exec (.stopInterface f) s = .next t ∧ (funcAt t f).tdi = .unlocked ∧ (funcAt t f).report = none ∧
        (funcAt t f).stopping = false ∧ (funcAt t f).mring.state = 0 ∧
        (∀ e ∈ t.queues, e.2.func = f → e.2.state = 0) ∧ t.out = s.out ++ [.tdi f .unlocked])) ∧
    (virt → exec (.getDeviceInterfaceState f) s = .next (say s (.tdi f (funcAt s f).tdi))) ∧
    (¬ virt → exec (.getDeviceInterfaceState f) s = .next (say s (.refused f))) ∧
    (∀ r, (funcAt s f).report = some r → exec (.getDeviceInterfaceReport f) s = .next (say s (.report f r))) ∧
    ((funcAt s f).report = none → exec (.getDeviceInterfaceReport f) s = .next (say s (.refused f)))) ∧
  (∀ (f : Nat) (s : State), 1 ≤ f → f ≤ 64 → (funcAt s f).tdi ≠ .unlocked →
    ((∀ e ∈ s.queues, e.2.func = f → e.2.outs = []) → (funcAt s f).mring.outs = [] →
      ∃ t, exec (.tdispInterfaceError f) s = .next t ∧ (funcAt t f).tdi = .unlocked ∧
        (∀ e ∈ t.queues, e.2.func = f → e.2.state = 0)) ∧
    ((∃ e ∈ s.queues, e.2.func = f ∧ e.2.state ≠ 0 ∧ ∃ o ∈ e.2.outs, o.2 ≠ .failed) →
      ∃ t, exec (.tdispInterfaceError f) s = .next t ∧ (funcAt t f).tdi = .error ∧ (funcAt t f).stopping = true ∧
        t.out = s.out)) ∧
  (∀ (i : Nat) (s : State),
    (s.mgmt.stage = 0 → exec (.spdmMeasurementRequest i) s = .next s) ∧
    (s.mgmt.stage ≠ 0 → 5 < i → exec (.spdmMeasurementRequest i) s = .next { s with out := s.out ++ [.refused 0] }) ∧
    (s.mgmt.stage ≠ 0 → i ≤ 5 → ∃ v, exec (.spdmMeasurementRequest i) s = .next { s with out := s.out ++ [.measure i v] } ∧
      (i = 3 → v = s.mgmt.svn % 2 ^ 32 + s.mgmt.wlayout % 2 ^ 16 * 2 ^ 32) ∧
      (i = 5 → v = s.mgmt.owner % 256 + s.mgmt.ticket.toNat * 256)))

/-- R365, R389 to R394, R398, R263, R282, R312, R333, R379, R386: the management block and the registers with no row of their
own. A claim that names the ticket takes a free package or one offered to its port; the owner alone hands over, moves the log
window, sets the limits and activates an image, which runs only if every check passes; the others read the owner's fields as
zero. Activation in one step and the code of a misaligned image are the model's choices (log 15), and so is the code of an image
whose LENGTH is no multiple of 4 KiB, behind that of a bad key (log 77), and that two paddocks' records pass no field which hosts a tenant
is its reading (log 61); no value is claimed of reads without one (log 13). -/
def Obligations.ManagementBlock : Prop :=
  (∀ (p : Port) (v : W64) (s : State), s.mgmt.stage ≠ 0 ∨ s.mgmt.stb = true →
    let m := s.mgmt
    (v.setWidth 16 = m.ticket → m.owner = 0 ∨ (m.pend = true ∧ m.hto = portId p) →
      exec (.ownerClaim p v) s = .next { s with
        mgmt := { m with owner := portId p, ticket := m.ticket + 1, pend := false, hto := 0 } }) ∧
    (v.setWidth 16 ≠ m.ticket ∨ (m.owner ≠ 0 ∧ ¬ (m.pend = true ∧ m.hto = portId p)) →
      exec (.ownerClaim p v) s = .next s)) ∧
  (∀ (p : Port) (k : Fin 4) (v : W64) (s : State),
    let m := s.mgmt
    (m.owner ≠ portId p → ∀ i ∈ [Instr.handoverRelease p, .handoverWithdraw p, .handoverOffer p k, .logposWrite p v,
      .plimitWrite p v, .tlimitWrite p v, .activate p v], exec i s = .next s) ∧
    (m.owner = portId p →
      exec (.handoverRelease p) s = .next { s with mgmt := { m with owner := 0, ticket := m.ticket + 1 } } ∧
      exec (.handoverWithdraw p) s = .next { s with mgmt := { m with pend := false } } ∧
      (k ≠ 0 → k.val ≠ portId p → exec (.handoverOffer p k) s = .next { s with mgmt := { m with pend := true, hto := k } }) ∧
      exec (.logposWrite p v) s = .next { s with mgmt := { m with
        follow := v.getLsbD 31
        logpos := if v.getLsbD 31 then (m.lognext + 4096 - 32) % 4096 else v.toNat % 4096 } } ∧
      exec (.plimitWrite p v) s = .next { s with mgmt := { m with plimit := max 400 (min 2800 (v.toNat % 4096)) } } ∧
      exec (.tlimitWrite p v) s = .next { s with mgmt := { m with tlimit := max 60 (min 110 (v.toNat % 256)) } })) ∧
  (∀ (p : Port) (s : State),
    let m := s.mgmt
    mgmtRead s p 0x000 = some (BitVec.ofNat 64 (m.ticket.toNat + m.owner * 2 ^ 16 + m.pend.toNat * 2 ^ 18 + m.hto * 2 ^ 19)) ∧
    mgmtRead s p 0x030 = some (BitVec.ofNat 64 m.plimit) ∧ mgmtRead s p 0x038 = some (BitVec.ofNat 64 m.tlimit) ∧
    (m.owner ≠ portId p → ∀ off, off = 0x020 ∨ off = 0x028 ∨ off = 0x040 ∨ (0x100 ≤ off ∧ off < 0x1000) →
      mgmtRead s p off = some 0) ∧
    (∀ off, 0x500 ≤ off → mgmtRead s p off = some 0)) ∧
  (∀ (p : Port) (s : State), s.mgmt.owner = portId p → s.mgmt.code ≠ 1 →
    let a := s.mgmt.imgaddr.toNat
    let h := coherentBytes s a 2048
    let n := imageField h 24 8
    let found := checkImage h (coherentBytes s (a + 2048) n)
    let code := if a % 4096 ≠ 0 ∨ (found ≠ 3 ∧ n % 4096 ≠ 0) then 2 else found
    let stale := staleLayouts s (imageField h 14 2) (imageField h 16 2)
    ∃ t, exec (.activate p 1) s = .next t ∧
      (code ≠ 0 ∨ stale ≠ [] ∨ (∀ e ∈ s.queues, e.2.state ≠ 5) → t.mem = s.mem) ∧
      (code ≠ 0 → t.mgmt = { s.mgmt with code := code } ∧ t.flash = s.flash) ∧
      (code = 0 → stale ≠ [] → t.mgmt.code = 6 ∧ t.mgmt.count = stale.length ∧ t.flash = s.flash ∧
        t.mgmt.svn = s.mgmt.svn) ∧
      (code = 0 → stale = [] → t.mgmt.code = 0 ∧ t.mgmt.bootSlot = 1 - s.mgmt.bootSlot ∧ t.mgmt.header = h ∧
        t.mgmt.svn = imageField h 8 4 ∧ t.mgmt.wlayout = imageField h 12 2 ∧
        sread [] t.flash (1 - s.mgmt.bootSlot) = h ++ coherentBytes s (a + 2048) n)) ∧
  (∀ (s : State) (g a e f : Nat) (x : BitVec 128) (b : Bool) (key : BitVec 12), g < 256 → a < 256 → e < 32 → f < 2 →
    (∃ t, exec (.registerWrite (.millWord g a x)) s = .next t ∧ { t with chans := s.chans } = s ∧
      (chanAt t g).mill = { (chanAt s g).mill with store := sset (chanAt s g).mill.store a x }) ∧
    (∃ t, exec (.registerWrite (.millEntry g e b a)) s = .next t ∧ { t with chans := s.chans } = s ∧
      sread (false, 0) (chanAt t g).mill.entry e = (b, a)) ∧
    (e < 64 → ∃ t, exec (.registerWrite (.fairKey f e key)) s = .next t ∧ sread 0 (fairAt t f).keys e = key ∧
      { t with fairs := s.fairs } = s)) ∧
  (∀ (s : State) (a b : Nat) (fa fb : BitVec 72), a ≠ b → a < 64 → b < 64 → s.border = none →
    fa ||| fb = (padAt s a).fields ||| (padAt s b).fields → fa &&& fb = 0 →
    let changes (f : Nat) : Prop := (padAt s a).fields.getLsbD f ≠ fa.getLsbD f ∨ (padAt s b).fields.getLsbD f ≠ fb.getLsbD f
    ((∀ e ∈ s.crofts, changes (fieldOf e.1) → e.2.tenant = none ∧ inMove s e.1 = false) →
      ∃ t, exec (.registerWrite (.paddocks a fa b fb)) s = .next t ∧ (padAt t a).fields = fa ∧ (padAt t b).fields = fb ∧
        { t with paddocks := s.paddocks } = s) ∧
    ((∃ e ∈ s.crofts, changes (fieldOf e.1) ∧ e.2.tenant ≠ none) →
      exec (.registerWrite (.paddocks a fa b fb)) s = .next s)) ∧
  (∀ (s : State) (a n i : Nat) (e : Bool) (v : W64) (p : Port),
    (a < 64 → ∃ t, exec (.registerWrite (.paddockService a n e)) s = .next t ∧
      padAt t a = { padAt s a with target := n % 1024, en := e }) ∧
    ((setAtId s a).count ≠ 0 → ∃ t, exec (.registerWrite (.root a n)) s = .next t ∧
      setAtId t a = { setAtId s a with root := n }) ∧
    (a < 8 → ∃ t, exec (.registerWrite (.watchdog a n)) s = .next t ∧ dieAt t a = { dieAt s a with watchdog := n }) ∧
    (s.mgmt.owner = portId p →
      exec (.registerWrite (.mgmt p 0x020 v)) s = .next { s with mgmt := { s.mgmt with imgaddr := v } }) ∧
    (∀ hi : i < 8, ∃ t, exec (.registerWrite (.mailbox i v)) s = .next t ∧ t.mailbox.req = s.mailbox.req.set i v) ∧
    (s.tenants.any (fun x => x.1 == a) = true → n < 4608 → (cribAt s n).set = none →
      ∃ t, exec (.registerWrite (.contq a n)) s = .next t ∧ (tenAt t a).contq = some n ∧
        (cribAt t n).set = some (tenAt s a).set)) ∧
  (∀ (s : State) (c v : Nat) (j : Fin 64), c < Config.crofts → (croftAt s c).tenant.isSome = true →
    let k := croftAt s c
    let y := ctxAt s c k.sel
    y.mode = .frozen → gAdmitted y.budget j.val = true →
    ∃ t, exec (.registerWrite (.debug c (0x400 + 8 * j.val) 8 v)) s = .next t ∧
      (ctxAt t c k.sel).regs = putG y.regs j (BitVec.ofNat 64 v) ∧ t.mem = s.mem)

/-- R301, R383, R384, R387, R388, R396 to R398: the staged start, power and errors. Loss of power and, from stage A on, a thermal trip
lose every state but flash and its boot slot; stage A, B and C follow each other, B only with an image that verifies; threshers are
held idle while a limit is passed. What state reads after power returns is the model's choice (logs 1, 2, 23), as are the scale that a
poisoned block keeps (log 24), the number of log entries of an event (log 47) and CODE after stage B (log 80). -/
def Obligations.PowerAndErrors : Prop :=
  (∀ (s : State) (n : Nat),
    let cold (t : State) (p : Power) : Prop := t.power = p ∧ t.flash = s.flash ∧ t.mgmt.bootSlot = s.mgmt.bootSlot ∧
      t.hostMem = s.hostMem ∧ { t with
        power := .on, flash := [], hostMem := [], out := [], free := 0, now := 0, sched := []
        mgmt := { t.mgmt with bootSlot := 0 } } = State.reset
    (∃ t, exec .powerLoss s = .next t ∧ cold t .off) ∧
    (s.power = .off → ∃ t, exec .powerGood s = .next t ∧ cold t .on) ∧
    (125 ≤ n → s.power = .on → s.mgmt.stage ≠ 0 → ∃ t, exec (.thermalTrip n) s = .next t ∧ cold t .tripped)) ∧
  (∀ (n : Nat) (s : State), n < 125 ∨ s.power ≠ .on ∨ s.mgmt.stage = 0 → exec (.thermalTrip n) s = .next s) ∧
  (∀ s : State, s.power ≠ .off → exec .powerGood s = .next s) ∧
  (∀ s : State, s.power = .on → s.mgmt.stage = 0 → exec .stageADone s = .next { s with mgmt := { s.mgmt with stage := 1 } }) ∧
  (∀ s : State, s.power = .on → s.mgmt.stage = 1 → s.mgmt.stb = false → ∃ t, exec .stageBDone s = .next t ∧
    let b := s.mgmt.bootSlot
    let x := flashImage s b
    let y := flashImage s (1 - b)
    (x.2 = 0 → t.mgmt.stb = true ∧ t.mgmt.bootSlot = b ∧ t.mgmt.header = x.1 ∧ t.mgmt.dies.getLsbD 0 = true ∧
      t.mgmt.svn = imageField x.1 8 4 ∧ t.mgmt.code = s.mgmt.code) ∧
    (x.2 ≠ 0 → y.2 = 0 → t.mgmt.stb = true ∧ t.mgmt.bootSlot = 1 - b ∧ t.mgmt.header = y.1 ∧
      t.mgmt.dies.getLsbD 0 = true ∧ t.mgmt.code = x.2) ∧
    (x.2 ≠ 0 → y.2 ≠ 0 → t.mgmt.stage = 3 ∧ t.mgmt.stb = false ∧ t.mgmt.code = y.2)) ∧
  (∀ (n f : Nat) (f0 f1 : List Nat) (d : Bool) (s : State), s.power = .on → s.mgmt.stage = 1 → s.mgmt.stb = true →
    ∃ t, exec (.stageCDone n f f0 f1 d) s = .next t ∧ t.mgmt.stage = 2 ∧ t.mgmt.dwy = d ∧
      t.mgmt.dies = s.mgmt.dies ||| BitVec.ofNat 8 n ∧ t.mgmt.floors = BitVec.ofNat 2 f ∧
      (fairAt t 0).dead = (if Config.spareUsed 0 then f0 else f0.drop 1) ∧
      (fairAt t 1).dead = (if Config.spareUsed 1 then f1 else f1.drop 1) ∧
      (t.mgmt.thr0 = if f % 2 = 1 then 32 - (fairAt t 0).dead.length else 0) ∧
      (t.mgmt.thr1 = if f / 2 % 2 = 1 then 32 - (fairAt t 1).dead.length else 0) ∧
      (s.mgmt.lognext < 4096 → t.mgmt.lognext = (s.mgmt.lognext + f0.length + f1.length +
        ((List.range 8).filter fun d => !t.mgmt.dies.getLsbD d).length + ((List.range 2).filter fun i => !f.testBit i).length +
        (!d).toNat + Config.croftSpares.toNat + (Config.spareUsed 0).toNat + (Config.spareUsed 1).toNat) % 4096)) ∧
  (∀ (w : Nat) (ts : List Nat) (s : State), ∃ t, exec (.throttle w ts) s = .next t ∧ ∀ f < 2,
    fairAt t f = { fairAt s f with throttled := s.mgmt.plimit < w || ts.any fun t => s.mgmt.tlimit < t }) ∧
  (∀ (m l : Nat) (s : State), exec (.laneRepair m l true) s = .next s ∧ (s.mgmt.narrow.contains m = false →
    ∃ t, exec (.laneRepair m l false) s = .next t ∧ t.mgmt.narrow = s.mgmt.narrow ++ [m] ∧
      t.mgmt.lognext = (s.mgmt.lognext + 1) % 4096)) ∧
  (∀ (s : State) (d t off pa b i : Nat),
    (∃ u, exec (.softError (.corrected d)) s = .next u ∧ (dieAt u d).corrected = (dieAt s d).corrected + 1 ∧
      u.mgmt.lognext = (s.mgmt.lognext + 1) % 4096) ∧
    (s.tenants.any (fun k => k.1 == t) = true → ∃ u, exec (.softError (.croft t off)) s = .next u ∧
      cmMark u t off = cmMark s t off &&& 0x00FF ||| 0xFF00 ∧ poisoned (cmMark u t off) = true ∧
      (tenAt u t).mem = (tenAt s t).mem) ∧
    (∃ u, exec (.softError (.dram pa)) s = .next u ∧ poisoned (sread 0 u.marks (pa / 64)) = true ∧ u.mem = s.mem) ∧
    (∀ l, nth (bankAt s b).lines i = some l → ∃ u, exec (.softError (.barnLine b i)) s = .next u ∧
      bankAt u b = { bankAt s b with lines := dropAt (bankAt s b).lines i } ∧
      (l.dirty = false → u.mem = s.mem) ∧ (l.dirty = true → poisoned (sread 0 u.marks (l.pa / 64)) = true)) ∧
    (∀ f, nth s.net i = some f → exec (.softError (.link i)) s =
      .next { s with net := setAt s.net i { f with msg := poisonMsg f.msg } }) ∧
    (∀ l, nth (croftAt s d).icache i = some l → ∃ u, exec (.softError (.fetch d i b)) s = .next u ∧ croftAt u d =
      { croftAt s d with icache := setAt (croftAt s d).icache i { l with data := l.data ^^^ 1#512 <<< b } }) ∧
    ((hiresOf (fairAt s d)).filter (fun h => h.rick) = [] → exec (.softError (.rick d i)) s = .next s))

/-- R219, R352 to R354: a new set starts each of its tenants on an open croft of its paddock: a steward and a wain at their addresses
with their budgets, and empty caches, all tenants in one step (log 61); a set whose ids or ASID another set has, or one of whose
tenants has no such croft, is not made. The deletion of a set leaves nothing of its tenants, space, cribs and requests. What becomes
of the requests of a deleted set is the model's reading (log 17). -/
def Obligations.TenantLife : Prop :=
  (∀ (x : SetSpec) (s : State),
    let fresh : Prop := (setAtId s x.set).count = 0 ∧ x.tenants ≠ [] ∧ 1 ≤ x.asid ∧ x.asid ≤ 0xFFFE ∧
      x.set + x.tenants.length ≤ 2 ^ 24 ∧ ∀ e ∈ s.sets, e.2.count = 0 ∨
        (e.2.asid ≠ x.asid ∧ (e.1 + e.2.count ≤ x.set ∨ x.set + x.tenants.length ≤ e.1))
    let fits : Prop := (∀ y ∈ x.tenants, y.pool % 4096 = 0 ∧ y.save % 4096 = 0 ∧ openCroft s y.core = true ∧
      paddockOf s (fieldOf y.core) = x.paddock) ∧ (x.tenants.map TenantSpec.core).Nodup
    (¬ (fresh ∧ fits) → exec (.tenantCreate x) s = .next s) ∧
    (fresh → fits → ∃ t, exec (.tenantCreate x) s = .next t ∧ t.mem = s.mem ∧
      setAtId t x.set = { TSet.empty with
        count := x.tenants.length, asid := x.asid, root := x.root, paddock := x.paddock } ∧
      (∀ b, b ≠ x.set → setAtId t b = setAtId s b) ∧
      (∀ n, n < x.set ∨ x.set + x.tenants.length ≤ n → tenAt t n = tenAt s n) ∧
      (∀ c, (∀ y ∈ x.tenants, y.core ≠ c) → croftAt t c = croftAt s c) ∧
      ∀ j y, x.tenants[j]? = some y →
        tenAt t (x.set + j) = { Tenant.empty with
          set := x.set, paddock := x.paddock, core := y.core, pool := y.pool, steward := y.steward, save := y.save
          hcap := y.hcap &&& 0xFFFF, priv := y.priv, sbud := y.sbud, epoch := s.epoch } ∧
        (croftAt t y.core).tenant = some (x.set + j) ∧ (croftAt t y.core).stopped = false ∧
        (croftAt t y.core).l1 = [] ∧ (croftAt t y.core).icache = [] ∧
        (∀ i, i ≠ 0 → i ≠ 15 → (ctxAt t y.core i).mode = .free) ∧
        (∀ i ∈ [(0, y.steward, y.sbud), (15, y.wain, 288)], let k := ctxAt t y.core i.1
          k.mode = .running ∧ k.pc = i.2.1 % 2 ^ 57 ∧ k.runStart = i.2.1 % 2 ^ 57 ∧ k.runseq = 1 ∧ k.budget = i.2.2 ∧
          k.priv = y.priv ∧ k.regs = Regs.zero ∧ k.busy = false))) ∧
  (∀ (b : Nat) (s : State), (setAtId s b).count ≠ 0 → ∃ t, exec (.tenantSetDeletion b) s = .next t ∧
    let mine (n : Nat) : Prop := b ≤ n ∧ n < b + (setAtId s b).count
    t.sets = sdel s.sets b ∧ t.mem = s.mem ∧ (∀ e ∈ t.tenants, ¬ mine e.1) ∧
    (∀ e ∈ t.crofts, ∀ n, e.2.tenant = some n → ¬ mine n) ∧ (∀ e ∈ t.cribs, e.2.set ≠ some b) ∧
    (∀ e ∈ t.funcs, e.2.set ≠ some b) ∧ (∀ f ∈ t.net, ∀ n ∈ msgTenants f.msg, ¬ mine n) ∧
    (∀ e ∈ t.banks, ∀ r ∈ e.2.queue, ¬ mine r.who.ten)) ∧
  (∀ (b : Nat) (s : State), (setAtId s b).count = 0 → exec (.tenantSetDeletion b) s = .next s)

/-! ## Events of contexts -/

/-- R149, R150, R154, R180, R221 to R225, R345: the seal of a run releases its held atomics and retires the run; a listed access parks; a
store's class is lowered when the last of its pieces in that class is acknowledged, and with its last piece it forwards no more, nor do
older ones the bytes it wrote; a reply of an access that is over is discarded; the last reply writes the result and the context runs on; a
fault answer aborts the run to its start with the shadow's registers, once, and once the page is reported resident, on the answer's way or
later, the run executes again under the same number; a parked context whose condition holds begins its next run, with what the other slot
of its pair wrote of a bin, or freezes where the word it was served lies in a poisoned block (log 24). An event whose condition does not
hold changes nothing. That a class is lowered by the last of its pieces is the model's reading (log 29). -/
def Obligations.RunEvents : Prop :=
  (∀ (s : State),
    let c := argN s 0
    let i := argN s 1
    let k := evCtx s
    ((k.mode = .running ∧ k.stage = .sealing ∧ k.busy = false) → ∃ t, exec .runSeal s = .next t ∧
      (ctxAt t c i).stage = .sealed ∧ (ctxAt t c i).held = [] ∧ (ctxAt t c i).regs = k.regs ∧
      t.net.length = s.net.length + k.held.length ∧ t.period = s.period + 1 ∧ t.mem = s.mem) ∧
    (¬ (k.mode = .running ∧ k.stage = .sealing ∧ k.busy = false) → exec .runSeal s = .next s) ∧
    (∀ a, k.await = some a → k.mode = .awaiting → a.listed = true → k.busy = false → ∃ t, exec .park s = .next t ∧
      (ctxAt t c i).mode = .parked ∧ (ctxAt t c i).await = none ∧ (ctxAt t c i).regs = k.regs ∧
      (∃ p, (ctxAt t c i).park = some p ∧ p.kind = a.wake.1 ∧ p.served = false) ∧ t.mem = s.mem) ∧
    (∀ p, k.mode = .parked → k.park = some p → p.kind = .resident → p.served = true → k.busy = false → k.frz = false →
      (croftAt s c).stopped = false → ∃ t, exec .abortWaitEnd s = .next t ∧
      ctxAt t c i = { k with mode := .running, park := none, shadow := k.regs, pc := k.runStart, tgt := none } ∧
      t.mem = s.mem ∧ t.net = s.net) ∧
    (∀ p, k.mode = .parked → k.park = some p → k.frz = false →
      (croftAt s c).stopped = false → (croftAt s c).quiesce = false →
      (∀ hb : p.param < 8, p.kind = .bin → p.ue = none → p.owe.late = none →
        p.count ≤ (getB k.regs ⟨p.param, hb⟩).toNat → ∃ t,
        exec .parkedWake s = .next t ∧ (ctxAt t c i).mode = .running ∧ (ctxAt t c i).runseq = k.runseq + 1 ∧
        (ctxAt t c i).pc = k.pc ∧ (ctxAt t c i).runStart = k.pc ∧ (croftAt t c).l1 = [] ∧
        (ctxAt t c i).regs = putB k.regs ⟨p.param, hb⟩ (getB k.regs ⟨p.param, hb⟩ - BitVec.ofNat 32 p.count) ∧
        (ctxAt t c i).shadow = (ctxAt t c i).regs) ∧
      (∀ (hb : p.param < 8) j (hj : j < 8) x, p.kind = .bin → p.ue = none → p.owe.late = some (.bin j x) →
        p.count ≤ (getB k.regs ⟨p.param, hb⟩).toNat → ∃ t, exec .parkedWake s = .next t ∧ (ctxAt t c i).regs =
          putB (putB k.regs ⟨p.param, hb⟩ (getB k.regs ⟨p.param, hb⟩ - BitVec.ofNat 32 p.count)) ⟨j, hj⟩ x) ∧
      (∀ hb : p.param < 8, p.kind = .bin → (getB k.regs ⟨p.param, hb⟩).toNat < p.count →
        exec .parkedWake s = .next s) ∧
      (p.kind = .resume ∨ p.kind = .feEmpty ∨ p.kind = .crib → p.served = true → p.ue = none → p.owe.late = none →
        ∃ t, exec .parkedWake s = .next t ∧
        (ctxAt t c i).mode = .running ∧ (ctxAt t c i).runseq = k.runseq + 1 ∧ (ctxAt t c i).regs = k.regs ∧
        (ctxAt t c i).pc = k.pc ∧ t.mem = s.mem) ∧
      (∀ x, p.kind = .feFull → p.served = true → p.ue = some x → p.owe.undo = none → ∃ t, exec .parkedWake s = .next t ∧
        (ctxAt t c i).mode = .frozen ∧ (ctxAt t c i).runseq = k.runseq + 1 ∧ (ctxAt t c i).regs = k.regs ∧
        (ctxAt t c i).pc = p.base ∧ t.mem = s.mem))) ∧
  (∀ (s : State) (who : Agent) (cls id : Nat) (c i : Nat), deliverable s (argN s 0) = some (.ack who cls id) →
    (findCounts s who = none → exec .postedStoreAck s = .next { s with net := netNext s [] }) ∧
    (findCounts s who = some (c, i) → 1 ≤ cls → cls ≤ 3 →
      let k := ctxAt s c i
      ∃ t, exec .postedStoreAck s = .next t ∧ t.net = netNext s [] ∧ (ctxAt t c i).regs = k.regs ∧ t.mem = s.mem ∧
        (k.posted.find? (fun p => p.id == id) = none → countOf cls (ctxAt t c i) = countOf cls k - 1) ∧
        (∀ p, k.posted.find? (fun p => p.id == id) = some p → p.left = [cls] →
          countOf cls (ctxAt t c i) = countOf cls k - 1 ∧
          ∃ older newer, k.posted = older ++ p :: newer ∧ (∀ q ∈ older, q.id ≠ id) ∧
            (ctxAt t c i).posted = older.map (shadowed p) ++ newer) ∧
        (∀ p l, k.posted.find? (fun p => p.id == id) = some p → p.left = cls :: cls :: l →
          countOf cls (ctxAt t c i) = countOf cls k ∧
          (ctxAt t c i).posted = k.posted.map fun q => if q.id = id then { q with left := cls :: l } else q))) ∧
  (∀ (p q : Posted) (a : Nat), runByte (shadowed p q).runs a =
    if q.space = p.space ∧ (runByte p.runs a).isSome = true then none else runByte q.runs a) ∧
  (∀ (s : State) (who : Agent) (v n d pos blk c i : Nat) (sg : Bool) (a : Await), d < 64 → n ≤ 8 → v < 2 ^ (8 * n) →
    deliverable s (argN s 0) = some (.reply who ⟨pos, n, v, none, none, none, false, false, blk⟩) →
    (tenAt s who.ten).move = .settled →
    (findAccess s who = none → parkedBy s who = false → exec .accessReply s = .next { s with net := netNext s [] }) ∧
    (findAccess s who = some (c, i) → (ctxAt s c i).mode = .awaiting →
    (ctxAt s c i).await = some a → (ctxAt s c i).owe.keep = none → (ctxAt s c i).owe.late = none →
    (ctxAt s c i).frz = false → a.ue = none → a.acq = false →
    (a.left = 1 → a.fin = .g d n sg → a.buf = 0 → pos = 0 → a.run = .keep → ∃ t, exec .accessReply s = .next t ∧
      t.net = netNext s [] ∧ (ctxAt t c i).mode = .running ∧ (ctxAt t c i).await = none ∧
      (ctxAt t c i).regs = putGn (ctxAt s c i).regs d (if sg then (BitVec.ofInt 64 (sgn (8 * n) v)).toNat else v) ∧
      (ctxAt t c i).runseq = (ctxAt s c i).runseq) ∧
    (1 < a.left → ∃ t, exec .accessReply s = .next t ∧ t.net = netNext s [] ∧ (ctxAt t c i).mode = .awaiting ∧
      (ctxAt t c i).regs = (ctxAt s c i).regs ∧
      ∃ b, (ctxAt t c i).await = some b ∧ b.left = a.left - 1 ∧ b.buf = a.buf ||| v * 2 ^ (8 * pos)))) ∧
  (∀ (s : State) (who : Agent) (cls id code va c i : Nat) (gen : W32) (told : Bool),
    deliverable s (argN s 0) = some (.fault who cls id code va gen told) → (tenAt s who.ten).move = .settled →
    (if cls = 0 then findAccess s who else findCounts s who) = some (c, i) →
    let k := ctxAt s c i
    (k.sub < subShoot 0 →
      k.mode = .running ∨ k.mode = .awaiting ∨ (k.mode = .parked ∧ ∃ p, k.park = some p ∧ p.kind ≠ .resident) →
      ∃ t, exec .faultAnswer s = .next t ∧ t.net = netNext s [] ∧
      (ctxAt t c i).mode = .parked ∧ (ctxAt t c i).pc = k.runStart ∧ (ctxAt t c i).runseq = k.runseq ∧
      (ctxAt t c i).regs = restoreRegs k.budget k.regs k.shadow ∧ (ctxAt t c i).held = [] ∧
      (ctxAt t c i).aborts = min (k.aborts + 1) 0xFFFF ∧
      (∃ p, (ctxAt t c i).park = some p ∧ p.kind = .resident ∧ p.count = va ∧ p.served = told) ∧ t.mem = s.mem) ∧
    (∀ p, k.mode = .parked → k.park = some p → p.kind = .resident → cls = 0 →
      exec .faultAnswer s = .next { s with net := netNext s [] }) ∧
    (k.mode = .frozen → k.abp = none → ∃ t, exec .faultAnswer s = .next t ∧ (ctxAt t c i).mode = .frozen ∧
      (ctxAt t c i).abp = some (va, gen, told) ∧ (ctxAt t c i).regs = k.regs ∧ (ctxAt t c i).pc = k.pc))

/-- R164, R194, R220, R228 to R230, R280, R311: with a record waiting and no free hand the hand parked longest is evicted, its fpcsr, bins,
unwaited barrier arrivals, predicates and budgeted registers standing in its frame, and a freeze command that waits for it kept; a free
hand takes the oldest record of the continuation queue, a crib once firmware has bound one, and has those registers back from the frame;
a record that fails its check is reported as UE with its address and leaves the hand free; a sequencer sows the next member with its
seeds; refused requests are sent again when due. That a record which finds the queue full, or none bound, waits in a backlog behind it is
the model's reading (log 37); registers outside the frame and the physical pool are the model's choices (logs 8, 39). -/
def Obligations.ContinuationEvents : Prop :=
  (∀ (s : State) (n i : Nat) (p : Park),
    let c := argN s 0
    (croftAt s c).tenant = some n → hasRecord s n = true → freeHand s c = none → (tenAt s n).move = .settled →
    (croftAt s c).stopped = false → longestParked s c = some i →
    let k := ctxAt s c i
    k.park = some p → p.kind = .resume → p.served = false → k.name < 64 → (∀ a ∈ k.arrivals, 2 ≤ a.1 ∧ a.1 ≤ 6 ∧ a.2.1 < 16) →
    ∃ t, exec .eviction s = .next t ∧ (ctxAt t c i).mode = .free ∧ (slotAt t n k.name).evicted = some p ∧
      (slotAt t n k.name).arrivals = k.arrivals ∧ (slotAt t n k.name).frz = k.frz ∧ memGet t (framePa s n k.name) 8 = k.regs.fpcsr.toNat ∧
      (∀ j : Fin 8, memGet t (framePa s n k.name + 8 + 4 * j.val) 4 = k.regs.b[j].toNat) ∧
      (∀ j : Fin 64, j ≠ 0 → gAdmitted k.budget j.val = true →
        memGet t (framePa s n k.name + 256 + 8 * j.val) 8 = k.regs.g[j].toNat) ∧
      (∀ j : Fin 32, vAdmitted k.budget j.val = true → memGet t (framePa s n k.name + 768 + 128 * j.val) 128 = k.regs.v[j].toNat) ∧
      (∀ j : Fin 8, j ≠ 0 → memGet t (framePa s n k.name + 64 + 16 * (j.val - 1)) 16 = k.regs.p[j].toNat) ∧
      (∀ sc id, 2 ≤ sc → sc ≤ 6 → id < 16 → ((memGet t (framePa s n k.name + 48) 10).testBit ((sc - 2) * 16 + id) = true ↔
        ∃ a ∈ k.arrivals, a.1 = sc ∧ a.2.1 = id)) ∧
      (∀ a, (a < recordPa s n k.name ∨ recordPa s n k.name + 64 ≤ a) → (a < framePa s n k.name ∨ framePa s n k.name + 4864 ≤ a) →
        sread 0 t.mem a = sread 0 s.mem a) ∧
      memGet t (recordPa s n k.name) 8 % 2 ^ 57 = k.pc % 2 ^ 57) ∧
  (∀ (s : State) (n i : Nat) (r : BitVec 512) (rs : List (BitVec 512)),
    let c := argN s 0
    let w (j : Nat) : Nat := r.toNat / 2 ^ (64 * j) % 2 ^ 64
    let b := BitVec.ofNat 14 (w 4 / 2 ^ 48)
    let name := w 5 / 2 ^ 32 % 128
    (croftAt s c).tenant = some n → freeHand s c = some i → (tenAt s n).move = .settled → (croftAt s c).stopped = false →
    (croftAt s c).quiesce = false → (tenAt s n).refetch = 0 → (tenAt s n).ring.length ≤ 16 →
    let left (u : State) : List (BitVec 512) := (match (tenAt u n).contq with | none => [] | some q => (cribAt u q).q) ++ (tenAt u n).backlog
    (∀ q, (tenAt s n).contq = some q → (cribAt s q).held = 0 ∧ (cribAt s q).q.length ≤ Config.cribOnChip) → left s = r :: rs →
    (crc64 ((toBytes 64 r.toNat).take 56) ≠ w 7 → (∀ e < 8, cmGet s n (0xFE00 + 32 * e + 20) 2 = 0) →
      ∃ t, exec .recordTake s = .next t ∧ left t = rs ∧ ctxAt t c i = ctxAt s c i ∧
        Sends s t (tenAt s n).set (agCroft c) (fun _ => False) (mkReport cUE 0 c 0 n 0 0 0 (recordPa s n name))) ∧
    (crc64 ((toBytes 64 r.toNat).take 56) = w 7 → (w 0).testBit 59 = true →
      (∀ e < 8, cmGet s n (0xFE00 + 32 * e + 20) 2 = 0) → ∃ t, exec .recordTake s = .next t ∧
      (ctxAt t c i).mode = .running ∧ (ctxAt t c i).pc = w 0 % 2 ^ 57 ∧ (ctxAt t c i).name = name ∧
      (ctxAt t c i).budget = b ∧ (ctxAt t c i).priv = (w 0).testBit 57 ∧ (ctxAt t c i).runseq = 1 ∧
      (∀ j < 5, (ctxAt t c i).regs.g.toList.getD (j + 1) 0 = if gAdmitted b (j + 1) then
        BitVec.ofNat 64 (memGet s (framePa s n name + 264 + 8 * j) 8) else 0) ∧ left t = rs) ∧
    (∀ p, crc64 ((toBytes 64 r.toNat).take 56) = w 7 → (w 0).testBit 59 = false → (w 0).testBit 58 = false →
      (∀ e < 8, cmGet s n (0xFE00 + 32 * e + 20) 2 = 0) → (slotAt s n name).evicted = some p → p.kind = .ready →
      p.ue = none → p.owe.late = none →
      ∃ t, exec .recordTake s = .next t ∧ (ctxAt t c i).pc = w 0 % 2 ^ 57 ∧
        (ctxAt t c i).mode = (if (slotAt s n name).frz then .frozen else .running) ∧
        (ctxAt t c i).runseq = BitVec.ofNat 64 (w 6) + 1 ∧ (ctxAt t c i).budget = b ∧
        (∀ j : Fin 8, (ctxAt t c i).regs.b[j] = BitVec.ofNat 32 (memGet s (framePa s n name + 8 + 4 * j.val) 4)) ∧
        (∀ j : Fin 64, j ≠ 0 → gAdmitted b j.val = true →
          (ctxAt t c i).regs.g[j] = BitVec.ofNat 64 (memGet s (framePa s n name + 256 + 8 * j.val) 8)) ∧
        (∀ j : Fin 32, vAdmitted b j.val = true →
          (ctxAt t c i).regs.v[j] = BitVec.ofNat 1024 (memGet s (framePa s n name + 768 + 128 * j.val) 128)) ∧
        (∀ j : Fin 8, j ≠ 0 → (ctxAt t c i).regs.p[j] = BitVec.ofNat 128 (memGet s (framePa s n name + 64 + 16 * (j.val - 1)) 16)) ∧
        (ctxAt t c i).regs.fpcsr = BitVec.ofNat 64 (memGet s (framePa s n name) 8) &&& 0x11F3 ∧
        (ctxAt t c i).arrivals = (slotAt s n name).arrivals ∧ left t = rs ∧
        (slotAt t n name).evicted = none ∧ (slotAt t n name).frz = false)) ∧
  (∀ (s : State) (l : Launch) (k i : Nat),
    let d := argN s 0
    let n := l.t0 + l.next / l.quota % l.count
    let c := (tenAt s n).core
    (dieAt s d).launches.find? (fun e => e.1 == argN s 1) = some (argN s 1, l) → l.next < l.size →
    l.next < l.quota * l.count → (tenAt s n).move = .settled → (croftAt s c).tenant = some n →
    (croftAt s c).stopped = false → (croftAt s c).quiesce = false → sleeperOn s (Config.treeCell (dieOf c)) c = false →
    freeName s n = some k → freeHand s c = some i → hasRecord s n = false →
    ∃ t, exec .launchSow s = .next t ∧ (ctxAt t c i).mode = .running ∧
      (ctxAt t c i).pc = l.entry ∧ (ctxAt t c i).name = k ∧ (ctxAt t c i).budget = l.budget ∧
      (ctxAt t c i).priv = l.priv ∧ (ctxAt t c i).pop = l.next ∧
      (∀ j < 5, (ctxAt t c i).regs.g.toList.getD (j + 1) 0 = if gAdmitted l.budget (j + 1) then
        [l.arg, BitVec.ofNat 64 l.next, BitVec.ofNat 64 l.size, 0x01FFFF0000000000, BitVec.ofNat 64 (l.next % l.quota)].getD j 0
        else 0) ∧
      sread l (dieAt t d).launches (argN s 1) = { l with next := l.next + 1, live := l.live ++ [l.next] } ∧
      t.mem = s.mem) ∧
  (∀ (s : State) (a : Await) (due : W64),
    let c := argN s 0
    let i := argN s 1
    (evCtx s).mode = .awaiting → (evCtx s).await = some a → a.retry = some due →
    (∀ n op, a.again = some (n, op) → due.toNat ≤ (croftAt s c).cyc.toNat → ∃ t, exec .feRetry s = .next t ∧
      (ctxAt t c i).await = some { a with retry := none } ∧ t.net = s.net ++ [⟨remKey (agentOf s c i) n,
        .croft n (tenAt t n).epoch (agentOf s c i) op none (.reply 0) false, none⟩]) ∧
    (∀ q, a.crib = some q → due.toNat ≤ (croftAt s c).cyc.toNat → ∃ t, exec .crtakeRetry s = .next t ∧
      (ctxAt t c i).await = some { a with retry := none } ∧
      t.net = s.net ++ [⟨[5, (agentOf s c i).ten, (agentOf s c i).name, q],
        .crib (agentOf s c i) (tenAt s (agentOf s c i).ten).set q .take, none⟩]) ∧
    ((croftAt s c).cyc.toNat < due.toNat → exec .feRetry s = .next s ∧ exec .crtakeRetry s = .next s))

/-! ## Events of homes and the network -/

/-- R177, R235, R245, R272, R275 to R278, R337 to R341: a request at its home performs on a line that is present where nothing holds it
back, a load returning its bytes, an atomic writing its result and returning the old value, a store writing one of its 16-byte units, the
rest of it staying at the bank until its last unit is acknowledged; else it queues and a walk begins, and an atomic waits behind those of
the home's unit that wait. A walk ends in a fill, which installs the line with what memory holds. Two atomics combine at a switch,
standing where the earlier of them stood, and their reply splits there, an error on the way reaching those that read a value. Bytes of a
line of a changed window are free values (log 55); that a store performs one unit at an event and that what waited for a fill performs by
events of its own is the model's reading (log 31), and so is what waits behind a fault bay or behind its croft's stores (log 93). -/
def Obligations.HomeEvents : Prop :=
  (∀ (s : State) (r : Req) (l : Line),
    argN s 2 = 0 → deliverable s (argN s 0) = some (.home r) → r.res.ft = false → r.res.bad = false →
    let b := r.res.bank
    let tag := tagOf r.res.glob r.res.asid
    let off := r.va % 64
    let blk := r.va / 64 * 64
    lineAt s b tag (r.va / 64) = some l → heldBack s b (bankAt s b).queue.length r = false → bayBefore s r = false →
    poisoned l.mark = false →
    (∀ n pos, r.op = .load n false → r.ack = .reply pos → exec .homeLoad s = .next { drawStale s (setOfAsid s r.res.asid) with
      net := netNext s [replyFlight (homeCell r.who b) r.who pos n
        (undefAt s (setOfAsid s r.res.asid) r.va n (l.data.toNat / 2 ^ (8 * off) % 2 ^ (8 * n))) blk] }) ∧
    (∀ a bs k id, r.op = .store [(a, bs)] none → r.bin = none → r.ack = .cls k id → l.ro = false → r.res.wt = false →
      outOfTurn s b r = false → ∃ t, exec .homeStore s = .next t ∧
        t.net = netNext s [ackFlight (homeCell r.who b) r.who k id] ∧ t.mem = s.mem ∧
        lineAt t b tag (r.va / 64) = some { l with data := putLine l.data (a % 64) bs.length (ofBytes bs), dirty := true }) ∧
    (∀ us u, 2 ≤ us.length → nth us (argN s 1 % us.length) = some u → r.op = .store us none → r.bin = none →
      l.ro = false → r.res.wt = false → outOfTurn s b r = false →
      ∃ t, exec .homeStore s = .next t ∧ t.net = netNext s [] ∧ t.mem = s.mem ∧
        (bankAt t b).queue = (bankAt s b).queue ++ [{ r with op := .rest (dropAt us (argN s 1 % us.length)) }] ∧
        lineAt t b tag (r.va / 64) =
          some { l with data := putLine l.data (u.1 % 64) u.2.length (ofBytes u.2), dirty := true }) ∧
    (∀ n f who x e pos cls id, r.op = .atom n f (.one who x e true pos cls id) → r.ack = .reply pos → l.ro = false →
      r.res.wt = false →
      let old := l.data.toNat / 2 ^ (8 * off) % 2 ^ (8 * n)
      ∃ t, exec .homeAtomic s = .next t ∧ t.net = netNext s [replyFlight (homeCell r.who b) who pos n old blk] ∧
        lineAt t b tag (r.va / 64) = some { l with data := putLine l.data off n (atomVal f n old x e), dirty := true })) ∧
  (∀ (s : State) (r : Req) (q : Req) (n : Nat) (f : AtomF) (who : Agent) (x e pos cls id : Nat), argN s 2 = 0 →
    deliverable s (argN s 0) = some (.home r) → r.res.ft = false → r.op = .atom n f (.one who x e true pos cls id) →
    r.ack = .reply pos → q ∈ (bankAt s r.res.bank).queue → (∃ m g t, q.op = .atom m g t) ∨ (∃ m, q.op = .step m false) →
    stalled s r.res.bank q = false →
    (lineAt s r.res.bank (tagOf r.res.glob r.res.asid) (r.va / 64)).isSome = true →
    ∃ t, exec .homeAtomic s = .next t ∧ t.net = netNext s [] ∧
      (bankAt t r.res.bank).queue = (bankAt s r.res.bank).queue ++ [r] ∧
      (bankAt t r.res.bank).lines = (bankAt s r.res.bank).lines) ∧
  (∀ (s : State) (r : Req) (l : Line) (b a k id : Nat) (bs : List Byte),
    argN s 2 = b + 1 → nth (bankAt s b).queue (argN s 0) = some r → r.res.bank = b → r.res.bad = false → r.res.wt = false →
    r.op = .rest [(a, bs)] → r.bin = none → r.ack = .cls k id →
    lineAt s b (tagOf r.res.glob r.res.asid) (r.va / 64) = some l → l.ro = false → outOfTurn s b r = false →
    bayBefore s r = false →
    ∃ t, exec .homeStore s = .next t ∧ t.net = s.net ++ [ackFlight (homeCell r.who b) r.who k id] ∧ t.mem = s.mem ∧
      (bankAt t b).queue = dropAt (bankAt s b).queue (argN s 0) ∧ lineAt t b (tagOf r.res.glob r.res.asid) (r.va / 64) =
        some { l with data := putLine l.data (a % 64) bs.length (ofBytes bs), dirty := true }) ∧
  (∀ (s : State) (r : Req) (n pos : Nat) (f : Bool), argN s 2 = 0 →
    deliverable s (argN s 0) = some (.home r) → r.res.ft = false → r.op = .load n f → r.ack = .reply pos →
    lineAt s r.res.bank (tagOf r.res.glob r.res.asid) (r.va / 64) = none → behindStores s (.net (argN s 0)) r = false →
    ∃ t, exec .homeLoad s = .next t ∧ t.net = netNext s [] ∧ t.mem = s.mem ∧
      (bankAt t r.res.bank).queue = (bankAt s r.res.bank).queue ++ [r] ∧
      ((chanAt s r.res.chan).walks = [] → (∀ g ∈ s.net, ∀ b c a la pa x ro gl bad, g.msg ≠ .fill b c a la pa x ro gl bad) →
        ∃ w, (chanAt t r.res.chan).walks = [w] ∧ w.asid = r.res.asid ∧ w.la = r.va / 64 ∧ w.bank = r.res.bank)) ∧
  (∀ (s : State) (b g tag la pa asid : Nat) (gen : W32) (ro : Bool),
    deliverable s (argN s 0) = some (.fill b g tag la pa gen ro asid false) → lineAt s b tag la = none →
    (∀ l ∈ (bankAt s b).lines, l.dirty = false) →
    ∃ t, exec .barnFill s = .next t ∧ t.net = netNext s [] ∧ t.mem = s.mem ∧
      lineAt t b tag la = some ⟨tag, la, memLine s pa, sread 0 s.marks (pa / 64), false, ro, pa / 64 * 64⟩) ∧
  (∀ (s : State) (w : Walk) (pfn : Nat) (ro gl : Bool) (s' s'' : State),
    let g := argN s 0
    let s1 := updChan s g fun k => { k with walks := dropAt k.walks (argN s 1) }
    let tag := tagOf w.glob w.asid
    let mine := (bankAt s w.bank).queue.filter fun q =>
      tagOf q.res.glob q.res.asid == tag && q.va / 64 == w.la && q.res.asid == w.asid && q.res.chan == g
    nth (chanAt s g).walks (argN s 1) = some w → w.ft = false →
    (w.gen ≠ (setAtId s (setOfAsid s w.asid)).gen → ∃ t, exec .translationWalk s = .next t ∧ t.net = s.net ∧
      (chanAt t g).walks = dropAt (chanAt s g).walks (argN s 1) ++
        [{ w with gen := (setAtId s (setOfAsid s w.asid)).gen }]) ∧
    (w.gen = (setAtId s (setOfAsid s w.asid)).gen → translate s1 g w.asid (w.la * 64) w.glob = (s', .ok pfn ro gl) →
      ((ro || gl) && mine.all fun q => writesLine q.op) = false → nameFrame s' g pfn tag (w.la * 64 / 4096) none = some s'' →
      ∃ t, exec .translationWalk s = .next t ∧ (chanAt t g).walks = dropAt (chanAt s g).walks (argN s 1) ∧
        t.net = s.net ++
          [⟨[], .fill w.bank g tag w.la (pfn * 4096 + w.la * 64 % 4096) w.gen (ro || gl) w.asid false, none⟩]) ∧
    (∀ code q n pos, w.gen = (setAtId s (setOfAsid s w.asid)).gen →
      translate s1 g w.asid (w.la * 64) w.glob = (s', .fault code) → (bankAt s w.bank).queue = [q] → mine = [q] →
      q.op = .load n false → q.ack = .reply pos → ∃ t, exec .translationWalk s = .next t ∧ (bankAt t w.bank).queue = [] ∧
        t.mem = s.mem ∧ t.net = s.net ++ [⟨[], .fault q.who 0 0 code q.va (setAtId s (setOfAsid s q.res.asid)).gen false,
          some (Config.channelCell g)⟩])) ∧
  (∀ (s : State) (v n sw blk : Nat) (f : AtomF) (u l : Agent) (x y e e' p p' c c' i i' : Nat),
    deliverable s (argN s 0) =
      some (.split v n f (.both sw (.one u x e true p c i) (.one l y e' true p' c' i')) blk false) →
    exec .droveSplit s = .next { s with net := netNext s [
      replyFlight none u p n v (blk / 64 * 64),
      replyFlight none l p' n (atomVal f n v (x % 2 ^ (8 * n)) 0) (blk / 64 * 64)] }) ∧
  (∀ (s : State) (v n sw blk : Nat) (f : AtomF) (u l : Agent) (x y e e' p p' c c' i i' : Nat),
    deliverable s (argN s 0) =
      some (.split v n f (.both sw (.one u x e true p c i) (.one l y e' false p' c' i')) blk true) →
    exec .droveSplit s = .next { s with net := netNext s [
      ⟨[], .reply u ⟨p, n, v, some blk, none, none, false, false, blk / 64 * 64⟩, none⟩, ackFlight none l c' i'] }) ∧
  (∀ (s : State) (a b : Req) (n x y e e' p p' c c' i i' : Nat) (u l : Agent),
    deliverable s (argN s 0) = some (.home a) → deliverable s (argN s 1) = some (.home b) →
    a.op = .atom n (.int .add) (.one u x e true p c i) → b.op = .atom n (.int .add) (.one l y e' true p' c' i') →
    a.va = b.va → a.res.bank = b.res.bank → a.res.asid = b.res.asid → a.ack = .reply p → b.ack = .reply p' →
    argN s 0 ≠ argN s 1 → argN s 2 < 6 →
    let d := a.res.bank % 64
    let ta := droveAt d (argN s 2) (droveLine u.core)
    let tb := droveAt d (argN s 2) (droveLine l.core)
    let sw := a.res.bank / 64 * 192 + argN s 2 * 32 + ta / 2
    fieldOf u.core = a.res.bank / 64 → fieldOf l.core = a.res.bank / 64 → ta % 2 = 0 → tb = ta + 1 → splitRecords s sw < 8 →
    let first := min (argN s 0) (argN s 1)
    let m : Msg := .home { a with
      res := { a.res with bad := a.res.bad || b.res.bad }
      op := .atom n (.int .add) (.both sw (.one u x e true p c i) (.one l y e' true p' c' i')), ack := .none }
    ∃ g, nth s.net first = some g ∧ exec .droveCombine s =
      .next { s with net := dropAt (setAt s.net first { g with msg := m }) (max (argN s 0) (argN s 1)) })

/-- R163 to R165, R187, R196, R206, R207, R213, R237, R281: what arrives at a croft. A remote load is answered with its bytes, a
store writes them and is acknowledged, a landing counts its bin after its bytes, and of what has several 16-byte units one lands at an
event, the count with the last; an FE request performs, is listed, or is refused and keeps its place among those of its word (log 59);
a channel takes a message while it has room; a resume serves those suspended on its tag or waits for one; a multicast
writes and counts at each receiver, and the last receiver to free it counts the sender's bin. -/
def Obligations.CroftArrivals : Prop :=
  (∀ (s : State) (n e off k pos : Nat) (who : Agent), ArrivesAt s (argN s 0) n e who (.load [(off, k, pos)]) none .none →
    poisonIn (fun b => cmMark s n b) off k = none →
    exec .remoteCroftAccess s = .next { s with
      net := dropAt (s.net ++ [replyFlight (some (tenAt s n).core) who pos k (cmGet s n off k) (feBlock n off)]) (argN s 0) }) ∧
  (∀ (s : State) (n e off cls id : Nat) (bs : List Byte) (who : Agent),
    ArrivesAt s (argN s 0) n e who (.store [(off, bs)] none) none (.cls cls id) →
    ∃ t, exec .remoteCroftAccess s = .next t ∧ t.net = netNext s [ackFlight (some (tenAt s n).core) who cls id] ∧ t.mem = s.mem ∧
      ∀ a, ByteOf t n a = if off ≤ a ∧ a < off + bs.length then bs.getD (a - off) 0 else ByteOf s n a) ∧
  (∀ (s : State) (n e off cls id : Nat) (bs : List Byte) (who : Agent) (b : Target) (c : Nat × Nat),
    ArrivesAt s (argN s 0) n e who (.store [(off, bs)] none) (some b) (.cls cls id) → ∀ hb : b.bin < 8,
    findName s b.ten b.name = some c → (slotAt s b.ten b.name).evicted = none →
    ∃ t, exec .landing s = .next t ∧ t.net = netNext s [ackFlight (some (tenAt s n).core) who cls id] ∧
      getB (ctxAt t c.1 c.2).regs ⟨b.bin, hb⟩ = getB (ctxAt s c.1 c.2).regs ⟨b.bin, hb⟩ + 1 ∧
      ∀ a, ByteOf t n a = if off ≤ a ∧ a < off + bs.length then bs.getD (a - off) 0 else ByteOf s n a) ∧
  (∀ (s : State) (n e : Nat) (us : List (Nat × List Byte)) (u : Nat × List Byte) (who : Agent) (b : Target) (ack : AckTo)
      (name k tag : Nat),
    let j := argN s 1 % us.length
    let stays (op : CroftOp) (bin : Option Target) (t : State) : Prop :=
      (∃ f, nth s.net (argN s 0) = some f ∧
        t.net = setAt s.net (argN s 0) { f with msg := .croft n e who op bin ack false }) ∧
      (∀ c i, ctxAt t c i = ctxAt s c i) ∧
      ∀ a, ByteOf t n a = if u.1 ≤ a ∧ a < u.1 + u.2.length then u.2.getD (a - u.1) 0 else ByteOf s n a
    2 ≤ us.length → nth us j = some u →
    (ArrivesAt s (argN s 0) n e who (.store us none) none ack →
      ∃ t, exec .remoteCroftAccess s = .next t ∧ stays (.store (dropAt us j) none) none t) ∧
    (ArrivesAt s (argN s 0) n e who (.store us none) (some b) ack →
      ∃ t, exec .landing s = .next t ∧ stays (.store (dropAt us j) none) (some b) t) ∧
    (ArrivesAt s (argN s 0) n e who (.stcm us name k tag) none ack →
      (∀ m ∈ (tenAt s who.ten).frees, m.tag = tag → n ∉ m.left) →
      ∃ t, exec .stcmDelivery s = .next t ∧ stays (.stcm (dropAt us j) name k tag) none t)) ∧
  (∀ (s : State) (n e off : Nat) (x : W64) (who : Agent) (op : FeOp) (ack : AckTo) (bin : Option Target),
    ArrivesAt s (argN s 0) n e who (.fe op off x) bin ack → op ≠ .kick → off < 0xFC00 → off % 8 = 0 →
    (tenAt s n).waiters = [] → poisonIn (fun b => cmMark s n b) off 8 = none →
    (feReady op (cmFull s n off) = true → ∃ t, exec .remoteFeRequest s = .next t ∧
      t.net = netNext s [replyFlight (some (tenAt s n).core) who 0 8 (cmGet s n off 8) (feBlock n off)] ∧
      cmFull t n off = (op = .keep ∨ op = .stfe ∨ op = .force) ∧
      cmGet t n off 8 = (if op = .stfe ∨ op = .force then x.toNat else cmGet s n off 8)) ∧
    (feReady op (cmFull s n off) = false → parkRoom s n = true → ∃ t f, exec .remoteFeRequest s = .next t ∧
      t.net = netNext s [f] ∧ (∃ r, f.msg = .reply who r ∧ r.listed = true) ∧
      (tenAt t n).waiters = [⟨off, op, x, who, true, .listed, false⟩]) ∧
    (feReady op (cmFull s n off) = false → parkRoom s n = false → ∃ t f, exec .remoteFeRequest s = .next t ∧
      t.net = netNext s [f] ∧ (∃ r, f.msg = .reply who r ∧ r.refused = true) ∧
      (tenAt t n).waiters = [⟨off, op, x, who, true, .refused, false⟩])) ∧
  (∀ (s : State) (n e ch : Nat) (m0 m1 : W64) (who : Agent) (ack : AckTo) (bin : Option Target),
    ArrivesAt s (argN s 0) n e who (.chsend ch m0 m1) bin ack →
    let k := chanOf (tenAt s n) ch
    (k.q.length < Config.channelDepth → ∃ t, exec .channelMessage s = .next t ∧
      chanOf (tenAt t n) ch = { k with q := k.q ++ [(m0, m1)] } ∧
      t.net = netNext s [answerFlight (some (tenAt s n).core) who 8 0]) ∧
    (Config.channelDepth ≤ k.q.length → parkRoom s n = true → ∃ t, exec .channelMessage s = .next t ∧
      chanOf (tenAt t n) ch = k ∧ (tenAt t n).senders = (tenAt s n).senders ++ [⟨ch, m0, m1, who⟩])) ∧
  (∀ (s : State) (n e tag cls id : Nat) (who : Agent) (bin : Option Target),
    ArrivesAt s (argN s 0) n e who (.resume tag) bin (.cls cls id) → suspended s n tag = [] →
    tag ∉ (tenAt s n).resumes → ∃ t, exec .resumeArrival s = .next t ∧
      t.net = netNext s [ackFlight (some (tenAt s n).core) who cls id] ∧
      (tenAt t n).resumes = (tenAt s n).resumes ++ [tag]) ∧
  (∀ (s : State) (n e tag cls id c i name : Nat) (p : Park) (who : Agent) (bin : Option Target),
    ArrivesAt s (argN s 0) n e who (.resume tag) bin (.cls cls id) → suspended s n tag = [name] →
    findName s n name = some (c, i) → (ctxAt s c i).park = some p →
    ∃ t, exec .resumeArrival s = .next t ∧ (ctxAt t c i).park = some { p with served := true, ue := none } ∧
      (tenAt t n).resumes = (tenAt s n).resumes) ∧
  (∀ (s : State) (n e off name b tag cls id : Nat) (bs : List Byte) (who : Agent) (c : Nat × Nat),
    ArrivesAt s (argN s 0) n e who (.stcm [(off, bs)] name b tag) none (.cls cls id) → ∀ hb : b < 8,
    (∀ m ∈ (tenAt s who.ten).frees, m.tag = tag → n ∉ m.left) →
    findName s n name = some c → (slotAt s n name).evicted = none →
    ∃ t, exec .stcmDelivery s = .next t ∧ getB (ctxAt t c.1 c.2).regs ⟨b, hb⟩ = getB (ctxAt s c.1 c.2).regs ⟨b, hb⟩ + 1 ∧
      (∀ a, ByteOf t n a = if off ≤ a ∧ a < off + bs.length then bs.getD (a - off) 0 else ByteOf s n a) ∧
      (t.net = netNext s [ackFlight (some (tenAt s n).core) who cls id] ∨ t.net = netNext s [])) ∧
  (∀ (s : State) (sender tag by_ cls id name b : Nat) (ways : List (Nat × List Nat)) (es : List Nat) (who : Agent)
    (c : Nat × Nat),
    deliverable s (argN s 0) = some (.free sender tag by_ who cls id) → (tenAt s sender).move = .settled →
    (tenAt s sender).frees = [⟨tag, name, b, ways, [by_], es⟩] → ∀ hb : b < 8, findName s sender name = some c →
    (slotAt s sender name).evicted = none → ∃ t, exec .multicastFree s = .next t ∧ (tenAt t sender).frees = [] ∧
      t.net = netNext s [ackFlight (some (tenAt s sender).core) who cls id] ∧
      getB (ctxAt t c.1 c.2).regs ⟨b, hb⟩ = getB (ctxAt s c.1 c.2).regs ⟨b, hb⟩ + 1)

/-- R190 to R194, R279, R280, R296, R381: an arrival joins its generation, which completes at its N-th arrival: each of its members that
is parked for it on a context is served with 0, and the bin that an arrival names counts one landing, where its continuation stands on a
context; the root ends a generation that is told to abort. A crib gives a record to its earliest waiter or keeps it, on chip or in its
loft, gives its oldest with the loft's oldest moving up, lists a take that finds it empty or refuses it where its list is full, states
what it holds, is bound under the windows its check passed under and unbound, answers CRIBFAULT
with 1 for another set's crib, 2 where it is full, 3 where it is not empty, and of two records that arrive in one cycle takes the drove's
before the meadow's; it waits while atomics or line steps wait at the home's unit, but for those that a fault bay holds up (the model's reading, log 93). That unbinding drops the CRTAKEs listed at a crib is
the model's choice (log 65), and so is the zero address of CRIBFAULT (log 32). -/
def Obligations.BarrierAndCribEvents : Prop :=
  (∀ (s : State) (b x n id sc : Nat) (a : Arrival), deliverable s (argN s 0) = some (.arrive b x n a id sc) →
    let key := barrierKey a.who.core sc id
    let k := barrierAt s b key
    let N := if k.arrived = [] then max 1 n else k.n
    (k.arrived.length + 1 < N → ∃ t, exec .barrierArrival s = .next t ∧ t.net = netNext s [] ∧
      barrierAt t b key = { k with n := N, arrived := k.arrived ++ [a] }) ∧
    (N ≤ k.arrived.length + 1 → ∃ t, exec .barrierArrival s = .next t ∧ (barrierAt t b key).gen = k.gen + 1 ∧
      (barrierAt t b key).arrived = [] ∧ (barrierAt t b key).aborted = k.aborted ∧
      ∀ c i, srising none (croftAt s c).ctxs = true →
        (∀ j : Fin 8, getB (ctxAt t c i).regs j = getB (ctxAt s c i).regs j + BitVec.ofNat 32 ((k.arrived ++ [a]).filter fun x =>
          x.bin == some j.val && findName s x.who.ten x.who.name == some (c, i)).length) ∧
        (∀ x ∈ k.arrived ++ [a], ∀ p : Park, x.bin = none → findAgent s x.who = some (c, i) → (ctxAt s c i).mode = .parked →
          (ctxAt s c i).park = some p → p.kind = .barrier → p.param = sc + id * 16 → p.served = false → p.rearrive = none →
          p.d < 64 → p.owe.keep = none →
          ∃ q, (ctxAt t c i).park = some q ∧ q.served = true ∧ q.ue = none ∧ q.kind = .barrier ∧
            (ctxAt t c i).regs.g = (putGn (ctxAt s c i).regs p.d 0).g))) ∧
  (∀ (s : State) (b id gen : Nat) (who : Agent), deliverable s (argN s 0) = some (.abort b id gen who) →
    let key := barrierKey 0 6 id
    let k := barrierAt s b key
    (k.gen = gen → k.arrived ≠ [] → ∃ t, exec .podCollectiveAbort s = .next t ∧
      (barrierAt t b key).gen = k.gen + 1 ∧ (barrierAt t b key).arrived = [] ∧
      (barrierAt t b key).aborted = k.aborted ++ [gen]) ∧
    (k.gen ≠ gen ∨ k.arrived = [] → exec .podCollectiveAbort s = .next { s with net := netNext s [] })) ∧
  (∀ (s : State) (who : Agent) (b c n : Nat) (op : CribOp), s.arg = [n] → deliverable s n = some (.crib who b c op) →
    (∃ q ∈ (bankAt s c).queue, ofUnit q = true ∧ stalled s c q = false) →
    ∀ i ∈ [Instr.cribAppend, .cribTake, .cribStat, .cribBind], exec i s = .next s) ∧
  (∀ (s : State) (who : Agent) (b c n : Nat) (op : CribOp), s.arg = [n] → deliverable s n = some (.crib who b c op) →
    (∀ q ∈ (bankAt s c).queue, ofUnit q = false) →
    let k := cribAt s c
    let err (aux : Nat) : List Flight :=
      netNext s [⟨[], .reply who ⟨0, 8, 0, none, none, some (0x19, aux, 0), false, false, 0⟩, homeCell who c⟩]
    let record (w : Agent) (r : BitVec 512) : Flight := answerFlight (homeCell w c) w 65 (r.toNat + 2 ^ 512)
    let done : Flight := answerFlight (homeCell who c) who 8 0
    (c < 4608 → (k.set = none ∧ (∀ x y z, op ≠ .bind x y z)) ∨ (∃ y, k.set = some y ∧ y ≠ b) →
      ∀ x, ∀ i ∈ [(Instr.cribAppend, CribOp.add x), (.cribTake, .take), (.cribTake, .tryTake), (.cribStat, .stat),
        (.cribBind, .unbind)], i.2 = op → exec i.1 s = .next { s with net := err 1 }) ∧
    (c < 4608 → k.set = some b →
      (∀ r, op = .add r →
        (∀ w ws, k.waiters = w :: ws → ∃ t, exec .cribAppend s = .next t ∧ cribAt t c = { k with waiters := ws } ∧
          t.net = netNext s [record w r, done]) ∧
        (k.waiters = [] → k.held = 0 → k.q.length < Config.cribOnChip → ∃ t, exec .cribAppend s = .next t ∧
          cribAt t c = { k with q := k.q ++ [r] } ∧ t.net = netNext s [done]) ∧
        (k.waiters = [] → k.held ≠ 0 ∨ Config.cribOnChip ≤ k.q.length → k.held < k.size → ∃ t, exec .cribAppend s = .next t ∧
          cribAt t c = { k with held := k.held + 1 } ∧ t.net = netNext s [done]) ∧
        (k.waiters = [] → Config.cribOnChip ≤ k.q.length → k.size ≤ k.held →
          exec .cribAppend s = .next { s with net := err 2 })) ∧
      (op = .take ∨ op = .tryTake → ∀ r q, k.q = r :: q → k.held = 0 → ∃ t, exec .cribTake s = .next t ∧
        cribAt t c = { k with q := q } ∧ t.net = netNext s [record who r]) ∧
      (op = .take ∨ op = .tryTake → ∀ r q, k.q = r :: q → k.held ≠ 0 → ∃ t, exec .cribTake s = .next t ∧
        cribAt t c = { k with q := q ++ [(physLine s (k.pas.getD k.head 0)).1], head := (k.head + 1) % k.size, held := k.held - 1 } ∧
        t.net = netNext s [record who r]) ∧
      (op = .take → k.q = [] → Config.cribWaiters ≤ k.waiters.length → exec .cribTake s =
        .next { s with net := netNext s [⟨[], .reply who ⟨0, 65, 0, none, none, none, true, false, 0⟩, homeCell who c⟩] }) ∧
      (op = .tryTake → k.q = [] → exec .cribTake s = .next { s with net := netNext s [answerFlight (homeCell who c) who 65 0] }) ∧
      (op = .take → k.q = [] → k.waiters.length < Config.cribWaiters → ∃ t f, exec .cribTake s = .next t ∧
        cribAt t c = { k with waiters := k.waiters ++ [who] } ∧ t.net = netNext s [f] ∧
        ∃ r, f.msg = .reply who r ∧ r.listed = true) ∧
      (op = .stat → k.held < 2 ^ 24 → exec .cribStat s = .next { s with net := netNext s [answerFlight (homeCell who c) who 8
        (k.q.length + k.held * 2 ^ 8 + (if k.held = 0 then 0 else 2 ^ 62) + 2 ^ 63)] }) ∧
      (op = .unbind → k.q ≠ [] → exec .cribBind s = .next { s with net := err 3 }) ∧
      (op = .unbind → k.q = [] → ∃ t, exec .cribBind s = .next t ∧ cribAt t c = Crib.empty ∧
        t.net = netNext s [done])) ∧
    (∀ base size wins s' pas, c < 4608 → op = .bind base size wins → k.set = none →
      loftPages b who.core wins (setAtId s b).asid size base (drop s n) [] = (s', .ok pas) →
      ∃ t, exec .cribBind s = .next t ∧ t.net = netNext s [done] ∧ cribAt t c = { Crib.empty with
        set := some b, loft := base, size := size, pas := pas, waiters := k.waiters })) ∧
  (∀ (s : State) (far near : Agent) (b c n m : Nat) (x y : BitVec 512), s.arg = [n, m] → n ≠ m →
    deliverable s n = some (.crib far b c (.add x)) → deliverable s m = some (.crib near b c (.add y)) →
    (∀ q ∈ (bankAt s c).queue, ofUnit q = false) →
    fieldOf far.core ≠ c / 64 → fieldOf near.core = c / 64 → c < 4608 → (cribAt s c).set = some b →
    (cribAt s c).waiters = [] → (cribAt s c).held = 0 → (cribAt s c).q.length + 2 ≤ Config.cribOnChip →
    ∃ t, exec .cribAppend s = .next t ∧ (cribAt t c).q = (cribAt s c).q ++ [y, x])

/-! ## Events of the floor dies -/

/-- R199 to R201, R204, R252 to R267, R290, R291, R399: a hire is registered under an id of its floor, or refused HIRECAP or HIREPUSH; a
grant of a floor die that stage C has trained gives it a thresher and marks its ring entry; a thresher takes the sheaf it expects,
discards others and refuses a wrong format; the last segment ends a hire or lands it through an engine; its packets go out in order, under
the windows that its check passed under; one that faults parks in the bay while there is room, the first since the grant with a fault
packet, and stops the hire; a notice of a packet that the bay does not hold changes nothing; and a rick takes the hire's image. The state
of a hire from its landing fault on, the order of rings and of waiting hires, and what becomes of a packet that parks while its hire is
dropped are the model's reading (logs 26, 34), and so is what waits behind a fault bay (log 93); the zero aux and address of HIRECAP are its choice (log 32). -/
def Obligations.FairEvents : Prop :=
  (∀ (s : State) (h : HireReq), deliverable s (argN s 0) = some (.hire h) → (tenAt s h.who.ten).move = .settled → h.floor < 2 →
    let k := fairAt s h.floor
    let key := sread 0 k.keys h.pad
    let refused : Prop := key = 0 ∨ key.toNat ≠ h.hcap.toNat % 4096 ∨ h.pri < h.hcap.toNat / 4096 % 4 ∨
      h.hcap.getLsbD (14 + h.floor) = false
    (refused → ∃ t, exec .fairRegister s = .next t ∧ t.fairs = s.fairs ∧
      t.net = netNext s [⟨[], .reply h.who ⟨0, 8, 0, none, none, some (0x20, 0, 0), false, false, 0⟩, none⟩] ∧
      h.ring ∉ (tenAt t h.who.ten).ring) ∧
    (¬ refused → h.chain = false → ∃ t id, exec .fairRegister s = .next t ∧ id % 2 = h.floor ∧
      t.net = netNext s [answerFlight none h.who 8 id] ∧ (∃ x, hireAt t id = some x ∧ x.req = h ∧ x.state = 1 ∧ x.id = id) ∧
      (fairAt t h.floor).nextChain = k.nextChain + 1 ∧
      (h.who.ten, h.who.name) ∈ ringOf (fairAt t h.floor) h.pri ∧
      cmGet t h.who.ten (0xFC00 + 32 * h.ring + 8) 8 = h.a % 2 ^ 64) ∧
    (¬ refused → h.chain = true → ∀ c, openChain k h.who.ten h.who.name h.c = some c → chainMismatch c h = true →
      ∃ t id, exec .fairRegister s = .next t ∧ t.net =
        netNext s [⟨[], .reply h.who ⟨0, 8, 0, none, none, some (0x22, id, 0), false, false, 0⟩, none⟩])) ∧
  (∀ (s : State) (h : Hire) (thr : Nat),
    let f := argN s 0
    h.id % 2 = f → s.mgmt.floors.getLsbD f = true → (tenAt s h.req.who.ten).move = .settled →
    (tenAt s h.req.who.ten).waiters = [] → h.req.ring < 16 →
    chooseGrant (fairAt s f) = some (.ring h thr) ∨ chooseGrant (fairAt s f) = some (.aged h thr) ∨
      chooseGrant (fairAt s f) = some (.continuing h thr) →
    ∃ t, exec .fairGrant s = .next t ∧ hireAt t h.id = some { h with state := 2, thr := some thr } ∧
      (∀ c, chainAt (fairAt t f) h.chain = some c → c.thr = some thr) ∧
      cmFull t h.req.who.ten (0xFC00 + 32 * h.req.ring) = true ∧ cmFull t h.req.who.ten 0xFF80 = true ∧
      (cmGet t h.req.who.ten 0xFF80 8).testBit 15 = true) ∧
  (∀ (s : State) (h : Hire), h.id % 2 = argN s 0 → s.mgmt.floors.getLsbD (argN s 0) = true → chooseGrant (fairAt s (argN s 0)) = some (.resumed h) →
    h.counted.length ≠ h.image.length → ∃ t, exec .fairGrant s = .next t ∧
      hireAt t h.id = some { h with
        state := 4, engine := true, rick := false, resumed := false, stopped := false, reported := false, replays := [] }) ∧
  (∀ s : State, chooseGrant (fairAt s (argN s 0)) = none ∨ s.mgmt.floors.getLsbD (argN s 0) = false →
    exec .fairGrant s = .next s) ∧
  (∀ (s : State) (who : Agent) (id op seq pid : Nat) (m : Mark) (x : LineWord) (h : Hire),
    deliverable s (argN s 0) = some (.sheaf who id op seq m x pid) → hireAt s id = some h → h.state = 2 →
    h.summed = false → h.req.who.ten = who.ten →
    let q := h.req
    (op = 0 → seq = h.seqA → seq < q.m * ablkOf q → m.toNat / 256 = sheafFmt q.wf 0 → ∃ t, exec .sheafArrival s = .next t ∧
      t.net = netNext s [ackFlight none who 2 pid] ∧ ∃ y, hireAt t id = some y ∧ y.seqA = seq + 1 ∧
        y.blocksA = h.blocksA ++ [(m, x)] ∧ y.blocksB = h.blocksB ∧ y.state = 2) ∧
    (op = 1 → seq = h.seqB → seq < q.n * bblkOf q → m.toNat / 256 = 1 → ∃ t, exec .sheafArrival s = .next t ∧
      t.net = netNext s [ackFlight none who 2 pid] ∧ ∃ y, hireAt t id = some y ∧ y.seqB = seq + 1 ∧
        y.blocksB = h.blocksB ++ [(m, x)] ∧ y.blocksA = h.blocksA) ∧
    (op = 0 → seq = h.seqA → seq < q.m * ablkOf q → m.toNat / 256 ≠ sheafFmt q.wf 0 → hiresOf (fairAt s (id % 2)) = [h] →
      ∃ t y, exec .sheafArrival s = .next t ∧ t.net = netNext s [ackFlight none who 2 pid] ∧ hireAt t id = some y ∧
        y.state = 7 ∧ y.thr = none) ∧
    (op = 0 → seq ≠ h.seqA → exec .sheafArrival s = .next { s with net := netNext s [ackFlight none who 2 pid] })) ∧
  (∀ (s : State) (h : Hire) (c : Chain), evHire s = some h → h.state = 2 → h.summed = false → h.dropping = false →
    h.seqA = h.req.m * ablkOf h.req → h.seqB = h.req.n * bblkOf h.req → chainAt (fairAt s (h.id % 2)) h.chain = some c →
    (h.req.land = false → h.req.n ≤ 256 → ∃ t, exec .lastSegment s = .next t ∧
      (∃ y, hireAt t h.id = some y ∧ y.state = 5 ∧ y.thr = none) ∧
      ∃ d, chainAt (fairAt t (h.id % 2)) h.chain = some d ∧ d.isOpen = c.isOpen ∧ ∀ i < h.req.m, ∀ j < h.req.n,
        sread Acc.clear d.acc (i * 256 + j) = addSegments h i j (sread Acc.clear c.acc (i * 256 + j))) ∧
    (h.req.land = true → engineFree (fairAt s (h.id % 2)) = true →
      (hiresOf (fairAt s (h.id % 2))).any (fun g => g.summed) = false → ∃ t y, exec .lastSegment s = .next t ∧
      hireAt t h.id = some y ∧ y.state = 4 ∧ y.engine = true ∧ y.summed = false ∧
      y.image = (yieldImage h.req (accumulate h c)).1) ∧
    (h.req.land = true → engineFree (fairAt s (h.id % 2)) = false → ∃ t y, exec .lastSegment s = .next t ∧
      hireAt t h.id = some y ∧ y.state = 2 ∧ y.summed = true)) ∧
  (∀ (s : State) (h : Hire) (c : Chain),
    let k := fairAt s (argN s 0)
    h.id % 2 = argN s 0 → oldestBy (fun h => h.order) ((hiresOf k).filter fun h => h.summed) = some h →
    chainAt k h.chain = some c → engineFree k = true → ∃ t y, exec .landingEngineGrant s = .next t ∧
      hireAt t h.id = some y ∧ y.state = 4 ∧ y.engine = true ∧ y.summed = false ∧ y.image = (yieldImage h.req c).1) ∧
  (∀ (s : State) (h : Hire) (i : Nat) (l : Landing) (off : Nat), evHire s = some h →
    (List.range h.image.length).find? (fun i => !h.issued.contains i) = some i → nth h.image i = some l → h.state = 4 →
    h.engine = true → h.stopped = false → h.dropping = false →
    ∃ t, exec .landingPacketIssue s = .next t ∧
      (∃ y, hireAt t h.id = some y ∧ y.issued = h.issued ++ [i] ∧ y.sent = h.sent + 1 ∧
        (h.issued.length + 1 = h.image.length → y.thr = none)) ∧
      t.net.length = s.net.length + 1 ∧ (placeOf .virt l.va = some (.own off) →
        let a := h.req.who
        t.net = s.net ++ [⟨[3, h.id, 100000], .croft a.ten (tenAt s a.ten).epoch a (.store (unitsOf [(off, l.bytes)]) l.mark)
          (some ⟨a.ten, a.name, h.req.bin⟩) (.hire h.id i) false, none⟩]) ∧
      (∀ va w, placeOf .virt l.va = some (.virt va) → coverOf h.req.wins l.va = some w →
        let a := h.req.who
        let r := resolve s (setAtId s (tenAt s a.ten).set).asid w l.va (some a.core)
        t.net = s.net ++ [⟨landKey h.id r, .home ⟨a, .landing, r, l.va, .store (unitsOf [(l.va, l.bytes)]) l.mark,
          some ⟨a.ten, a.name, h.req.bin⟩, .hire h.id i⟩, none⟩])) ∧
  (∀ (s : State) (r : Req) (l : Line) (h : Hire) (i : Nat), argN s 2 = 0 → deliverable s (argN s 0) = some (.home r) →
    r.res.ft = false → r.ack = .hire h.id i → hireAt s h.id = some h → (∃ us m, r.op = .store us m) → r.bin ≠ none →
    lineAt s r.res.bank (tagOf r.res.glob r.res.asid) (r.va / 64) = some l → l.ro = true →
    heldBack s r.res.bank (bankAt s r.res.bank).queue.length r = false → bayBefore s r = false →
    outOfTurn s r.res.bank r = false →
    let g := r.res.chan
    let b := (tenAt s r.who.ten).set
    let gen := (setAtId s (setOfAsid s r.res.asid)).gen
    (Config.bayMax ≤ (chanAt s g).bay.length → exec .landing s = .next s) ∧
    ((chanAt s g).bay.length < Config.bayMax → ∃ t, exec .landing s = .next t ∧ t.mem = s.mem ∧
      (chanAt t g).bay = (chanAt s g).bay ++ [⟨r, gen, some (h.id, i)⟩] ∧ t.net = netNext s [⟨[], .landFault h.id i, none⟩] ∧
      (h.reported = false ∨ i ∈ h.replays → hireAt t h.id = some { h with reported := true, replays := h.replays.erase i } ∧
        Sends s t b (agBridge g) (fun _ => False) (mkReport cPROT 0 r.who.core 1 r.who.ten 0 0 h.id r.va)) ∧
      (h.reported = true → i ∉ h.replays → t.fairs = s.fairs ∧ t.tenants = s.tenants ∧ t.sets = s.sets ∧
        t.reports = s.reports))) ∧
  (∀ (s : State) (h : Hire) (i : Nat), deliverable s (argN s 0) = some (.landFault h.id i) → hireAt s h.id = some h →
    (i ∉ bayOf s h.id → exec .landingFault s = .next { s with net := netNext s [] }) ∧
    (i ∈ bayOf s h.id → h.state = 4 → h.dropping = false → i ∉ h.parked → ∃ t, exec .landingFault s = .next t ∧
      t.net = netNext s [] ∧ t.chans = s.chans ∧ hireAt t h.id = some { h with
        state := 3, parked := h.parked ++ [i], stopped := true, lfault := true, resumed := false }) ∧
    (i ∈ bayOf s h.id → h.dropping = true → ∃ t, exec .landingFault s = .next t ∧ bayOf t h.id = [] ∧
      ∃ y, hireAt t h.id = some y ∧ y.counted = h.counted ∧ i ∈ y.parked)) ∧
  (∀ (s : State) (h : Hire), evHire s = some h → h.state = 3 → h.engine = true → h.dropping = false →
    ((ricksUsed (fairAt s (h.id % 2)) < Config.ricks → ∃ t, exec .rickPreempt s = .next t ∧
      hireAt t h.id = some { h with rick := true, engine := false, thr := none } ∧
      ∀ c ∈ (fairAt t (h.id % 2)).chains, c.id ≠ h.chain) ∧
    (Config.ricks ≤ ricksUsed (fairAt s (h.id % 2)) → exec .rickPreempt s = .next s)))

/-! ## Calls, reports, routers, queues -/

/-- R211, R282, R289, R308, R322, R327, R374, R375, R385, R386: a mill takes a call at its entry, queues it behind its calls, or refuses
an unloaded entry, and the MCALL then faults ILL with aux 1; a held fault packet is delivered as two adjacent messages once its channel
has room, with the agent's packets that were not sent in LOST; a dropped packet is logged and its port told; a router powers down while no
packet is on its way through it, and packets wait at one that is down; a queue asked to stop is saved; a poll tick sends its signal; a
front end that lets its watchdog expire restarts every queue at HEAD. The fields of log entries are the model's choice (log 47); that a
save lies at a physical address (log 39), and which packets cross the meadow and wait at a router that is down (logs 25, 27), are its
reading. -/
def Obligations.NetworkAndQueueEvents : Prop :=
  (∀ (s : State) (c : Call), deliverable s (argN s 0) = some (.mcall c) →
    let k := (chanAt s c.chan).mill
    let v := sread (false, 0) k.entry c.entry
    (v.1 = true → k.call = none → k.queue = [] → ∃ t, exec .millCallAccept s = .next t ∧ t.net = netNext s [] ∧
      (let m := (chanAt t c.chan).mill
       m.call = some c ∧ m.upc = v.2 ∧ m.z = false ∧ m.m = #v[c.va, c.len &&& ~~~63, c.a1, c.a2, 0, 0, 0, 0])) ∧
    (v.1 = true → k.call.isSome = true → k.queue.length + 1 < Config.millCalls → ∃ t, exec .millCallAccept s = .next t ∧
      t.net = netNext s [] ∧ (chanAt t c.chan).mill = { k with queue := k.queue ++ [c] }) ∧
    (v.1 = true → k.call.isSome = true → Config.millCalls ≤ k.queue.length + 1 → exec .millCallAccept s = .next s) ∧
    (∀ b i j, v.1 = false → c.done = .bin b → findAccess s c.who = some (i, j) → ∃ t, exec .millCallAccept s = .next t ∧
      t.net = netNext s [] ∧ t.chans = s.chans ∧
      (let u : State := { t with cur := (i, j) }
       ∀ h e a bin p, Issues h [.g a] u → (me u).stage = .sealed → (me u).busy = false → (rdG u a).toNat % 8 = 0 →
         checkEl u needR .virt (rdG u a).toNat 32 = .ok p →
         ((ctxAt s i j).sub < 8 → exec (.mcall h e a bin) u = .next (raiseSealed cILL 1 0 u)) ∧
         (8 ≤ (ctxAt s i j).sub → exec (.mcall h e a bin) u = .next (raiseOp cILL 1 0 u))))) ∧
  (∀ (s : State) (b n ch g : Nat) (r : Report) (rs : List Report) (hs : List (Nat × Report)) (lost : Nat),
    (roomFor s b = some (n, ch) → (setAtId s b).held = (g, r) :: hs → argN s 0 = b → ∃ t,
      exec .haywardPacketDelivery s = .next t ∧ (setAtId t b).held = hs ∧
      (chanOf (tenAt t n) ch).q = (chanOf (tenAt s n) ch).q ++ [(r.w0, r.w1), (r.w2, r.w3)]) ∧
    (roomFor s b = none → argN s 0 = b → exec .haywardPacketDelivery s = .next s) ∧
    (sread ([], 0) s.reports (argN s 0) = (r :: rs, lost) → setOfTen s (r.w0.toNat / 2 ^ 39 % 2 ^ 24) = some b →
      (roomFor s b = some (n, ch) → byRoute s b r = false → olderHeld s b (argN s 0) = false →
        let x := withLost r (sread 0 (setAtId s b).lost (argN s 0))
        ∃ t, exec .faultPacketReoffer s = .next t ∧
        sread ([], 0) t.reports (argN s 0) = (rs, lost) ∧ sread 0 (setAtId t b).lost (argN s 0) = 0 ∧
        (chanOf (tenAt t n) ch).q = (chanOf (tenAt s n) ch).q ++ [(x.w0, x.w1), (x.w2, x.w3)]) ∧
      (roomFor s b = none ∨ olderHeld s b (argN s 0) = true → byRoute s b r = false → (routeOf s b).isSome = true →
        exec .faultPacketReoffer s = .next s))) ∧
  (∀ s : State,
    (argN s 0 < s.net.length → ∃ t, exec .packetDrop s = .next t ∧ t.net = netNext s [] ∧
      t.losses = s.losses ++ [(argN s 1, argN s 2, argN s 3)] ∧ t.mgmt.lognext = (s.mgmt.lognext + 1) % 4096) ∧
    (∀ p ps, s.losses = p :: ps → ∃ t, exec .lossReport s = .next t ∧ t.losses = ps ∧ t.mem = s.mem ∧ t.net = s.net) ∧
    (argN s 0 ∉ s.asleep → routerBusy s (argN s 0) = false →
      exec .routerPowerDown s = .next { s with asleep := s.asleep ++ [argN s 0] }) ∧
    (argN s 0 ∈ s.asleep ∨ routerBusy s (argN s 0) = true → exec .routerPowerDown s = .next s) ∧
    (∀ n f, nth s.net n = some f → atSleeper s f = true → deliverable s n = none) ∧
    exec .routerWake s = .next { s with asleep := s.asleep.erase (argN s 0) }) ∧
  (∀ (s : State) (p : Packet) (c : Cursor) (rest : List Item),
    let q := argN s 0
    let a := argN s 1
    let k := queueAt s q
    k.preempt = true → s.mgmt.code ≠ 1 → 0 < a → a < 2 ^ 57 → k.outs = [] → c.levels = [] → c.loop = none →
    c.rpos = 0 → k.ip = 0 → k.items = .pkt (.packetNop p) c :: rest → c.ring < 2 ^ k.log2 → k.log2 ≤ 24 → k.tail < 2 ^ 32 →
    ∃ t, exec .queueSaveWrite s = .next t ∧ (queueAt t q).state = 5 ∧ (queueAt t q).save = a ∧
      (queueAt t q).preempt = false ∧ memGet t a 2 = s.mgmt.wlayout % 2 ^ 16 ∧ memGet t (a + 8) 4 = c.ring ∧ memGet t (a + 12) 4 = k.tail ∧
      ∀ x, x < a ∨ a + 128 ≤ x → sread 0 t.mem x = sread 0 s.mem x) ∧
  (∀ s : State,
    (argN s 0 % 2 = 1 → ∃ t, exec .pollTick s = .next t ∧ { t with lomwens := s.lomwens } = s ∧
      (lomAt t (argN s 0)).pending.getLsbD 3 = true) ∧
    (argN s 0 % 2 = 0 → ∃ t, exec .pollTick s = .next t ∧ (lomAt t (argN s 0)).pending.getLsbD 3 = true)) ∧
  (∀ (s : State) (q : Nat), argN s 0 < 8 → q / 512 = argN s 0 → q ∈ s.queues.map Prod.fst →
    (queueAt s q).disable = false → ∃ t, exec .watchdogExpiry s = .next t ∧ t.crofts = s.crofts ∧
      ((∀ x, x / 512 = argN s 0 → (queueAt s x).state ≠ 5) → t.mem = s.mem) ∧
      (queueAt t q).head = (queueAt s q).head ∧ (queueAt t q).fetch = (queueAt s q).head ∧ (queueAt t q).items = [] ∧
      (queueAt t q).outs = [] ∧ (dieAt t (argN s 0)).launches = [] ∧ (lomAt t (2 * argN s 0)).pending = 0 ∧
      t.mgmt.lognext = (s.mgmt.lognext + 1) % 4096)

/-! ## Swaps, relocation and borders -/

/-- R356 to R370: a pair's window closes with its counts halved and COOL lowered, and where its gate passes the two crofts
stop; the exchange moves both tenants with their contexts to the other croft under a new map epoch, with empty caches; the
routers switch; the drain marker settles the tenant and starts its croft; a border move quiesces, relocates, flushes and
rehashes its field, and gives it to the receiver. Corners of simultaneous windows and of border moves are the model's reading
(logs 18 to 20). -/
def Obligations.SwapAndBorderEvents : Prop :=
  (∀ (s : State) (p n : Nat),
    let a := (pairCrofts p).1
    let b := (pairCrofts p).2
    argN s 0 = p → (mayClose s p = false → exec .swapWindowClose s = .next s) ∧
    (mayClose s p = true →
      sameEnd s p = [p] →
      (pairAt s p).sent < (dieAt s (dieOf a)).window → (croftAt s a).tenant = some n → (croftAt s b).tenant = none →
      (swapGate s p = false → ∃ t, exec .swapWindowClose s = .next t ∧
        pairAt t p = { pairAt s p with count := (pairAt s p).sent, sent := 0, ended := none } ∧
        (tenAt t n).cool = (tenAt s n).cool - 1 ∧ (tenAt t n).newcomer = ⟨false, 0, 0⟩ ∧
        ((tenAt s n).newcomer.v = false →
          (tenAt t n).partners = (tenAt s n).partners.map fun x => { x with count := x.count / 2 }) ∧
        t.crofts = s.crofts ∧ t.mem = s.mem) ∧
      (swapGate s p = true → ∃ t, exec .swapWindowClose s = .next t ∧ (croftAt t a).stopped = true ∧
        (croftAt t b).stopped = true ∧ (tenAt t n).move = .exchanging ∧ (pairAt t p).move = .exchanging))) ∧
  (∀ (s : State) (p n : Nat),
    let a := (pairCrofts p).1
    let b := (pairCrofts p).2
    argN s 0 = p → (pairAt s p).move = .exchanging → (croftAt s a).tenant = some n →
    (∀ m, (croftAt s b).tenant = some m → m ≠ n) →
    ∃ t, exec .swapStateCrossed s = .next t ∧ t.epoch = s.epoch + 1 ∧ (croftAt t b).tenant = some n ∧
      (croftAt t a).tenant = (croftAt s b).tenant ∧ (∀ i, ctxAt t b i = ctxAt s a i ∧ ctxAt t a i = ctxAt s b i) ∧
      (croftAt t b).l1 = [] ∧ (croftAt t b).icache = [] ∧ (tenAt t n).core = b ∧ (tenAt t n).oldCore = a ∧
      (tenAt t n).epoch = s.epoch + 1 ∧ (tenAt t n).move = .remapping ∧ t.mem = s.mem ∧
      (∀ x, (∀ e < 8, x < (gleanRows (tenAt s n) e).1 ∨
          (gleanRows (tenAt s n) e).1 + (gleanRows (tenAt s n) e).2 ≤ x) → ByteOf t n x = ByteOf s n x)) ∧
  (∀ (s : State),
    let n := argN s 0
    let k := tenAt s n
    (k.move = .remapping → n ∈ s.tenants.map Prod.fst → ∃ t, exec .routersSwitched s = .next t ∧
      tenAt t n = { k with move := .draining } ∧ { t with tenants := s.tenants } = s) ∧
    (k.move ≠ .remapping → exec .routersSwitched s = .next s) ∧
    (k.move = .draining → oldPackets s n = true → exec .drainMarker s = .next s) ∧
    (k.move = .draining → oldPackets s n = false → (∀ e < 8, cmGet s n (0xFE00 + 32 * e + 20) 2 = 0) →
      ∃ t, exec .drainMarker s = .next t ∧ (tenAt t n).move = .settled ∧ (tenAt t n).cool = 4 ∧
      (croftAt t k.core).stopped = false ∧ (tenAt t n).refetch = 0)) ∧
  (∀ (s : State) (x : Border) (c : Nat),
    let n := argN s 0
    let a := (tenAt s n).core
    s.border = some x → x.stage = 1 → fieldOf a = x.field → (croftAt s a).tenant = some n → inMove s a = false →
    settledCroft s a = true → noWork s a = true → s.mgmt.code ≠ 1 → (dieAt s (dieOf a)).enable = true →
    shelter s x = some c → arrivalsFit s a a c = true → c ≠ a →
    ∃ t, exec .relocate s = .next t ∧ (croftAt t c).tenant = some n ∧ (croftAt t a).tenant = none ∧
      (tenAt t n).core = c ∧ (tenAt t n).oldCore = a ∧ (tenAt t n).move = .remapping ∧ t.epoch = s.epoch + 1 ∧
      (tenAt t n).layout = s.mgmt.wlayout) ∧
  (∀ (s : State), (s.period < 2 ^ 22 → exec .servicePeriodEnd s = .next s) ∧
    (2 ^ 22 ≤ s.period → ∃ t, exec .servicePeriodEnd s = .next t ∧ t.period = s.period - 2 ^ 22 ∧
      (∀ e ∈ t.paddocks, e.2.runs = 0) ∧ (∀ x, s.border = some x → t.border = some x) ∧
      (∀ x, s.border = none → t.border = some x → x.stage = 0 ∧ x.shoots = [] ∧
        (padAt s x.donor).fields.getLsbD x.field = true ∧ borderField s x.donor x.recv = some x.field ∧
        ∀ c < Config.crofts, fieldOf c = x.field → (croftAt t c).quiesce = true))) ∧
  (∀ (s : State) (x : Border), s.border = some x →
    let crofts := (List.range Config.crofts).filter fun c => fieldOf c == x.field
    (x.stage = 0 → (∀ c ∈ crofts, inMove s c = false ∧ settledCroft s c = true) →
      exec .borderQuiesced s = .next { s with border := some { x with stage := 1 } }) ∧
    (x.stage = 1 ∨ x.stage = 2 → (∀ c ∈ crofts, (croftAt s c).tenant = none ∧ inMove s c = false) →
      ∃ t, exec .borderRelocated s = .next t ∧ t.border = some { x with stage := 2 } ∧
        (∀ e ∈ t.banks, e.1 / 64 = x.field → e.2.lines = []) ∧
        (∀ b, b / 64 ≠ x.field → bankAt t b = bankAt s b)) ∧
    (x.stage = 2 → (∀ e ∈ s.banks, e.1 / 64 = x.field → e.2.lines = []) →
      ∃ t ss, exec .borderBanksEmpty s = .next t ∧ t.border = some { x with stage := 3, shoots := ss } ∧ t.mem = s.mem ∧
        ((∀ e ∈ s.sets, e.2.paddock ≠ x.donor) → ss = [])) ∧
    (x.stage = 3 → x.shoots = [] → x.donor ≠ x.recv → x.field < 72 → ∃ t, exec .borderShootsDone s = .next t ∧
      t.border = none ∧ (padAt t x.recv).fields.getLsbD x.field = true ∧
      (padAt t x.donor).fields.getLsbD x.field = false ∧
      (∀ f < 72, f ≠ x.field → (padAt t x.donor).fields.getLsbD f = (padAt s x.donor).fields.getLsbD f) ∧
      ∀ c ∈ crofts, (croftAt t c).quiesce = false))

/-- R345, R378 to R381: the debug commands act on the context they name where it is in the state they ask for, and are ignored
otherwise: release, kill, freeze, zero counts, evict. That a hand whose counts are not zero is not evicted is the model's choice
(log 62). -/
def Obligations.DebugCommands : Prop :=
  ∀ (s : State) (i : Nat) (cs : List (Nat × Nat)),
    let c := argN s 0
    let k := ctxAt s c i
    let taken : State := setCroft s c { croftAt s c with cmds := cs }
    ((croftAt s c).cmds = (1, i) :: cs →
      (k.mode ≠ .frozen → exec .debugRelease s = .next taken) ∧
      (k.mode = .frozen → k.abp = none → ∃ t, exec .debugRelease s = .next t ∧
        ctxAt t c i = { k with mode := .running, tgt := none, fetched := none, wins := none } ∧ (croftAt t c).cmds = cs ∧ t.mem = s.mem) ∧
      (∀ va gen told, k.mode = .frozen → k.abp = some (va, gen, told) → ∃ t, exec .debugRelease s = .next t ∧
        (ctxAt t c i).mode = .parked ∧ (ctxAt t c i).pc = k.runStart ∧
        (ctxAt t c i).regs = restoreRegs k.budget k.regs k.shadow ∧
        ∃ p, (ctxAt t c i).park = some p ∧ p.kind = .resident ∧ p.count = va ∧ p.served = told)) ∧
    ((croftAt s c).cmds = (2, i) :: cs →
      (k.mode ≠ .frozen → exec .debugKill s = .next taken) ∧
      (k.mode = .frozen → k.hires = [] → (k.origin = .spawned → ∃ t, exec .debugKill s = .next t ∧
          (ctxAt t c i).mode = .exited ∧ (ctxAt t c i).exitVal = 0xFFFFFFFF) ∧
        (k.origin = .firmware → ∃ t, exec .debugKill s = .next t ∧ (ctxAt t c i).mode = .free))) ∧
    ((croftAt s c).cmds = (3, i) :: cs →
      (k.mode = .running → ∃ t, exec .debugFreeze s = .next t ∧ 
        ctxAt t c i = { k with mode := .frozen, fetched := none, wins := none, await := none } ∧ t.mem = s.mem) ∧
      (k.mode = .awaiting → ∃ t, exec .debugFreeze s = .next t ∧ ctxAt t c i = { k with frz := true }) ∧
      (k.mode ≠ .running → k.mode ≠ .awaiting → exec .debugFreeze s = .next taken)) ∧
    ((croftAt s c).cmds = (4, i) :: cs →
      (k.mode ≠ .frozen → exec .debugZeroCounts s = .next taken) ∧
      (k.mode = .frozen → ∃ t, exec .debugZeroCounts s = .next t ∧
        ctxAt t c i = { k with o1 := 0, o2 := 0, o3 := 0, posted := [], cnt := s.now + 1 } ∧ t.mem = s.mem)) ∧
    ((croftAt s c).cmds = (5, i) :: cs →
      (i = 0 ∨ 15 ≤ i ∨ k.mode ≠ .parked ∨ k.busy = true → exec .debugEvict s = .next taken) ∧
      (∀ p n, 1 ≤ i → i ≤ 14 → k.mode = .parked → k.busy = false → k.park = some p → (croftAt s c).tenant = some n →
        ∃ t, exec .debugEvict s = .next t ∧ (ctxAt t c i).mode = .free ∧ (slotAt t n k.name).evicted = some p ∧
          (croftAt t c).cmds = cs))

/-! ## Issue, decoding, steps, reset and the invariant -/

/-- The width of a vector instruction's elements (R74, R123 to R146, R158 to R161, R175): predicate logic and byte permutes work on
bytes, VDOT4 on words of 32 bits, accumulators on 64 bits. -/
def vecWidth : Instr → Option Nat
  | .vadd _ o | .vsub _ o | .vmul _ o | .vdiv _ o | .vmin _ o | .vmax _ o | .vmulh _ o | .vadds _ o | .vsubs _ o | .vand _ o
  | .vor _ o | .vxor _ o | .vandn _ o | .vshl _ o | .vshr _ o | .vsha _ o => some o.t.width
  | .vfma _ o | .vfms _ o | .vfnma _ o => some o.t.width
  | .vsqrt _ o | .vrcp _ o | .vrsq _ o | .vabs _ o | .vneg _ o | .vmov _ o => some o.t.width
  | .vcmp _ o => some o.t.width
  | .vsel _ o => some o.t.width
  | .pand _ _ | .por _ _ | .pxor _ _ | .pnot _ _ _ | .vpermb _ _ _ _ => some 8
  | .vcnt _ o | .vfirst _ o => some o.t.width
  | .vperm _ o | .vshuf _ _ o | .vslide _ o _ => some o.t.width
  | .vbcast _ o | .vidx _ o => some o.t.width
  | .vext _ o => some o.t.width
  | .vins _ o => some o.t.width
  | .vred _ _ t _ _ _ | .vscan _ _ t _ _ _ | .vxaccRd _ t _ _ => some t.width
  | .vdot4 _ _ _ _ _ _ _ => some 32
  | .vxaccClr _ _ | .vxaccAdd _ _ _ _ => some 64
  | .vcvt _ o => some o.t.width
  | .ldv _ o => some (vsizeWidth o.size)
  | .stv _ o => some (vsizeWidth o.size)
  | .ldvs _ o | .stvs _ o => some (vsizeWidth o.size)
  | .gath _ o | .scat _ o => some (vsizeWidth o.size)
  | .vamo _ o => some (8 * vopBytes o.op)
  | _ => none
/-- The guard is false (R74): of a scalar instruction by bit 0, of a vector one where no element is active. -/
def GuardFalse (i : Instr) (h : Hdr) (s : State) : Prop :=
  match vecWidth i with
  | some w => ∀ n < 1024 / w, active (guardBits h s) w n = false
  | none => ((rdP s h.gp).getLsbD 0 = h.gn)

/-- R22, R68, R74, R75, R373 to R376: no instruction passes its gate or acts under a false guard; a fault freezes its context at
its slot and its packet goes to the set's route in two messages, or is held by the hayward without a route; the two slots of a
pair of moves read the registers as the pair found them. -/
def Obligations.IssueAndFaultEntry : Prop :=
  (∀ (i : Instr) (h : Hdr) (s : State), headerOf i = some h → gateClear h s = false ∨ GuardFalse i h s →
    (∃ c, exec i s = .next (raiseDec c s)) ∨ exec i s = .next (gateTurn s) ∨
      (gateClear h s = true ∧ ∃ t, exec i s = .next t ∧ Retired s t (me s).regs)) ∧
  (∀ (turn : Turn) (code aux addr : Nat) (s : State),
    Froze s (raiseAs turn code aux addr s) turn (baseSlot s) ∧ Reported s (raiseAs turn code aux addr s) code aux addr) ∧
  (∀ (s : State) (lo hi : Nat) (h k : Hdr) (d a e b : GReg), (me s).grp = none → (me s).mode = .running →
    (me s).stage = .open → (me s).sub = 0 →
    decode lo = some (.mov h d a) → decode hi = some (.mov k e b) → Issues h [.g d, .g a] s → Issues k [.g e, .g b] s →
    ∃ t, issuePair s lo hi = .next t ∧
      Passed s t (putG (putG (me s).regs d (rdG s a)) e (rdG s b)) (nextOf (nextOf (me s).pc)) (me s).tgt)

/-- A slot's words issue in state u: what its instruction does, the words staying with the context while it waits in the rotation. -/
def issuesAs (u : State) (w : Nat) : Host.Outcome State Fault Refusal :=
  let go := updMe u fun k => { k with tgt := none, turn := .issued, raised := 0 }
  match decode w with
  | some j => (match exec j go with | .next t => .next (keepFetched w none (winsOf go) t) | o => o)
  | none => .next (raiseDec cILL go)
/-- A pair's words likewise. -/
def pairIssuesAs (u : State) (lo hi : Nat) : Host.Outcome State Fault Refusal :=
  let go := updMe u fun k => { k with tgt := none, turn := .issued, raised := 0 }
  match issuePair go lo hi with
  | .next t => .next (keepFetched lo (some hi) (winsOf go) t)
  | o => o

/-- R30, R66, R70, R72, R77, R217, R282, R312, R313, R318: step is exec of the decoded instruction, with the croft's cycle counted and the
context that owns it the acting one, but that what the hardware does first comes first, and that without power no clock runs; the slot
reached by a transfer needs its TGT bit, a word that decodes to nothing is ILL, and what waits in the rotation issues again without new
fetch checks. The other agents' next words likewise, a mill on a die in service and a Lomwen core after stage B, after stage C on a die in
service; an agent that a schedule names moves and leaves the schedule. That any other Lomwen word runs as a base instruction is the model's choice (log 51), and so are the
schedule (log 5), the cycle count that includes the cycle itself (log 64), the zero aux of PERM (log 32), and which events wait for power
and firmware (log 91). -/
def Obligations.StepRuns : Prop :=
  (∀ (s : State) (i : Instr) (arg : List Nat), pressing s = some (i, arg) → step s = exec i { s with arg := arg }) ∧
  (∀ (s : State) (c : Nat) (l : ILine), pressing s = none → s.power = .on →
    s.sched = [] ∧ s.cur.1 = c ∨ (∃ ms, s.sched = .cycle c :: ms) →
    let n := (croftAt s c).cyc.toNat % 16
    let u := { setCroft s c { croftAt s c with cyc := (croftAt s c).cyc + 1 } with cur := (c, n), sched := s.sched.tail }
    let i := (me u).pc % 64 / 12
    let v := passed u l i false
    ((ctxAt s c n).mode ≠ .running ∨ (croftAt s c).tenant = none ∨ (croftAt s c).stopped = true → step s = .next u) ∧
    ((ctxAt s c n).mode = .running → (croftAt s c).tenant ≠ none → (croftAt s c).stopped = false →
      (∀ w, (ctxAt s c n).fetched = some (w, none) → step s = issuesAs u w) ∧
      (∀ lo hi, (ctxAt s c n).fetched = some (lo, some hi) → step s = pairIssuesAs u lo hi) ∧
      ((ctxAt s c n).fetched = none →
        (rightAt (mySet u).windows Window.x ((me u).pc / 64 * 64) = false →
          step s = .next (fetchFault u cPERM (me u).pc 0 (me u).pc)) ∧
        (rightAt (mySet u).windows Window.x ((me u).pc / 64 * 64) = true → slotOk (me u).pc = true →
          (croftAt s c).icache.find? (fun x => x.la == (me u).pc / 64) = some l →
          l.checked = true ∨ (lineParity l.data = true ∧ lineOk l.data = true) → slotParity l.data i = true →
          (pairBit l.data i = false →
            ((me u).tgt = none ∨ tgtBit l.data i = true → step s = issuesAs v (slotWord l.data i)) ∧
            (∀ x, (me u).tgt = some x → tgtBit l.data i = false →
              step s = .next (fetchFault v cBTGT (me u).pc x (me u).pc))) ∧
          (pairBit l.data i = true → slotParity l.data (i + 1) = true →
            pairOk (slotWord l.data i) (slotWord l.data (i + 1)) = true → (me u).tgt = none ∨ tgtBit l.data i = true →
            step s = pairIssuesAs (passed u l i true) (slotWord l.data i) (slotWord l.data (i + 1))))))) ∧
  (∀ (s : State) (m : Sched) (ms : List Sched), pressing s = none → s.power ≠ .on → s.sched = m :: ms →
    (∀ i arg, m = .event i arg → i ≠ .powerGood ∧ i ≠ .powerLoss) → step s = .next { s with sched := ms }) ∧
  (∀ (s : State) (g : Nat) (ms : List Sched) (i : Instr), pressing s = none → s.power = .on → s.sched = .mill g :: ms →
    s.mgmt.dies.getLsbD (g / 32) = true → (chanAt s g).mill.call ≠ none → (chanAt s g).mill.wait = false →
    decodeMicro (microWord s g).toNat = some i → step s = exec i { s with sched := ms, unit := g }) ∧
  (∀ (s : State) (k : Nat) (ms : List Sched), pressing s = none → s.power = .on → s.sched = .lomwen k :: ms → k < 18 →
    s.mgmt.stb = true → 16 ≤ k ∨ s.mgmt.stage ≠ 2 ∨ s.mgmt.dies.getLsbD (k / 2) = true → let u := { s with sched := ms, unit := k }
    let pc := (lomAt s k).pc.toNat
    (∀ i, lomReach pc 4 = true → decodeLm (lomLoad u pc 4) = some i → step s = exec i u) ∧
    (lomReach pc 4 = true → decodeLm (lomLoad u pc 4) = none → step s = rvStep u)) ∧
  (∀ (s : State) (k : Nat) (ms : List Sched), pressing s = none → s.power = .on → s.sched = .lomwen k :: ms → k < 18 →
    s.mgmt.stb = false ∨ (k < 16 ∧ s.mgmt.stage = 2 ∧ s.mgmt.dies.getLsbD (k / 2) = false) → step s = .next { s with sched := ms, unit := k }) ∧
  (∀ (s : State) (q : Nat) (ms : List Sched) (i : Instr) (p : Cursor), pressing s = none → s.power = .on →
    s.sched = .issue q :: ms → nth (queueAt s q).items (queueAt s q).ip = some (.pkt i p) →
    step s = exec i { s with sched := ms, unit := q }) ∧
  (∀ (s : State) (ms : List Sched) (i : Instr), pressing s = none → s.power = .on → s.sched = .mailbox :: ms →
    s.mailbox.pending = true → (funcAt s (s.mailbox.req[0].toNat / 256 % 128)).stopping = false →
    decodeRequest s.mailbox.req = some i → step s = exec i { s with sched := ms }) ∧
  (∀ (s : State) (ms : List Sched) (i : Instr) (arg : List Nat), pressing s = none → s.sched = .event i arg :: ms →
    canHappen { s with sched := ms, arg := arg } i = true → step s = exec i { s with sched := ms, arg := arg }) ∧
  (∀ (s : State) (ms : List Sched) (i : Instr) (arg : List Nat), pressing s = none → s.sched = .event i arg :: ms →
    canHappen { s with sched := ms, arg := arg } i = false → step s = .next { s with sched := ms })

/-- R78 to R87, R283, R309, R312, R319: what words decode to, the manual's own worked encodings among them; a reserved or unused
field that is not zero is ILL. -/
def Obligations.DecodedWords : Prop :=
  let h : Hdr := ⟨0, false, 0⟩
  (decode 0 = some .nop ∧ decode 1 = none ∧
    decode 0x1000000303FC000000000010 = some (.add h ⟨false, false, 3, 1, .imm 0x10⟩) ∧
    decode 0x100000040608000000000000 = some (.add h ⟨false, false, 4, 3, .reg 2⟩) ∧
    decode 0x100100050804000000000000 = some (.sub h ⟨false, false, 5, 4, .reg 1⟩) ∧
    decode 0x100100050804000000000001 = none ∧
    decode 0x180700040003FFFFFFFFFFFF = some (.loop h 4 0x3FFFFFFFFFFFF) ∧
    decode 0x240300478BFC0061FFFFFFFD = some (.vxaccAdd h 7 5 (.imm 0xFFFFFFFD)) ∧
    decode 0x380000000C1C308000000008 = some (.amo h ⟨.add, .b64, true, .none, 0, 6, 7, 8⟩) ∧
    decode 0x380002800C1C308200000008 = some (.amo h ⟨.add, .b64, true, .rel .pkg, 0, 6, 7, 8⟩) ∧
    decode 0x380002800C1C308100000008 = none ∧
    decode 0x3A0002841414300300000000 = some (.cas h ⟨.b64, .ar .pkg, 4, 10, 5, 0⟩) ∧
    decode 0x40000000D7FC000000000080 = some (.waitb h 3 (.imm 0x80)) ∧
    decode 0x5000001410D1107E7F1F0000 = some (.hire h ⟨20, 8, 3, 1, 0, 2, 0, false, false, true, 63, 127, 31⟩) ∧
    decode 0x510000401854800000000000 = some (.shpush h 0 12 21)) ∧
  (decodeMicro 0x04043604000000000000000000000000 = some (.millBr ⟨none, 4, 0x36, 0, 1, 0, 0⟩) ∧
    decodeMicro 0x48C00041800000000000000000000000 = some (.lfma ⟨some .f, 0, 0, 2, 0, 3, 0⟩)) ∧
  (decodeLm 0x00C5850B = some (.lmRfetch ⟨10, 11, 12⟩) ∧ decodeLm 0x00C5950B = some (.lmBext ⟨10, 11, 12⟩) ∧
    decodeLm 0x0005A50B = some (.lmSwait 10 11) ∧ decodeLm 0x00C5B50B = some (.lmDisp ⟨10, 11, 12⟩) ∧
    decodeLm 0x00C5A50B = none) ∧
  (decodePacket [0x107] = .ok (.ffence ⟨false, false, 0, [0x107]⟩) ∧ decodePacket [0x207] = .err 0x02 ∧
    decodePacket [0x109] = .err 0x01 ∧ decodePacket [0x106] = .err 0x05 ∧ decodePacket [0x40107] = .err 0x03) ∧
  decodeRequest #v[0x500000302, 0, 0, 0, 0, 0, 0, 0] = some (.qenable 3 5) ∧
  decodeRequest #v[0x502, 1, 0, 0, 0, 0, 0, 0] = none

/-- R73 to R83, R283, R309, R312, R319: every well-formed instruction has its word, of its size, and its word decodes to it with
every operand; so no two instructions share a word. An event has no word, and a read of lmdone is a base instruction's word. -/
def Obligations.EncodeDecode : Prop :=
  ∀ i : Instr, wf i = true →
    ((headerOf i).isSome ∨ i = .nop → ∃ w, encode i = some w) ∧
    ((encode i).isSome ∨ (encodeMicro i).isSome ∨ (encodePacket i).isSome ∨ (encodeRequest i).isSome ∨
      (encodeLm i).isSome ∨ isEvent i = true ∨ ∃ d, i = .lmdoneRead d) ∧
    (∀ w, encode i = some w → w < 2 ^ 96 ∧ decode w = some i) ∧
    (∀ w, encodeMicro i = some w → w < 2 ^ 128 ∧ decodeMicro w = some i) ∧
    (∀ ws, encodePacket i = some ws → decodePacket ws = .ok i) ∧
    (∀ r, encodeRequest i = some r → decodeRequest r = some i) ∧
    (∀ w, encodeLm i = some w → w < 2 ^ 32 ∧ decodeLm w = some i)

/-- Every step of every agent keeps device memory in its canonical form: addresses rising, nothing listed that reads as an
unlisted address does. The canonical form, and that an unlisted byte reads zero, are the model's choice (log 1). -/
def Obligations.StepKeepsMemoryForm : Prop :=
  ∀ s t : State, Memory.wf s.mem = true → step s = .next t → Memory.wf t.mem = true

/-- The state at power good: what the manual's Reset columns and rules give (R50, R263, R282, R304, R334, R353, R356, R365, R374,
R378, R386, R387, R390, R392, R398). That a byte of memory (log 1) or a register (log 2) without a stated value reads zero is the
model's choice. -/
def Obligations.ResetState : Prop :=
  let r := State.reset
  (r.mgmt.plimit = 2800 ∧ r.mgmt.tlimit = 105 ∧ r.mgmt.ticket = 0 ∧ r.mgmt.owner = 0 ∧ r.mgmt.pend = false ∧
    r.mgmt.stage = 0 ∧ r.mgmt.stb = false ∧ r.mgmt.follow = true ∧ r.mgmt.logpos = 4096 - 32) ∧
  (∀ d, (dieAt r d).window = 65536 ∧ (dieAt r d).theta = 256 ∧ (dieAt r d).enable = true ∧ (dieAt r d).watchdog = 2 ^ 22) ∧
  (∀ p, (padAt r p).fields = (if p = 0 then BitVec.allOnes 72 else 0) ∧ (padAt r p).target = 0 ∧ (padAt r p).en = false ∧
    (padAt r p).runs = 0) ∧
  (∀ b, (setAtId r b).windows = [] ∧ (setAtId r b).svroute = 0) ∧
  (∀ q, (queueAt r q).state = 0 ∧ (queueAt r q).head = 0 ∧ (queueAt r q).tail = 0 ∧ (queueAt r q).rseq = 0 ∧
    (queueAt r q).ien = false ∧ (queueAt r q).err = 0 ∧ (queueAt r q).save = 0) ∧
  (∀ f p, sread 0 (fairAt r f).keys p = 0) ∧ (∀ g e, sread (false, 0) (chanAt r g).mill.entry e = (false, 0)) ∧
  (∀ t, (tenAt r t).hcap = 0 ∧ (tenAt r t).cool = 0 ∧ (tenAt r t).layout = 1 ∧ (tenAt r t).lastChan = 31 ∧
    (tenAt r t).partners = List.replicate 8 ⟨false, 0, 0⟩) ∧
  (∀ c, (croftAt r c).cyc = 0 ∧ (croftAt r c).sel = 0 ∧ (croftAt r c).brken = false ∧ (croftAt r c).binw = false ∧
    (croftAt r c).tenant = none) ∧
  (∀ c i, (ctxAt r c i).mode = .free ∧ (ctxAt r c i).regs = Regs.zero ∧ (ctxAt r c i).pwin = 0) ∧
  (∀ a, sread 0 r.mem a = 0 ∧ sread 0 r.marks a = 0) ∧ Memory.wf r.mem = true
end

