-- ==== Sys2Proof/Laws/Memory.lean ====
section
/-! SUPPORT. The laws of sparse maps and of memories: read after write, and the canonical form, which every memory
operation keeps. -/

namespace Sys2Proof.Machine

variable {α : Type}

/-! ## Read after write -/

theorem sread_sdel_self (d : α) (m : Sparse α) (k : Nat) : sread d (sdel m k) k = d := by
  induction m with
  | nil => rfl
  | cons e m ih => obtain ⟨k', v⟩ := e; simp only [sdel]; split <;> simp_all [sread]

theorem sread_sdel_ne (d : α) (m : Sparse α) {k j : Nat} (h : j ≠ k) : sread d (sdel m k) j = sread d m j := by
  induction m with
  | nil => rfl
  | cons e m ih =>
      obtain ⟨k', v⟩ := e
      simp only [sdel]
      split
      · rename_i hk; simp [sread, ih, show k' ≠ j by omega]
      · simp [sread, ih]

theorem sread_sput_self (d : α) (m : Sparse α) (k : Nat) (v : α) (h' : ∀ e ∈ m, e.1 ≠ k) :
    sread d (sput m k v) k = v := by
  induction m with
  | nil => simp [sput, sread]
  | cons e m ih =>
      obtain ⟨k', v'⟩ := e
      simp only [sput]
      split
      · simp [sread]
      · have : k' ≠ k := h' (k', v') (by simp)
        simp only [sread, this, if_false]
        exact ih fun e he => h' e (by simp [he])

theorem sread_sput_ne (d : α) (m : Sparse α) (v : α) {k j : Nat} (h : j ≠ k) : sread d (sput m k v) j = sread d m j := by
  induction m with
  | nil => simp [sput, sread, Ne.symm h]
  | cons e m ih =>
      obtain ⟨k', v'⟩ := e
      simp only [sput]
      split
      · simp [sread, Ne.symm h]
      · simp [sread, ih]

theorem sdel_keys (m : Sparse α) (k : Nat) : ∀ e ∈ sdel m k, e.1 ≠ k := by
  induction m with
  | nil => simp [sdel]
  | cons e m ih =>
      obtain ⟨k', v⟩ := e
      simp only [sdel]
      split
      · exact ih
      · rename_i hk; intro e he; rcases List.mem_cons.1 he with rfl | he'
        · exact hk
        · exact ih e he'

@[simp] theorem sread_sset_self (d : α) (m : Sparse α) (k : Nat) (v : α) : sread d (sset m k v) k = v :=
  sread_sput_self d _ k v (sdel_keys m k)

theorem sread_sset_ne (d : α) (m : Sparse α) (v : α) {k j : Nat} (h : j ≠ k) : sread d (sset m k v) j = sread d m j := by
  rw [sset, sread_sput_ne d _ v h, sread_sdel_ne d m h]

theorem sread_sset (d : α) (m : Sparse α) (v : α) (k j : Nat) :
    sread d (sset m k v) j = if j = k then v else sread d m j := by
  split
  · rename_i h; simp [h]
  · rename_i h; exact sread_sset_ne d m v h

variable [DecidableEq α]

@[simp] theorem sread_swrite_self (d : α) (m : Sparse α) (k : Nat) (v : α) : sread d (swrite d m k v) k = v := by
  unfold swrite
  split
  · rename_i h; rw [sread_sdel_self, h]
  · exact sread_sput_self d _ k v (sdel_keys m k)

theorem sread_swrite_ne (d : α) (m : Sparse α) (v : α) {k j : Nat} (h : j ≠ k) :
    sread d (swrite d m k v) j = sread d m j := by
  unfold swrite
  split
  · exact sread_sdel_ne d m h
  · rw [sread_sput_ne d _ v h, sread_sdel_ne d m h]

omit [DecidableEq α] in
theorem sread_none_mem (d : α) (m : Sparse α) (k : Nat) (h : ∀ e ∈ m, e.1 ≠ k) : sread d m k = d := by
  induction m with
  | nil => rfl
  | cons e m ih =>
      obtain ⟨k', v⟩ := e
      simp only [sread, show k' ≠ k from h (k', v) (by simp), if_false]
      exact ih fun e he => h e (by simp [he])

/-! ## The canonical form -/

omit [DecidableEq α] in
theorem srising_weaken {l l' : Option Nat} {m : Sparse α} (h : srising l m = true)
    (hl : ∀ a, l' = some a → ∃ b, l = some b ∧ a ≤ b) : srising l' m = true := by
  cases m with
  | nil => simp [srising]
  | cons e m =>
      obtain ⟨k, v⟩ := e
      cases l' with
      | none => cases l <;> simp_all [srising]
      | some a =>
          obtain ⟨b, rfl, hab⟩ := hl a rfl
          simp only [srising, Bool.and_eq_true, decide_eq_true_eq] at h ⊢
          exact ⟨by omega, h.2⟩

omit [DecidableEq α] in
theorem srising_sdel {l : Option Nat} {m : Sparse α} (k : Nat) (h : srising l m = true) : srising l (sdel m k) = true := by
  induction m generalizing l with
  | nil => simp [sdel, srising]
  | cons e m ih =>
      obtain ⟨k', v⟩ := e
      have hm : srising (some k') m = true := by cases l <;> simp_all [srising]
      simp only [sdel]
      split
      · apply ih
        cases l with
        | none => exact srising_weaken hm (by simp)
        | some a =>
            simp only [srising, Bool.and_eq_true, decide_eq_true_eq] at h
            exact srising_weaken hm (by intro x hx; exact ⟨k', rfl, by simp at hx; omega⟩)
      · cases l with
        | none => simpa [srising] using ih hm
        | some a =>
            simp only [srising, Bool.and_eq_true, decide_eq_true_eq] at h ⊢
            exact ⟨h.1, ih hm⟩

omit [DecidableEq α] in
theorem srising_sput {l : Option Nat} {m : Sparse α} {k : Nat} (v : α) (h : srising l m = true)
    (hl : ∀ a, l = some a → a < k) (hk : ∀ e ∈ m, e.1 ≠ k) : srising l (sput m k v) = true := by
  induction m generalizing l with
  | nil => cases l <;> simp_all [sput, srising]
  | cons e m ih =>
      obtain ⟨k', v'⟩ := e
      have hne : k' ≠ k := hk (k', v') (by simp)
      have hm : srising (some k') m = true := by cases l <;> simp_all [srising]
      simp only [sput]
      split
      · rename_i hlt
        cases l <;> simp_all [srising]
      · rename_i hge
        have := ih (l := some k') hm (by intro a ha; simp at ha; omega) (fun e he => hk e (by simp [he]))
        cases l <;> simp_all [srising]

omit [DecidableEq α] in
theorem mem_sdel {m : Sparse α} {k : Nat} {e : Nat × α} (h : e ∈ sdel m k) : e ∈ m := by
  induction m with
  | nil => simp [sdel] at h
  | cons x m ih =>
      obtain ⟨k', v⟩ := x
      simp only [sdel] at h
      split at h
      · exact List.mem_cons_of_mem _ (ih h)
      · rcases List.mem_cons.1 h with rfl | h'
        · simp
        · exact List.mem_cons_of_mem _ (ih h')

omit [DecidableEq α] in
theorem mem_sput {m : Sparse α} {k : Nat} {v : α} {e : Nat × α} (h : e ∈ sput m k v) : e = (k, v) ∨ e ∈ m := by
  induction m with
  | nil => simp_all [sput]
  | cons x m ih =>
      obtain ⟨k', v'⟩ := x
      simp only [sput] at h
      split at h
      · simp_all
      · rcases List.mem_cons.1 h with rfl | h'
        · simp
        · rcases ih h' with rfl | h''
          · simp
          · simp [h'']

/-- Every write of a memory keeps its canonical form. -/
theorem swf_swrite {d : α} {m : Sparse α} (k : Nat) (v : α) (h : swf d m = true) : swf d (swrite d m k v) = true := by
  simp only [swf, Bool.and_eq_true, List.all_eq_true, decide_eq_true_eq] at h ⊢
  unfold swrite
  split
  · exact ⟨srising_sdel k h.1, fun e he => h.2 e (mem_sdel he)⟩
  · rename_i hv
    refine ⟨srising_sput v (srising_sdel k h.1) (by simp) (sdel_keys m k), fun e he => ?_⟩
    rcases mem_sput he with rfl | he'
    · exact hv
    · exact h.2 e (mem_sdel he')

end Sys2Proof.Machine

namespace Sys2Proof.Machine

/-! ## Bytes -/

theorem wf_swrite {m : Sparse Byte} (k : Nat) (v : Byte) (h : Memory.wf m = true) : Memory.wf (swrite 0 m k v) = true :=
  swf_swrite k v h

theorem wf_storeBytes {m : Sparse Byte} (a : Nat) (bs : List Byte) (h : Memory.wf m = true) :
    Memory.wf (storeBytes m a bs) = true := by
  induction bs generalizing m a with
  | nil => exact h
  | cons b bs ih => exact ih (a + 1) (wf_swrite a b h)

theorem wf_memPut {s : State} (pa n x : Nat) (h : Memory.wf s.mem = true) : Memory.wf (memPut s pa n x).mem = true :=
  wf_storeBytes pa _ h

theorem wf_reset : Memory.wf State.reset.mem = true := rfl
theorem wf_reset_host : Memory.wf State.reset.hostMem = true := rfl

/-- A byte outside a store reads as before. -/
theorem sread_storeBytes_out (m : Sparse Byte) (a : Nat) (bs : List Byte) (j : Nat) (h : j < a ∨ a + bs.length ≤ j) :
    sread 0 (storeBytes m a bs) j = sread 0 m j := by
  induction bs generalizing m a with
  | nil => rfl
  | cons b bs ih =>
      simp only [List.length_cons] at h
      simp only [storeBytes]
      rw [ih (swrite 0 m a b) (a + 1) (by omega)]
      exact sread_swrite_ne 0 m b (by omega)

/-- A byte of a store reads as the byte stored. -/
theorem sread_storeBytes_in (m : Sparse Byte) (a : Nat) (bs : List Byte) (i : Nat) (h : i < bs.length) :
    sread 0 (storeBytes m a bs) (a + i) = bs[i] := by
  induction bs generalizing m a i with
  | nil => simp at h
  | cons b bs ih =>
      simp only [storeBytes]
      cases i with
      | zero => rw [sread_storeBytes_out _ _ _ _ (by omega)]; simp
      | succ i =>
          have := ih (swrite 0 m a b) (a + 1) i (by simpa using h)
          rw [show a + (i + 1) = a + 1 + i by omega]
          simpa using this

theorem toBytes_length (n x : Nat) : (toBytes n x).length = n := by
  induction n generalizing x with
  | zero => rfl
  | succ n ih => simp [toBytes, ih]

theorem loadBytes_congr (m m' : Sparse Byte) (a n : Nat) (h : ∀ j, a ≤ j → j < a + n → sread 0 m j = sread 0 m' j) :
    loadBytes m a n = loadBytes m' a n := by
  induction n generalizing a with
  | zero => rfl
  | succ n ih =>
      simp only [loadBytes]
      rw [h a (by omega) (by omega), ih (a + 1) fun j h1 h2 => h j (by omega) (by omega)]

/-- A load apart from a store gives what it gave before. -/
theorem loadBytes_storeBytes_out (m : Sparse Byte) (a n b : Nat) (bs : List Byte) (h : a + n ≤ b ∨ b + bs.length ≤ a) :
    loadBytes (storeBytes m b bs) a n = loadBytes m a n :=
  loadBytes_congr _ _ _ _ fun j _ _ => sread_storeBytes_out m b bs j (by omega)

/-- A load of what was stored gives the value stored. -/
theorem loadBytes_storeBytes (m : Sparse Byte) (a n x : Nat) : loadBytes (storeBytes m a (toBytes n x)) a n = x % 256 ^ n := by
  induction n generalizing m a x with
  | zero => simp [loadBytes, Nat.mod_one]
  | succ n ih =>
      simp only [loadBytes, toBytes, storeBytes]
      rw [sread_storeBytes_out _ _ _ _ (by omega), sread_swrite_self, ih]
      rw [BitVec.toNat_ofNat, pow_succ' 256 n, Nat.mod_mul]

end Sys2Proof.Machine
end

