-- ==== Sys2Proof/Laws/State.lean ====
section
/-! SUPPORT. What each update of the state leaves: one lemma for each field it does not touch, true by definition. -/

namespace Sys2Proof.Machine

variable (s : State)

@[simp] theorem setCroft_tenants (c : Nat) (k : Croft) : (setCroft s c k).tenants = s.tenants := rfl
@[simp] theorem setCroft_sets (c : Nat) (k : Croft) : (setCroft s c k).sets = s.sets := rfl
@[simp] theorem setCroft_mem (c : Nat) (k : Croft) : (setCroft s c k).mem = s.mem := rfl
@[simp] theorem setCroft_marks (c : Nat) (k : Croft) : (setCroft s c k).marks = s.marks := rfl
@[simp] theorem setCroft_hostMem (c : Nat) (k : Croft) : (setCroft s c k).hostMem = s.hostMem := rfl
@[simp] theorem setCroft_banks (c : Nat) (k : Croft) : (setCroft s c k).banks = s.banks := rfl
@[simp] theorem setCroft_chans (c : Nat) (k : Croft) : (setCroft s c k).chans = s.chans := rfl
@[simp] theorem setCroft_cribs (c : Nat) (k : Croft) : (setCroft s c k).cribs = s.cribs := rfl
@[simp] theorem setCroft_fairs (c : Nat) (k : Croft) : (setCroft s c k).fairs = s.fairs := rfl
@[simp] theorem setCroft_dies (c : Nat) (k : Croft) : (setCroft s c k).dies = s.dies := rfl
@[simp] theorem setCroft_queues (c : Nat) (k : Croft) : (setCroft s c k).queues = s.queues := rfl
@[simp] theorem setCroft_funcs (c : Nat) (k : Croft) : (setCroft s c k).funcs = s.funcs := rfl
@[simp] theorem setCroft_lomwens (c : Nat) (k : Croft) : (setCroft s c k).lomwens = s.lomwens := rfl
@[simp] theorem setCroft_pairs (c : Nat) (k : Croft) : (setCroft s c k).pairs = s.pairs := rfl
@[simp] theorem setCroft_paddocks (c : Nat) (k : Croft) : (setCroft s c k).paddocks = s.paddocks := rfl
@[simp] theorem setCroft_period (c : Nat) (k : Croft) : (setCroft s c k).period = s.period := rfl
@[simp] theorem setCroft_border (c : Nat) (k : Croft) : (setCroft s c k).border = s.border := rfl
@[simp] theorem setCroft_reports (c : Nat) (k : Croft) : (setCroft s c k).reports = s.reports := rfl
@[simp] theorem setCroft_net (c : Nat) (k : Croft) : (setCroft s c k).net = s.net := rfl
@[simp] theorem setCroft_mailbox (c : Nat) (k : Croft) : (setCroft s c k).mailbox = s.mailbox := rfl
@[simp] theorem setCroft_mgmt (c : Nat) (k : Croft) : (setCroft s c k).mgmt = s.mgmt := rfl
@[simp] theorem setCroft_flash (c : Nat) (k : Croft) : (setCroft s c k).flash = s.flash := rfl
@[simp] theorem setCroft_asleep (c : Nat) (k : Croft) : (setCroft s c k).asleep = s.asleep := rfl
@[simp] theorem setCroft_losses (c : Nat) (k : Croft) : (setCroft s c k).losses = s.losses := rfl
@[simp] theorem setCroft_power (c : Nat) (k : Croft) : (setCroft s c k).power = s.power := rfl
@[simp] theorem setCroft_out (c : Nat) (k : Croft) : (setCroft s c k).out = s.out := rfl
@[simp] theorem setCroft_tag (c : Nat) (k : Croft) : (setCroft s c k).tag = s.tag := rfl
@[simp] theorem setCroft_epoch (c : Nat) (k : Croft) : (setCroft s c k).epoch = s.epoch := rfl
@[simp] theorem setCroft_sched (c : Nat) (k : Croft) : (setCroft s c k).sched = s.sched := rfl
@[simp] theorem setCroft_cur (c : Nat) (k : Croft) : (setCroft s c k).cur = s.cur := rfl
@[simp] theorem setCroft_arg (c : Nat) (k : Croft) : (setCroft s c k).arg = s.arg := rfl
@[simp] theorem setCroft_unit (c : Nat) (k : Croft) : (setCroft s c k).unit = s.unit := rfl
@[simp] theorem setCroft_free (c : Nat) (k : Croft) : (setCroft s c k).free = s.free := rfl
@[simp] theorem setCroft_now (c : Nat) (k : Croft) : (setCroft s c k).now = s.now := rfl

@[simp] theorem setCtx_tenants (c i : Nat) (k : Context) : (setCtx s c i k).tenants = s.tenants := rfl
@[simp] theorem setCtx_sets (c i : Nat) (k : Context) : (setCtx s c i k).sets = s.sets := rfl
@[simp] theorem setCtx_mem (c i : Nat) (k : Context) : (setCtx s c i k).mem = s.mem := rfl
@[simp] theorem setCtx_marks (c i : Nat) (k : Context) : (setCtx s c i k).marks = s.marks := rfl
@[simp] theorem setCtx_hostMem (c i : Nat) (k : Context) : (setCtx s c i k).hostMem = s.hostMem := rfl
@[simp] theorem setCtx_banks (c i : Nat) (k : Context) : (setCtx s c i k).banks = s.banks := rfl
@[simp] theorem setCtx_chans (c i : Nat) (k : Context) : (setCtx s c i k).chans = s.chans := rfl
@[simp] theorem setCtx_cribs (c i : Nat) (k : Context) : (setCtx s c i k).cribs = s.cribs := rfl
@[simp] theorem setCtx_fairs (c i : Nat) (k : Context) : (setCtx s c i k).fairs = s.fairs := rfl
@[simp] theorem setCtx_dies (c i : Nat) (k : Context) : (setCtx s c i k).dies = s.dies := rfl
@[simp] theorem setCtx_queues (c i : Nat) (k : Context) : (setCtx s c i k).queues = s.queues := rfl
@[simp] theorem setCtx_funcs (c i : Nat) (k : Context) : (setCtx s c i k).funcs = s.funcs := rfl
@[simp] theorem setCtx_lomwens (c i : Nat) (k : Context) : (setCtx s c i k).lomwens = s.lomwens := rfl
@[simp] theorem setCtx_pairs (c i : Nat) (k : Context) : (setCtx s c i k).pairs = s.pairs := rfl
@[simp] theorem setCtx_paddocks (c i : Nat) (k : Context) : (setCtx s c i k).paddocks = s.paddocks := rfl
@[simp] theorem setCtx_period (c i : Nat) (k : Context) : (setCtx s c i k).period = s.period := rfl
@[simp] theorem setCtx_border (c i : Nat) (k : Context) : (setCtx s c i k).border = s.border := rfl
@[simp] theorem setCtx_reports (c i : Nat) (k : Context) : (setCtx s c i k).reports = s.reports := rfl
@[simp] theorem setCtx_net (c i : Nat) (k : Context) : (setCtx s c i k).net = s.net := rfl
@[simp] theorem setCtx_mailbox (c i : Nat) (k : Context) : (setCtx s c i k).mailbox = s.mailbox := rfl
@[simp] theorem setCtx_mgmt (c i : Nat) (k : Context) : (setCtx s c i k).mgmt = s.mgmt := rfl
@[simp] theorem setCtx_flash (c i : Nat) (k : Context) : (setCtx s c i k).flash = s.flash := rfl
@[simp] theorem setCtx_asleep (c i : Nat) (k : Context) : (setCtx s c i k).asleep = s.asleep := rfl
@[simp] theorem setCtx_losses (c i : Nat) (k : Context) : (setCtx s c i k).losses = s.losses := rfl
@[simp] theorem setCtx_power (c i : Nat) (k : Context) : (setCtx s c i k).power = s.power := rfl
@[simp] theorem setCtx_out (c i : Nat) (k : Context) : (setCtx s c i k).out = s.out := rfl
@[simp] theorem setCtx_tag (c i : Nat) (k : Context) : (setCtx s c i k).tag = s.tag := rfl
@[simp] theorem setCtx_epoch (c i : Nat) (k : Context) : (setCtx s c i k).epoch = s.epoch := rfl
@[simp] theorem setCtx_sched (c i : Nat) (k : Context) : (setCtx s c i k).sched = s.sched := rfl
@[simp] theorem setCtx_cur (c i : Nat) (k : Context) : (setCtx s c i k).cur = s.cur := rfl
@[simp] theorem setCtx_arg (c i : Nat) (k : Context) : (setCtx s c i k).arg = s.arg := rfl
@[simp] theorem setCtx_unit (c i : Nat) (k : Context) : (setCtx s c i k).unit = s.unit := rfl
@[simp] theorem setCtx_free (c i : Nat) (k : Context) : (setCtx s c i k).free = s.free := rfl
@[simp] theorem setCtx_now (c i : Nat) (k : Context) : (setCtx s c i k).now = s.now := rfl

@[simp] theorem updCtx_tenants (c i : Nat) (f : Context → Context) : (updCtx s c i f).tenants = s.tenants := rfl
@[simp] theorem updCtx_sets (c i : Nat) (f : Context → Context) : (updCtx s c i f).sets = s.sets := rfl
@[simp] theorem updCtx_mem (c i : Nat) (f : Context → Context) : (updCtx s c i f).mem = s.mem := rfl
@[simp] theorem updCtx_marks (c i : Nat) (f : Context → Context) : (updCtx s c i f).marks = s.marks := rfl
@[simp] theorem updCtx_hostMem (c i : Nat) (f : Context → Context) : (updCtx s c i f).hostMem = s.hostMem := rfl
@[simp] theorem updCtx_banks (c i : Nat) (f : Context → Context) : (updCtx s c i f).banks = s.banks := rfl
@[simp] theorem updCtx_chans (c i : Nat) (f : Context → Context) : (updCtx s c i f).chans = s.chans := rfl
@[simp] theorem updCtx_cribs (c i : Nat) (f : Context → Context) : (updCtx s c i f).cribs = s.cribs := rfl
@[simp] theorem updCtx_fairs (c i : Nat) (f : Context → Context) : (updCtx s c i f).fairs = s.fairs := rfl
@[simp] theorem updCtx_dies (c i : Nat) (f : Context → Context) : (updCtx s c i f).dies = s.dies := rfl
@[simp] theorem updCtx_queues (c i : Nat) (f : Context → Context) : (updCtx s c i f).queues = s.queues := rfl
@[simp] theorem updCtx_funcs (c i : Nat) (f : Context → Context) : (updCtx s c i f).funcs = s.funcs := rfl
@[simp] theorem updCtx_lomwens (c i : Nat) (f : Context → Context) : (updCtx s c i f).lomwens = s.lomwens := rfl
@[simp] theorem updCtx_pairs (c i : Nat) (f : Context → Context) : (updCtx s c i f).pairs = s.pairs := rfl
@[simp] theorem updCtx_paddocks (c i : Nat) (f : Context → Context) : (updCtx s c i f).paddocks = s.paddocks := rfl
@[simp] theorem updCtx_period (c i : Nat) (f : Context → Context) : (updCtx s c i f).period = s.period := rfl
@[simp] theorem updCtx_border (c i : Nat) (f : Context → Context) : (updCtx s c i f).border = s.border := rfl
@[simp] theorem updCtx_reports (c i : Nat) (f : Context → Context) : (updCtx s c i f).reports = s.reports := rfl
@[simp] theorem updCtx_net (c i : Nat) (f : Context → Context) : (updCtx s c i f).net = s.net := rfl
@[simp] theorem updCtx_mailbox (c i : Nat) (f : Context → Context) : (updCtx s c i f).mailbox = s.mailbox := rfl
@[simp] theorem updCtx_mgmt (c i : Nat) (f : Context → Context) : (updCtx s c i f).mgmt = s.mgmt := rfl
@[simp] theorem updCtx_flash (c i : Nat) (f : Context → Context) : (updCtx s c i f).flash = s.flash := rfl
@[simp] theorem updCtx_asleep (c i : Nat) (f : Context → Context) : (updCtx s c i f).asleep = s.asleep := rfl
@[simp] theorem updCtx_losses (c i : Nat) (f : Context → Context) : (updCtx s c i f).losses = s.losses := rfl
@[simp] theorem updCtx_power (c i : Nat) (f : Context → Context) : (updCtx s c i f).power = s.power := rfl
@[simp] theorem updCtx_out (c i : Nat) (f : Context → Context) : (updCtx s c i f).out = s.out := rfl
@[simp] theorem updCtx_tag (c i : Nat) (f : Context → Context) : (updCtx s c i f).tag = s.tag := rfl
@[simp] theorem updCtx_epoch (c i : Nat) (f : Context → Context) : (updCtx s c i f).epoch = s.epoch := rfl
@[simp] theorem updCtx_sched (c i : Nat) (f : Context → Context) : (updCtx s c i f).sched = s.sched := rfl
@[simp] theorem updCtx_cur (c i : Nat) (f : Context → Context) : (updCtx s c i f).cur = s.cur := rfl
@[simp] theorem updCtx_arg (c i : Nat) (f : Context → Context) : (updCtx s c i f).arg = s.arg := rfl
@[simp] theorem updCtx_unit (c i : Nat) (f : Context → Context) : (updCtx s c i f).unit = s.unit := rfl
@[simp] theorem updCtx_free (c i : Nat) (f : Context → Context) : (updCtx s c i f).free = s.free := rfl
@[simp] theorem updCtx_now (c i : Nat) (f : Context → Context) : (updCtx s c i f).now = s.now := rfl

@[simp] theorem setMe_tenants (k : Context) : (setMe s k).tenants = s.tenants := rfl
@[simp] theorem setMe_sets (k : Context) : (setMe s k).sets = s.sets := rfl
@[simp] theorem setMe_mem (k : Context) : (setMe s k).mem = s.mem := rfl
@[simp] theorem setMe_marks (k : Context) : (setMe s k).marks = s.marks := rfl
@[simp] theorem setMe_hostMem (k : Context) : (setMe s k).hostMem = s.hostMem := rfl
@[simp] theorem setMe_banks (k : Context) : (setMe s k).banks = s.banks := rfl
@[simp] theorem setMe_chans (k : Context) : (setMe s k).chans = s.chans := rfl
@[simp] theorem setMe_cribs (k : Context) : (setMe s k).cribs = s.cribs := rfl
@[simp] theorem setMe_fairs (k : Context) : (setMe s k).fairs = s.fairs := rfl
@[simp] theorem setMe_dies (k : Context) : (setMe s k).dies = s.dies := rfl
@[simp] theorem setMe_queues (k : Context) : (setMe s k).queues = s.queues := rfl
@[simp] theorem setMe_funcs (k : Context) : (setMe s k).funcs = s.funcs := rfl
@[simp] theorem setMe_lomwens (k : Context) : (setMe s k).lomwens = s.lomwens := rfl
@[simp] theorem setMe_pairs (k : Context) : (setMe s k).pairs = s.pairs := rfl
@[simp] theorem setMe_paddocks (k : Context) : (setMe s k).paddocks = s.paddocks := rfl
@[simp] theorem setMe_period (k : Context) : (setMe s k).period = s.period := rfl
@[simp] theorem setMe_border (k : Context) : (setMe s k).border = s.border := rfl
@[simp] theorem setMe_reports (k : Context) : (setMe s k).reports = s.reports := rfl
@[simp] theorem setMe_net (k : Context) : (setMe s k).net = s.net := rfl
@[simp] theorem setMe_mailbox (k : Context) : (setMe s k).mailbox = s.mailbox := rfl
@[simp] theorem setMe_mgmt (k : Context) : (setMe s k).mgmt = s.mgmt := rfl
@[simp] theorem setMe_flash (k : Context) : (setMe s k).flash = s.flash := rfl
@[simp] theorem setMe_asleep (k : Context) : (setMe s k).asleep = s.asleep := rfl
@[simp] theorem setMe_losses (k : Context) : (setMe s k).losses = s.losses := rfl
@[simp] theorem setMe_power (k : Context) : (setMe s k).power = s.power := rfl
@[simp] theorem setMe_out (k : Context) : (setMe s k).out = s.out := rfl
@[simp] theorem setMe_tag (k : Context) : (setMe s k).tag = s.tag := rfl
@[simp] theorem setMe_epoch (k : Context) : (setMe s k).epoch = s.epoch := rfl
@[simp] theorem setMe_sched (k : Context) : (setMe s k).sched = s.sched := rfl
@[simp] theorem setMe_cur (k : Context) : (setMe s k).cur = s.cur := rfl
@[simp] theorem setMe_arg (k : Context) : (setMe s k).arg = s.arg := rfl
@[simp] theorem setMe_unit (k : Context) : (setMe s k).unit = s.unit := rfl
@[simp] theorem setMe_free (k : Context) : (setMe s k).free = s.free := rfl
@[simp] theorem setMe_now (k : Context) : (setMe s k).now = s.now := rfl

@[simp] theorem updMe_tenants (f : Context → Context) : (updMe s f).tenants = s.tenants := rfl
@[simp] theorem updMe_sets (f : Context → Context) : (updMe s f).sets = s.sets := rfl
@[simp] theorem updMe_mem (f : Context → Context) : (updMe s f).mem = s.mem := rfl
@[simp] theorem updMe_marks (f : Context → Context) : (updMe s f).marks = s.marks := rfl
@[simp] theorem updMe_hostMem (f : Context → Context) : (updMe s f).hostMem = s.hostMem := rfl
@[simp] theorem updMe_banks (f : Context → Context) : (updMe s f).banks = s.banks := rfl
@[simp] theorem updMe_chans (f : Context → Context) : (updMe s f).chans = s.chans := rfl
@[simp] theorem updMe_cribs (f : Context → Context) : (updMe s f).cribs = s.cribs := rfl
@[simp] theorem updMe_fairs (f : Context → Context) : (updMe s f).fairs = s.fairs := rfl
@[simp] theorem updMe_dies (f : Context → Context) : (updMe s f).dies = s.dies := rfl
@[simp] theorem updMe_queues (f : Context → Context) : (updMe s f).queues = s.queues := rfl
@[simp] theorem updMe_funcs (f : Context → Context) : (updMe s f).funcs = s.funcs := rfl
@[simp] theorem updMe_lomwens (f : Context → Context) : (updMe s f).lomwens = s.lomwens := rfl
@[simp] theorem updMe_pairs (f : Context → Context) : (updMe s f).pairs = s.pairs := rfl
@[simp] theorem updMe_paddocks (f : Context → Context) : (updMe s f).paddocks = s.paddocks := rfl
@[simp] theorem updMe_period (f : Context → Context) : (updMe s f).period = s.period := rfl
@[simp] theorem updMe_border (f : Context → Context) : (updMe s f).border = s.border := rfl
@[simp] theorem updMe_reports (f : Context → Context) : (updMe s f).reports = s.reports := rfl
@[simp] theorem updMe_net (f : Context → Context) : (updMe s f).net = s.net := rfl
@[simp] theorem updMe_mailbox (f : Context → Context) : (updMe s f).mailbox = s.mailbox := rfl
@[simp] theorem updMe_mgmt (f : Context → Context) : (updMe s f).mgmt = s.mgmt := rfl
@[simp] theorem updMe_flash (f : Context → Context) : (updMe s f).flash = s.flash := rfl
@[simp] theorem updMe_asleep (f : Context → Context) : (updMe s f).asleep = s.asleep := rfl
@[simp] theorem updMe_losses (f : Context → Context) : (updMe s f).losses = s.losses := rfl
@[simp] theorem updMe_power (f : Context → Context) : (updMe s f).power = s.power := rfl
@[simp] theorem updMe_out (f : Context → Context) : (updMe s f).out = s.out := rfl
@[simp] theorem updMe_tag (f : Context → Context) : (updMe s f).tag = s.tag := rfl
@[simp] theorem updMe_epoch (f : Context → Context) : (updMe s f).epoch = s.epoch := rfl
@[simp] theorem updMe_sched (f : Context → Context) : (updMe s f).sched = s.sched := rfl
@[simp] theorem updMe_cur (f : Context → Context) : (updMe s f).cur = s.cur := rfl
@[simp] theorem updMe_arg (f : Context → Context) : (updMe s f).arg = s.arg := rfl
@[simp] theorem updMe_unit (f : Context → Context) : (updMe s f).unit = s.unit := rfl
@[simp] theorem updMe_free (f : Context → Context) : (updMe s f).free = s.free := rfl
@[simp] theorem updMe_now (f : Context → Context) : (updMe s f).now = s.now := rfl

@[simp] theorem updRegs_tenants (f : Regs → Regs) : (updRegs s f).tenants = s.tenants := rfl
@[simp] theorem updRegs_sets (f : Regs → Regs) : (updRegs s f).sets = s.sets := rfl
@[simp] theorem updRegs_mem (f : Regs → Regs) : (updRegs s f).mem = s.mem := rfl
@[simp] theorem updRegs_marks (f : Regs → Regs) : (updRegs s f).marks = s.marks := rfl
@[simp] theorem updRegs_hostMem (f : Regs → Regs) : (updRegs s f).hostMem = s.hostMem := rfl
@[simp] theorem updRegs_banks (f : Regs → Regs) : (updRegs s f).banks = s.banks := rfl
@[simp] theorem updRegs_chans (f : Regs → Regs) : (updRegs s f).chans = s.chans := rfl
@[simp] theorem updRegs_cribs (f : Regs → Regs) : (updRegs s f).cribs = s.cribs := rfl
@[simp] theorem updRegs_fairs (f : Regs → Regs) : (updRegs s f).fairs = s.fairs := rfl
@[simp] theorem updRegs_dies (f : Regs → Regs) : (updRegs s f).dies = s.dies := rfl
@[simp] theorem updRegs_queues (f : Regs → Regs) : (updRegs s f).queues = s.queues := rfl
@[simp] theorem updRegs_funcs (f : Regs → Regs) : (updRegs s f).funcs = s.funcs := rfl
@[simp] theorem updRegs_lomwens (f : Regs → Regs) : (updRegs s f).lomwens = s.lomwens := rfl
@[simp] theorem updRegs_pairs (f : Regs → Regs) : (updRegs s f).pairs = s.pairs := rfl
@[simp] theorem updRegs_paddocks (f : Regs → Regs) : (updRegs s f).paddocks = s.paddocks := rfl
@[simp] theorem updRegs_period (f : Regs → Regs) : (updRegs s f).period = s.period := rfl
@[simp] theorem updRegs_border (f : Regs → Regs) : (updRegs s f).border = s.border := rfl
@[simp] theorem updRegs_reports (f : Regs → Regs) : (updRegs s f).reports = s.reports := rfl
@[simp] theorem updRegs_net (f : Regs → Regs) : (updRegs s f).net = s.net := rfl
@[simp] theorem updRegs_mailbox (f : Regs → Regs) : (updRegs s f).mailbox = s.mailbox := rfl
@[simp] theorem updRegs_mgmt (f : Regs → Regs) : (updRegs s f).mgmt = s.mgmt := rfl
@[simp] theorem updRegs_flash (f : Regs → Regs) : (updRegs s f).flash = s.flash := rfl
@[simp] theorem updRegs_asleep (f : Regs → Regs) : (updRegs s f).asleep = s.asleep := rfl
@[simp] theorem updRegs_losses (f : Regs → Regs) : (updRegs s f).losses = s.losses := rfl
@[simp] theorem updRegs_power (f : Regs → Regs) : (updRegs s f).power = s.power := rfl
@[simp] theorem updRegs_out (f : Regs → Regs) : (updRegs s f).out = s.out := rfl
@[simp] theorem updRegs_tag (f : Regs → Regs) : (updRegs s f).tag = s.tag := rfl
@[simp] theorem updRegs_epoch (f : Regs → Regs) : (updRegs s f).epoch = s.epoch := rfl
@[simp] theorem updRegs_sched (f : Regs → Regs) : (updRegs s f).sched = s.sched := rfl
@[simp] theorem updRegs_cur (f : Regs → Regs) : (updRegs s f).cur = s.cur := rfl
@[simp] theorem updRegs_arg (f : Regs → Regs) : (updRegs s f).arg = s.arg := rfl
@[simp] theorem updRegs_unit (f : Regs → Regs) : (updRegs s f).unit = s.unit := rfl
@[simp] theorem updRegs_free (f : Regs → Regs) : (updRegs s f).free = s.free := rfl
@[simp] theorem updRegs_now (f : Regs → Regs) : (updRegs s f).now = s.now := rfl

@[simp] theorem setTen_crofts (t : Nat) (k : Tenant) : (setTen s t k).crofts = s.crofts := rfl
@[simp] theorem setTen_sets (t : Nat) (k : Tenant) : (setTen s t k).sets = s.sets := rfl
@[simp] theorem setTen_mem (t : Nat) (k : Tenant) : (setTen s t k).mem = s.mem := rfl
@[simp] theorem setTen_marks (t : Nat) (k : Tenant) : (setTen s t k).marks = s.marks := rfl
@[simp] theorem setTen_hostMem (t : Nat) (k : Tenant) : (setTen s t k).hostMem = s.hostMem := rfl
@[simp] theorem setTen_banks (t : Nat) (k : Tenant) : (setTen s t k).banks = s.banks := rfl
@[simp] theorem setTen_chans (t : Nat) (k : Tenant) : (setTen s t k).chans = s.chans := rfl
@[simp] theorem setTen_cribs (t : Nat) (k : Tenant) : (setTen s t k).cribs = s.cribs := rfl
@[simp] theorem setTen_fairs (t : Nat) (k : Tenant) : (setTen s t k).fairs = s.fairs := rfl
@[simp] theorem setTen_dies (t : Nat) (k : Tenant) : (setTen s t k).dies = s.dies := rfl
@[simp] theorem setTen_queues (t : Nat) (k : Tenant) : (setTen s t k).queues = s.queues := rfl
@[simp] theorem setTen_funcs (t : Nat) (k : Tenant) : (setTen s t k).funcs = s.funcs := rfl
@[simp] theorem setTen_lomwens (t : Nat) (k : Tenant) : (setTen s t k).lomwens = s.lomwens := rfl
@[simp] theorem setTen_pairs (t : Nat) (k : Tenant) : (setTen s t k).pairs = s.pairs := rfl
@[simp] theorem setTen_paddocks (t : Nat) (k : Tenant) : (setTen s t k).paddocks = s.paddocks := rfl
@[simp] theorem setTen_period (t : Nat) (k : Tenant) : (setTen s t k).period = s.period := rfl
@[simp] theorem setTen_border (t : Nat) (k : Tenant) : (setTen s t k).border = s.border := rfl
@[simp] theorem setTen_reports (t : Nat) (k : Tenant) : (setTen s t k).reports = s.reports := rfl
@[simp] theorem setTen_net (t : Nat) (k : Tenant) : (setTen s t k).net = s.net := rfl
@[simp] theorem setTen_mailbox (t : Nat) (k : Tenant) : (setTen s t k).mailbox = s.mailbox := rfl
@[simp] theorem setTen_mgmt (t : Nat) (k : Tenant) : (setTen s t k).mgmt = s.mgmt := rfl
@[simp] theorem setTen_flash (t : Nat) (k : Tenant) : (setTen s t k).flash = s.flash := rfl
@[simp] theorem setTen_asleep (t : Nat) (k : Tenant) : (setTen s t k).asleep = s.asleep := rfl
@[simp] theorem setTen_losses (t : Nat) (k : Tenant) : (setTen s t k).losses = s.losses := rfl
@[simp] theorem setTen_power (t : Nat) (k : Tenant) : (setTen s t k).power = s.power := rfl
@[simp] theorem setTen_out (t : Nat) (k : Tenant) : (setTen s t k).out = s.out := rfl
@[simp] theorem setTen_tag (t : Nat) (k : Tenant) : (setTen s t k).tag = s.tag := rfl
@[simp] theorem setTen_epoch (t : Nat) (k : Tenant) : (setTen s t k).epoch = s.epoch := rfl
@[simp] theorem setTen_sched (t : Nat) (k : Tenant) : (setTen s t k).sched = s.sched := rfl
@[simp] theorem setTen_cur (t : Nat) (k : Tenant) : (setTen s t k).cur = s.cur := rfl
@[simp] theorem setTen_arg (t : Nat) (k : Tenant) : (setTen s t k).arg = s.arg := rfl
@[simp] theorem setTen_unit (t : Nat) (k : Tenant) : (setTen s t k).unit = s.unit := rfl
@[simp] theorem setTen_free (t : Nat) (k : Tenant) : (setTen s t k).free = s.free := rfl
@[simp] theorem setTen_now (t : Nat) (k : Tenant) : (setTen s t k).now = s.now := rfl

@[simp] theorem updTen_crofts (t : Nat) (f : Tenant → Tenant) : (updTen s t f).crofts = s.crofts := rfl
@[simp] theorem updTen_sets (t : Nat) (f : Tenant → Tenant) : (updTen s t f).sets = s.sets := rfl
@[simp] theorem updTen_mem (t : Nat) (f : Tenant → Tenant) : (updTen s t f).mem = s.mem := rfl
@[simp] theorem updTen_marks (t : Nat) (f : Tenant → Tenant) : (updTen s t f).marks = s.marks := rfl
@[simp] theorem updTen_hostMem (t : Nat) (f : Tenant → Tenant) : (updTen s t f).hostMem = s.hostMem := rfl
@[simp] theorem updTen_banks (t : Nat) (f : Tenant → Tenant) : (updTen s t f).banks = s.banks := rfl
@[simp] theorem updTen_chans (t : Nat) (f : Tenant → Tenant) : (updTen s t f).chans = s.chans := rfl
@[simp] theorem updTen_cribs (t : Nat) (f : Tenant → Tenant) : (updTen s t f).cribs = s.cribs := rfl
@[simp] theorem updTen_fairs (t : Nat) (f : Tenant → Tenant) : (updTen s t f).fairs = s.fairs := rfl
@[simp] theorem updTen_dies (t : Nat) (f : Tenant → Tenant) : (updTen s t f).dies = s.dies := rfl
@[simp] theorem updTen_queues (t : Nat) (f : Tenant → Tenant) : (updTen s t f).queues = s.queues := rfl
@[simp] theorem updTen_funcs (t : Nat) (f : Tenant → Tenant) : (updTen s t f).funcs = s.funcs := rfl
@[simp] theorem updTen_lomwens (t : Nat) (f : Tenant → Tenant) : (updTen s t f).lomwens = s.lomwens := rfl
@[simp] theorem updTen_pairs (t : Nat) (f : Tenant → Tenant) : (updTen s t f).pairs = s.pairs := rfl
@[simp] theorem updTen_paddocks (t : Nat) (f : Tenant → Tenant) : (updTen s t f).paddocks = s.paddocks := rfl
@[simp] theorem updTen_period (t : Nat) (f : Tenant → Tenant) : (updTen s t f).period = s.period := rfl
@[simp] theorem updTen_border (t : Nat) (f : Tenant → Tenant) : (updTen s t f).border = s.border := rfl
@[simp] theorem updTen_reports (t : Nat) (f : Tenant → Tenant) : (updTen s t f).reports = s.reports := rfl
@[simp] theorem updTen_net (t : Nat) (f : Tenant → Tenant) : (updTen s t f).net = s.net := rfl
@[simp] theorem updTen_mailbox (t : Nat) (f : Tenant → Tenant) : (updTen s t f).mailbox = s.mailbox := rfl
@[simp] theorem updTen_mgmt (t : Nat) (f : Tenant → Tenant) : (updTen s t f).mgmt = s.mgmt := rfl
@[simp] theorem updTen_flash (t : Nat) (f : Tenant → Tenant) : (updTen s t f).flash = s.flash := rfl
@[simp] theorem updTen_asleep (t : Nat) (f : Tenant → Tenant) : (updTen s t f).asleep = s.asleep := rfl
@[simp] theorem updTen_losses (t : Nat) (f : Tenant → Tenant) : (updTen s t f).losses = s.losses := rfl
@[simp] theorem updTen_power (t : Nat) (f : Tenant → Tenant) : (updTen s t f).power = s.power := rfl
@[simp] theorem updTen_out (t : Nat) (f : Tenant → Tenant) : (updTen s t f).out = s.out := rfl
@[simp] theorem updTen_tag (t : Nat) (f : Tenant → Tenant) : (updTen s t f).tag = s.tag := rfl
@[simp] theorem updTen_epoch (t : Nat) (f : Tenant → Tenant) : (updTen s t f).epoch = s.epoch := rfl
@[simp] theorem updTen_sched (t : Nat) (f : Tenant → Tenant) : (updTen s t f).sched = s.sched := rfl
@[simp] theorem updTen_cur (t : Nat) (f : Tenant → Tenant) : (updTen s t f).cur = s.cur := rfl
@[simp] theorem updTen_arg (t : Nat) (f : Tenant → Tenant) : (updTen s t f).arg = s.arg := rfl
@[simp] theorem updTen_unit (t : Nat) (f : Tenant → Tenant) : (updTen s t f).unit = s.unit := rfl
@[simp] theorem updTen_free (t : Nat) (f : Tenant → Tenant) : (updTen s t f).free = s.free := rfl
@[simp] theorem updTen_now (t : Nat) (f : Tenant → Tenant) : (updTen s t f).now = s.now := rfl

@[simp] theorem updSet_crofts (b : Nat) (f : TSet → TSet) : (updSet s b f).crofts = s.crofts := rfl
@[simp] theorem updSet_tenants (b : Nat) (f : TSet → TSet) : (updSet s b f).tenants = s.tenants := rfl
@[simp] theorem updSet_mem (b : Nat) (f : TSet → TSet) : (updSet s b f).mem = s.mem := rfl
@[simp] theorem updSet_marks (b : Nat) (f : TSet → TSet) : (updSet s b f).marks = s.marks := rfl
@[simp] theorem updSet_hostMem (b : Nat) (f : TSet → TSet) : (updSet s b f).hostMem = s.hostMem := rfl
@[simp] theorem updSet_banks (b : Nat) (f : TSet → TSet) : (updSet s b f).banks = s.banks := rfl
@[simp] theorem updSet_chans (b : Nat) (f : TSet → TSet) : (updSet s b f).chans = s.chans := rfl
@[simp] theorem updSet_cribs (b : Nat) (f : TSet → TSet) : (updSet s b f).cribs = s.cribs := rfl
@[simp] theorem updSet_fairs (b : Nat) (f : TSet → TSet) : (updSet s b f).fairs = s.fairs := rfl
@[simp] theorem updSet_dies (b : Nat) (f : TSet → TSet) : (updSet s b f).dies = s.dies := rfl
@[simp] theorem updSet_queues (b : Nat) (f : TSet → TSet) : (updSet s b f).queues = s.queues := rfl
@[simp] theorem updSet_funcs (b : Nat) (f : TSet → TSet) : (updSet s b f).funcs = s.funcs := rfl
@[simp] theorem updSet_lomwens (b : Nat) (f : TSet → TSet) : (updSet s b f).lomwens = s.lomwens := rfl
@[simp] theorem updSet_pairs (b : Nat) (f : TSet → TSet) : (updSet s b f).pairs = s.pairs := rfl
@[simp] theorem updSet_paddocks (b : Nat) (f : TSet → TSet) : (updSet s b f).paddocks = s.paddocks := rfl
@[simp] theorem updSet_period (b : Nat) (f : TSet → TSet) : (updSet s b f).period = s.period := rfl
@[simp] theorem updSet_border (b : Nat) (f : TSet → TSet) : (updSet s b f).border = s.border := rfl
@[simp] theorem updSet_reports (b : Nat) (f : TSet → TSet) : (updSet s b f).reports = s.reports := rfl
@[simp] theorem updSet_net (b : Nat) (f : TSet → TSet) : (updSet s b f).net = s.net := rfl
@[simp] theorem updSet_mailbox (b : Nat) (f : TSet → TSet) : (updSet s b f).mailbox = s.mailbox := rfl
@[simp] theorem updSet_mgmt (b : Nat) (f : TSet → TSet) : (updSet s b f).mgmt = s.mgmt := rfl
@[simp] theorem updSet_flash (b : Nat) (f : TSet → TSet) : (updSet s b f).flash = s.flash := rfl
@[simp] theorem updSet_asleep (b : Nat) (f : TSet → TSet) : (updSet s b f).asleep = s.asleep := rfl
@[simp] theorem updSet_losses (b : Nat) (f : TSet → TSet) : (updSet s b f).losses = s.losses := rfl
@[simp] theorem updSet_power (b : Nat) (f : TSet → TSet) : (updSet s b f).power = s.power := rfl
@[simp] theorem updSet_out (b : Nat) (f : TSet → TSet) : (updSet s b f).out = s.out := rfl
@[simp] theorem updSet_tag (b : Nat) (f : TSet → TSet) : (updSet s b f).tag = s.tag := rfl
@[simp] theorem updSet_epoch (b : Nat) (f : TSet → TSet) : (updSet s b f).epoch = s.epoch := rfl
@[simp] theorem updSet_sched (b : Nat) (f : TSet → TSet) : (updSet s b f).sched = s.sched := rfl
@[simp] theorem updSet_cur (b : Nat) (f : TSet → TSet) : (updSet s b f).cur = s.cur := rfl
@[simp] theorem updSet_arg (b : Nat) (f : TSet → TSet) : (updSet s b f).arg = s.arg := rfl
@[simp] theorem updSet_unit (b : Nat) (f : TSet → TSet) : (updSet s b f).unit = s.unit := rfl
@[simp] theorem updSet_free (b : Nat) (f : TSet → TSet) : (updSet s b f).free = s.free := rfl
@[simp] theorem updSet_now (b : Nat) (f : TSet → TSet) : (updSet s b f).now = s.now := rfl

@[simp] theorem updBank_crofts (b : Nat) (f : Bank → Bank) : (updBank s b f).crofts = s.crofts := rfl
@[simp] theorem updBank_tenants (b : Nat) (f : Bank → Bank) : (updBank s b f).tenants = s.tenants := rfl
@[simp] theorem updBank_sets (b : Nat) (f : Bank → Bank) : (updBank s b f).sets = s.sets := rfl
@[simp] theorem updBank_mem (b : Nat) (f : Bank → Bank) : (updBank s b f).mem = s.mem := rfl
@[simp] theorem updBank_marks (b : Nat) (f : Bank → Bank) : (updBank s b f).marks = s.marks := rfl
@[simp] theorem updBank_hostMem (b : Nat) (f : Bank → Bank) : (updBank s b f).hostMem = s.hostMem := rfl
@[simp] theorem updBank_chans (b : Nat) (f : Bank → Bank) : (updBank s b f).chans = s.chans := rfl
@[simp] theorem updBank_cribs (b : Nat) (f : Bank → Bank) : (updBank s b f).cribs = s.cribs := rfl
@[simp] theorem updBank_fairs (b : Nat) (f : Bank → Bank) : (updBank s b f).fairs = s.fairs := rfl
@[simp] theorem updBank_dies (b : Nat) (f : Bank → Bank) : (updBank s b f).dies = s.dies := rfl
@[simp] theorem updBank_queues (b : Nat) (f : Bank → Bank) : (updBank s b f).queues = s.queues := rfl
@[simp] theorem updBank_funcs (b : Nat) (f : Bank → Bank) : (updBank s b f).funcs = s.funcs := rfl
@[simp] theorem updBank_lomwens (b : Nat) (f : Bank → Bank) : (updBank s b f).lomwens = s.lomwens := rfl
@[simp] theorem updBank_pairs (b : Nat) (f : Bank → Bank) : (updBank s b f).pairs = s.pairs := rfl
@[simp] theorem updBank_paddocks (b : Nat) (f : Bank → Bank) : (updBank s b f).paddocks = s.paddocks := rfl
@[simp] theorem updBank_period (b : Nat) (f : Bank → Bank) : (updBank s b f).period = s.period := rfl
@[simp] theorem updBank_border (b : Nat) (f : Bank → Bank) : (updBank s b f).border = s.border := rfl
@[simp] theorem updBank_reports (b : Nat) (f : Bank → Bank) : (updBank s b f).reports = s.reports := rfl
@[simp] theorem updBank_net (b : Nat) (f : Bank → Bank) : (updBank s b f).net = s.net := rfl
@[simp] theorem updBank_mailbox (b : Nat) (f : Bank → Bank) : (updBank s b f).mailbox = s.mailbox := rfl
@[simp] theorem updBank_mgmt (b : Nat) (f : Bank → Bank) : (updBank s b f).mgmt = s.mgmt := rfl
@[simp] theorem updBank_flash (b : Nat) (f : Bank → Bank) : (updBank s b f).flash = s.flash := rfl
@[simp] theorem updBank_asleep (b : Nat) (f : Bank → Bank) : (updBank s b f).asleep = s.asleep := rfl
@[simp] theorem updBank_losses (b : Nat) (f : Bank → Bank) : (updBank s b f).losses = s.losses := rfl
@[simp] theorem updBank_power (b : Nat) (f : Bank → Bank) : (updBank s b f).power = s.power := rfl
@[simp] theorem updBank_out (b : Nat) (f : Bank → Bank) : (updBank s b f).out = s.out := rfl
@[simp] theorem updBank_tag (b : Nat) (f : Bank → Bank) : (updBank s b f).tag = s.tag := rfl
@[simp] theorem updBank_epoch (b : Nat) (f : Bank → Bank) : (updBank s b f).epoch = s.epoch := rfl
@[simp] theorem updBank_sched (b : Nat) (f : Bank → Bank) : (updBank s b f).sched = s.sched := rfl
@[simp] theorem updBank_cur (b : Nat) (f : Bank → Bank) : (updBank s b f).cur = s.cur := rfl
@[simp] theorem updBank_arg (b : Nat) (f : Bank → Bank) : (updBank s b f).arg = s.arg := rfl
@[simp] theorem updBank_unit (b : Nat) (f : Bank → Bank) : (updBank s b f).unit = s.unit := rfl
@[simp] theorem updBank_free (b : Nat) (f : Bank → Bank) : (updBank s b f).free = s.free := rfl
@[simp] theorem updBank_now (b : Nat) (f : Bank → Bank) : (updBank s b f).now = s.now := rfl

@[simp] theorem updChan_crofts (g : Nat) (f : Channel → Channel) : (updChan s g f).crofts = s.crofts := rfl
@[simp] theorem updChan_tenants (g : Nat) (f : Channel → Channel) : (updChan s g f).tenants = s.tenants := rfl
@[simp] theorem updChan_sets (g : Nat) (f : Channel → Channel) : (updChan s g f).sets = s.sets := rfl
@[simp] theorem updChan_mem (g : Nat) (f : Channel → Channel) : (updChan s g f).mem = s.mem := rfl
@[simp] theorem updChan_marks (g : Nat) (f : Channel → Channel) : (updChan s g f).marks = s.marks := rfl
@[simp] theorem updChan_hostMem (g : Nat) (f : Channel → Channel) : (updChan s g f).hostMem = s.hostMem := rfl
@[simp] theorem updChan_banks (g : Nat) (f : Channel → Channel) : (updChan s g f).banks = s.banks := rfl
@[simp] theorem updChan_cribs (g : Nat) (f : Channel → Channel) : (updChan s g f).cribs = s.cribs := rfl
@[simp] theorem updChan_fairs (g : Nat) (f : Channel → Channel) : (updChan s g f).fairs = s.fairs := rfl
@[simp] theorem updChan_dies (g : Nat) (f : Channel → Channel) : (updChan s g f).dies = s.dies := rfl
@[simp] theorem updChan_queues (g : Nat) (f : Channel → Channel) : (updChan s g f).queues = s.queues := rfl
@[simp] theorem updChan_funcs (g : Nat) (f : Channel → Channel) : (updChan s g f).funcs = s.funcs := rfl
@[simp] theorem updChan_lomwens (g : Nat) (f : Channel → Channel) : (updChan s g f).lomwens = s.lomwens := rfl
@[simp] theorem updChan_pairs (g : Nat) (f : Channel → Channel) : (updChan s g f).pairs = s.pairs := rfl
@[simp] theorem updChan_paddocks (g : Nat) (f : Channel → Channel) : (updChan s g f).paddocks = s.paddocks := rfl
@[simp] theorem updChan_period (g : Nat) (f : Channel → Channel) : (updChan s g f).period = s.period := rfl
@[simp] theorem updChan_border (g : Nat) (f : Channel → Channel) : (updChan s g f).border = s.border := rfl
@[simp] theorem updChan_reports (g : Nat) (f : Channel → Channel) : (updChan s g f).reports = s.reports := rfl
@[simp] theorem updChan_net (g : Nat) (f : Channel → Channel) : (updChan s g f).net = s.net := rfl
@[simp] theorem updChan_mailbox (g : Nat) (f : Channel → Channel) : (updChan s g f).mailbox = s.mailbox := rfl
@[simp] theorem updChan_mgmt (g : Nat) (f : Channel → Channel) : (updChan s g f).mgmt = s.mgmt := rfl
@[simp] theorem updChan_flash (g : Nat) (f : Channel → Channel) : (updChan s g f).flash = s.flash := rfl
@[simp] theorem updChan_asleep (g : Nat) (f : Channel → Channel) : (updChan s g f).asleep = s.asleep := rfl
@[simp] theorem updChan_losses (g : Nat) (f : Channel → Channel) : (updChan s g f).losses = s.losses := rfl
@[simp] theorem updChan_power (g : Nat) (f : Channel → Channel) : (updChan s g f).power = s.power := rfl
@[simp] theorem updChan_out (g : Nat) (f : Channel → Channel) : (updChan s g f).out = s.out := rfl
@[simp] theorem updChan_tag (g : Nat) (f : Channel → Channel) : (updChan s g f).tag = s.tag := rfl
@[simp] theorem updChan_epoch (g : Nat) (f : Channel → Channel) : (updChan s g f).epoch = s.epoch := rfl
@[simp] theorem updChan_sched (g : Nat) (f : Channel → Channel) : (updChan s g f).sched = s.sched := rfl
@[simp] theorem updChan_cur (g : Nat) (f : Channel → Channel) : (updChan s g f).cur = s.cur := rfl
@[simp] theorem updChan_arg (g : Nat) (f : Channel → Channel) : (updChan s g f).arg = s.arg := rfl
@[simp] theorem updChan_unit (g : Nat) (f : Channel → Channel) : (updChan s g f).unit = s.unit := rfl
@[simp] theorem updChan_free (g : Nat) (f : Channel → Channel) : (updChan s g f).free = s.free := rfl
@[simp] theorem updChan_now (g : Nat) (f : Channel → Channel) : (updChan s g f).now = s.now := rfl

@[simp] theorem setCrib_crofts (c : Nat) (k : Crib) : (setCrib s c k).crofts = s.crofts := rfl
@[simp] theorem setCrib_tenants (c : Nat) (k : Crib) : (setCrib s c k).tenants = s.tenants := rfl
@[simp] theorem setCrib_sets (c : Nat) (k : Crib) : (setCrib s c k).sets = s.sets := rfl
@[simp] theorem setCrib_mem (c : Nat) (k : Crib) : (setCrib s c k).mem = s.mem := rfl
@[simp] theorem setCrib_marks (c : Nat) (k : Crib) : (setCrib s c k).marks = s.marks := rfl
@[simp] theorem setCrib_hostMem (c : Nat) (k : Crib) : (setCrib s c k).hostMem = s.hostMem := rfl
@[simp] theorem setCrib_banks (c : Nat) (k : Crib) : (setCrib s c k).banks = s.banks := rfl
@[simp] theorem setCrib_chans (c : Nat) (k : Crib) : (setCrib s c k).chans = s.chans := rfl
@[simp] theorem setCrib_fairs (c : Nat) (k : Crib) : (setCrib s c k).fairs = s.fairs := rfl
@[simp] theorem setCrib_dies (c : Nat) (k : Crib) : (setCrib s c k).dies = s.dies := rfl
@[simp] theorem setCrib_queues (c : Nat) (k : Crib) : (setCrib s c k).queues = s.queues := rfl
@[simp] theorem setCrib_funcs (c : Nat) (k : Crib) : (setCrib s c k).funcs = s.funcs := rfl
@[simp] theorem setCrib_lomwens (c : Nat) (k : Crib) : (setCrib s c k).lomwens = s.lomwens := rfl
@[simp] theorem setCrib_pairs (c : Nat) (k : Crib) : (setCrib s c k).pairs = s.pairs := rfl
@[simp] theorem setCrib_paddocks (c : Nat) (k : Crib) : (setCrib s c k).paddocks = s.paddocks := rfl
@[simp] theorem setCrib_period (c : Nat) (k : Crib) : (setCrib s c k).period = s.period := rfl
@[simp] theorem setCrib_border (c : Nat) (k : Crib) : (setCrib s c k).border = s.border := rfl
@[simp] theorem setCrib_reports (c : Nat) (k : Crib) : (setCrib s c k).reports = s.reports := rfl
@[simp] theorem setCrib_net (c : Nat) (k : Crib) : (setCrib s c k).net = s.net := rfl
@[simp] theorem setCrib_mailbox (c : Nat) (k : Crib) : (setCrib s c k).mailbox = s.mailbox := rfl
@[simp] theorem setCrib_mgmt (c : Nat) (k : Crib) : (setCrib s c k).mgmt = s.mgmt := rfl
@[simp] theorem setCrib_flash (c : Nat) (k : Crib) : (setCrib s c k).flash = s.flash := rfl
@[simp] theorem setCrib_asleep (c : Nat) (k : Crib) : (setCrib s c k).asleep = s.asleep := rfl
@[simp] theorem setCrib_losses (c : Nat) (k : Crib) : (setCrib s c k).losses = s.losses := rfl
@[simp] theorem setCrib_power (c : Nat) (k : Crib) : (setCrib s c k).power = s.power := rfl
@[simp] theorem setCrib_out (c : Nat) (k : Crib) : (setCrib s c k).out = s.out := rfl
@[simp] theorem setCrib_tag (c : Nat) (k : Crib) : (setCrib s c k).tag = s.tag := rfl
@[simp] theorem setCrib_epoch (c : Nat) (k : Crib) : (setCrib s c k).epoch = s.epoch := rfl
@[simp] theorem setCrib_sched (c : Nat) (k : Crib) : (setCrib s c k).sched = s.sched := rfl
@[simp] theorem setCrib_cur (c : Nat) (k : Crib) : (setCrib s c k).cur = s.cur := rfl
@[simp] theorem setCrib_arg (c : Nat) (k : Crib) : (setCrib s c k).arg = s.arg := rfl
@[simp] theorem setCrib_unit (c : Nat) (k : Crib) : (setCrib s c k).unit = s.unit := rfl
@[simp] theorem setCrib_free (c : Nat) (k : Crib) : (setCrib s c k).free = s.free := rfl
@[simp] theorem setCrib_now (c : Nat) (k : Crib) : (setCrib s c k).now = s.now := rfl

@[simp] theorem updFair_crofts (f : Nat) (k : Fair → Fair) : (updFair s f k).crofts = s.crofts := rfl
@[simp] theorem updFair_tenants (f : Nat) (k : Fair → Fair) : (updFair s f k).tenants = s.tenants := rfl
@[simp] theorem updFair_sets (f : Nat) (k : Fair → Fair) : (updFair s f k).sets = s.sets := rfl
@[simp] theorem updFair_mem (f : Nat) (k : Fair → Fair) : (updFair s f k).mem = s.mem := rfl
@[simp] theorem updFair_marks (f : Nat) (k : Fair → Fair) : (updFair s f k).marks = s.marks := rfl
@[simp] theorem updFair_hostMem (f : Nat) (k : Fair → Fair) : (updFair s f k).hostMem = s.hostMem := rfl
@[simp] theorem updFair_banks (f : Nat) (k : Fair → Fair) : (updFair s f k).banks = s.banks := rfl
@[simp] theorem updFair_chans (f : Nat) (k : Fair → Fair) : (updFair s f k).chans = s.chans := rfl
@[simp] theorem updFair_cribs (f : Nat) (k : Fair → Fair) : (updFair s f k).cribs = s.cribs := rfl
@[simp] theorem updFair_dies (f : Nat) (k : Fair → Fair) : (updFair s f k).dies = s.dies := rfl
@[simp] theorem updFair_queues (f : Nat) (k : Fair → Fair) : (updFair s f k).queues = s.queues := rfl
@[simp] theorem updFair_funcs (f : Nat) (k : Fair → Fair) : (updFair s f k).funcs = s.funcs := rfl
@[simp] theorem updFair_lomwens (f : Nat) (k : Fair → Fair) : (updFair s f k).lomwens = s.lomwens := rfl
@[simp] theorem updFair_pairs (f : Nat) (k : Fair → Fair) : (updFair s f k).pairs = s.pairs := rfl
@[simp] theorem updFair_paddocks (f : Nat) (k : Fair → Fair) : (updFair s f k).paddocks = s.paddocks := rfl
@[simp] theorem updFair_period (f : Nat) (k : Fair → Fair) : (updFair s f k).period = s.period := rfl
@[simp] theorem updFair_border (f : Nat) (k : Fair → Fair) : (updFair s f k).border = s.border := rfl
@[simp] theorem updFair_reports (f : Nat) (k : Fair → Fair) : (updFair s f k).reports = s.reports := rfl
@[simp] theorem updFair_net (f : Nat) (k : Fair → Fair) : (updFair s f k).net = s.net := rfl
@[simp] theorem updFair_mailbox (f : Nat) (k : Fair → Fair) : (updFair s f k).mailbox = s.mailbox := rfl
@[simp] theorem updFair_mgmt (f : Nat) (k : Fair → Fair) : (updFair s f k).mgmt = s.mgmt := rfl
@[simp] theorem updFair_flash (f : Nat) (k : Fair → Fair) : (updFair s f k).flash = s.flash := rfl
@[simp] theorem updFair_asleep (f : Nat) (k : Fair → Fair) : (updFair s f k).asleep = s.asleep := rfl
@[simp] theorem updFair_losses (f : Nat) (k : Fair → Fair) : (updFair s f k).losses = s.losses := rfl
@[simp] theorem updFair_power (f : Nat) (k : Fair → Fair) : (updFair s f k).power = s.power := rfl
@[simp] theorem updFair_out (f : Nat) (k : Fair → Fair) : (updFair s f k).out = s.out := rfl
@[simp] theorem updFair_tag (f : Nat) (k : Fair → Fair) : (updFair s f k).tag = s.tag := rfl
@[simp] theorem updFair_epoch (f : Nat) (k : Fair → Fair) : (updFair s f k).epoch = s.epoch := rfl
@[simp] theorem updFair_sched (f : Nat) (k : Fair → Fair) : (updFair s f k).sched = s.sched := rfl
@[simp] theorem updFair_cur (f : Nat) (k : Fair → Fair) : (updFair s f k).cur = s.cur := rfl
@[simp] theorem updFair_arg (f : Nat) (k : Fair → Fair) : (updFair s f k).arg = s.arg := rfl
@[simp] theorem updFair_unit (f : Nat) (k : Fair → Fair) : (updFair s f k).unit = s.unit := rfl
@[simp] theorem updFair_free (f : Nat) (k : Fair → Fair) : (updFair s f k).free = s.free := rfl
@[simp] theorem updFair_now (f : Nat) (k : Fair → Fair) : (updFair s f k).now = s.now := rfl

@[simp] theorem updDie_crofts (d : Nat) (k : Die → Die) : (updDie s d k).crofts = s.crofts := rfl
@[simp] theorem updDie_tenants (d : Nat) (k : Die → Die) : (updDie s d k).tenants = s.tenants := rfl
@[simp] theorem updDie_sets (d : Nat) (k : Die → Die) : (updDie s d k).sets = s.sets := rfl
@[simp] theorem updDie_mem (d : Nat) (k : Die → Die) : (updDie s d k).mem = s.mem := rfl
@[simp] theorem updDie_marks (d : Nat) (k : Die → Die) : (updDie s d k).marks = s.marks := rfl
@[simp] theorem updDie_hostMem (d : Nat) (k : Die → Die) : (updDie s d k).hostMem = s.hostMem := rfl
@[simp] theorem updDie_banks (d : Nat) (k : Die → Die) : (updDie s d k).banks = s.banks := rfl
@[simp] theorem updDie_chans (d : Nat) (k : Die → Die) : (updDie s d k).chans = s.chans := rfl
@[simp] theorem updDie_cribs (d : Nat) (k : Die → Die) : (updDie s d k).cribs = s.cribs := rfl
@[simp] theorem updDie_fairs (d : Nat) (k : Die → Die) : (updDie s d k).fairs = s.fairs := rfl
@[simp] theorem updDie_queues (d : Nat) (k : Die → Die) : (updDie s d k).queues = s.queues := rfl
@[simp] theorem updDie_funcs (d : Nat) (k : Die → Die) : (updDie s d k).funcs = s.funcs := rfl
@[simp] theorem updDie_lomwens (d : Nat) (k : Die → Die) : (updDie s d k).lomwens = s.lomwens := rfl
@[simp] theorem updDie_pairs (d : Nat) (k : Die → Die) : (updDie s d k).pairs = s.pairs := rfl
@[simp] theorem updDie_paddocks (d : Nat) (k : Die → Die) : (updDie s d k).paddocks = s.paddocks := rfl
@[simp] theorem updDie_period (d : Nat) (k : Die → Die) : (updDie s d k).period = s.period := rfl
@[simp] theorem updDie_border (d : Nat) (k : Die → Die) : (updDie s d k).border = s.border := rfl
@[simp] theorem updDie_reports (d : Nat) (k : Die → Die) : (updDie s d k).reports = s.reports := rfl
@[simp] theorem updDie_net (d : Nat) (k : Die → Die) : (updDie s d k).net = s.net := rfl
@[simp] theorem updDie_mailbox (d : Nat) (k : Die → Die) : (updDie s d k).mailbox = s.mailbox := rfl
@[simp] theorem updDie_mgmt (d : Nat) (k : Die → Die) : (updDie s d k).mgmt = s.mgmt := rfl
@[simp] theorem updDie_flash (d : Nat) (k : Die → Die) : (updDie s d k).flash = s.flash := rfl
@[simp] theorem updDie_asleep (d : Nat) (k : Die → Die) : (updDie s d k).asleep = s.asleep := rfl
@[simp] theorem updDie_losses (d : Nat) (k : Die → Die) : (updDie s d k).losses = s.losses := rfl
@[simp] theorem updDie_power (d : Nat) (k : Die → Die) : (updDie s d k).power = s.power := rfl
@[simp] theorem updDie_out (d : Nat) (k : Die → Die) : (updDie s d k).out = s.out := rfl
@[simp] theorem updDie_tag (d : Nat) (k : Die → Die) : (updDie s d k).tag = s.tag := rfl
@[simp] theorem updDie_epoch (d : Nat) (k : Die → Die) : (updDie s d k).epoch = s.epoch := rfl
@[simp] theorem updDie_sched (d : Nat) (k : Die → Die) : (updDie s d k).sched = s.sched := rfl
@[simp] theorem updDie_cur (d : Nat) (k : Die → Die) : (updDie s d k).cur = s.cur := rfl
@[simp] theorem updDie_arg (d : Nat) (k : Die → Die) : (updDie s d k).arg = s.arg := rfl
@[simp] theorem updDie_unit (d : Nat) (k : Die → Die) : (updDie s d k).unit = s.unit := rfl
@[simp] theorem updDie_free (d : Nat) (k : Die → Die) : (updDie s d k).free = s.free := rfl
@[simp] theorem updDie_now (d : Nat) (k : Die → Die) : (updDie s d k).now = s.now := rfl

@[simp] theorem updQueue_crofts (q : Nat) (k : Queue → Queue) : (updQueue s q k).crofts = s.crofts := rfl
@[simp] theorem updQueue_tenants (q : Nat) (k : Queue → Queue) : (updQueue s q k).tenants = s.tenants := rfl
@[simp] theorem updQueue_sets (q : Nat) (k : Queue → Queue) : (updQueue s q k).sets = s.sets := rfl
@[simp] theorem updQueue_mem (q : Nat) (k : Queue → Queue) : (updQueue s q k).mem = s.mem := rfl
@[simp] theorem updQueue_marks (q : Nat) (k : Queue → Queue) : (updQueue s q k).marks = s.marks := rfl
@[simp] theorem updQueue_hostMem (q : Nat) (k : Queue → Queue) : (updQueue s q k).hostMem = s.hostMem := rfl
@[simp] theorem updQueue_banks (q : Nat) (k : Queue → Queue) : (updQueue s q k).banks = s.banks := rfl
@[simp] theorem updQueue_chans (q : Nat) (k : Queue → Queue) : (updQueue s q k).chans = s.chans := rfl
@[simp] theorem updQueue_cribs (q : Nat) (k : Queue → Queue) : (updQueue s q k).cribs = s.cribs := rfl
@[simp] theorem updQueue_fairs (q : Nat) (k : Queue → Queue) : (updQueue s q k).fairs = s.fairs := rfl
@[simp] theorem updQueue_dies (q : Nat) (k : Queue → Queue) : (updQueue s q k).dies = s.dies := rfl
@[simp] theorem updQueue_funcs (q : Nat) (k : Queue → Queue) : (updQueue s q k).funcs = s.funcs := rfl
@[simp] theorem updQueue_lomwens (q : Nat) (k : Queue → Queue) : (updQueue s q k).lomwens = s.lomwens := rfl
@[simp] theorem updQueue_pairs (q : Nat) (k : Queue → Queue) : (updQueue s q k).pairs = s.pairs := rfl
@[simp] theorem updQueue_paddocks (q : Nat) (k : Queue → Queue) : (updQueue s q k).paddocks = s.paddocks := rfl
@[simp] theorem updQueue_period (q : Nat) (k : Queue → Queue) : (updQueue s q k).period = s.period := rfl
@[simp] theorem updQueue_border (q : Nat) (k : Queue → Queue) : (updQueue s q k).border = s.border := rfl
@[simp] theorem updQueue_reports (q : Nat) (k : Queue → Queue) : (updQueue s q k).reports = s.reports := rfl
@[simp] theorem updQueue_net (q : Nat) (k : Queue → Queue) : (updQueue s q k).net = s.net := rfl
@[simp] theorem updQueue_mailbox (q : Nat) (k : Queue → Queue) : (updQueue s q k).mailbox = s.mailbox := rfl
@[simp] theorem updQueue_mgmt (q : Nat) (k : Queue → Queue) : (updQueue s q k).mgmt = s.mgmt := rfl
@[simp] theorem updQueue_flash (q : Nat) (k : Queue → Queue) : (updQueue s q k).flash = s.flash := rfl
@[simp] theorem updQueue_asleep (q : Nat) (k : Queue → Queue) : (updQueue s q k).asleep = s.asleep := rfl
@[simp] theorem updQueue_losses (q : Nat) (k : Queue → Queue) : (updQueue s q k).losses = s.losses := rfl
@[simp] theorem updQueue_power (q : Nat) (k : Queue → Queue) : (updQueue s q k).power = s.power := rfl
@[simp] theorem updQueue_out (q : Nat) (k : Queue → Queue) : (updQueue s q k).out = s.out := rfl
@[simp] theorem updQueue_tag (q : Nat) (k : Queue → Queue) : (updQueue s q k).tag = s.tag := rfl
@[simp] theorem updQueue_epoch (q : Nat) (k : Queue → Queue) : (updQueue s q k).epoch = s.epoch := rfl
@[simp] theorem updQueue_sched (q : Nat) (k : Queue → Queue) : (updQueue s q k).sched = s.sched := rfl
@[simp] theorem updQueue_cur (q : Nat) (k : Queue → Queue) : (updQueue s q k).cur = s.cur := rfl
@[simp] theorem updQueue_arg (q : Nat) (k : Queue → Queue) : (updQueue s q k).arg = s.arg := rfl
@[simp] theorem updQueue_unit (q : Nat) (k : Queue → Queue) : (updQueue s q k).unit = s.unit := rfl
@[simp] theorem updQueue_free (q : Nat) (k : Queue → Queue) : (updQueue s q k).free = s.free := rfl
@[simp] theorem updQueue_now (q : Nat) (k : Queue → Queue) : (updQueue s q k).now = s.now := rfl

@[simp] theorem updFunc_crofts (f : Nat) (k : Func → Func) : (updFunc s f k).crofts = s.crofts := rfl
@[simp] theorem updFunc_tenants (f : Nat) (k : Func → Func) : (updFunc s f k).tenants = s.tenants := rfl
@[simp] theorem updFunc_sets (f : Nat) (k : Func → Func) : (updFunc s f k).sets = s.sets := rfl
@[simp] theorem updFunc_mem (f : Nat) (k : Func → Func) : (updFunc s f k).mem = s.mem := rfl
@[simp] theorem updFunc_marks (f : Nat) (k : Func → Func) : (updFunc s f k).marks = s.marks := rfl
@[simp] theorem updFunc_hostMem (f : Nat) (k : Func → Func) : (updFunc s f k).hostMem = s.hostMem := rfl
@[simp] theorem updFunc_banks (f : Nat) (k : Func → Func) : (updFunc s f k).banks = s.banks := rfl
@[simp] theorem updFunc_chans (f : Nat) (k : Func → Func) : (updFunc s f k).chans = s.chans := rfl
@[simp] theorem updFunc_cribs (f : Nat) (k : Func → Func) : (updFunc s f k).cribs = s.cribs := rfl
@[simp] theorem updFunc_fairs (f : Nat) (k : Func → Func) : (updFunc s f k).fairs = s.fairs := rfl
@[simp] theorem updFunc_dies (f : Nat) (k : Func → Func) : (updFunc s f k).dies = s.dies := rfl
@[simp] theorem updFunc_queues (f : Nat) (k : Func → Func) : (updFunc s f k).queues = s.queues := rfl
@[simp] theorem updFunc_lomwens (f : Nat) (k : Func → Func) : (updFunc s f k).lomwens = s.lomwens := rfl
@[simp] theorem updFunc_pairs (f : Nat) (k : Func → Func) : (updFunc s f k).pairs = s.pairs := rfl
@[simp] theorem updFunc_paddocks (f : Nat) (k : Func → Func) : (updFunc s f k).paddocks = s.paddocks := rfl
@[simp] theorem updFunc_period (f : Nat) (k : Func → Func) : (updFunc s f k).period = s.period := rfl
@[simp] theorem updFunc_border (f : Nat) (k : Func → Func) : (updFunc s f k).border = s.border := rfl
@[simp] theorem updFunc_reports (f : Nat) (k : Func → Func) : (updFunc s f k).reports = s.reports := rfl
@[simp] theorem updFunc_net (f : Nat) (k : Func → Func) : (updFunc s f k).net = s.net := rfl
@[simp] theorem updFunc_mailbox (f : Nat) (k : Func → Func) : (updFunc s f k).mailbox = s.mailbox := rfl
@[simp] theorem updFunc_mgmt (f : Nat) (k : Func → Func) : (updFunc s f k).mgmt = s.mgmt := rfl
@[simp] theorem updFunc_flash (f : Nat) (k : Func → Func) : (updFunc s f k).flash = s.flash := rfl
@[simp] theorem updFunc_asleep (f : Nat) (k : Func → Func) : (updFunc s f k).asleep = s.asleep := rfl
@[simp] theorem updFunc_losses (f : Nat) (k : Func → Func) : (updFunc s f k).losses = s.losses := rfl
@[simp] theorem updFunc_power (f : Nat) (k : Func → Func) : (updFunc s f k).power = s.power := rfl
@[simp] theorem updFunc_out (f : Nat) (k : Func → Func) : (updFunc s f k).out = s.out := rfl
@[simp] theorem updFunc_tag (f : Nat) (k : Func → Func) : (updFunc s f k).tag = s.tag := rfl
@[simp] theorem updFunc_epoch (f : Nat) (k : Func → Func) : (updFunc s f k).epoch = s.epoch := rfl
@[simp] theorem updFunc_sched (f : Nat) (k : Func → Func) : (updFunc s f k).sched = s.sched := rfl
@[simp] theorem updFunc_cur (f : Nat) (k : Func → Func) : (updFunc s f k).cur = s.cur := rfl
@[simp] theorem updFunc_arg (f : Nat) (k : Func → Func) : (updFunc s f k).arg = s.arg := rfl
@[simp] theorem updFunc_unit (f : Nat) (k : Func → Func) : (updFunc s f k).unit = s.unit := rfl
@[simp] theorem updFunc_free (f : Nat) (k : Func → Func) : (updFunc s f k).free = s.free := rfl
@[simp] theorem updFunc_now (f : Nat) (k : Func → Func) : (updFunc s f k).now = s.now := rfl

@[simp] theorem updLom_crofts (i : Nat) (k : Lomwen → Lomwen) : (updLom s i k).crofts = s.crofts := rfl
@[simp] theorem updLom_tenants (i : Nat) (k : Lomwen → Lomwen) : (updLom s i k).tenants = s.tenants := rfl
@[simp] theorem updLom_sets (i : Nat) (k : Lomwen → Lomwen) : (updLom s i k).sets = s.sets := rfl
@[simp] theorem updLom_mem (i : Nat) (k : Lomwen → Lomwen) : (updLom s i k).mem = s.mem := rfl
@[simp] theorem updLom_marks (i : Nat) (k : Lomwen → Lomwen) : (updLom s i k).marks = s.marks := rfl
@[simp] theorem updLom_hostMem (i : Nat) (k : Lomwen → Lomwen) : (updLom s i k).hostMem = s.hostMem := rfl
@[simp] theorem updLom_banks (i : Nat) (k : Lomwen → Lomwen) : (updLom s i k).banks = s.banks := rfl
@[simp] theorem updLom_chans (i : Nat) (k : Lomwen → Lomwen) : (updLom s i k).chans = s.chans := rfl
@[simp] theorem updLom_cribs (i : Nat) (k : Lomwen → Lomwen) : (updLom s i k).cribs = s.cribs := rfl
@[simp] theorem updLom_fairs (i : Nat) (k : Lomwen → Lomwen) : (updLom s i k).fairs = s.fairs := rfl
@[simp] theorem updLom_dies (i : Nat) (k : Lomwen → Lomwen) : (updLom s i k).dies = s.dies := rfl
@[simp] theorem updLom_queues (i : Nat) (k : Lomwen → Lomwen) : (updLom s i k).queues = s.queues := rfl
@[simp] theorem updLom_funcs (i : Nat) (k : Lomwen → Lomwen) : (updLom s i k).funcs = s.funcs := rfl
@[simp] theorem updLom_pairs (i : Nat) (k : Lomwen → Lomwen) : (updLom s i k).pairs = s.pairs := rfl
@[simp] theorem updLom_paddocks (i : Nat) (k : Lomwen → Lomwen) : (updLom s i k).paddocks = s.paddocks := rfl
@[simp] theorem updLom_period (i : Nat) (k : Lomwen → Lomwen) : (updLom s i k).period = s.period := rfl
@[simp] theorem updLom_border (i : Nat) (k : Lomwen → Lomwen) : (updLom s i k).border = s.border := rfl
@[simp] theorem updLom_reports (i : Nat) (k : Lomwen → Lomwen) : (updLom s i k).reports = s.reports := rfl
@[simp] theorem updLom_net (i : Nat) (k : Lomwen → Lomwen) : (updLom s i k).net = s.net := rfl
@[simp] theorem updLom_mailbox (i : Nat) (k : Lomwen → Lomwen) : (updLom s i k).mailbox = s.mailbox := rfl
@[simp] theorem updLom_mgmt (i : Nat) (k : Lomwen → Lomwen) : (updLom s i k).mgmt = s.mgmt := rfl
@[simp] theorem updLom_flash (i : Nat) (k : Lomwen → Lomwen) : (updLom s i k).flash = s.flash := rfl
@[simp] theorem updLom_asleep (i : Nat) (k : Lomwen → Lomwen) : (updLom s i k).asleep = s.asleep := rfl
@[simp] theorem updLom_losses (i : Nat) (k : Lomwen → Lomwen) : (updLom s i k).losses = s.losses := rfl
@[simp] theorem updLom_power (i : Nat) (k : Lomwen → Lomwen) : (updLom s i k).power = s.power := rfl
@[simp] theorem updLom_out (i : Nat) (k : Lomwen → Lomwen) : (updLom s i k).out = s.out := rfl
@[simp] theorem updLom_tag (i : Nat) (k : Lomwen → Lomwen) : (updLom s i k).tag = s.tag := rfl
@[simp] theorem updLom_epoch (i : Nat) (k : Lomwen → Lomwen) : (updLom s i k).epoch = s.epoch := rfl
@[simp] theorem updLom_sched (i : Nat) (k : Lomwen → Lomwen) : (updLom s i k).sched = s.sched := rfl
@[simp] theorem updLom_cur (i : Nat) (k : Lomwen → Lomwen) : (updLom s i k).cur = s.cur := rfl
@[simp] theorem updLom_arg (i : Nat) (k : Lomwen → Lomwen) : (updLom s i k).arg = s.arg := rfl
@[simp] theorem updLom_unit (i : Nat) (k : Lomwen → Lomwen) : (updLom s i k).unit = s.unit := rfl
@[simp] theorem updLom_free (i : Nat) (k : Lomwen → Lomwen) : (updLom s i k).free = s.free := rfl
@[simp] theorem updLom_now (i : Nat) (k : Lomwen → Lomwen) : (updLom s i k).now = s.now := rfl

@[simp] theorem updPair_crofts (p : Nat) (k : Pair → Pair) : (updPair s p k).crofts = s.crofts := rfl
@[simp] theorem updPair_tenants (p : Nat) (k : Pair → Pair) : (updPair s p k).tenants = s.tenants := rfl
@[simp] theorem updPair_sets (p : Nat) (k : Pair → Pair) : (updPair s p k).sets = s.sets := rfl
@[simp] theorem updPair_mem (p : Nat) (k : Pair → Pair) : (updPair s p k).mem = s.mem := rfl
@[simp] theorem updPair_marks (p : Nat) (k : Pair → Pair) : (updPair s p k).marks = s.marks := rfl
@[simp] theorem updPair_hostMem (p : Nat) (k : Pair → Pair) : (updPair s p k).hostMem = s.hostMem := rfl
@[simp] theorem updPair_banks (p : Nat) (k : Pair → Pair) : (updPair s p k).banks = s.banks := rfl
@[simp] theorem updPair_chans (p : Nat) (k : Pair → Pair) : (updPair s p k).chans = s.chans := rfl
@[simp] theorem updPair_cribs (p : Nat) (k : Pair → Pair) : (updPair s p k).cribs = s.cribs := rfl
@[simp] theorem updPair_fairs (p : Nat) (k : Pair → Pair) : (updPair s p k).fairs = s.fairs := rfl
@[simp] theorem updPair_dies (p : Nat) (k : Pair → Pair) : (updPair s p k).dies = s.dies := rfl
@[simp] theorem updPair_queues (p : Nat) (k : Pair → Pair) : (updPair s p k).queues = s.queues := rfl
@[simp] theorem updPair_funcs (p : Nat) (k : Pair → Pair) : (updPair s p k).funcs = s.funcs := rfl
@[simp] theorem updPair_lomwens (p : Nat) (k : Pair → Pair) : (updPair s p k).lomwens = s.lomwens := rfl
@[simp] theorem updPair_paddocks (p : Nat) (k : Pair → Pair) : (updPair s p k).paddocks = s.paddocks := rfl
@[simp] theorem updPair_period (p : Nat) (k : Pair → Pair) : (updPair s p k).period = s.period := rfl
@[simp] theorem updPair_border (p : Nat) (k : Pair → Pair) : (updPair s p k).border = s.border := rfl
@[simp] theorem updPair_reports (p : Nat) (k : Pair → Pair) : (updPair s p k).reports = s.reports := rfl
@[simp] theorem updPair_net (p : Nat) (k : Pair → Pair) : (updPair s p k).net = s.net := rfl
@[simp] theorem updPair_mailbox (p : Nat) (k : Pair → Pair) : (updPair s p k).mailbox = s.mailbox := rfl
@[simp] theorem updPair_mgmt (p : Nat) (k : Pair → Pair) : (updPair s p k).mgmt = s.mgmt := rfl
@[simp] theorem updPair_flash (p : Nat) (k : Pair → Pair) : (updPair s p k).flash = s.flash := rfl
@[simp] theorem updPair_asleep (p : Nat) (k : Pair → Pair) : (updPair s p k).asleep = s.asleep := rfl
@[simp] theorem updPair_losses (p : Nat) (k : Pair → Pair) : (updPair s p k).losses = s.losses := rfl
@[simp] theorem updPair_power (p : Nat) (k : Pair → Pair) : (updPair s p k).power = s.power := rfl
@[simp] theorem updPair_out (p : Nat) (k : Pair → Pair) : (updPair s p k).out = s.out := rfl
@[simp] theorem updPair_tag (p : Nat) (k : Pair → Pair) : (updPair s p k).tag = s.tag := rfl
@[simp] theorem updPair_epoch (p : Nat) (k : Pair → Pair) : (updPair s p k).epoch = s.epoch := rfl
@[simp] theorem updPair_sched (p : Nat) (k : Pair → Pair) : (updPair s p k).sched = s.sched := rfl
@[simp] theorem updPair_cur (p : Nat) (k : Pair → Pair) : (updPair s p k).cur = s.cur := rfl
@[simp] theorem updPair_arg (p : Nat) (k : Pair → Pair) : (updPair s p k).arg = s.arg := rfl
@[simp] theorem updPair_unit (p : Nat) (k : Pair → Pair) : (updPair s p k).unit = s.unit := rfl
@[simp] theorem updPair_free (p : Nat) (k : Pair → Pair) : (updPair s p k).free = s.free := rfl
@[simp] theorem updPair_now (p : Nat) (k : Pair → Pair) : (updPair s p k).now = s.now := rfl

@[simp] theorem updPad_crofts (p : Nat) (k : Paddock → Paddock) : (updPad s p k).crofts = s.crofts := rfl
@[simp] theorem updPad_tenants (p : Nat) (k : Paddock → Paddock) : (updPad s p k).tenants = s.tenants := rfl
@[simp] theorem updPad_sets (p : Nat) (k : Paddock → Paddock) : (updPad s p k).sets = s.sets := rfl
@[simp] theorem updPad_mem (p : Nat) (k : Paddock → Paddock) : (updPad s p k).mem = s.mem := rfl
@[simp] theorem updPad_marks (p : Nat) (k : Paddock → Paddock) : (updPad s p k).marks = s.marks := rfl
@[simp] theorem updPad_hostMem (p : Nat) (k : Paddock → Paddock) : (updPad s p k).hostMem = s.hostMem := rfl
@[simp] theorem updPad_banks (p : Nat) (k : Paddock → Paddock) : (updPad s p k).banks = s.banks := rfl
@[simp] theorem updPad_chans (p : Nat) (k : Paddock → Paddock) : (updPad s p k).chans = s.chans := rfl
@[simp] theorem updPad_cribs (p : Nat) (k : Paddock → Paddock) : (updPad s p k).cribs = s.cribs := rfl
@[simp] theorem updPad_fairs (p : Nat) (k : Paddock → Paddock) : (updPad s p k).fairs = s.fairs := rfl
@[simp] theorem updPad_dies (p : Nat) (k : Paddock → Paddock) : (updPad s p k).dies = s.dies := rfl
@[simp] theorem updPad_queues (p : Nat) (k : Paddock → Paddock) : (updPad s p k).queues = s.queues := rfl
@[simp] theorem updPad_funcs (p : Nat) (k : Paddock → Paddock) : (updPad s p k).funcs = s.funcs := rfl
@[simp] theorem updPad_lomwens (p : Nat) (k : Paddock → Paddock) : (updPad s p k).lomwens = s.lomwens := rfl
@[simp] theorem updPad_pairs (p : Nat) (k : Paddock → Paddock) : (updPad s p k).pairs = s.pairs := rfl
@[simp] theorem updPad_period (p : Nat) (k : Paddock → Paddock) : (updPad s p k).period = s.period := rfl
@[simp] theorem updPad_border (p : Nat) (k : Paddock → Paddock) : (updPad s p k).border = s.border := rfl
@[simp] theorem updPad_reports (p : Nat) (k : Paddock → Paddock) : (updPad s p k).reports = s.reports := rfl
@[simp] theorem updPad_net (p : Nat) (k : Paddock → Paddock) : (updPad s p k).net = s.net := rfl
@[simp] theorem updPad_mailbox (p : Nat) (k : Paddock → Paddock) : (updPad s p k).mailbox = s.mailbox := rfl
@[simp] theorem updPad_mgmt (p : Nat) (k : Paddock → Paddock) : (updPad s p k).mgmt = s.mgmt := rfl
@[simp] theorem updPad_flash (p : Nat) (k : Paddock → Paddock) : (updPad s p k).flash = s.flash := rfl
@[simp] theorem updPad_asleep (p : Nat) (k : Paddock → Paddock) : (updPad s p k).asleep = s.asleep := rfl
@[simp] theorem updPad_losses (p : Nat) (k : Paddock → Paddock) : (updPad s p k).losses = s.losses := rfl
@[simp] theorem updPad_power (p : Nat) (k : Paddock → Paddock) : (updPad s p k).power = s.power := rfl
@[simp] theorem updPad_out (p : Nat) (k : Paddock → Paddock) : (updPad s p k).out = s.out := rfl
@[simp] theorem updPad_tag (p : Nat) (k : Paddock → Paddock) : (updPad s p k).tag = s.tag := rfl
@[simp] theorem updPad_epoch (p : Nat) (k : Paddock → Paddock) : (updPad s p k).epoch = s.epoch := rfl
@[simp] theorem updPad_sched (p : Nat) (k : Paddock → Paddock) : (updPad s p k).sched = s.sched := rfl
@[simp] theorem updPad_cur (p : Nat) (k : Paddock → Paddock) : (updPad s p k).cur = s.cur := rfl
@[simp] theorem updPad_arg (p : Nat) (k : Paddock → Paddock) : (updPad s p k).arg = s.arg := rfl
@[simp] theorem updPad_unit (p : Nat) (k : Paddock → Paddock) : (updPad s p k).unit = s.unit := rfl
@[simp] theorem updPad_free (p : Nat) (k : Paddock → Paddock) : (updPad s p k).free = s.free := rfl
@[simp] theorem updPad_now (p : Nat) (k : Paddock → Paddock) : (updPad s p k).now = s.now := rfl

@[simp] theorem tick_crofts : (tick s).crofts = s.crofts := rfl
@[simp] theorem tick_tenants : (tick s).tenants = s.tenants := rfl
@[simp] theorem tick_sets : (tick s).sets = s.sets := rfl
@[simp] theorem tick_mem : (tick s).mem = s.mem := rfl
@[simp] theorem tick_marks : (tick s).marks = s.marks := rfl
@[simp] theorem tick_hostMem : (tick s).hostMem = s.hostMem := rfl
@[simp] theorem tick_banks : (tick s).banks = s.banks := rfl
@[simp] theorem tick_chans : (tick s).chans = s.chans := rfl
@[simp] theorem tick_cribs : (tick s).cribs = s.cribs := rfl
@[simp] theorem tick_fairs : (tick s).fairs = s.fairs := rfl
@[simp] theorem tick_dies : (tick s).dies = s.dies := rfl
@[simp] theorem tick_queues : (tick s).queues = s.queues := rfl
@[simp] theorem tick_funcs : (tick s).funcs = s.funcs := rfl
@[simp] theorem tick_lomwens : (tick s).lomwens = s.lomwens := rfl
@[simp] theorem tick_pairs : (tick s).pairs = s.pairs := rfl
@[simp] theorem tick_paddocks : (tick s).paddocks = s.paddocks := rfl
@[simp] theorem tick_period : (tick s).period = s.period := rfl
@[simp] theorem tick_border : (tick s).border = s.border := rfl
@[simp] theorem tick_reports : (tick s).reports = s.reports := rfl
@[simp] theorem tick_net : (tick s).net = s.net := rfl
@[simp] theorem tick_mailbox : (tick s).mailbox = s.mailbox := rfl
@[simp] theorem tick_mgmt : (tick s).mgmt = s.mgmt := rfl
@[simp] theorem tick_flash : (tick s).flash = s.flash := rfl
@[simp] theorem tick_asleep : (tick s).asleep = s.asleep := rfl
@[simp] theorem tick_losses : (tick s).losses = s.losses := rfl
@[simp] theorem tick_power : (tick s).power = s.power := rfl
@[simp] theorem tick_out : (tick s).out = s.out := rfl
@[simp] theorem tick_tag : (tick s).tag = s.tag := rfl
@[simp] theorem tick_epoch : (tick s).epoch = s.epoch := rfl
@[simp] theorem tick_sched : (tick s).sched = s.sched := rfl
@[simp] theorem tick_cur : (tick s).cur = s.cur := rfl
@[simp] theorem tick_arg : (tick s).arg = s.arg := rfl
@[simp] theorem tick_unit : (tick s).unit = s.unit := rfl
@[simp] theorem tick_free : (tick s).free = s.free := rfl

@[simp] theorem draw_crofts : (draw s).crofts = s.crofts := rfl
@[simp] theorem draw_tenants : (draw s).tenants = s.tenants := rfl
@[simp] theorem draw_sets : (draw s).sets = s.sets := rfl
@[simp] theorem draw_mem : (draw s).mem = s.mem := rfl
@[simp] theorem draw_marks : (draw s).marks = s.marks := rfl
@[simp] theorem draw_hostMem : (draw s).hostMem = s.hostMem := rfl
@[simp] theorem draw_banks : (draw s).banks = s.banks := rfl
@[simp] theorem draw_chans : (draw s).chans = s.chans := rfl
@[simp] theorem draw_cribs : (draw s).cribs = s.cribs := rfl
@[simp] theorem draw_fairs : (draw s).fairs = s.fairs := rfl
@[simp] theorem draw_dies : (draw s).dies = s.dies := rfl
@[simp] theorem draw_queues : (draw s).queues = s.queues := rfl
@[simp] theorem draw_funcs : (draw s).funcs = s.funcs := rfl
@[simp] theorem draw_lomwens : (draw s).lomwens = s.lomwens := rfl
@[simp] theorem draw_pairs : (draw s).pairs = s.pairs := rfl
@[simp] theorem draw_paddocks : (draw s).paddocks = s.paddocks := rfl
@[simp] theorem draw_period : (draw s).period = s.period := rfl
@[simp] theorem draw_border : (draw s).border = s.border := rfl
@[simp] theorem draw_reports : (draw s).reports = s.reports := rfl
@[simp] theorem draw_net : (draw s).net = s.net := rfl
@[simp] theorem draw_mailbox : (draw s).mailbox = s.mailbox := rfl
@[simp] theorem draw_mgmt : (draw s).mgmt = s.mgmt := rfl
@[simp] theorem draw_flash : (draw s).flash = s.flash := rfl
@[simp] theorem draw_asleep : (draw s).asleep = s.asleep := rfl
@[simp] theorem draw_losses : (draw s).losses = s.losses := rfl
@[simp] theorem draw_power : (draw s).power = s.power := rfl
@[simp] theorem draw_out : (draw s).out = s.out := rfl
@[simp] theorem draw_tag : (draw s).tag = s.tag := rfl
@[simp] theorem draw_epoch : (draw s).epoch = s.epoch := rfl
@[simp] theorem draw_sched : (draw s).sched = s.sched := rfl
@[simp] theorem draw_cur : (draw s).cur = s.cur := rfl
@[simp] theorem draw_arg : (draw s).arg = s.arg := rfl
@[simp] theorem draw_unit : (draw s).unit = s.unit := rfl
@[simp] theorem draw_now : (draw s).now = s.now := rfl

@[simp] theorem send_crofts (f : Flight) : (send s f).crofts = s.crofts := rfl
@[simp] theorem send_tenants (f : Flight) : (send s f).tenants = s.tenants := rfl
@[simp] theorem send_sets (f : Flight) : (send s f).sets = s.sets := rfl
@[simp] theorem send_mem (f : Flight) : (send s f).mem = s.mem := rfl
@[simp] theorem send_marks (f : Flight) : (send s f).marks = s.marks := rfl
@[simp] theorem send_hostMem (f : Flight) : (send s f).hostMem = s.hostMem := rfl
@[simp] theorem send_banks (f : Flight) : (send s f).banks = s.banks := rfl
@[simp] theorem send_chans (f : Flight) : (send s f).chans = s.chans := rfl
@[simp] theorem send_cribs (f : Flight) : (send s f).cribs = s.cribs := rfl
@[simp] theorem send_fairs (f : Flight) : (send s f).fairs = s.fairs := rfl
@[simp] theorem send_dies (f : Flight) : (send s f).dies = s.dies := rfl
@[simp] theorem send_queues (f : Flight) : (send s f).queues = s.queues := rfl
@[simp] theorem send_funcs (f : Flight) : (send s f).funcs = s.funcs := rfl
@[simp] theorem send_lomwens (f : Flight) : (send s f).lomwens = s.lomwens := rfl
@[simp] theorem send_pairs (f : Flight) : (send s f).pairs = s.pairs := rfl
@[simp] theorem send_paddocks (f : Flight) : (send s f).paddocks = s.paddocks := rfl
@[simp] theorem send_period (f : Flight) : (send s f).period = s.period := rfl
@[simp] theorem send_border (f : Flight) : (send s f).border = s.border := rfl
@[simp] theorem send_reports (f : Flight) : (send s f).reports = s.reports := rfl
@[simp] theorem send_mailbox (f : Flight) : (send s f).mailbox = s.mailbox := rfl
@[simp] theorem send_mgmt (f : Flight) : (send s f).mgmt = s.mgmt := rfl
@[simp] theorem send_flash (f : Flight) : (send s f).flash = s.flash := rfl
@[simp] theorem send_asleep (f : Flight) : (send s f).asleep = s.asleep := rfl
@[simp] theorem send_losses (f : Flight) : (send s f).losses = s.losses := rfl
@[simp] theorem send_power (f : Flight) : (send s f).power = s.power := rfl
@[simp] theorem send_out (f : Flight) : (send s f).out = s.out := rfl
@[simp] theorem send_tag (f : Flight) : (send s f).tag = s.tag := rfl
@[simp] theorem send_epoch (f : Flight) : (send s f).epoch = s.epoch := rfl
@[simp] theorem send_sched (f : Flight) : (send s f).sched = s.sched := rfl
@[simp] theorem send_cur (f : Flight) : (send s f).cur = s.cur := rfl
@[simp] theorem send_arg (f : Flight) : (send s f).arg = s.arg := rfl
@[simp] theorem send_unit (f : Flight) : (send s f).unit = s.unit := rfl
@[simp] theorem send_free (f : Flight) : (send s f).free = s.free := rfl
@[simp] theorem send_now (f : Flight) : (send s f).now = s.now := rfl

@[simp] theorem drop_crofts (n : Nat) : (drop s n).crofts = s.crofts := rfl
@[simp] theorem drop_tenants (n : Nat) : (drop s n).tenants = s.tenants := rfl
@[simp] theorem drop_sets (n : Nat) : (drop s n).sets = s.sets := rfl
@[simp] theorem drop_mem (n : Nat) : (drop s n).mem = s.mem := rfl
@[simp] theorem drop_marks (n : Nat) : (drop s n).marks = s.marks := rfl
@[simp] theorem drop_hostMem (n : Nat) : (drop s n).hostMem = s.hostMem := rfl
@[simp] theorem drop_banks (n : Nat) : (drop s n).banks = s.banks := rfl
@[simp] theorem drop_chans (n : Nat) : (drop s n).chans = s.chans := rfl
@[simp] theorem drop_cribs (n : Nat) : (drop s n).cribs = s.cribs := rfl
@[simp] theorem drop_fairs (n : Nat) : (drop s n).fairs = s.fairs := rfl
@[simp] theorem drop_dies (n : Nat) : (drop s n).dies = s.dies := rfl
@[simp] theorem drop_queues (n : Nat) : (drop s n).queues = s.queues := rfl
@[simp] theorem drop_funcs (n : Nat) : (drop s n).funcs = s.funcs := rfl
@[simp] theorem drop_lomwens (n : Nat) : (drop s n).lomwens = s.lomwens := rfl
@[simp] theorem drop_pairs (n : Nat) : (drop s n).pairs = s.pairs := rfl
@[simp] theorem drop_paddocks (n : Nat) : (drop s n).paddocks = s.paddocks := rfl
@[simp] theorem drop_period (n : Nat) : (drop s n).period = s.period := rfl
@[simp] theorem drop_border (n : Nat) : (drop s n).border = s.border := rfl
@[simp] theorem drop_reports (n : Nat) : (drop s n).reports = s.reports := rfl
@[simp] theorem drop_mailbox (n : Nat) : (drop s n).mailbox = s.mailbox := rfl
@[simp] theorem drop_mgmt (n : Nat) : (drop s n).mgmt = s.mgmt := rfl
@[simp] theorem drop_flash (n : Nat) : (drop s n).flash = s.flash := rfl
@[simp] theorem drop_asleep (n : Nat) : (drop s n).asleep = s.asleep := rfl
@[simp] theorem drop_losses (n : Nat) : (drop s n).losses = s.losses := rfl
@[simp] theorem drop_power (n : Nat) : (drop s n).power = s.power := rfl
@[simp] theorem drop_out (n : Nat) : (drop s n).out = s.out := rfl
@[simp] theorem drop_tag (n : Nat) : (drop s n).tag = s.tag := rfl
@[simp] theorem drop_epoch (n : Nat) : (drop s n).epoch = s.epoch := rfl
@[simp] theorem drop_sched (n : Nat) : (drop s n).sched = s.sched := rfl
@[simp] theorem drop_cur (n : Nat) : (drop s n).cur = s.cur := rfl
@[simp] theorem drop_arg (n : Nat) : (drop s n).arg = s.arg := rfl
@[simp] theorem drop_unit (n : Nat) : (drop s n).unit = s.unit := rfl
@[simp] theorem drop_free (n : Nat) : (drop s n).free = s.free := rfl
@[simp] theorem drop_now (n : Nat) : (drop s n).now = s.now := rfl

@[simp] theorem replace_crofts (n : Nat) (m : Msg) : (replace s n m).crofts = s.crofts := rfl
@[simp] theorem replace_tenants (n : Nat) (m : Msg) : (replace s n m).tenants = s.tenants := rfl
@[simp] theorem replace_sets (n : Nat) (m : Msg) : (replace s n m).sets = s.sets := rfl
@[simp] theorem replace_mem (n : Nat) (m : Msg) : (replace s n m).mem = s.mem := rfl
@[simp] theorem replace_marks (n : Nat) (m : Msg) : (replace s n m).marks = s.marks := rfl
@[simp] theorem replace_hostMem (n : Nat) (m : Msg) : (replace s n m).hostMem = s.hostMem := rfl
@[simp] theorem replace_banks (n : Nat) (m : Msg) : (replace s n m).banks = s.banks := rfl
@[simp] theorem replace_chans (n : Nat) (m : Msg) : (replace s n m).chans = s.chans := rfl
@[simp] theorem replace_cribs (n : Nat) (m : Msg) : (replace s n m).cribs = s.cribs := rfl
@[simp] theorem replace_fairs (n : Nat) (m : Msg) : (replace s n m).fairs = s.fairs := rfl
@[simp] theorem replace_dies (n : Nat) (m : Msg) : (replace s n m).dies = s.dies := rfl
@[simp] theorem replace_queues (n : Nat) (m : Msg) : (replace s n m).queues = s.queues := rfl
@[simp] theorem replace_funcs (n : Nat) (m : Msg) : (replace s n m).funcs = s.funcs := rfl
@[simp] theorem replace_lomwens (n : Nat) (m : Msg) : (replace s n m).lomwens = s.lomwens := rfl
@[simp] theorem replace_pairs (n : Nat) (m : Msg) : (replace s n m).pairs = s.pairs := rfl
@[simp] theorem replace_paddocks (n : Nat) (m : Msg) : (replace s n m).paddocks = s.paddocks := rfl
@[simp] theorem replace_period (n : Nat) (m : Msg) : (replace s n m).period = s.period := rfl
@[simp] theorem replace_border (n : Nat) (m : Msg) : (replace s n m).border = s.border := rfl
@[simp] theorem replace_reports (n : Nat) (m : Msg) : (replace s n m).reports = s.reports := rfl
@[simp] theorem replace_mailbox (n : Nat) (m : Msg) : (replace s n m).mailbox = s.mailbox := rfl
@[simp] theorem replace_mgmt (n : Nat) (m : Msg) : (replace s n m).mgmt = s.mgmt := rfl
@[simp] theorem replace_flash (n : Nat) (m : Msg) : (replace s n m).flash = s.flash := rfl
@[simp] theorem replace_asleep (n : Nat) (m : Msg) : (replace s n m).asleep = s.asleep := rfl
@[simp] theorem replace_losses (n : Nat) (m : Msg) : (replace s n m).losses = s.losses := rfl
@[simp] theorem replace_power (n : Nat) (m : Msg) : (replace s n m).power = s.power := rfl
@[simp] theorem replace_out (n : Nat) (m : Msg) : (replace s n m).out = s.out := rfl
@[simp] theorem replace_tag (n : Nat) (m : Msg) : (replace s n m).tag = s.tag := rfl
@[simp] theorem replace_epoch (n : Nat) (m : Msg) : (replace s n m).epoch = s.epoch := rfl
@[simp] theorem replace_sched (n : Nat) (m : Msg) : (replace s n m).sched = s.sched := rfl
@[simp] theorem replace_cur (n : Nat) (m : Msg) : (replace s n m).cur = s.cur := rfl
@[simp] theorem replace_arg (n : Nat) (m : Msg) : (replace s n m).arg = s.arg := rfl
@[simp] theorem replace_unit (n : Nat) (m : Msg) : (replace s n m).unit = s.unit := rfl
@[simp] theorem replace_free (n : Nat) (m : Msg) : (replace s n m).free = s.free := rfl
@[simp] theorem replace_now (n : Nat) (m : Msg) : (replace s n m).now = s.now := rfl

@[simp] theorem memPut_crofts (pa n x : Nat) : (memPut s pa n x).crofts = s.crofts := rfl
@[simp] theorem memPut_tenants (pa n x : Nat) : (memPut s pa n x).tenants = s.tenants := rfl
@[simp] theorem memPut_sets (pa n x : Nat) : (memPut s pa n x).sets = s.sets := rfl
@[simp] theorem memPut_marks (pa n x : Nat) : (memPut s pa n x).marks = s.marks := rfl
@[simp] theorem memPut_hostMem (pa n x : Nat) : (memPut s pa n x).hostMem = s.hostMem := rfl
@[simp] theorem memPut_banks (pa n x : Nat) : (memPut s pa n x).banks = s.banks := rfl
@[simp] theorem memPut_chans (pa n x : Nat) : (memPut s pa n x).chans = s.chans := rfl
@[simp] theorem memPut_cribs (pa n x : Nat) : (memPut s pa n x).cribs = s.cribs := rfl
@[simp] theorem memPut_fairs (pa n x : Nat) : (memPut s pa n x).fairs = s.fairs := rfl
@[simp] theorem memPut_dies (pa n x : Nat) : (memPut s pa n x).dies = s.dies := rfl
@[simp] theorem memPut_queues (pa n x : Nat) : (memPut s pa n x).queues = s.queues := rfl
@[simp] theorem memPut_funcs (pa n x : Nat) : (memPut s pa n x).funcs = s.funcs := rfl
@[simp] theorem memPut_lomwens (pa n x : Nat) : (memPut s pa n x).lomwens = s.lomwens := rfl
@[simp] theorem memPut_pairs (pa n x : Nat) : (memPut s pa n x).pairs = s.pairs := rfl
@[simp] theorem memPut_paddocks (pa n x : Nat) : (memPut s pa n x).paddocks = s.paddocks := rfl
@[simp] theorem memPut_period (pa n x : Nat) : (memPut s pa n x).period = s.period := rfl
@[simp] theorem memPut_border (pa n x : Nat) : (memPut s pa n x).border = s.border := rfl
@[simp] theorem memPut_reports (pa n x : Nat) : (memPut s pa n x).reports = s.reports := rfl
@[simp] theorem memPut_net (pa n x : Nat) : (memPut s pa n x).net = s.net := rfl
@[simp] theorem memPut_mailbox (pa n x : Nat) : (memPut s pa n x).mailbox = s.mailbox := rfl
@[simp] theorem memPut_mgmt (pa n x : Nat) : (memPut s pa n x).mgmt = s.mgmt := rfl
@[simp] theorem memPut_flash (pa n x : Nat) : (memPut s pa n x).flash = s.flash := rfl
@[simp] theorem memPut_asleep (pa n x : Nat) : (memPut s pa n x).asleep = s.asleep := rfl
@[simp] theorem memPut_losses (pa n x : Nat) : (memPut s pa n x).losses = s.losses := rfl
@[simp] theorem memPut_power (pa n x : Nat) : (memPut s pa n x).power = s.power := rfl
@[simp] theorem memPut_out (pa n x : Nat) : (memPut s pa n x).out = s.out := rfl
@[simp] theorem memPut_tag (pa n x : Nat) : (memPut s pa n x).tag = s.tag := rfl
@[simp] theorem memPut_epoch (pa n x : Nat) : (memPut s pa n x).epoch = s.epoch := rfl
@[simp] theorem memPut_sched (pa n x : Nat) : (memPut s pa n x).sched = s.sched := rfl
@[simp] theorem memPut_cur (pa n x : Nat) : (memPut s pa n x).cur = s.cur := rfl
@[simp] theorem memPut_arg (pa n x : Nat) : (memPut s pa n x).arg = s.arg := rfl
@[simp] theorem memPut_unit (pa n x : Nat) : (memPut s pa n x).unit = s.unit := rfl
@[simp] theorem memPut_free (pa n x : Nat) : (memPut s pa n x).free = s.free := rfl
@[simp] theorem memPut_now (pa n x : Nat) : (memPut s pa n x).now = s.now := rfl

@[simp] theorem tick_now : (tick s).now = s.now + 1 := rfl
@[simp] theorem draw_free : (draw s).free = s.free + 1 := rfl
@[simp] theorem send_net (f : Flight) : (send s f).net = s.net ++ [f] := rfl
@[simp] theorem drop_net (n : Nat) : (drop s n).net = dropAt s.net n := rfl
@[simp] theorem memPut_mem (pa n x : Nat) : (memPut s pa n x).mem = storeBytes s.mem pa (toBytes n x) := rfl

end Sys2Proof.Machine
end

