-- ==== Sys2Proof/Laws/Context.lean ====
section
/-! SUPPORT. The acting context: what its updates leave, what a retiring instruction does, and its registers. -/

namespace Sys2Proof.Machine

variable (s : State)

/-! ## Places -/

@[simp] theorem croftAt_setCroft_self (c : Nat) (k : Croft) : croftAt (setCroft s c k) c = k := sread_sset_self _ _ _ _
theorem croftAt_setCroft_ne {c d : Nat} (k : Croft) (h : d ≠ c) : croftAt (setCroft s c k) d = croftAt s d :=
  sread_sset_ne _ _ _ h
@[simp] theorem ctxAt_setCtx_self (c i : Nat) (k : Context) : ctxAt (setCtx s c i k) c i = k := by
  simp [ctxAt, setCtx]
theorem ctxAt_setCtx_ne {c i c' i' : Nat} (k : Context) (h : c' ≠ c ∨ i' ≠ i) :
    ctxAt (setCtx s c i k) c' i' = ctxAt s c' i' := by
  by_cases hc : c' = c
  · subst hc
    simp only [ctxAt, setCtx, croftAt_setCroft_self]
    exact sread_sset_ne _ _ _ (by simpa using h)
  · simp only [ctxAt, setCtx]
    rw [croftAt_setCroft_ne s _ hc]

@[simp] theorem tenAt_setTen_self (t : Nat) (k : Tenant) : tenAt (setTen s t k) t = k := sread_sset_self _ _ _ _
theorem tenAt_setTen_ne {t u : Nat} (k : Tenant) (h : u ≠ t) : tenAt (setTen s t k) u = tenAt s u := sread_sset_ne _ _ _ h
@[simp] theorem tenAt_updTen_self (t : Nat) (f : Tenant → Tenant) : tenAt (updTen s t f) t = f (tenAt s t) :=
  tenAt_setTen_self _ _ _
theorem tenAt_updTen_ne {t u : Nat} (f : Tenant → Tenant) (h : u ≠ t) : tenAt (updTen s t f) u = tenAt s u :=
  tenAt_setTen_ne _ _ h

@[simp] theorem me_setMe (k : Context) : me (setMe s k) = k := ctxAt_setCtx_self _ _ _ _
@[simp] theorem me_updMe (f : Context → Context) : me (updMe s f) = f (me s) := me_setMe _ _
@[simp] theorem me_updRegs (f : Regs → Regs) : me (updRegs s f) = { me s with regs := f (me s).regs } := me_updMe _ _
@[simp] theorem me_waitTurn : me (waitTurn s) = { me s with turn := .waiting } := me_updMe _ _
@[simp] theorem me_setSub (n : Nat) : me (setSub n s) = { me s with sub := n } := me_updMe _ _

/-- A record of the acting context alone changes. -/
theorem setMe_same (k : Context) : SameElsewhere s (setMe s k) where
  rest := rfl
  crofts c h := by simp only [setMe, setCtx]; exact croftAt_setCroft_ne s _ h
  ctxs i h := ctxAt_setCtx_ne s k (Or.inr h)
  croft := by simp [setMe, setCtx]

theorem SameElsewhere.refl : SameElsewhere s s := ⟨rfl, fun _ _ => rfl, fun _ _ => rfl, rfl⟩

variable {s}
theorem SameElsewhere.cur {t : State} (h : SameElsewhere s t) : t.cur = s.cur := by
  have := congrArg State.cur h.rest; simpa using this

theorem SameElsewhere.trans {t u : State} (h : SameElsewhere s t) (k : SameElsewhere t u) : SameElsewhere s u where
  rest := by have := k.rest; have h' := h.rest; rw [← h', ← this]
  crofts c hc := (k.crofts c (by rw [h.cur]; exact hc)).trans (h.crofts c hc)
  ctxs i hi := by
    have := k.ctxs i (by rw [h.cur]; exact hi)
    rw [h.cur] at this
    exact this.trans (h.ctxs i hi)
  croft := by have := k.croft; rw [h.cur] at this; exact this.trans h.croft
variable (s)

/-! ## Retiring -/

theorem me_retire : me (retire s) = { me s with pc := nextSlot s, turn := .issued, stage := .open, sub := 0 } := me_updMe _ _

theorem nextSlot_updRegs (f : Regs → Regs) : nextSlot (updRegs s f) = nextSlot s := by simp [nextSlot]

/-- What a retired register update does, in full. -/
theorem retired_updRegs (f : Regs → Regs) : Retired s (retire (updRegs s f)) (f (me s).regs) where
  same := (setMe_same s _).trans (setMe_same _ _)
  ctx := by rw [me_retire, me_updRegs, nextSlot_updRegs]

theorem retired_retire : Retired s (retire s) (me s).regs where
  same := setMe_same _ _
  ctx := me_retire s

theorem passed_jumpTo_updRegs (f : Regs → Regs) (fn a : Nat) :
    Passed s (jumpTo fn a (updRegs s f)) (f (me s).regs) a (some fn) where
  same := ((setMe_same s _).trans (setMe_same _ _)).trans (setMe_same _ _)
  ctx := by simp [jumpTo, me_retire]

/-! ## Issue -/

theorem issue_act {h : Hdr} {rs : List Rn} {g : Bool} (act : State → State) (c : Clear h rs g s) :
    issue h false rs g act s = .next (act s) := by
  obtain ⟨a, b, d⟩ := c; subst d; simp [issue, a, b]

theorem scalar_act {h : Hdr} {rs : List Rn} (act : State → State) (c : Issues h rs s) : scalar h rs act s = .next (act s) :=
  issue_act s act c
theorem vector_act {h : Hdr} {w : Nat} {rs : List Rn} (act : State → State) (c : VIssues h w rs s) :
    vector h w rs act s = .next (act s) := issue_act s act c

theorem privileged_act {h : Hdr} {rs : List Rn} (act : State → State) (p : (me s).priv = true) (c : Issues h rs s) :
    privileged h rs act s = .next (act s) := by
  unfold privileged; rw [p]; exact issue_act s act c
theorem stewardOnly_act {h : Hdr} {rs : List Rn} (act : State → State) (p : s.cur.2 = 0) (c : Issues h rs s) :
    stewardOnly h rs act s = .next (act s) := by
  have := issue_act s act c
  simp only [stewardOnly, p]; simpa using this
theorem wainOnly_act {h : Hdr} {rs : List Rn} (act : State → State) (p : s.cur.2 = 15) (c : Issues h rs s) :
    wainOnly h rs act s = .next (act s) := by
  have := issue_act s act c
  simp only [wainOnly, p]; simpa using this

/-- The same three ways of issuing without acting, for any instruction. -/
theorem issue_priv {h : Hdr} {rs : List Rn} {g : Bool} (act : State → State) :
    issue h true rs g act s = .next (raiseDec cPRIV s) := rfl
theorem issue_budget {h : Hdr} {rs : List Rn} {g : Bool} (act : State → State)
    (b : rs.all (inBudget (me s).budget) = false) : issue h false rs g act s = .next (raiseDec cBUDGET s) := by
  simp [issue, b]
theorem issue_gate {h : Hdr} {rs : List Rn} {g : Bool} (act : State → State)
    (b : rs.all (inBudget (me s).budget) = true) (c : gateClear h s = false) :
    issue h false rs g act s = .next (gateTurn s) := by
  simp [issue, b, c]
theorem issue_guard {h : Hdr} {rs : List Rn} (act : State → State)
    (b : rs.all (inBudget (me s).budget) = true) (c : gateClear h s = true) :
    issue h false rs false act s = .next (retire s) := by
  simp [issue, b, c]

/-! ## Registers -/

theorem getG_putG (r : Regs) (i j : GReg) (x : W64) : getG (putG r i x) j = if j = i ∧ i ≠ 0 then x else getG r j := by
  unfold getG putG
  by_cases hi : i = 0
  · subst hi; simp
  · by_cases hj : j = 0
    · subst hj; simp [hi, Ne.symm hi]
    · by_cases h : j = i
      · subst h; simp [hi]
      · have : (i : Nat) ≠ j := fun e => h (Fin.ext e.symm)
        simp [hi, hj, h, this]

theorem getV_putV (r : Regs) (i j : VReg) (x : VWord) : getV (putV r i x) j = if j = i then x else getV r j := by
  unfold getV putV
  by_cases h : j = i
  · subst h; simp
  · have : (i : Nat) ≠ j := fun e => h (Fin.ext e.symm)
    simp [h, this]

theorem getP_putP (r : Regs) (i j : PReg) (x : PWord) : getP (putP r i x) j = if j = i ∧ i ≠ 0 then x else getP r j := by
  unfold getP putP
  by_cases hi : i = 0
  · subst hi; simp
  · by_cases hj : j = 0
    · subst hj; simp [hi, Ne.symm hi]
    · by_cases h : j = i
      · subst h; simp [hi]
      · have : (i : Nat) ≠ j := fun e => h (Fin.ext e.symm)
        simp [hi, hj, h, this]

theorem getB_putB (r : Regs) (i j : BReg) (x : W32) : getB (putB r i x) j = if j = i then x else getB r j := by
  unfold getB putB
  by_cases h : j = i
  · subst h; simp
  · have : (i : Nat) ≠ j := fun e => h (Fin.ext e.symm)
    simp [h, this]

end Sys2Proof.Machine
end

