-- ==== Sys2Proof/Laws/Encoding.lean ====
section
/-! SUPPORT. Packing and unpacking fields, and the sizes of the fields of an encoding. -/

namespace Sys2Proof

/-- Each value fits its width. -/
def Fits (ws vs : List Nat) : Prop := List.Forall₂ (fun w v => v < 2 ^ w) ws vs

theorem packN_lt : ∀ {ws vs : List Nat}, Fits ws vs → packN ws vs < 2 ^ ws.sum
  | [], [], _ => by simp [packN]
  | w :: ws, v :: vs, .cons h t => by
      have ih := packN_lt t
      simp only [packN, List.sum_cons, pow_add]
      calc v + 2 ^ w * packN ws vs < 2 ^ w + 2 ^ w * packN ws vs := by omega
        _ = 2 ^ w * (packN ws vs + 1) := by ring
        _ ≤ 2 ^ w * 2 ^ ws.sum := Nat.mul_le_mul_left _ ih

theorem unpackN_packN : ∀ {ws vs : List Nat}, Fits ws vs → unpackN ws (packN ws vs) = vs
  | [], [], _ => rfl
  | w :: ws, v :: vs, .cons h t => by
      have p : 0 < 2 ^ w := by positivity
      simp only [unpackN, packN, Nat.add_mul_mod_self_left, Nat.mod_eq_of_lt h, Nat.add_mul_div_left _ _ p,
        Nat.div_eq_of_lt h, Nat.zero_add, unpackN_packN t]

/-! ## Sizes of fields -/

@[simp] theorem gC_lt (r : GReg) : gC r < 128 := by unfold gC; omega
@[simp] theorem vC_lt (r : VReg) : vC r < 128 := by unfold vC; omega
@[simp] theorem pC_lt (r : PReg) : pC r < 128 := by unfold pC; omega
@[simp] theorem bC_lt (r : BReg) : bC r < 128 := by unfold bC; omega
@[simp] theorem srcB_lt (b : Src) : srcB b < 128 := by cases b <;> simp [srcB]
@[simp] theorem vsrcB_lt (b : VSrc) : vsrcB b < 128 := by cases b <;> simp [vsrcB]
@[simp] theorem srcI_lt (b : Src) : srcI b < 4294967296 := by cases b <;> simp [srcI]; exact BitVec.isLt _
@[simp] theorem vsrcI_lt (b : VSrc) : vsrcI b < 4294967296 := by cases b <;> simp [vsrcI]; exact BitVec.isLt _
@[simp] theorem ElemType.code_lt (t : ElemType) : t.code < 64 := by cases t <;> decide
@[simp] theorem Cond.code_lt (c : Cond) : c.code < 16 := by cases c <;> decide
@[simp] theorem Scope.code_lt (c : Scope) : c.code < 8 := by cases c <;> decide
@[simp] theorem Space.code_lt (c : Space) : c.code < 8 := by cases c <;> decide
@[simp] theorem VSize.code_lt (c : VSize) : c.code < 16 := by cases c <;> decide
@[simp] theorem RedOp.code_lt (c : RedOp) : c.code < 32 := by cases c <;> decide
@[simp] theorem AOp.code_lt (c : AOp) : c.code < 16 := by cases c <;> decide
@[simp] theorem FOp.code_lt (c : FOp) : c.code < 3 := by cases c <;> decide
@[simp] theorem ASize.code_lt (c : ASize) : c.code < 16 := by cases c <;> decide
@[simp] theorem FSize.code1_lt (c : FSize) : c.code.1 < 16 := by cases c <;> decide
@[simp] theorem FSize.code2_lt (c : FSize) : c.code.2 < 2 := by cases c <;> decide
@[simp] theorem FenceKind.code_lt (c : FenceKind) : c.code < 256 := by cases c <;> decide
@[simp] theorem Ord.code1_lt (c : Ord) : c.code.1 < 4 := by cases c <;> simp [Ord.code]
@[simp] theorem Ord.code2_lt (c : Ord) : c.code.2 < 8 := by cases c <;> simp [Ord.code]
@[simp] theorem bit_le1 (a : Bool) : a.toNat ≤ 1 := by cases a <;> decide
@[simp] theorem FSize.code2_le (c : FSize) : c.code.2 ≤ 1 := by cases c <;> decide
@[simp] theorem bit_lt2 (a : Bool) : a.toNat < 2 := by cases a <;> decide
@[simp] theorem bit_lt8 (a : Bool) : a.toNat < 8 := by cases a <;> decide
@[simp] theorem bit_lt16 (a : Bool) : a.toNat < 16 := by cases a <;> decide
@[simp] theorem FOp.code_lt16 (c : FOp) : c.code < 16 := by cases c <;> decide
@[simp] theorem bit_lt32 (a : Bool) : a.toNat < 32 := by cases a <;> decide
@[simp] theorem bit_lt256 (a : Bool) : a.toNat < 256 := by cases a <;> decide
@[simp] theorem bit_lt1024 (a : Bool) : a.toNat < 1024 := by cases a <;> decide
@[simp] theorem twice_lt32 (a : Bool) : 2 * a.toNat < 32 := by cases a <;> decide
@[simp] theorem four_lt64 (a : Bool) : 4 * a.toNat < 64 := by cases a <;> decide
@[simp] theorem bits2_lt32 (a b : Bool) : a.toNat + 2 * b.toNat < 32 := by cases a <;> cases b <;> decide
@[simp] theorem bits2_lt256 (a b : Bool) : a.toNat + 2 * b.toNat < 256 := by cases a <;> cases b <;> decide
@[simp] theorem bits3_lt256 (a b : Bool) : 4 + a.toNat + 2 * b.toNat < 256 := by cases a <;> cases b <;> decide

@[simp] theorem Cond.code_lt32 (c : Cond) : c.code < 32 := by cases c <;> decide
@[simp] theorem imm_lt (x : BitVec 32) : x.toNat < 4294967296 := x.isLt
@[simp] theorem tag_lt (x : BitVec 8) : x.toNat < 4294967296 := Nat.lt_trans x.isLt (by decide)
@[simp] theorem budget_lt (x : BitVec 14) : x.toNat < 4294967296 := Nat.lt_trans x.isLt (by decide)
@[simp] theorem disp39_lt (x : BitVec 39) : x.toNat < 549755813888 := x.isLt
@[simp] theorem disp50_lt (x : BitVec 50) : x.toNat < 1125899906842624 := x.isLt

theorem fits_hdr {h : Hdr} {sc fn op : Nat} (b : sc < 8 ∧ fn < 256 ∧ op < 256) : Fits hdrW (hdrN h sc fn op) := by
  have g := h.gate.isLt
  have p := h.gp.isLt
  have n := bit_lt2 h.gn
  simp [Fits, hdrW, hdrN, b, g, p, n]

theorem fits_append {ws vs ws' vs' : List Nat} (a : Fits ws vs) (b : Fits ws' vs') : Fits (ws ++ ws') (vs ++ vs') :=
  List.rel_append a b

theorem encA_fits {op fn d a b c ty md imm : Nat} {h : Hdr}
    (l : (fn < 256 ∧ op < 256) ∧ d < 128 ∧ a < 128 ∧ b < 128 ∧ c < 128 ∧ ty < 64 ∧ md < 32 ∧ imm < 4294967296) :
    Fits widthsA ([imm, md, ty, c, b, a, d] ++ hdrN h 0 fn op) :=
  fits_append (by simp [Fits, l]) (fits_hdr ⟨by decide, l.1⟩)

theorem encM_fits {op fn sc data base index xs size sp mk na disp : Nat} {h : Hdr}
    (l : (sc < 8 ∧ fn < 256 ∧ op < 256) ∧ data < 128 ∧ base < 128 ∧ index < 128 ∧ xs < 4 ∧ size < 16 ∧ sp < 8 ∧ mk < 2 ∧
      na < 2 ∧ disp < 549755813888) :
    Fits widthsM ([disp, na, mk, sp, size, xs, index, base, data] ++ hdrN h sc fn op) :=
  fits_append (by simp [Fits, l]) (fits_hdr l.1)

theorem encJ_fits {fn a b cond disp : Nat} {h : Hdr}
    (l : fn < 256 ∧ a < 128 ∧ b < 128 ∧ cond < 16 ∧ disp < 1125899906842624) :
    Fits widthsJ ([disp, 0, cond, b, a] ++ hdrN h 0 fn 0x18) :=
  fits_append (by simp [Fits, l]) (fits_hdr ⟨by decide, l.1, by decide⟩)

theorem encS_fits {op fn sc d a b id sub imm : Nat} {h : Hdr}
    (l : (sc < 8 ∧ fn < 256 ∧ op < 256) ∧ d < 128 ∧ a < 128 ∧ b < 128 ∧ id < 1024 ∧ sub < 256 ∧ imm < 4294967296) :
    Fits widthsS ([imm, sub, id, b, a, d] ++ hdrN h sc fn op) :=
  fits_append (by simp [Fits, l]) (fits_hdr l.1)

theorem encA_lt {op fn d a b c ty md imm w : Nat} {h : Hdr} (e : encA op fn h d a b c ty md imm = some w)
    (l : (fn < 256 ∧ op < 256) ∧ d < 128 ∧ a < 128 ∧ b < 128 ∧ c < 128 ∧ ty < 64 ∧ md < 32 ∧ imm < 4294967296) :
    w < 2 ^ 96 := Option.some.inj e ▸ packN_lt (encA_fits l)
theorem encM_lt {op fn sc data base index xs size sp mk na disp w : Nat} {h : Hdr}
    (e : encM op fn h sc data base index xs size sp mk na disp = some w)
    (l : (sc < 8 ∧ fn < 256 ∧ op < 256) ∧ data < 128 ∧ base < 128 ∧ index < 128 ∧ xs < 4 ∧ size < 16 ∧ sp < 8 ∧ mk < 2 ∧
      na < 2 ∧ disp < 549755813888) : w < 2 ^ 96 := Option.some.inj e ▸ packN_lt (encM_fits l)
theorem encJ_lt {fn a b cond disp w : Nat} {h : Hdr} (e : encJ fn h a b cond disp = some w)
    (l : fn < 256 ∧ a < 128 ∧ b < 128 ∧ cond < 16 ∧ disp < 1125899906842624) : w < 2 ^ 96 :=
  Option.some.inj e ▸ packN_lt (encJ_fits l)
theorem encS_lt {op fn sc d a b id sub imm w : Nat} {h : Hdr} (e : encS op fn h sc d a b id sub imm = some w)
    (l : (sc < 8 ∧ fn < 256 ∧ op < 256) ∧ d < 128 ∧ a < 128 ∧ b < 128 ∧ id < 1024 ∧ sub < 256 ∧ imm < 4294967296) :
    w < 2 ^ 96 := Option.some.inj e ▸ packN_lt (encS_fits l)

/-- The displacement field of an atomic: disp32, ord, PK and aop (R83, R175). -/
theorem atomic_fits {disp ord pk aop : Nat} (l : disp < 4294967296 ∧ ord < 4 ∧ pk < 2 ∧ aop < 16) :
    Fits [32, 2, 1, 4] [disp, ord, pk, aop] := by simp [Fits, l]
@[simp] theorem atomic_lt {disp ord pk aop : Nat} (l : disp < 4294967296 ∧ ord < 4 ∧ pk < 2 ∧ aop < 16) :
    packN [32, 2, 1, 4] [disp, ord, pk, aop] < 549755813888 := packN_lt (atomic_fits l)
theorem encAtom_lt {op fn data base index xs size nr aop pk disp w : Nat} {h : Hdr} {o : Ord}
    (e : encAtom op fn h o data base index xs size nr aop pk disp = some w)
    (l : (fn < 256 ∧ op < 256) ∧ data < 128 ∧ base < 128 ∧ index < 128 ∧ xs < 4 ∧ size < 16 ∧ nr < 2 ∧ aop < 16 ∧ pk < 2 ∧
      disp < 4294967296) : w < 2 ^ 96 := by
  obtain ⟨f, d, b, i, x, z, n, a, p, q⟩ := l
  exact encM_lt e (by simp [f, d, b, i, x, z, n, a, p, q])
theorem encAddr_lt {op fn data size na w : Nat} {h : Hdr} {a : Addr} {em : Option GReg}
    (e : encAddr op fn h data a em size na = some w)
    (l : (fn < 256 ∧ op < 256) ∧ data < 128 ∧ size < 16 ∧ na < 2) : w < 2 ^ 96 := by
  obtain ⟨f, d, z, n⟩ := l
  exact encM_lt e (by cases em <;> simp [f, d, z, n])

/-- Steps that are no slot of the instruction set have no word there. -/
theorem no_word {w : Nat} (e : (none : Option Nat) = some w) : w < 2 ^ 96 := nomatch e

theorem bara_lt (h : Hdr) (s : Scope) (i : Fin 16) (bin : Option BReg) (b : Src) {w : Nat}
    (e : encode (.bara h s i bin b) = some w) : w < 2 ^ 96 := by
  cases bin with
  | none => exact encS_lt (show encS 0x41 1 h s.code 0 0 (srcB b) i.val 0 (srcI b) = some w from e) (by simp; omega)
  | some k =>
      exact encS_lt (show encS 0x41 1 h s.code 0 0 (srcB b) i.val (8 + k.val) (srcI b) = some w from e) (by simp; omega)

theorem vamo_lt (h : Hdr) (o : VamoO) {w : Nat} (e : encode (.vamo h o) = some w) : w < 2 ^ 96 := by
  obtain ⟨op, nr, ord, d, base, x, xs, disp⟩ := o
  cases op with
  | int op wide =>
      have e' : encAtom 0x3B 0 h ord (vC d) (gC base) (vC x) xs.val (10 + wide.toNat) nr.toNat op.code 0 disp.toNat = some w := e
      exact encAtom_lt e' (by cases wide <;> simp)
  | flt op z =>
      have e' : encAtom 0x3B 0 h ord (vC d) (gC base) (vC x) xs.val z.code.1 nr.toNat (9 + op.code) z.code.2 disp.toNat
        = some w := e
      exact encAtom_lt e' (by cases op <;> simp [FOp.code])

theorem stc_lt (h : Hdr) (o : StcO) {w : Nat} (e : encode (.stc h o) = some w) : w < 2 ^ 96 := by
  obtain ⟨data, base, x, disp, space⟩ := o
  cases data with
  | g r => exact encM_lt (show encM 0x51 1 h 0 (gC r) (gC base) (gC x) 0 3 space.code 0 0 disp.toNat = some w from e) (by simp)
  | pair r => exact encM_lt (show encM 0x51 1 h 0 (gC r) (gC base) (gC x) 0 7 space.code 0 0 disp.toNat = some w from e) (by simp)
  | v r => exact encM_lt (show encM 0x51 1 h 0 (vC r) (gC base) (gC x) 0 8 space.code 0 0 disp.toNat = some w from e) (by simp)

theorem stcm_lt (h : Hdr) (o : StcmO) {w : Nat} (e : encode (.stcm h o) = some w) : w < 2 ^ 96 := by
  obtain ⟨data, base, x, disp⟩ := o
  cases data with
  | g r => exact encM_lt (show encM 0x51 2 h 0 (gC r) (gC base) (gC x) 0 3 1 0 0 disp.toNat = some w from e) (by simp)
  | v r => exact encM_lt (show encM 0x51 2 h 0 (vC r) (gC base) (gC x) 0 8 1 0 0 disp.toNat = some w from e) (by simp)

theorem hire_lt (h : Hdr) (o : HireO) {w : Nat} (e : encode (.hire h o) = some w) : w < 2 ^ 96 := by
  have e' : packN widthsH ([0, o.n.val, o.k.val, o.m.val, o.ord.toNat + 2 * o.chain.toNat + 4 * o.land.toNat,
      o.yf.val, o.wf.val, o.floor.val, o.pri.val, o.bin.val, gC o.s, gC o.d] ++ hdrN h 0 0 0x50) = w := Option.some.inj e
  have b : o.ord.toNat + 2 * o.chain.toNat + 4 * o.land.toNat < 8 := by
    cases o.ord <;> cases o.chain <;> cases o.land <;> decide
  exact e' ▸ packN_lt (fits_append (by simp [Fits, b]; omega) (fits_hdr (by simp)))

theorem vcvt_lt (h : Hdr) (o : VCvtO) {w : Nat} (e : encode (.vcvt h o) = some w) : w < 2 ^ 96 := by
  have l : packN [6, 2, 1, 1, 5, 17] [o.s.code, 0, o.inf.toNat, 0, o.part.val, 0] < 2 ^ 32 :=
    packN_lt (by simp [Fits])
  exact encA_lt (show encA 0x25 0 h (vC o.d) (vC o.a) 0 0 o.t.code 0
    (packN [6, 2, 1, 1, 5, 17] [o.s.code, 0, o.inf.toNat, 0, o.part.val, 0]) = some w from e) (by simpa using l)

end Sys2Proof
end

