-- ==== Sys2Proof/Laws/Exec.lean ====
section
/-! SUPPORT. exec at each constructor, by definition. -/

namespace Sys2Proof.Machine

theorem exec_nop (s : State) : exec (.nop) s = execNop s := rfl
theorem exec_brk (h : Hdr) (code : W32) (s : State) : exec (.brk h code) s = execBrk h code s := rfl
theorem exec_trap (h : Hdr) (code : W32) (s : State) : exec (.trap h code) s = execTrap h code s := rfl
theorem exec_add (h : Hdr) (o : Alu) (s : State) : exec (.add h o) s = execAdd h o s := rfl
theorem exec_sub (h : Hdr) (o : Alu) (s : State) : exec (.sub h o) s = execSub h o s := rfl
theorem exec_mul (h : Hdr) (o : Alu) (s : State) : exec (.mul h o) s = execMul h o s := rfl
theorem exec_mulh (h : Hdr) (o : Alu) (s : State) : exec (.mulh h o) s = execMulh h o s := rfl
theorem exec_mulhn (h : Hdr) (o : Alu) (s : State) : exec (.mulhn h o) s = execMulhn h o s := rfl
theorem exec_div (h : Hdr) (o : Alu) (s : State) : exec (.div h o) s = execDiv h o s := rfl
theorem exec_divn (h : Hdr) (o : Alu) (s : State) : exec (.divn h o) s = execDivn h o s := rfl
theorem exec_rem (h : Hdr) (o : Alu) (s : State) : exec (.rem h o) s = execRem h o s := rfl
theorem exec_remn (h : Hdr) (o : Alu) (s : State) : exec (.remn h o) s = execRemn h o s := rfl
theorem exec_and (h : Hdr) (o : Alu) (s : State) : exec (.and h o) s = execAnd h o s := rfl
theorem exec_or (h : Hdr) (o : Alu) (s : State) : exec (.or h o) s = execOr h o s := rfl
theorem exec_xor (h : Hdr) (o : Alu) (s : State) : exec (.xor h o) s = execXor h o s := rfl
theorem exec_andn (h : Hdr) (o : Alu) (s : State) : exec (.andn h o) s = execAndn h o s := rfl
theorem exec_shl (h : Hdr) (o : Alu) (s : State) : exec (.shl h o) s = execShl h o s := rfl
theorem exec_shr (h : Hdr) (o : Alu) (s : State) : exec (.shr h o) s = execShr h o s := rfl
theorem exec_sha (h : Hdr) (o : Alu) (s : State) : exec (.sha h o) s = execSha h o s := rfl
theorem exec_rol (h : Hdr) (o : Alu) (s : State) : exec (.rol h o) s = execRol h o s := rfl
theorem exec_min (h : Hdr) (o : Alu) (s : State) : exec (.min h o) s = execMin h o s := rfl
theorem exec_max (h : Hdr) (o : Alu) (s : State) : exec (.max h o) s = execMax h o s := rfl
theorem exec_minn (h : Hdr) (o : Alu) (s : State) : exec (.minn h o) s = execMinn h o s := rfl
theorem exec_maxn (h : Hdr) (o : Alu) (s : State) : exec (.maxn h o) s = execMaxn h o s := rfl
theorem exec_abs (h : Hdr) (o : AluU) (s : State) : exec (.abs h o) s = execAbs h o s := rfl
theorem exec_cmpp (h : Hdr) (o : CmpP) (s : State) : exec (.cmpp h o) s = execCmpp h o s := rfl
theorem exec_setc (h : Hdr) (o : CmpG) (s : State) : exec (.setc h o) s = execSetc h o s := rfl
theorem exec_clz (h : Hdr) (o : BitU) (s : State) : exec (.clz h o) s = execClz h o s := rfl
theorem exec_ctz (h : Hdr) (o : BitU) (s : State) : exec (.ctz h o) s = execCtz h o s := rfl
theorem exec_popc (h : Hdr) (o : BitU) (s : State) : exec (.popc h o) s = execPopc h o s := rfl
theorem exec_brev (h : Hdr) (o : BitU) (s : State) : exec (.brev h o) s = execBrev h o s := rfl
theorem exec_bswap (h : Hdr) (o : BitU) (s : State) : exec (.bswap h o) s = execBswap h o s := rfl
theorem exec_bfx (h : Hdr) (d a : GReg) (b : Src) (s : State) : exec (.bfx h d a b) s = execBfx h d a b s := rfl
theorem exec_bfxn (h : Hdr) (d a : GReg) (b : Src) (s : State) : exec (.bfxn h d a b) s = execBfxn h d a b s := rfl
theorem exec_bfi (h : Hdr) (d a : GReg) (b : Src) (c : GReg) (s : State) : exec (.bfi h d a b c) s = execBfi h d a b c s := rfl
theorem exec_sel (h : Hdr) (d a : GReg) (b : Src) (c : PReg) (s : State) : exec (.sel h d a b c) s = execSel h d a b c s := rfl
theorem exec_mov (h : Hdr) (d a : GReg) (s : State) : exec (.mov h d a) s = execMov h d a s := rfl
theorem exec_li (h : Hdr) (d : GReg) (i : W32) (s : State) : exec (.li h d i) s = execLi h d i s := rfl
theorem exec_lih (h : Hdr) (d : GReg) (i : W32) (s : State) : exec (.lih h d i) s = execLih h d i s := rfl
theorem exec_mfs (h : Hdr) (d : GReg) (n : Fin 32) (s : State) : exec (.mfs h d n) s = execMfs h d n s := rfl
theorem exec_mts (h : Hdr) (n : Fin 32) (a : GReg) (s : State) : exec (.mts h n a) s = execMts h n a s := rfl
theorem exec_mfb (h : Hdr) (d : GReg) (a : BReg) (s : State) : exec (.mfb h d a) s = execMfb h d a s := rfl
theorem exec_mtb (h : Hdr) (d : BReg) (b : Src) (s : State) : exec (.mtb h d b) s = execMtb h d b s := rfl
theorem exec_mfp (h : Hdr) (hi : Bool) (d : GReg) (a : PReg) (s : State) : exec (.mfp h hi d a) s = execMfp h hi d a s := rfl
theorem exec_mtp (h : Hdr) (hi : Bool) (d : PReg) (a : GReg) (s : State) : exec (.mtp h hi d a) s = execMtp h hi d a s := rfl
theorem exec_lea (h : Hdr) (d : GReg) (base index : GReg) (xs : Fin 4) (disp : BitVec 39) (s : State) : exec (.lea h d base index xs disp) s = execLea h d base index xs disp s := rfl
theorem exec_br (h : Hdr) (disp : BitVec 50) (s : State) : exec (.br h disp) s = execBr h disp s := rfl
theorem exec_bc (h : Hdr) (c : Cond) (a : GReg) (disp : BitVec 50) (s : State) : exec (.bc h c a disp) s = execBc h c a disp s := rfl
theorem exec_bcmp (h : Hdr) (o : JCond) (s : State) : exec (.bcmp h o) s = execBcmp h o s := rfl
theorem exec_loop (h : Hdr) (a : GReg) (disp : BitVec 50) (s : State) : exec (.loop h a disp) s = execLoop h a disp s := rfl
theorem exec_call (h : Hdr) (b : GReg) (disp : BitVec 50) (s : State) : exec (.call h b disp) s = execCall h b disp s := rfl
theorem exec_jmp (h : Hdr) (a : GReg) (s : State) : exec (.jmp h a) s = execJmp h a s := rfl
theorem exec_jmpl (h : Hdr) (a b : GReg) (s : State) : exec (.jmpl h a b) s = execJmpl h a b s := rfl
theorem exec_ret (h : Hdr) (a : GReg) (s : State) : exec (.ret h a) s = execRet h a s := rfl
theorem exec_vadd (h : Hdr) (o : VBin) (s : State) : exec (.vadd h o) s = execVadd h o s := rfl
theorem exec_vsub (h : Hdr) (o : VBin) (s : State) : exec (.vsub h o) s = execVsub h o s := rfl
theorem exec_vmul (h : Hdr) (o : VBin) (s : State) : exec (.vmul h o) s = execVmul h o s := rfl
theorem exec_vfma (h : Hdr) (o : VTri) (s : State) : exec (.vfma h o) s = execVfma h o s := rfl
theorem exec_vfms (h : Hdr) (o : VTri) (s : State) : exec (.vfms h o) s = execVfms h o s := rfl
theorem exec_vfnma (h : Hdr) (o : VTri) (s : State) : exec (.vfnma h o) s = execVfnma h o s := rfl
theorem exec_vdiv (h : Hdr) (o : VBin) (s : State) : exec (.vdiv h o) s = execVdiv h o s := rfl
theorem exec_vsqrt (h : Hdr) (o : VUn) (s : State) : exec (.vsqrt h o) s = execVsqrt h o s := rfl
theorem exec_vrcp (h : Hdr) (o : VUn) (s : State) : exec (.vrcp h o) s = execVrcp h o s := rfl
theorem exec_vrsq (h : Hdr) (o : VUn) (s : State) : exec (.vrsq h o) s = execVrsq h o s := rfl
theorem exec_vmin (h : Hdr) (o : VBin) (s : State) : exec (.vmin h o) s = execVmin h o s := rfl
theorem exec_vmax (h : Hdr) (o : VBin) (s : State) : exec (.vmax h o) s = execVmax h o s := rfl
theorem exec_vabs (h : Hdr) (o : VUn) (s : State) : exec (.vabs h o) s = execVabs h o s := rfl
theorem exec_vneg (h : Hdr) (o : VUn) (s : State) : exec (.vneg h o) s = execVneg h o s := rfl
theorem exec_vmulh (h : Hdr) (o : VBin) (s : State) : exec (.vmulh h o) s = execVmulh h o s := rfl
theorem exec_vadds (h : Hdr) (o : VBin) (s : State) : exec (.vadds h o) s = execVadds h o s := rfl
theorem exec_vsubs (h : Hdr) (o : VBin) (s : State) : exec (.vsubs h o) s = execVsubs h o s := rfl
theorem exec_vand (h : Hdr) (o : VBin) (s : State) : exec (.vand h o) s = execVand h o s := rfl
theorem exec_vor (h : Hdr) (o : VBin) (s : State) : exec (.vor h o) s = execVor h o s := rfl
theorem exec_vxor (h : Hdr) (o : VBin) (s : State) : exec (.vxor h o) s = execVxor h o s := rfl
theorem exec_vandn (h : Hdr) (o : VBin) (s : State) : exec (.vandn h o) s = execVandn h o s := rfl
theorem exec_vshl (h : Hdr) (o : VBin) (s : State) : exec (.vshl h o) s = execVshl h o s := rfl
theorem exec_vshr (h : Hdr) (o : VBin) (s : State) : exec (.vshr h o) s = execVshr h o s := rfl
theorem exec_vsha (h : Hdr) (o : VBin) (s : State) : exec (.vsha h o) s = execVsha h o s := rfl
theorem exec_vcmp (h : Hdr) (o : VCmp) (s : State) : exec (.vcmp h o) s = execVcmp h o s := rfl
theorem exec_vsel (h : Hdr) (o : VSelO) (s : State) : exec (.vsel h o) s = execVsel h o s := rfl
theorem exec_pand (h : Hdr) (o : PBin) (s : State) : exec (.pand h o) s = execPand h o s := rfl
theorem exec_por (h : Hdr) (o : PBin) (s : State) : exec (.por h o) s = execPor h o s := rfl
theorem exec_pxor (h : Hdr) (o : PBin) (s : State) : exec (.pxor h o) s = execPxor h o s := rfl
theorem exec_pnot (h : Hdr) (d a : PReg) (s : State) : exec (.pnot h d a) s = execPnot h d a s := rfl
theorem exec_vcnt (h : Hdr) (o : VCount) (s : State) : exec (.vcnt h o) s = execVcnt h o s := rfl
theorem exec_vfirst (h : Hdr) (o : VCount) (s : State) : exec (.vfirst h o) s = execVfirst h o s := rfl
theorem exec_vpermb (h : Hdr) (d a : VReg) (b : VSrc) (s : State) : exec (.vpermb h d a b) s = execVpermb h d a b s := rfl
theorem exec_vperm (h : Hdr) (o : VPermO) (s : State) : exec (.vperm h o) s = execVperm h o s := rfl
theorem exec_vshuf (h : Hdr) (mode : Fin 4) (o : VPermO) (s : State) : exec (.vshuf h mode o) s = execVshuf h mode o s := rfl
theorem exec_vbcast (h : Hdr) (o : VFromG) (s : State) : exec (.vbcast h o) s = execVbcast h o s := rfl
theorem exec_vext (h : Hdr) (o : VExtO) (s : State) : exec (.vext h o) s = execVext h o s := rfl
theorem exec_vins (h : Hdr) (o : VInsO) (s : State) : exec (.vins h o) s = execVins h o s := rfl
theorem exec_vidx (h : Hdr) (o : VFromG) (s : State) : exec (.vidx h o) s = execVidx h o s := rfl
theorem exec_vmov (h : Hdr) (o : VUn) (s : State) : exec (.vmov h o) s = execVmov h o s := rfl
theorem exec_vslide (h : Hdr) (o : VPermO) (c : GReg) (s : State) : exec (.vslide h o c) s = execVslide h o c s := rfl
theorem exec_vred (h : Hdr) (op : RedOp) (t : ElemType) (d : GReg) (a : VReg) (c : PReg) (s : State) : exec (.vred h op t d a c) s = execVred h op t d a c s := rfl
theorem exec_vscan (h : Hdr) (op : RedOp) (t : ElemType) (d : VReg) (a : VReg) (c : PReg) (s : State) : exec (.vscan h op t d a c) s = execVscan h op t d a c s := rfl
theorem exec_vdot4 (h : Hdr) (uns su : Bool) (d a : VReg) (b : VSrc) (c : VReg) (s : State) : exec (.vdot4 h uns su d a b c) s = execVdot4 h uns su d a b c s := rfl
theorem exec_vxaccClr (h : Hdr) (d : VReg) (s : State) : exec (.vxaccClr h d) s = execVxaccClr h d s := rfl
theorem exec_vxaccAdd (h : Hdr) (d a : VReg) (b : VSrc) (s : State) : exec (.vxaccAdd h d a b) s = execVxaccAdd h d a b s := rfl
theorem exec_vxaccRd (h : Hdr) (t : ElemType) (d a : VReg) (s : State) : exec (.vxaccRd h t d a) s = execVxaccRd h t d a s := rfl
theorem exec_vcvt (h : Hdr) (o : VCvtO) (s : State) : exec (.vcvt h o) s = execVcvt h o s := rfl
theorem exec_ld (h : Hdr) (o : LdO) (s : State) : exec (.ld h o) s = execLd h o s := rfl
theorem exec_st (h : Hdr) (o : StO) (s : State) : exec (.st h o) s = execSt h o s := rfl
theorem exec_ldq (h : Hdr) (o : LdqO) (s : State) : exec (.ldq h o) s = execLdq h o s := rfl
theorem exec_stq (h : Hdr) (o : StqO) (s : State) : exec (.stq h o) s = execStq h o s := rfl
theorem exec_ldv (h : Hdr) (o : LdvO) (s : State) : exec (.ldv h o) s = execLdv h o s := rfl
theorem exec_stv (h : Hdr) (o : StvO) (s : State) : exec (.stv h o) s = execStv h o s := rfl
theorem exec_ldvs (h : Hdr) (o : VsO) (s : State) : exec (.ldvs h o) s = execLdvs h o s := rfl
theorem exec_stvs (h : Hdr) (o : VsO) (s : State) : exec (.stvs h o) s = execStvs h o s := rfl
theorem exec_gath (h : Hdr) (o : GsO) (s : State) : exec (.gath h o) s = execGath h o s := rfl
theorem exec_scat (h : Hdr) (o : GsO) (s : State) : exec (.scat h o) s = execScat h o s := rfl
theorem exec_ldfe (h : Hdr) (keep : Bool) (o : GAddr) (s : State) : exec (.ldfe h keep o) s = execLdfe h keep o s := rfl
theorem exec_stfe (h : Hdr) (force : Bool) (o : GAddr) (s : State) : exec (.stfe h force o) s = execStfe h force o s := rfl
theorem exec_festat (h : Hdr) (o : GAddr) (s : State) : exec (.festat h o) s = execFestat h o s := rfl
theorem exec_setmark (h : Hdr) (o : GAddr) (s : State) : exec (.setmark h o) s = execSetmark h o s := rfl
theorem exec_getmark (h : Hdr) (o : GAddr) (s : State) : exec (.getmark h o) s = execGetmark h o s := rfl
theorem exec_pref (h : Hdr) (na : Bool) (a : Addr) (s : State) : exec (.pref h na a) s = execPref h na a s := rfl
theorem exec_invl (h : Hdr) (i : Bool) (a : Addr) (s : State) : exec (.invl h i a) s = execInvl h i a s := rfl
theorem exec_fence (h : Hdr) (k : FenceKind) (sc : Scope) (s : State) : exec (.fence h k sc) s = execFence h k sc s := rfl
theorem exec_drain (h : Hdr) (m : Fin 8) (s : State) : exec (.drain h m) s = execDrain h m s := rfl
theorem exec_amo (h : Hdr) (o : AmoO) (s : State) : exec (.amo h o) s = execAmo h o s := rfl
theorem exec_amof (h : Hdr) (o : AmofO) (s : State) : exec (.amof h o) s = execAmof h o s := rfl
theorem exec_cas (h : Hdr) (o : CasO) (s : State) : exec (.cas h o) s = execCas h o s := rfl
theorem exec_cas2 (h : Hdr) (o : Cas2O) (s : State) : exec (.cas2 h o) s = execCas2 h o s := rfl
theorem exec_vamo (h : Hdr) (o : VamoO) (s : State) : exec (.vamo h o) s = execVamo h o s := rfl
theorem exec_waitb (h : Hdr) (a : BReg) (b : Src) (s : State) : exec (.waitb h a b) s = execWaitb h a b s := rfl
theorem exec_bar (h : Hdr) (sc : Scope) (id : Fin 16) (d : GReg) (b : Src) (s : State) : exec (.bar h sc id d b) s = execBar h sc id d b s := rfl
theorem exec_bara (h : Hdr) (sc : Scope) (id : Fin 16) (bin : Option BReg) (b : Src) (s : State) : exec (.bara h sc id bin b) s = execBara h sc id bin b s := rfl
theorem exec_barw (h : Hdr) (sc : Scope) (id : Fin 16) (d : GReg) (s : State) : exec (.barw h sc id d) s = execBarw h sc id d s := rfl
theorem exec_cradd (h : Hdr) (a : GReg) (b : VReg) (s : State) : exec (.cradd h a b) s = execCradd h a b s := rfl
theorem exec_crtake (h : Hdr) (d : VReg) (a : GReg) (s : State) : exec (.crtake h d a) s = execCrtake h d a s := rfl
theorem exec_crtry (h : Hdr) (d : VReg) (a : GReg) (b : PReg) (s : State) : exec (.crtry h d a b) s = execCrtry h d a b s := rfl
theorem exec_crstat (h : Hdr) (d a : GReg) (s : State) : exec (.crstat h d a) s = execCrstat h d a s := rfl
theorem exec_crinit (h : Hdr) (a b : GReg) (size : Fin 16777216) (s : State) : exec (.crinit h a b size) s = execCrinit h a b size s := rfl
theorem exec_crinitUnbind (h : Hdr) (a : GReg) (s : State) : exec (.crinitUnbind h a) s = execCrinitUnbind h a s := rfl
theorem exec_chsend (h : Hdr) (a b : GReg) (s : State) : exec (.chsend h a b) s = execChsend h a b s := rfl
theorem exec_chnext (h : Hdr) (d a : GReg) (s : State) : exec (.chnext h d a) s = execChnext h d a s := rfl
theorem exec_chhold (h : Hdr) (set : Bool) (a : GReg) (s : State) : exec (.chhold h set a) s = execChhold h set a s := rfl
theorem exec_chready (h : Hdr) (set : Bool) (a : GReg) (s : State) : exec (.chready h set a) s = execChready h set a s := rfl
theorem exec_chbind (h : Hdr) (hold ready : Bool) (a b : GReg) (s : State) : exec (.chbind h hold ready a b) s = execChbind h hold ready a b s := rfl
theorem exec_chbindUnbind (h : Hdr) (hold ready : Bool) (a : GReg) (s : State) : exec (.chbindUnbind h hold ready a) s = execChbindUnbind h hold ready a s := rfl
theorem exec_hire (h : Hdr) (o : HireO) (s : State) : exec (.hire h o) s = execHire h o s := rfl
theorem exec_hstat (h : Hdr) (d a : GReg) (s : State) : exec (.hstat h d a) s = execHstat h d a s := rfl
theorem exec_hdrop (h : Hdr) (d a : GReg) (s : State) : exec (.hdrop h d a) s = execHdrop h d a s := rfl
theorem exec_shpush (h : Hdr) (d : VReg) (base x : GReg) (s : State) : exec (.shpush h d base x) s = execShpush h d base x s := rfl
theorem exec_stc (h : Hdr) (o : StcO) (s : State) : exec (.stc h o) s = execStc h o s := rfl
theorem exec_stcm (h : Hdr) (o : StcmO) (s : State) : exec (.stcm h o) s = execStcm h o s := rfl
theorem exec_freeb (h : Hdr) (a : GReg) (tag : BitVec 8) (s : State) : exec (.freeb h a tag) s = execFreeb h a tag s := rfl
theorem exec_glean (h : Hdr) (e : Fin 8) (a : GReg) (bin : BReg) (s : State) : exec (.glean h e a bin) s = execGlean h e a bin s := rfl
theorem exec_wkick (h : Hdr) (d : GReg) (base : GReg) (disp : BitVec 39) (own : Bool) (s : State) : exec (.wkick h d base disp own) s = execWkick h d base disp own s := rfl
theorem exec_mcall (h : Hdr) (e : Fin 32) (a : GReg) (bin : BReg) (s : State) : exec (.mcall h e a bin) s = execMcall h e a bin s := rfl
theorem exec_spawn (h : Hdr) (d a b : GReg) (budget : BitVec 14) (s : State) : exec (.spawn h d a b budget) s = execSpawn h d a b budget s := rfl
theorem exec_reap (h : Hdr) (d a : GReg) (s : State) : exec (.reap h d a) s = execReap h d a s := rfl
theorem exec_exit (h : Hdr) (a : GReg) (s : State) : exec (.exit h a) s = execExit h a s := rfl
theorem exec_susp (h : Hdr) (tag : BitVec 8) (s : State) : exec (.susp h tag) s = execSusp h tag s := rfl
theorem exec_resume (h : Hdr) (a : GReg) (tag : BitVec 8) (s : State) : exec (.resume h a tag) s = execResume h a tag s := rfl
theorem exec_yield (h : Hdr) (s : State) : exec (.yield h) s = execYield h s := rfl
theorem exec_shoot (h : Hdr) (d a b : GReg) (s : State) : exec (.shoot h d a b) s = execShoot h d a b s := rfl
theorem exec_fairctlResume (h : Hdr) (d a : GReg) (floor : Bool) (s : State) : exec (.fairctlResume h d a floor) s = execFairctlResume h d a floor s := rfl
theorem exec_fairctlDrop (h : Hdr) (d a : GReg) (floor : Bool) (s : State) : exec (.fairctlDrop h d a floor) s = execFairctlDrop h d a floor s := rfl
theorem exec_fairctlStat (h : Hdr) (d : GReg) (floor : Bool) (s : State) : exec (.fairctlStat h d floor) s = execFairctlStat h d floor s := rfl
theorem exec_swapctlWindow (h : Hdr) (d b : GReg) (die : Fin 8) (s : State) : exec (.swapctlWindow h d b die) s = execSwapctlWindow h d b die s := rfl
theorem exec_swapctlTheta (h : Hdr) (d b : GReg) (die : Fin 8) (s : State) : exec (.swapctlTheta h d b die) s = execSwapctlTheta h d b die s := rfl
theorem exec_swapctlEnable (h : Hdr) (d b : GReg) (die : Fin 8) (s : State) : exec (.swapctlEnable h d b die) s = execSwapctlEnable h d b die s := rfl
theorem exec_swapctlRead (h : Hdr) (d : GReg) (die : Fin 8) (s : State) : exec (.swapctlRead h d die) s = execSwapctlRead h d die s := rfl
theorem exec_millEnd (m : Micro) (s : State) : exec (.millEnd m) s = execMillEnd m s := rfl
theorem exec_millBr (m : Micro) (s : State) : exec (.millBr m) s = execMillBr m s := rfl
theorem exec_millLi (m : Micro) (s : State) : exec (.millLi m) s = execMillLi m s := rfl
theorem exec_millAdd (m : Micro) (s : State) : exec (.millAdd m) s = execMillAdd m s := rfl
theorem exec_lfill (m : Micro) (s : State) : exec (.lfill m) s = execLfill m s := rfl
theorem exec_lcopy (m : Micro) (s : State) : exec (.lcopy m) s = execLcopy m s := rfl
theorem exec_lfma (m : Micro) (s : State) : exec (.lfma m) s = execLfma m s := rfl
theorem exec_lscal (m : Micro) (s : State) : exec (.lscal m) s = execLscal m s := rfl
theorem exec_lred (m : Micro) (s : State) : exec (.lred m) s = execLred m s := rfl
theorem exec_ltz (m : Micro) (s : State) : exec (.ltz m) s = execLtz m s := rfl
theorem exec_lzmk (m : Micro) (s : State) : exec (.lzmk m) s = execLzmk m s := rfl
theorem exec_stw (m : Micro) (s : State) : exec (.stw m) s = execStw m s := rfl
theorem exec_packetNop (p : Packet) (s : State) : exec (.packetNop p) s = execPacketNop p s := rfl
theorem exec_launch (p : Packet) (s : State) : exec (.launch p) s = execLaunch p s := rfl
theorem exec_copyPacket (p : Packet) (s : State) : exec (.copyPacket p) s = execCopyPacket p s := rfl
theorem exec_millPacket (p : Packet) (s : State) : exec (.millPacket p) s = execMillPacket p s := rfl
theorem exec_waitmem (p : Packet) (s : State) : exec (.waitmem p) s = execWaitmem p s := rfl
theorem exec_ib (p : Packet) (s : State) : exec (.ib p) s = execIb p s := rfl
theorem exec_loopPacket (p : Packet) (s : State) : exec (.loopPacket p) s = execLoopPacket p s := rfl
theorem exec_ffence (p : Packet) (s : State) : exec (.ffence p) s = execFfence p s := rfl
theorem exec_signal (p : Packet) (s : State) : exec (.signal p) s = execSignal p s := rfl
theorem exec_qconfig (f q : Nat) (base size vec : W64) (s : State) : exec (.qconfig f q base size vec) s = execQconfig f q base size vec s := rfl
theorem exec_qenable (f q : Nat) (s : State) : exec (.qenable f q) s = execQenable f q s := rfl
theorem exec_qdisable (f q : Nat) (s : State) : exec (.qdisable f q) s = execQdisable f q s := rfl
theorem exec_mrconfig (f : Nat) (base size vec : W64) (s : State) : exec (.mrconfig f base size vec) s = execMrconfig f base size vec s := rfl
theorem exec_irqroute (f vec : Nat) (addr : W64) (data : W64) (s : State) : exec (.irqroute f vec addr data) s = execIrqroute f vec addr data s := rfl
theorem exec_fbind (f : Nat) (set : W64) (s : State) : exec (.fbind f set) s = execFbind f set s := rfl
theorem exec_qpreempt (f q : Nat) (s : State) : exec (.qpreempt f q) s = execQpreempt f q s := rfl
theorem exec_qrestore (f q : Nat) (s : State) : exec (.qrestore f q) s = execQrestore f q s := rfl
theorem exec_ashoot (f : Nat) (va len : W64) (s : State) : exec (.ashoot f va len) s = execAshoot f va len s := rfl
theorem exec_lmRfetch (o : LmO) (s : State) : exec (.lmRfetch o) s = execLmRfetch o s := rfl
theorem exec_lmBext (o : LmO) (s : State) : exec (.lmBext o) s = execLmBext o s := rfl
theorem exec_lmSwait (d a : Fin 32) (s : State) : exec (.lmSwait d a) s = execLmSwait d a s := rfl
theorem exec_lmDisp (o : LmO) (s : State) : exec (.lmDisp o) s = execLmDisp o s := rfl
theorem exec_lmdoneRead (rd : Fin 32) (s : State) : exec (.lmdoneRead rd) s = execLmdoneRead rd s := rfl
theorem exec_registerWrite (w : RegWrite) (s : State) : exec (.registerWrite w) s = execRegisterWrite w s := rfl
theorem exec_apertureRead (f addr len : Nat) (s : State) : exec (.apertureRead f addr len) s = execApertureRead f addr len s := rfl
theorem exec_apertureWrite (f addr : Nat) (bytes : List Byte) (s : State) : exec (.apertureWrite f addr bytes) s = execApertureWrite f addr bytes s := rfl
theorem exec_hostAtomic (f addr : Nat) (expect new : W64) (s : State) : exec (.hostAtomic f addr expect new) s = execHostAtomic f addr expect new s := rfl
theorem exec_kickWrite (f off : Nat) (v : W64) (s : State) : exec (.kickWrite f off v) s = execKickWrite f off v s := rfl
theorem exec_millRingKick (f : Nat) (v : W64) (s : State) : exec (.millRingKick f v) s = execMillRingKick f v s := rfl
theorem exec_mailboxDoorbell (v : W64) (s : State) : exec (.mailboxDoorbell v) s = execMailboxDoorbell v s := rfl
theorem exec_lockInterface (f : Nat) (s : State) : exec (.lockInterface f) s = execLockInterface f s := rfl
theorem exec_startInterface (f : Nat) (s : State) : exec (.startInterface f) s = execStartInterface f s := rfl
theorem exec_stopInterface (f : Nat) (s : State) : exec (.stopInterface f) s = execStopInterface f s := rfl
theorem exec_getDeviceInterfaceState (f : Nat) (s : State) : exec (.getDeviceInterfaceState f) s = execGetDeviceInterfaceState f s := rfl
theorem exec_getDeviceInterfaceReport (f : Nat) (s : State) : exec (.getDeviceInterfaceReport f) s = execGetDeviceInterfaceReport f s := rfl
theorem exec_spdmMeasurementRequest (i : Nat) (s : State) : exec (.spdmMeasurementRequest i) s = execSpdmMeasurementRequest i s := rfl
theorem exec_tdispInterfaceError (f : Nat) (s : State) : exec (.tdispInterfaceError f) s = execTdispInterfaceError f s := rfl
theorem exec_ownerClaim (p : Port) (v : W64) (s : State) : exec (.ownerClaim p v) s = execOwnerClaim p v s := rfl
theorem exec_handoverRelease (p : Port) (s : State) : exec (.handoverRelease p) s = execHandoverRelease p s := rfl
theorem exec_handoverWithdraw (p : Port) (s : State) : exec (.handoverWithdraw p) s = execHandoverWithdraw p s := rfl
theorem exec_handoverOffer (p : Port) (target : Fin 4) (s : State) : exec (.handoverOffer p target) s = execHandoverOffer p target s := rfl
theorem exec_activate (p : Port) (v : W64) (s : State) : exec (.activate p v) s = execActivate p v s := rfl
theorem exec_logposWrite (p : Port) (v : W64) (s : State) : exec (.logposWrite p v) s = execLogposWrite p v s := rfl
theorem exec_plimitWrite (p : Port) (v : W64) (s : State) : exec (.plimitWrite p v) s = execPlimitWrite p v s := rfl
theorem exec_tlimitWrite (p : Port) (v : W64) (s : State) : exec (.tlimitWrite p v) s = execTlimitWrite p v s := rfl
theorem exec_throttle (watts : Nat) (temps : List Nat) (s : State) : exec (.throttle watts temps) s = execThrottle watts temps s := rfl
theorem exec_thermalTrip (temp : Nat) (s : State) : exec (.thermalTrip temp) s = execThermalTrip temp s := rfl
theorem exec_softError (e : SoftError) (s : State) : exec (.softError e) s = execSoftError e s := rfl
theorem exec_tenantCreate (x : SetSpec) (s : State) : exec (.tenantCreate x) s = execTenantCreate x s := rfl
theorem exec_tenantSetDeletion (set : Nat) (s : State) : exec (.tenantSetDeletion set) s = execTenantSetDeletion set s := rfl
theorem exec_stageCDone (trained : Nat) (floors : Nat) (failed0 failed1 : List Nat) (dwy : Bool) (s : State) : exec (.stageCDone trained floors failed0 failed1 dwy) s = execStageCDone trained floors failed0 failed1 dwy s := rfl
theorem exec_laneRepair (module lane : Nat) (ok : Bool) (s : State) : exec (.laneRepair module lane ok) s = execLaneRepair module lane ok s := rfl
theorem exec_runSeal (s : State) : exec (.runSeal) s = execRunSeal s := rfl
theorem exec_park (s : State) : exec (.park) s = execPark s := rfl
theorem exec_postedStoreAck (s : State) : exec (.postedStoreAck) s = execPostedStoreAck s := rfl
theorem exec_accessReply (s : State) : exec (.accessReply) s = execAccessReply s := rfl
theorem exec_faultAnswer (s : State) : exec (.faultAnswer) s = execFaultAnswer s := rfl
theorem exec_abortWaitEnd (s : State) : exec (.abortWaitEnd) s = execAbortWaitEnd s := rfl
theorem exec_landing (s : State) : exec (.landing) s = execLanding s := rfl
theorem exec_parkedWake (s : State) : exec (.parkedWake) s = execParkedWake s := rfl
theorem exec_eviction (s : State) : exec (.eviction) s = execEviction s := rfl
theorem exec_recordTake (s : State) : exec (.recordTake) s = execRecordTake s := rfl
theorem exec_launchSow (s : State) : exec (.launchSow) s = execLaunchSow s := rfl
theorem exec_homeStore (s : State) : exec (.homeStore) s = execHomeStore s := rfl
theorem exec_homeLoad (s : State) : exec (.homeLoad) s = execHomeLoad s := rfl
theorem exec_homeAtomic (s : State) : exec (.homeAtomic) s = execHomeAtomic s := rfl
theorem exec_barnFill (s : State) : exec (.barnFill) s = execBarnFill s := rfl
theorem exec_droveCombine (s : State) : exec (.droveCombine) s = execDroveCombine s := rfl
theorem exec_droveSplit (s : State) : exec (.droveSplit) s = execDroveSplit s := rfl
theorem exec_remoteCroftAccess (s : State) : exec (.remoteCroftAccess) s = execRemoteCroftAccess s := rfl
theorem exec_remoteFeRequest (s : State) : exec (.remoteFeRequest) s = execRemoteFeRequest s := rfl
theorem exec_feRetry (s : State) : exec (.feRetry) s = execFeRetry s := rfl
theorem exec_channelMessage (s : State) : exec (.channelMessage) s = execChannelMessage s := rfl
theorem exec_resumeArrival (s : State) : exec (.resumeArrival) s = execResumeArrival s := rfl
theorem exec_barrierArrival (s : State) : exec (.barrierArrival) s = execBarrierArrival s := rfl
theorem exec_podCollectiveAbort (s : State) : exec (.podCollectiveAbort) s = execPodCollectiveAbort s := rfl
theorem exec_cribAppend (s : State) : exec (.cribAppend) s = execCribAppend s := rfl
theorem exec_cribTake (s : State) : exec (.cribTake) s = execCribTake s := rfl
theorem exec_cribStat (s : State) : exec (.cribStat) s = execCribStat s := rfl
theorem exec_cribBind (s : State) : exec (.cribBind) s = execCribBind s := rfl
theorem exec_crtakeRetry (s : State) : exec (.crtakeRetry) s = execCrtakeRetry s := rfl
theorem exec_stcmDelivery (s : State) : exec (.stcmDelivery) s = execStcmDelivery s := rfl
theorem exec_multicastFree (s : State) : exec (.multicastFree) s = execMulticastFree s := rfl
theorem exec_fairRegister (s : State) : exec (.fairRegister) s = execFairRegister s := rfl
theorem exec_fairGrant (s : State) : exec (.fairGrant) s = execFairGrant s := rfl
theorem exec_sheafArrival (s : State) : exec (.sheafArrival) s = execSheafArrival s := rfl
theorem exec_lastSegment (s : State) : exec (.lastSegment) s = execLastSegment s := rfl
theorem exec_landingEngineGrant (s : State) : exec (.landingEngineGrant) s = execLandingEngineGrant s := rfl
theorem exec_landingFault (s : State) : exec (.landingFault) s = execLandingFault s := rfl
theorem exec_rickPreempt (s : State) : exec (.rickPreempt) s = execRickPreempt s := rfl
theorem exec_landingPacketIssue (s : State) : exec (.landingPacketIssue) s = execLandingPacketIssue s := rfl
theorem exec_translationWalk (s : State) : exec (.translationWalk) s = execTranslationWalk s := rfl
theorem exec_millCallAccept (s : State) : exec (.millCallAccept) s = execMillCallAccept s := rfl
theorem exec_routerPowerDown (s : State) : exec (.routerPowerDown) s = execRouterPowerDown s := rfl
theorem exec_routerWake (s : State) : exec (.routerWake) s = execRouterWake s := rfl
theorem exec_packetDrop (s : State) : exec (.packetDrop) s = execPacketDrop s := rfl
theorem exec_lossReport (s : State) : exec (.lossReport) s = execLossReport s := rfl
theorem exec_faultPacketReoffer (s : State) : exec (.faultPacketReoffer) s = execFaultPacketReoffer s := rfl
theorem exec_haywardPacketDelivery (s : State) : exec (.haywardPacketDelivery) s = execHaywardPacketDelivery s := rfl
theorem exec_swapWindowClose (s : State) : exec (.swapWindowClose) s = execSwapWindowClose s := rfl
theorem exec_swapStateCrossed (s : State) : exec (.swapStateCrossed) s = execSwapStateCrossed s := rfl
theorem exec_routersSwitched (s : State) : exec (.routersSwitched) s = execRoutersSwitched s := rfl
theorem exec_drainMarker (s : State) : exec (.drainMarker) s = execDrainMarker s := rfl
theorem exec_relocate (s : State) : exec (.relocate) s = execRelocate s := rfl
theorem exec_servicePeriodEnd (s : State) : exec (.servicePeriodEnd) s = execServicePeriodEnd s := rfl
theorem exec_borderQuiesced (s : State) : exec (.borderQuiesced) s = execBorderQuiesced s := rfl
theorem exec_borderRelocated (s : State) : exec (.borderRelocated) s = execBorderRelocated s := rfl
theorem exec_borderBanksEmpty (s : State) : exec (.borderBanksEmpty) s = execBorderBanksEmpty s := rfl
theorem exec_borderShootsDone (s : State) : exec (.borderShootsDone) s = execBorderShootsDone s := rfl
theorem exec_debugRelease (s : State) : exec (.debugRelease) s = execDebugRelease s := rfl
theorem exec_debugKill (s : State) : exec (.debugKill) s = execDebugKill s := rfl
theorem exec_debugFreeze (s : State) : exec (.debugFreeze) s = execDebugFreeze s := rfl
theorem exec_debugZeroCounts (s : State) : exec (.debugZeroCounts) s = execDebugZeroCounts s := rfl
theorem exec_debugEvict (s : State) : exec (.debugEvict) s = execDebugEvict s := rfl
theorem exec_queueSaveWrite (s : State) : exec (.queueSaveWrite) s = execQueueSaveWrite s := rfl
theorem exec_pollTick (s : State) : exec (.pollTick) s = execPollTick s := rfl
theorem exec_watchdogExpiry (s : State) : exec (.watchdogExpiry) s = execWatchdogExpiry s := rfl
theorem exec_powerGood (s : State) : exec (.powerGood) s = execPowerGood s := rfl
theorem exec_stageADone (s : State) : exec (.stageADone) s = execStageADone s := rfl
theorem exec_stageBDone (s : State) : exec (.stageBDone) s = execStageBDone s := rfl
theorem exec_powerLoss (s : State) : exec (.powerLoss) s = execPowerLoss s := rfl

end Sys2Proof.Machine
end

