-- ==== Sys2Proof/Laws/Freeze.lean ====
section
/-! SUPPORT. Freezing a context, the exception of this machine: what it changes, and the delivery of its packet. -/

namespace Sys2Proof.Machine

variable (s : State)

/-! ## Reports -/

@[simp] theorem setChan_crofts (t c : Nat) (k : Chan) : (setChan s t c k).crofts = s.crofts := rfl
@[simp] theorem pushReport_crofts (t c : Nat) (r : Report) : (pushReport s t c r).crofts = s.crofts := rfl
@[simp] theorem pushReport_mem (t c : Nat) (r : Report) : (pushReport s t c r).mem = s.mem := rfl
@[simp] theorem pushReport_cur (t c : Nat) (r : Report) : (pushReport s t c r).cur = s.cur := rfl

theorem tenAt_mem_setTen (t n : Nat) (k : Tenant) (h : k.mem = (tenAt s t).mem) :
    (tenAt (setTen s t k) n).mem = (tenAt s n).mem := by
  by_cases e : n = t
  · subst e; simpa using h
  · rw [tenAt_setTen_ne s k e]

theorem pushReport_croftMem (t c n : Nat) (r : Report) : (tenAt (pushReport s t c r) n).mem = (tenAt s n).mem :=
  tenAt_mem_setTen s t n _ rfl

theorem queueReport_eq (a : Nat) (r : Report) : ∃ x, queueReport s a r = { s with reports := x } := by
  simp only [queueReport]
  split <;> exact ⟨_, rfl⟩

theorem takeLost_eq (b a : Nat) : ∃ y, takeLost s b a = { s with sets := y } := by
  simp only [takeLost]
  split
  · exact ⟨s.sets, rfl⟩
  · exact ⟨_, rfl⟩

/-- The hayward holds a packet, or counts it: only the sets' own records change. -/
theorem holdReport_eq (b a : Nat) (r : Report) : ∃ y, holdReport s b a r = { s with sets := y } := by
  obtain ⟨y, h⟩ := takeLost_eq s b a
  simp only [holdReport, h]
  split <;> exact ⟨_, rfl⟩

theorem sendReport_eq (b a t c : Nat) (r : Report) :
    ∃ y r', sendReport s b a t c r = pushReport { s with sets := y } t c r' := by
  obtain ⟨y, h⟩ := takeLost_eq s b a
  exact ⟨y, _, by rw [sendReport, h]⟩

/-- A report touches the packets an agent or the hayward holds, or the queue of the route's channel: nothing else. -/
theorem report_cases (b a : Nat) (byStew : Bool) (r : Report) :
    (∃ y x, report s b a byStew r = { s with sets := y, reports := x }) ∨
    (∃ t c r' y x, report s b a byStew r = { pushReport { s with sets := y } t c r' with reports := x }) := by
  simp only [report]
  split
  · obtain ⟨x, h⟩ := queueReport_eq s a r
    exact .inl ⟨s.sets, x, h⟩
  · split
    · obtain ⟨y, h⟩ := holdReport_eq s b a (withLost r (sread ([], 0) s.reports a).2)
      exact .inl ⟨y, _, by rw [h]⟩
    · split
      · rename_i t c _
        obtain ⟨y, r', h⟩ := sendReport_eq s b a t c (withLost r (sread ([], 0) s.reports a).2)
        exact .inr ⟨t, c, r', y, _, by rw [h]⟩
      · obtain ⟨x, h⟩ := queueReport_eq s a r
        exact .inl ⟨s.sets, x, h⟩

@[simp] theorem report_crofts (b a : Nat) (y : Bool) (r : Report) : (report s b a y r).crofts = s.crofts := by
  rcases report_cases s b a y r with ⟨y, x, h⟩ | ⟨t, c, r', y, x, h⟩ <;> rw [h] <;> rfl
@[simp] theorem report_mem (b a : Nat) (y : Bool) (r : Report) : (report s b a y r).mem = s.mem := by
  rcases report_cases s b a y r with ⟨y, x, h⟩ | ⟨t, c, r', y, x, h⟩ <;> rw [h] <;> rfl
@[simp] theorem report_cur (b a : Nat) (y : Bool) (r : Report) : (report s b a y r).cur = s.cur := by
  rcases report_cases s b a y r with ⟨y, x, h⟩ | ⟨t, c, r', y, x, h⟩ <;> rw [h] <;> rfl
theorem report_croftMem (b a : Nat) (y : Bool) (r : Report) (n : Nat) :
    (tenAt (report s b a y r) n).mem = (tenAt s n).mem := by
  rcases report_cases s b a y r with ⟨y, x, h⟩ | ⟨t, c, r', y, x, h⟩ <;> rw [h]
  · rfl
  · exact pushReport_croftMem { s with sets := y } t c n r'

/-! ## Freezing -/

theorem ctxAt_report (b a : Nat) (y : Bool) (r : Report) (c i : Nat) : ctxAt (report s b a y r) c i = ctxAt s c i := by
  simp [ctxAt, croftAt]

theorem froze_raiseAs (t : Turn) (code aux addr : Nat) : Froze s (raiseAs t code aux addr s) t (baseSlot s) := by
  have hc : ∀ c i, ctxAt (freezeAt s s.cur.1 s.cur.2 code (thisSlot s) (baseSlot s) aux addr) c i =
      ctxAt (updCtx s s.cur.1 s.cur.2 fun k =>
        { k with mode := .frozen, pc := baseSlot s, stage := .open, sub := 0, await := none, fetched := none, wins := none }) c i := by
    intro c i; simp only [freezeAt, faultReport]; rw [ctxAt_report]
  have hcur : (freezeAt s s.cur.1 s.cur.2 code (thisSlot s) (baseSlot s) aux addr).cur = s.cur := by
    simp [freezeAt, faultReport]
  constructor
  · simp only [raiseAs, me_updMe]
    simp only [me, hcur, hc, updCtx, ctxAt_setCtx_self]
  · intro c h
    simp only [raiseAs, updMe, setMe, setCtx, hcur]
    rw [croftAt_setCroft_ne _ _ h]
    simp only [freezeAt, faultReport, croftAt, report_crofts]
    exact croftAt_setCroft_ne s _ h
  · intro i h
    simp only [raiseAs, updMe, setMe, hcur]
    rw [ctxAt_setCtx_ne _ _ (Or.inr h), hc]
    exact ctxAt_setCtx_ne s _ (Or.inr h)
  · simp [raiseAs, freezeAt, faultReport]
  · intro n
    show (tenAt (freezeAt s s.cur.1 s.cur.2 code (thisSlot s) (baseSlot s) aux addr) n).mem = _
    simp only [freezeAt, faultReport]
    rw [report_croftMem]; rfl
  · simp [raiseAs, hcur]

/-- An operand fault freezes the acting context at the slot it issues (R69, R373). -/
theorem froze_raiseOp (code aux addr : Nat) : Froze s (raiseOp code aux addr s) .operandFault (baseSlot s) :=
  froze_raiseAs s _ _ _ _
/-- A decode fault likewise. -/
theorem froze_raiseDec (code : Nat) : Froze s (raiseDec code s) .decodeFault (baseSlot s) := froze_raiseAs s _ _ _ _

/-- A context that waits in no SHOOT, HIRE or drop has nothing to give back when it is killed (R380, R381). -/
theorem abandon_idle {s : State} {c i : Nat} (h : (ctxAt s c i).sub < subShoot 0) : abandon s c i = s := by
  have a : ¬ subShoot 0 ≤ (ctxAt s c i).sub := Nat.not_le.mpr h
  have b : ¬ subHire 0 ≤ (ctxAt s c i).sub := fun h => a (Nat.le_trans (by decide) h)
  simp only [abandon, a, b, decide_false, Bool.false_and, Bool.false_eq_true, if_false]
/-- One that has reserved ring entry e gives back that entry alone (R199). -/
theorem abandon_hire {s : State} {c i e : Nat} (h : (ctxAt s c i).sub = subHire e) (k : e < 16) :
    abandon s c i = updTen s ((croftAt s c).tenant.getD 0) fun x => { x with ring := x.ring.filter fun y => y != e } := by
  have a : subHire 0 ≤ subHire e := by simp [subHire]
  have b : subHire e < subDrop 0 := by simp only [subHire, subDrop]; omega
  simp only [abandon, h, a, b, decide_true, Bool.and_self, if_true]
  simp [subHire]

end Sys2Proof.Machine
end

