-- ==== Sys2Proof/Laws/PerInstr.lean ====
section
/-! SUPPORT. Lemmas made per instruction: the word of a well-formed instruction fits its slot (R61, R73). -/

namespace Sys2Proof.Laws.EncodingFits

/-- The word of an instruction fits a 96-bit slot. -/
def Statement (i : Instr) : Prop := wf i = true → ∀ w, encode i = some w → w < 2 ^ 96

theorem nop : Statement .nop := fun _ _ e => Option.some.inj e ▸ by decide
theorem brk (h : Hdr) (c : W32) : Statement (.brk h c) := fun _ _ e => encS_lt e (by simp)
theorem trap (h : Hdr) (c : W32) : Statement (.trap h c) := fun _ _ e => encS_lt e (by simp)
theorem add (h : Hdr) (o : Alu) : Statement (.add h o) := fun _ _ e => encA_lt e (by simp)
theorem sub (h : Hdr) (o : Alu) : Statement (.sub h o) := fun _ _ e => encA_lt e (by simp)
theorem mul (h : Hdr) (o : Alu) : Statement (.mul h o) := fun _ _ e => encA_lt e (by simp)
theorem mulh (h : Hdr) (o : Alu) : Statement (.mulh h o) := fun _ _ e => encA_lt e (by simp)
theorem mulhn (h : Hdr) (o : Alu) : Statement (.mulhn h o) := fun _ _ e => encA_lt e (by simp)
theorem div (h : Hdr) (o : Alu) : Statement (.div h o) := fun _ _ e => encA_lt e (by simp)
theorem divn (h : Hdr) (o : Alu) : Statement (.divn h o) := fun _ _ e => encA_lt e (by simp)
theorem rem (h : Hdr) (o : Alu) : Statement (.rem h o) := fun _ _ e => encA_lt e (by simp)
theorem remn (h : Hdr) (o : Alu) : Statement (.remn h o) := fun _ _ e => encA_lt e (by simp)
theorem and (h : Hdr) (o : Alu) : Statement (.and h o) := fun _ _ e => encA_lt e (by simp)
theorem or (h : Hdr) (o : Alu) : Statement (.or h o) := fun _ _ e => encA_lt e (by simp)
theorem xor (h : Hdr) (o : Alu) : Statement (.xor h o) := fun _ _ e => encA_lt e (by simp)
theorem andn (h : Hdr) (o : Alu) : Statement (.andn h o) := fun _ _ e => encA_lt e (by simp)
theorem shl (h : Hdr) (o : Alu) : Statement (.shl h o) := fun _ _ e => encA_lt e (by simp)
theorem shr (h : Hdr) (o : Alu) : Statement (.shr h o) := fun _ _ e => encA_lt e (by simp)
theorem sha (h : Hdr) (o : Alu) : Statement (.sha h o) := fun _ _ e => encA_lt e (by simp)
theorem rol (h : Hdr) (o : Alu) : Statement (.rol h o) := fun _ _ e => encA_lt e (by simp)
theorem min (h : Hdr) (o : Alu) : Statement (.min h o) := fun _ _ e => encA_lt e (by simp)
theorem max (h : Hdr) (o : Alu) : Statement (.max h o) := fun _ _ e => encA_lt e (by simp)
theorem minn (h : Hdr) (o : Alu) : Statement (.minn h o) := fun _ _ e => encA_lt e (by simp)
theorem maxn (h : Hdr) (o : Alu) : Statement (.maxn h o) := fun _ _ e => encA_lt e (by simp)
theorem abs (h : Hdr) (o : AluU) : Statement (.abs h o) := fun _ _ e => encA_lt e (by simp)
theorem cmpp (h : Hdr) (o : CmpP) : Statement (.cmpp h o) := fun _ _ e => encA_lt e (by simp)
theorem setc (h : Hdr) (o : CmpG) : Statement (.setc h o) := fun _ _ e => encA_lt e (by simp)
theorem clz (h : Hdr) (o : BitU) : Statement (.clz h o) := fun _ _ e => encA_lt e (by simp)
theorem ctz (h : Hdr) (o : BitU) : Statement (.ctz h o) := fun _ _ e => encA_lt e (by simp)
theorem popc (h : Hdr) (o : BitU) : Statement (.popc h o) := fun _ _ e => encA_lt e (by simp)
theorem brev (h : Hdr) (o : BitU) : Statement (.brev h o) := fun _ _ e => encA_lt e (by simp)
theorem bswap (h : Hdr) (o : BitU) : Statement (.bswap h o) := fun _ _ e => encA_lt e (by simp)
theorem bfx (h : Hdr) (d a : GReg) (b : Src) : Statement (.bfx h d a b) := fun _ _ e => encA_lt e (by simp)
theorem bfxn (h : Hdr) (d a : GReg) (b : Src) : Statement (.bfxn h d a b) := fun _ _ e => encA_lt e (by simp)
theorem bfi (h : Hdr) (d a : GReg) (b : Src) (c : GReg) : Statement (.bfi h d a b c) := fun _ _ e => encA_lt e (by simp)
theorem sel (h : Hdr) (d a : GReg) (b : Src) (c : PReg) : Statement (.sel h d a b c) := fun _ _ e => encA_lt e (by simp)
theorem mov (h : Hdr) (d a : GReg) : Statement (.mov h d a) := fun _ _ e => encA_lt e (by simp)
theorem li (h : Hdr) (d : GReg) (i : W32) : Statement (.li h d i) := fun _ _ e => encA_lt e (by simp)
theorem lih (h : Hdr) (d : GReg) (i : W32) : Statement (.lih h d i) := fun _ _ e => encA_lt e (by simp)
theorem mfs (h : Hdr) (d : GReg) (n : Fin 32) : Statement (.mfs h d n) := fun _ _ e => encA_lt e (by simp; omega)
theorem mts (h : Hdr) (n : Fin 32) (a : GReg) : Statement (.mts h n a) := fun _ _ e => encA_lt e (by simp; omega)
theorem mfb (h : Hdr) (d : GReg) (a : BReg) : Statement (.mfb h d a) := fun _ _ e => encA_lt e (by simp)
theorem mtb (h : Hdr) (d : BReg) (b : Src) : Statement (.mtb h d b) := fun _ _ e => encA_lt e (by simp)
theorem mfp (h : Hdr) (hi : Bool) (d : GReg) (a : PReg) : Statement (.mfp h hi d a) := fun _ _ e => encA_lt e (by simp)
theorem mtp (h : Hdr) (hi : Bool) (d : PReg) (a : GReg) : Statement (.mtp h hi d a) := fun _ _ e => encA_lt e (by simp)
theorem lea (h : Hdr) (d b : GReg) (i : GReg) (xs : Fin 4) (ds : BitVec 39) : Statement (.lea h d b i xs ds) :=
  fun _ w e => encM_lt (show encM 0x14 0 h 0 (gC d) (gC b) (gC i) xs.val 3 0 0 0 ds.toNat = some w from e) (by simp)
theorem br (h : Hdr) (ds : BitVec 50) : Statement (.br h ds) := fun _ _ e => encJ_lt e (by simp)
theorem bc (h : Hdr) (c : Cond) (a : GReg) (ds : BitVec 50) : Statement (.bc h c a ds) := fun _ _ e => encJ_lt e (by simp)
theorem bcmp (h : Hdr) (o : JCond) : Statement (.bcmp h o) := fun _ _ e => encJ_lt e (by simp)
theorem loop (h : Hdr) (a : GReg) (ds : BitVec 50) : Statement (.loop h a ds) := fun _ _ e => encJ_lt e (by simp)
theorem call (h : Hdr) (b : GReg) (ds : BitVec 50) : Statement (.call h b ds) := fun _ _ e => encJ_lt e (by simp)
theorem jmp (h : Hdr) (a : GReg) : Statement (.jmp h a) := fun _ _ e => encJ_lt e (by simp)
theorem jmpl (h : Hdr) (a b : GReg) : Statement (.jmpl h a b) := fun _ _ e => encJ_lt e (by simp)
theorem ret (h : Hdr) (a : GReg) : Statement (.ret h a) := fun _ _ e => encJ_lt e (by simp)
theorem vadd (h : Hdr) (o : VBin) : Statement (.vadd h o) := fun _ _ e => encA_lt e (by simp)
theorem vsub (h : Hdr) (o : VBin) : Statement (.vsub h o) := fun _ _ e => encA_lt e (by simp)
theorem vmul (h : Hdr) (o : VBin) : Statement (.vmul h o) := fun _ _ e => encA_lt e (by simp)
theorem vfma (h : Hdr) (o : VTri) : Statement (.vfma h o) := fun _ _ e => encA_lt e (by simp)
theorem vfms (h : Hdr) (o : VTri) : Statement (.vfms h o) := fun _ _ e => encA_lt e (by simp)
theorem vfnma (h : Hdr) (o : VTri) : Statement (.vfnma h o) := fun _ _ e => encA_lt e (by simp)
theorem vdiv (h : Hdr) (o : VBin) : Statement (.vdiv h o) := fun _ _ e => encA_lt e (by simp)
theorem vsqrt (h : Hdr) (o : VUn) : Statement (.vsqrt h o) := fun _ _ e => encA_lt e (by simp)
theorem vrcp (h : Hdr) (o : VUn) : Statement (.vrcp h o) := fun _ _ e => encA_lt e (by simp)
theorem vrsq (h : Hdr) (o : VUn) : Statement (.vrsq h o) := fun _ _ e => encA_lt e (by simp)
theorem vmin (h : Hdr) (o : VBin) : Statement (.vmin h o) := fun _ _ e => encA_lt e (by simp)
theorem vmax (h : Hdr) (o : VBin) : Statement (.vmax h o) := fun _ _ e => encA_lt e (by simp)
theorem vabs (h : Hdr) (o : VUn) : Statement (.vabs h o) := fun _ _ e => encA_lt e (by simp)
theorem vneg (h : Hdr) (o : VUn) : Statement (.vneg h o) := fun _ _ e => encA_lt e (by simp)
theorem vmulh (h : Hdr) (o : VBin) : Statement (.vmulh h o) := fun _ _ e => encA_lt e (by simp)
theorem vadds (h : Hdr) (o : VBin) : Statement (.vadds h o) := fun _ _ e => encA_lt e (by simp)
theorem vsubs (h : Hdr) (o : VBin) : Statement (.vsubs h o) := fun _ _ e => encA_lt e (by simp)
theorem vand (h : Hdr) (o : VBin) : Statement (.vand h o) := fun _ _ e => encA_lt e (by simp)
theorem vor (h : Hdr) (o : VBin) : Statement (.vor h o) := fun _ _ e => encA_lt e (by simp)
theorem vxor (h : Hdr) (o : VBin) : Statement (.vxor h o) := fun _ _ e => encA_lt e (by simp)
theorem vandn (h : Hdr) (o : VBin) : Statement (.vandn h o) := fun _ _ e => encA_lt e (by simp)
theorem vshl (h : Hdr) (o : VBin) : Statement (.vshl h o) := fun _ _ e => encA_lt e (by simp)
theorem vshr (h : Hdr) (o : VBin) : Statement (.vshr h o) := fun _ _ e => encA_lt e (by simp)
theorem vsha (h : Hdr) (o : VBin) : Statement (.vsha h o) := fun _ _ e => encA_lt e (by simp)
theorem vcmp (h : Hdr) (o : VCmp) : Statement (.vcmp h o) := fun _ _ e => encA_lt e (by simp)
theorem vsel (h : Hdr) (o : VSelO) : Statement (.vsel h o) := fun _ _ e => encA_lt e (by simp)
theorem pand (h : Hdr) (o : PBin) : Statement (.pand h o) := fun _ _ e => encA_lt e (by simp)
theorem por (h : Hdr) (o : PBin) : Statement (.por h o) := fun _ _ e => encA_lt e (by simp)
theorem pxor (h : Hdr) (o : PBin) : Statement (.pxor h o) := fun _ _ e => encA_lt e (by simp)
theorem pnot (h : Hdr) (d a : PReg) : Statement (.pnot h d a) := fun _ _ e => encA_lt e (by simp)
theorem vcnt (h : Hdr) (o : VCount) : Statement (.vcnt h o) := fun _ _ e => encA_lt e (by simp)
theorem vfirst (h : Hdr) (o : VCount) : Statement (.vfirst h o) := fun _ _ e => encA_lt e (by simp)
theorem vpermb (h : Hdr) (d a : VReg) (b : VSrc) : Statement (.vpermb h d a b) := fun _ _ e => encA_lt e (by simp)
theorem vperm (h : Hdr) (o : VPermO) : Statement (.vperm h o) := fun _ _ e => encA_lt e (by simp)
theorem vshuf (h : Hdr) (m : Fin 4) (o : VPermO) : Statement (.vshuf h m o) := fun _ _ e => encA_lt e (by simp; omega)
theorem vbcast (h : Hdr) (o : VFromG) : Statement (.vbcast h o) := fun _ _ e => encA_lt e (by simp)
theorem vext (h : Hdr) (o : VExtO) : Statement (.vext h o) := fun _ _ e => encA_lt e (by simp)
theorem vins (h : Hdr) (o : VInsO) : Statement (.vins h o) := fun _ _ e => encA_lt e (by simp)
theorem vidx (h : Hdr) (o : VFromG) : Statement (.vidx h o) := fun _ _ e => encA_lt e (by simp)
theorem vmov (h : Hdr) (o : VUn) : Statement (.vmov h o) := fun _ _ e => encA_lt e (by simp)
theorem vslide (h : Hdr) (o : VPermO) (c : GReg) : Statement (.vslide h o c) := fun _ _ e => encA_lt e (by simp)
theorem vred (h : Hdr) (op : RedOp) (t : ElemType) (d : GReg) (a : VReg) (c : PReg) : Statement (.vred h op t d a c) :=
  fun _ _ e => encA_lt e (by simp)
theorem vscan (h : Hdr) (op : RedOp) (t : ElemType) (d a : VReg) (c : PReg) : Statement (.vscan h op t d a c) :=
  fun _ _ e => encA_lt e (by simp)
theorem vdot4 (h : Hdr) (u su : Bool) (d a : VReg) (b : VSrc) (c : VReg) : Statement (.vdot4 h u su d a b c) :=
  fun _ _ e => encA_lt e (by simp)
theorem vxaccClr (h : Hdr) (d : VReg) : Statement (.vxaccClr h d) := fun _ _ e => encA_lt e (by simp)
theorem vxaccAdd (h : Hdr) (d a : VReg) (b : VSrc) : Statement (.vxaccAdd h d a b) := fun _ _ e => encA_lt e (by simp)
theorem vxaccRd (h : Hdr) (t : ElemType) (d a : VReg) : Statement (.vxaccRd h t d a) := fun _ _ e => encA_lt e (by simp)
theorem vcvt (h : Hdr) (o : VCvtO) : Statement (.vcvt h o) := fun _ _ e => vcvt_lt h o e
theorem ld (h : Hdr) (o : LdO) : Statement (.ld h o) :=
  fun _ w e => encAddr_lt (show encAddr 0x30 0 h (gC o.d) o.a none o.size.val o.na.toNat = some w from e) (by simp; omega)
theorem st (h : Hdr) (o : StO) : Statement (.st h o) :=
  fun _ w e => encAddr_lt (show encAddr 0x30 1 h (gC o.d) o.a o.em o.size.val 0 = some w from e) (by simp; omega)
theorem ldq (h : Hdr) (o : LdqO) : Statement (.ldq h o) :=
  fun _ w e => encAddr_lt (show encAddr 0x30 2 h (gC o.d) o.a none 7 o.na.toNat = some w from e) (by simp)
theorem stq (h : Hdr) (o : StqO) : Statement (.stq h o) :=
  fun _ w e => encAddr_lt (show encAddr 0x30 3 h (gC o.d) o.a o.em 7 0 = some w from e) (by simp)
theorem ldv (h : Hdr) (o : LdvO) : Statement (.ldv h o) :=
  fun _ w e => encAddr_lt (show encAddr 0x31 0 h (vC o.d) o.a none o.size.code o.na.toNat = some w from e) (by simp)
theorem stv (h : Hdr) (o : StvO) : Statement (.stv h o) :=
  fun _ w e => encAddr_lt (show encAddr 0x31 1 h (vC o.d) o.a o.em o.size.code 0 = some w from e) (by simp)
theorem ldvs (h : Hdr) (o : VsO) : Statement (.ldvs h o) :=
  fun _ w e => encAddr_lt (show encAddr 0x31 2 h (vC o.d) o.a none o.size.code o.na.toNat = some w from e) (by simp)
theorem stvs (h : Hdr) (o : VsO) : Statement (.stvs h o) :=
  fun _ w e => encAddr_lt (show encAddr 0x31 3 h (vC o.d) o.a none o.size.code o.na.toNat = some w from e) (by simp)
theorem gath (h : Hdr) (o : GsO) : Statement (.gath h o) :=
  fun _ w e => encM_lt (show encM 0x31 4 h 0 (vC o.d) (gC o.base) (vC o.x) o.xs.val o.size.code o.space.code 0 o.na.toNat o.disp.toNat = some w from e)
    (by simp)
theorem scat (h : Hdr) (o : GsO) : Statement (.scat h o) :=
  fun _ w e => encM_lt (show encM 0x31 5 h 0 (vC o.d) (gC o.base) (vC o.x) o.xs.val o.size.code o.space.code 0 o.na.toNat o.disp.toNat = some w from e)
    (by simp)
theorem ldfe (h : Hdr) (k : Bool) (o : GAddr) : Statement (.ldfe h k o) :=
  fun _ w e => encAddr_lt (show encAddr 0x32 0 h (gC o.d) o.a none 3 k.toNat = some w from e) (by simp)
theorem stfe (h : Hdr) (k : Bool) (o : GAddr) : Statement (.stfe h k o) :=
  fun _ w e => encAddr_lt (show encAddr 0x32 1 h (gC o.d) o.a none 3 k.toNat = some w from e) (by simp)
theorem festat (h : Hdr) (o : GAddr) : Statement (.festat h o) :=
  fun _ w e => encAddr_lt (show encAddr 0x32 2 h (gC o.d) o.a none 3 0 = some w from e) (by simp)
theorem setmark (h : Hdr) (o : GAddr) : Statement (.setmark h o) :=
  fun _ w e => encAddr_lt (show encAddr 0x33 0 h (gC o.d) o.a none 3 0 = some w from e) (by simp)
theorem getmark (h : Hdr) (o : GAddr) : Statement (.getmark h o) :=
  fun _ w e => encAddr_lt (show encAddr 0x33 1 h (gC o.d) o.a none 3 0 = some w from e) (by simp)
theorem pref (h : Hdr) (na : Bool) (a : Addr) : Statement (.pref h na a) :=
  fun _ w e => encAddr_lt (show encAddr 0x33 2 h 0 a none 3 na.toNat = some w from e) (by simp)
theorem invl (h : Hdr) (i : Bool) (a : Addr) : Statement (.invl h i a) :=
  fun _ w e => encAddr_lt (show encAddr 0x33 3 h 0 a none i.toNat 0 = some w from e) (by simp)
theorem fence (h : Hdr) (k : FenceKind) (s : Scope) : Statement (.fence h k s) := fun _ _ e => encS_lt e (by simp)
theorem drain (h : Hdr) (m : Fin 8) : Statement (.drain h m) := fun _ _ e => encS_lt e (by simp; omega)
theorem amo (h : Hdr) (o : AmoO) : Statement (.amo h o) :=
  fun _ w e => encAtom_lt (show encAtom 0x38 0 h o.ord (gC o.d) (gC o.base) (gC o.x) 0 o.size.code o.nr.toNat o.op.code 0 o.disp.toNat = some w from e)
    (by simp)
theorem amof (h : Hdr) (o : AmofO) : Statement (.amof h o) :=
  fun _ w e => encAtom_lt (show encAtom 0x39 0 h o.ord (gC o.d) (gC o.base) (gC o.x) 0 o.size.code.1 o.nr.toNat o.op.code o.size.code.2 o.disp.toNat = some w from e)
    (by simp)
theorem cas (h : Hdr) (o : CasO) : Statement (.cas h o) :=
  fun _ w e => encAtom_lt (show encAtom 0x3A 0 h o.ord (gC o.d) (gC o.base) (gC o.x) 0 o.size.code 0 0 0 o.disp.toNat = some w from e)
    (by simp)
theorem cas2 (h : Hdr) (o : Cas2O) : Statement (.cas2 h o) :=
  fun _ w e => encAtom_lt (show encAtom 0x3A 1 h o.ord (gC o.d) (gC o.base) (gC o.x) 0 7 0 0 0 o.disp.toNat = some w from e)
    (by simp)
theorem vamo (h : Hdr) (o : VamoO) : Statement (.vamo h o) := fun _ _ e => vamo_lt h o e
theorem waitb (h : Hdr) (a : BReg) (b : Src) : Statement (.waitb h a b) := fun _ _ e => encS_lt e (by simp)
theorem bar (h : Hdr) (s : Scope) (i : Fin 16) (d : GReg) (b : Src) : Statement (.bar h s i d b) :=
  fun _ _ e => encS_lt e (by simp; omega)
theorem bara (h : Hdr) (s : Scope) (id : Fin 16) (bin : Option BReg) (b : Src) : Statement (.bara h s id bin b) :=
  fun _ _ e => bara_lt h s id bin b e
theorem barw (h : Hdr) (s : Scope) (i : Fin 16) (d : GReg) : Statement (.barw h s i d) :=
  fun _ _ e => encS_lt e (by simp; omega)
theorem cradd (h : Hdr) (a : GReg) (b : VReg) : Statement (.cradd h a b) := fun _ _ e => encS_lt e (by simp)
theorem crtake (h : Hdr) (d : VReg) (a : GReg) : Statement (.crtake h d a) := fun _ _ e => encS_lt e (by simp)
theorem crtry (h : Hdr) (d : VReg) (a : GReg) (b : PReg) : Statement (.crtry h d a b) := fun _ _ e => encS_lt e (by simp)
theorem crstat (h : Hdr) (d a : GReg) : Statement (.crstat h d a) := fun _ _ e => encS_lt e (by simp)
theorem crinit (h : Hdr) (a b : GReg) (s : Fin 16777216) : Statement (.crinit h a b s) :=
  fun _ _ e => encS_lt e (by simp; omega)
theorem crinitUnbind (h : Hdr) (a : GReg) : Statement (.crinitUnbind h a) := fun _ _ e => encS_lt e (by simp)
theorem chsend (h : Hdr) (a b : GReg) : Statement (.chsend h a b) := fun _ _ e => encS_lt e (by simp)
theorem chnext (h : Hdr) (d a : GReg) : Statement (.chnext h d a) := fun _ _ e => encS_lt e (by simp)
theorem chhold (h : Hdr) (s : Bool) (a : GReg) : Statement (.chhold h s a) := fun _ _ e => encS_lt e (by simp)
theorem chready (h : Hdr) (s : Bool) (a : GReg) : Statement (.chready h s a) := fun _ _ e => encS_lt e (by simp)
theorem chbind (h : Hdr) (hd y : Bool) (a b : GReg) : Statement (.chbind h hd y a b) := fun _ _ e => encS_lt e (by simp)
theorem chbindUnbind (h : Hdr) (hd y : Bool) (a : GReg) : Statement (.chbindUnbind h hd y a) :=
  fun _ _ e => encS_lt e (by simp)
theorem hire (h : Hdr) (o : HireO) : Statement (.hire h o) := fun _ _ e => hire_lt h o e
theorem hstat (h : Hdr) (d a : GReg) : Statement (.hstat h d a) := fun _ _ e => encS_lt e (by simp)
theorem hdrop (h : Hdr) (d a : GReg) : Statement (.hdrop h d a) := fun _ _ e => encS_lt e (by simp)
theorem shpush (h : Hdr) (d : VReg) (b x : GReg) : Statement (.shpush h d b x) :=
  fun _ w e => encM_lt (show encM 0x51 0 h 0 (vC d) (gC b) (gC x) 0 8 0 0 0 0 = some w from e) (by simp)
theorem stc (h : Hdr) (o : StcO) : Statement (.stc h o) := fun _ _ e => stc_lt h o e
theorem stcm (h : Hdr) (o : StcmO) : Statement (.stcm h o) := fun _ _ e => stcm_lt h o e
theorem freeb (h : Hdr) (a : GReg) (t : BitVec 8) : Statement (.freeb h a t) := fun _ _ e => encS_lt e (by simp)
theorem glean (h : Hdr) (e : Fin 8) (a : GReg) (bin : BReg) : Statement (.glean h e a bin) :=
  fun _ _ e => encS_lt e (by simp; omega)
theorem wkick (h : Hdr) (d b : GReg) (ds : BitVec 39) (own : Bool) : Statement (.wkick h d b ds own) :=
  fun _ w e => encM_lt (show encM 0x51 5 h 0 (gC d) (gC b) 0 0 3 own.toNat 0 0 ds.toNat = some w from e) (by simp)
theorem mcall (h : Hdr) (e : Fin 32) (a : GReg) (bin : BReg) : Statement (.mcall h e a bin) :=
  fun _ _ e => encS_lt e (by simp; omega)
theorem spawn (h : Hdr) (d a : GReg) (b : GReg) (bud : BitVec 14) : Statement (.spawn h d a b bud) :=
  fun _ _ e => encS_lt e (by simp)
theorem reap (h : Hdr) (d a : GReg) : Statement (.reap h d a) := fun _ _ e => encS_lt e (by simp)
theorem exit (h : Hdr) (a : GReg) : Statement (.exit h a) := fun _ _ e => encS_lt e (by simp)
theorem susp (h : Hdr) (t : BitVec 8) : Statement (.susp h t) := fun _ _ e => encS_lt e (by simp)
theorem resume (h : Hdr) (a : GReg) (t : BitVec 8) : Statement (.resume h a t) := fun _ _ e => encS_lt e (by simp)
theorem yield (h : Hdr) : Statement (.yield h) := fun _ _ e => encS_lt e (by simp)
theorem shoot (h : Hdr) (d a : GReg) (b : GReg) : Statement (.shoot h d a b) := fun _ _ e => encS_lt e (by simp)
theorem fairctlResume (h : Hdr) (d a : GReg) (f : Bool) : Statement (.fairctlResume h d a f) :=
  fun _ _ e => encS_lt e (by simp)
theorem fairctlDrop (h : Hdr) (d a : GReg) (f : Bool) : Statement (.fairctlDrop h d a f) := fun _ _ e => encS_lt e (by simp)
theorem fairctlStat (h : Hdr) (d : GReg) (f : Bool) : Statement (.fairctlStat h d f) := fun _ _ e => encS_lt e (by simp)
theorem swapctlWindow (h : Hdr) (d b : GReg) (n : Fin 8) : Statement (.swapctlWindow h d b n) :=
  fun _ _ e => encS_lt e (by simp; omega)
theorem swapctlTheta (h : Hdr) (d b : GReg) (n : Fin 8) : Statement (.swapctlTheta h d b n) :=
  fun _ _ e => encS_lt e (by simp; omega)
theorem swapctlEnable (h : Hdr) (d b : GReg) (n : Fin 8) : Statement (.swapctlEnable h d b n) :=
  fun _ _ e => encS_lt e (by simp; omega)
theorem swapctlRead (h : Hdr) (d : GReg) (n : Fin 8) : Statement (.swapctlRead h d n) :=
  fun _ _ e => encS_lt e (by simp; omega)
theorem millEnd (m : Micro) : Statement (.millEnd m) := fun _ _ e => no_word e
theorem millBr (m : Micro) : Statement (.millBr m) := fun _ _ e => no_word e
theorem millLi (m : Micro) : Statement (.millLi m) := fun _ _ e => no_word e
theorem millAdd (m : Micro) : Statement (.millAdd m) := fun _ _ e => no_word e
theorem lfill (m : Micro) : Statement (.lfill m) := fun _ _ e => no_word e
theorem lcopy (m : Micro) : Statement (.lcopy m) := fun _ _ e => no_word e
theorem lfma (m : Micro) : Statement (.lfma m) := fun _ _ e => no_word e
theorem lscal (m : Micro) : Statement (.lscal m) := fun _ _ e => no_word e
theorem lred (m : Micro) : Statement (.lred m) := fun _ _ e => no_word e
theorem ltz (m : Micro) : Statement (.ltz m) := fun _ _ e => no_word e
theorem lzmk (m : Micro) : Statement (.lzmk m) := fun _ _ e => no_word e
theorem stw (m : Micro) : Statement (.stw m) := fun _ _ e => no_word e
theorem packetNop (p : Packet) : Statement (.packetNop p) := fun _ _ e => no_word e
theorem launch (p : Packet) : Statement (.launch p) := fun _ _ e => no_word e
theorem copyPacket (p : Packet) : Statement (.copyPacket p) := fun _ _ e => no_word e
theorem millPacket (p : Packet) : Statement (.millPacket p) := fun _ _ e => no_word e
theorem waitmem (p : Packet) : Statement (.waitmem p) := fun _ _ e => no_word e
theorem ib (p : Packet) : Statement (.ib p) := fun _ _ e => no_word e
theorem loopPacket (p : Packet) : Statement (.loopPacket p) := fun _ _ e => no_word e
theorem ffence (p : Packet) : Statement (.ffence p) := fun _ _ e => no_word e
theorem signal (p : Packet) : Statement (.signal p) := fun _ _ e => no_word e
theorem qconfig (f q : Nat) (base size : W64) (vec : W64) : Statement (.qconfig f q base size vec) := fun _ _ e => no_word e
theorem qenable (f q : Nat) : Statement (.qenable f q) := fun _ _ e => no_word e
theorem qdisable (f q : Nat) : Statement (.qdisable f q) := fun _ _ e => no_word e
theorem mrconfig (f : Nat) (base size : W64) (vec : W64) : Statement (.mrconfig f base size vec) := fun _ _ e => no_word e
theorem irqroute (f vec : Nat) (addr data : W64) : Statement (.irqroute f vec addr data) := fun _ _ e => no_word e
theorem fbind (f : Nat) (set : W64) : Statement (.fbind f set) := fun _ _ e => no_word e
theorem qpreempt (f q : Nat) : Statement (.qpreempt f q) := fun _ _ e => no_word e
theorem qrestore (f q : Nat) : Statement (.qrestore f q) := fun _ _ e => no_word e
theorem ashoot (f : Nat) (va len : W64) : Statement (.ashoot f va len) := fun _ _ e => no_word e
theorem lmRfetch (o : LmO) : Statement (.lmRfetch o) := fun _ _ e => no_word e
theorem lmBext (o : LmO) : Statement (.lmBext o) := fun _ _ e => no_word e
theorem lmSwait (d : Fin 32) (a : Fin 32) : Statement (.lmSwait d a) := fun _ _ e => no_word e
theorem lmDisp (o : LmO) : Statement (.lmDisp o) := fun _ _ e => no_word e
theorem lmdoneRead (rd : Fin 32) : Statement (.lmdoneRead rd) := fun _ _ e => no_word e
theorem registerWrite (w : RegWrite) : Statement (.registerWrite w) := fun _ _ e => no_word e
theorem apertureRead (f addr : Nat) (len : Nat) : Statement (.apertureRead f addr len) := fun _ _ e => no_word e
theorem apertureWrite (f addr : Nat) (bytes : List Byte) : Statement (.apertureWrite f addr bytes) := fun _ _ e => no_word e
theorem hostAtomic (f addr : Nat) (expect new : W64) : Statement (.hostAtomic f addr expect new) := fun _ _ e => no_word e
theorem kickWrite (f off : Nat) (v : W64) : Statement (.kickWrite f off v) := fun _ _ e => no_word e
theorem millRingKick (f : Nat) (v : W64) : Statement (.millRingKick f v) := fun _ _ e => no_word e
theorem mailboxDoorbell (v : W64) : Statement (.mailboxDoorbell v) := fun _ _ e => no_word e
theorem lockInterface (f : Nat) : Statement (.lockInterface f) := fun _ _ e => no_word e
theorem startInterface (f : Nat) : Statement (.startInterface f) := fun _ _ e => no_word e
theorem stopInterface (f : Nat) : Statement (.stopInterface f) := fun _ _ e => no_word e
theorem getDeviceInterfaceState (f : Nat) : Statement (.getDeviceInterfaceState f) := fun _ _ e => no_word e
theorem getDeviceInterfaceReport (f : Nat) : Statement (.getDeviceInterfaceReport f) := fun _ _ e => no_word e
theorem spdmMeasurementRequest (i : Nat) : Statement (.spdmMeasurementRequest i) := fun _ _ e => no_word e
theorem tdispInterfaceError (f : Nat) : Statement (.tdispInterfaceError f) := fun _ _ e => no_word e
theorem ownerClaim (p : Port) (v : W64) : Statement (.ownerClaim p v) := fun _ _ e => no_word e
theorem handoverRelease (p : Port) : Statement (.handoverRelease p) := fun _ _ e => no_word e
theorem handoverWithdraw (p : Port) : Statement (.handoverWithdraw p) := fun _ _ e => no_word e
theorem handoverOffer (p : Port) (target : Fin 4) : Statement (.handoverOffer p target) := fun _ _ e => no_word e
theorem activate (p : Port) (v : W64) : Statement (.activate p v) := fun _ _ e => no_word e
theorem logposWrite (p : Port) (v : W64) : Statement (.logposWrite p v) := fun _ _ e => no_word e
theorem plimitWrite (p : Port) (v : W64) : Statement (.plimitWrite p v) := fun _ _ e => no_word e
theorem tlimitWrite (p : Port) (v : W64) : Statement (.tlimitWrite p v) := fun _ _ e => no_word e
theorem throttle (watts : Nat) (temps : List Nat) : Statement (.throttle watts temps) := fun _ _ e => no_word e
theorem thermalTrip (temp : Nat) : Statement (.thermalTrip temp) := fun _ _ e => no_word e
theorem softError (e : SoftError) : Statement (.softError e) := fun _ _ e => no_word e
theorem tenantCreate (x : SetSpec) : Statement (.tenantCreate x) := fun _ _ e => no_word e
theorem tenantSetDeletion (set : Nat) : Statement (.tenantSetDeletion set) := fun _ _ e => no_word e
theorem stageCDone (trained floors : Nat) (failed0 : List Nat) (failed1 : List Nat) (dwy : Bool) : Statement (.stageCDone trained floors failed0 failed1 dwy) :=
  fun _ _ e => no_word e
theorem laneRepair (module lane : Nat) (ok : Bool) : Statement (.laneRepair module lane ok) := fun _ _ e => no_word e
theorem runSeal : Statement .runSeal := fun _ _ e => no_word e
theorem park : Statement .park := fun _ _ e => no_word e
theorem postedStoreAck : Statement .postedStoreAck := fun _ _ e => no_word e
theorem accessReply : Statement .accessReply := fun _ _ e => no_word e
theorem faultAnswer : Statement .faultAnswer := fun _ _ e => no_word e
theorem abortWaitEnd : Statement .abortWaitEnd := fun _ _ e => no_word e
theorem landing : Statement .landing := fun _ _ e => no_word e
theorem parkedWake : Statement .parkedWake := fun _ _ e => no_word e
theorem eviction : Statement .eviction := fun _ _ e => no_word e
theorem recordTake : Statement .recordTake := fun _ _ e => no_word e
theorem launchSow : Statement .launchSow := fun _ _ e => no_word e
theorem homeStore : Statement .homeStore := fun _ _ e => no_word e
theorem homeLoad : Statement .homeLoad := fun _ _ e => no_word e
theorem homeAtomic : Statement .homeAtomic := fun _ _ e => no_word e
theorem barnFill : Statement .barnFill := fun _ _ e => no_word e
theorem droveCombine : Statement .droveCombine := fun _ _ e => no_word e
theorem droveSplit : Statement .droveSplit := fun _ _ e => no_word e
theorem remoteCroftAccess : Statement .remoteCroftAccess := fun _ _ e => no_word e
theorem remoteFeRequest : Statement .remoteFeRequest := fun _ _ e => no_word e
theorem feRetry : Statement .feRetry := fun _ _ e => no_word e
theorem channelMessage : Statement .channelMessage := fun _ _ e => no_word e
theorem resumeArrival : Statement .resumeArrival := fun _ _ e => no_word e
theorem barrierArrival : Statement .barrierArrival := fun _ _ e => no_word e
theorem podCollectiveAbort : Statement .podCollectiveAbort := fun _ _ e => no_word e
theorem cribAppend : Statement .cribAppend := fun _ _ e => no_word e
theorem cribTake : Statement .cribTake := fun _ _ e => no_word e
theorem cribStat : Statement .cribStat := fun _ _ e => no_word e
theorem cribBind : Statement .cribBind := fun _ _ e => no_word e
theorem crtakeRetry : Statement .crtakeRetry := fun _ _ e => no_word e
theorem stcmDelivery : Statement .stcmDelivery := fun _ _ e => no_word e
theorem multicastFree : Statement .multicastFree := fun _ _ e => no_word e
theorem fairRegister : Statement .fairRegister := fun _ _ e => no_word e
theorem fairGrant : Statement .fairGrant := fun _ _ e => no_word e
theorem sheafArrival : Statement .sheafArrival := fun _ _ e => no_word e
theorem lastSegment : Statement .lastSegment := fun _ _ e => no_word e
theorem landingEngineGrant : Statement .landingEngineGrant := fun _ _ e => no_word e
theorem landingFault : Statement .landingFault := fun _ _ e => no_word e
theorem rickPreempt : Statement .rickPreempt := fun _ _ e => no_word e
theorem landingPacketIssue : Statement .landingPacketIssue := fun _ _ e => no_word e
theorem translationWalk : Statement .translationWalk := fun _ _ e => no_word e
theorem millCallAccept : Statement .millCallAccept := fun _ _ e => no_word e
theorem routerPowerDown : Statement .routerPowerDown := fun _ _ e => no_word e
theorem routerWake : Statement .routerWake := fun _ _ e => no_word e
theorem packetDrop : Statement .packetDrop := fun _ _ e => no_word e
theorem lossReport : Statement .lossReport := fun _ _ e => no_word e
theorem faultPacketReoffer : Statement .faultPacketReoffer := fun _ _ e => no_word e
theorem haywardPacketDelivery : Statement .haywardPacketDelivery := fun _ _ e => no_word e
theorem swapWindowClose : Statement .swapWindowClose := fun _ _ e => no_word e
theorem swapStateCrossed : Statement .swapStateCrossed := fun _ _ e => no_word e
theorem routersSwitched : Statement .routersSwitched := fun _ _ e => no_word e
theorem drainMarker : Statement .drainMarker := fun _ _ e => no_word e
theorem relocate : Statement .relocate := fun _ _ e => no_word e
theorem servicePeriodEnd : Statement .servicePeriodEnd := fun _ _ e => no_word e
theorem borderQuiesced : Statement .borderQuiesced := fun _ _ e => no_word e
theorem borderRelocated : Statement .borderRelocated := fun _ _ e => no_word e
theorem borderBanksEmpty : Statement .borderBanksEmpty := fun _ _ e => no_word e
theorem borderShootsDone : Statement .borderShootsDone := fun _ _ e => no_word e
theorem debugRelease : Statement .debugRelease := fun _ _ e => no_word e
theorem debugKill : Statement .debugKill := fun _ _ e => no_word e
theorem debugFreeze : Statement .debugFreeze := fun _ _ e => no_word e
theorem debugZeroCounts : Statement .debugZeroCounts := fun _ _ e => no_word e
theorem debugEvict : Statement .debugEvict := fun _ _ e => no_word e
theorem queueSaveWrite : Statement .queueSaveWrite := fun _ _ e => no_word e
theorem pollTick : Statement .pollTick := fun _ _ e => no_word e
theorem watchdogExpiry : Statement .watchdogExpiry := fun _ _ e => no_word e
theorem powerGood : Statement .powerGood := fun _ _ e => no_word e
theorem stageADone : Statement .stageADone := fun _ _ e => no_word e
theorem stageBDone : Statement .stageBDone := fun _ _ e => no_word e
theorem powerLoss : Statement .powerLoss := fun _ _ e => no_word e

end Sys2Proof.Laws.EncodingFits
end

