-- ==== Sys2Proof/Laws/Seal.lean ====
section
/-! SUPPORT. Seal points: what a seal does to a quiet context, and that the instruction then goes on in the same turn. -/

namespace Sys2Proof.Machine

variable (s : State)

@[simp] theorem retireRun_crofts (t : Nat) : (retireRun s t).crofts = s.crofts := rfl
@[simp] theorem retireRun_cur (t : Nat) : (retireRun s t).cur = s.cur := rfl
@[simp] theorem retireRun_net (t : Nat) : (retireRun s t).net = s.net := rfl
@[simp] theorem retireRun_mem (t : Nat) : (retireRun s t).mem = s.mem := rfl
@[simp] theorem retireRun_tenants (t : Nat) : (retireRun s t).tenants = s.tenants := rfl
@[simp] theorem retireRun_sets (t : Nat) : (retireRun s t).sets = s.sets := rfl
theorem ctxAt_retireRun (t c i : Nat) : ctxAt (retireRun s t) c i = ctxAt s c i := rfl

/-- Nothing held: nothing is released. -/
theorem releaseHeld_none (c i : Nat) (h : (ctxAt s c i).held = []) :
    releaseHeld s c i = updCtx s c i fun k => k.held.foldl (fun k h => addCount h.cls 1 k) { k with held := [] } := by
  simp [releaseHeld, h]

theorem sealRun_cur (h : (me s).held = []) : (sealRun s s.cur.1 s.cur.2).cur = s.cur := by
  have e := releaseHeld_none s s.cur.1 s.cur.2 h
  unfold sealRun
  rw [e]; rfl

/-- The seal of a context with nothing held. -/
theorem me_sealRun (h : (me s).held = []) :
    me (sealRun s s.cur.1 s.cur.2) = { me s with stage := .sealed, held := [] } := by
  have e := releaseHeld_none s s.cur.1 s.cur.2 h
  have hk : ctxAt (releaseHeld s s.cur.1 s.cur.2) s.cur.1 s.cur.2 = { me s with held := [] } := by
    rw [e, updCtx, ctxAt_setCtx_self]
    have : (ctxAt s s.cur.1 s.cur.2).held = [] := h
    simp [this, me]
  rw [me, sealRun_cur s h, sealRun, updCtx, ctxAt_setCtx_self, ctxAt_retireRun, hk]

/-- The seal of a context with nothing held touches its record, its paddock's count of runs and the service period. -/
theorem sealRun_rest (h : (me s).held = []) :
    { sealRun s s.cur.1 s.cur.2 with crofts := s.crofts, paddocks := s.paddocks, period := s.period } = s := by
  have e := releaseHeld_none s s.cur.1 s.cur.2 h
  unfold sealRun
  rw [e]; rfl

theorem sealRun_croft (h : (me s).held = []) :
    { croftAt (sealRun s s.cur.1 s.cur.2) s.cur.1 with ctxs := [] } = { croftAt s s.cur.1 with ctxs := [] } := by
  have e := releaseHeld_none s s.cur.1 s.cur.2 h
  unfold sealRun
  rw [e]
  simp only [updCtx, setCtx, croftAt_setCroft_self]
  show { croftAt (setCroft s s.cur.1 _) s.cur.1 with ctxs := [] } = _
  rw [croftAt_setCroft_self]

/-- A quiet context passes its seal point in the turn, whatever comes after it, unless that is under a quiescing croft. -/
theorem sealThen_quiet (rel : Bool) (k : State → State) (q : Quiet s) :
    sealThen rel k s = k (sealRun s s.cur.1 s.cur.2) := by
  have hm := me_sealRun s q.held
  have hb : (me (sealRun s s.cur.1 s.cur.2)).busy = false := by rw [hm]; exact q.idle
  have hq : (myCroft (sealRun s s.cur.1 s.cur.2)).quiesce = false := by
    have h1 := congrArg Croft.quiesce (sealRun_croft s q.held)
    simp only [myCroft, sealRun_cur s q.held]
    exact h1.trans q.quiesce
  unfold sealThen
  simp only [q.open_, q.idle, hb, hq]
  simp

/-- What follows an earlier seal goes on at once. -/
theorem sealThen_sealed (k : State → State) (h : (me s).stage = .sealed) (q : (myCroft s).quiesce = false) :
    sealThen false k s = k s := by
  simp [sealThen, h, q]

end Sys2Proof.Machine
end

