-- ==== Sys2Proof/Machine/Wain.lean ====
section
/-! DEFINITION. The wain program that firmware starts on context 15 (R219, R255, R268 to R271): its instructions as the manual
lists them, and the fetch lines they make. -/

namespace Sys2Proof.Machine

/-- Its labels. -/
inductive WainLabel where
  | wstart | wnext | rscan | rfound | rtake | push | sheaf | mbox | copy | crun | crow | celem | fin | badrow | gath | gel | mktgt
  deriving DecidableEq, Repr

/-- A slot of the program: the label it carries, and its instruction, given the displacements from here to the labels. -/
abbrev WainSlot := Option WainLabel × ((WainLabel → BitVec 50) → Instr)

def always : Hdr := ⟨0, false, 0⟩
def whenP (p : PReg) : Hdr := ⟨p, false, 0⟩
def unlessP (p : PReg) : Hdr := ⟨p, true, 0⟩

/-- The start and the scan of the job ring (R268). -/
def wainScan : List WainSlot := [
  (some .wstart, fun _ => .li always 1 0xFFFFFFFF),
  (none, fun _ => .mtp always false 1 1),
  (none, fun _ => .mtp always true 1 0),
  (none, fun _ => .mfs always 2 1),
  (none, fun _ => .bfxn always 2 2 (.imm (0x1800))),
  (none, fun _ => .li always 30 0),
  (none, fun _ => .lih always 30 0x01FFFF00),
  (none, fun _ => .li always 31 0xFE00),
  (none, fun _ => .li always 10 0),
  (some .wnext, fun _ => .li always 5 0xFC00),
  (some .rscan, fun _ => .festat always ⟨6, ⟨5, 0, 0, 0, .own⟩⟩),
  (none, fun _ => .and always ⟨false, false, 6, 6, .imm (0x11)⟩),
  (none, fun d => .bc always .ne 6 (d .rfound)),
  (none, fun _ => .add always ⟨false, false, 5, 5, .imm (64)⟩),
  (none, fun d => .bcmp always ⟨.ltn, 5, 31, d .rscan⟩),
  (none, fun d => .bc always .ne 10 (d .mbox)),
  (none, fun _ => .ldfe always false ⟨10, ⟨0, 0, 0, 0xFF80, .own⟩⟩),
  (none, fun _ => .andn always ⟨false, false, 10, 10, .imm (0x8000)⟩),
  (none, fun d => .br always (d .wnext))]

/-- A ring entry: a glean, or a push of sheaf A and then B (R255, R268). -/
def wainJob : List WainSlot := [
  (some .rfound, fun _ => .and always ⟨false, false, 7, 6, .imm (1)⟩),
  (none, fun d => .bc always .ne 7 (d .rtake)),
  (none, fun _ => .add always ⟨false, false, 5, 5, .imm (32)⟩),
  (some .rtake, fun _ => .ld always ⟨13, ⟨5, 0, 0, 8, .own⟩, 3, false⟩),
  (none, fun _ => .ld always ⟨14, ⟨5, 0, 0, 16, .own⟩, 3, false⟩),
  (none, fun _ => .ld always ⟨16, ⟨5, 0, 0, 24, .own⟩, 3, false⟩),
  (none, fun _ => .ldfe always false ⟨7, ⟨5, 0, 0, 0, .own⟩⟩),
  (none, fun _ => .bfxn always 3 7 (.imm (0x0710))),
  (none, fun _ => .bfxn always 8 7 (.imm (0x0400))),
  (none, fun _ => .sub always ⟨false, false, 24, 8, .imm (1)⟩),
  (none, fun d => .bc always .eq 24 (d .push)),
  (none, fun _ => .mov always 6 13),
  (none, fun _ => .mov always 25 14),
  (none, fun d => .call always 63 (d .mktgt)),
  (none, fun _ => .ld always ⟨13, ⟨6, 0, 0, 0, .own⟩, 3, false⟩),
  (none, fun _ => .ld always ⟨18, ⟨6, 0, 0, 8, .own⟩, 3, false⟩),
  (none, fun _ => .ld always ⟨17, ⟨6, 0, 0, 16, .own⟩, 3, false⟩),
  (none, fun _ => .ld always ⟨16, ⟨6, 0, 0, 24, .own⟩, 3, false⟩),
  (none, fun _ => .bfxn always 20 17 (.imm (0x1020))),
  (none, fun _ => .bfxn always 17 17 (.imm (0x1000))),
  (none, fun _ => .bfxn always 18 18 (.imm (0x1000))),
  (none, fun _ => .add always ⟨false, false, 18, 18, .reg 30⟩),
  (none, fun _ => .mov always 19 17),
  (none, fun _ => .li always 14 0),
  (none, fun _ => .li always 15 0),
  (none, fun d => .br always (d .crun)),
  (some .push, fun _ => .shr always ⟨false, false, 12, 7, .imm (32)⟩),
  (none, fun _ => .bfxn always 17 16 (.imm (0x1000))),
  (none, fun _ => .bfxn always 24 16 (.imm (0x1010))),
  (none, fun _ => .mul always ⟨false, false, 17, 17, .reg 24⟩),
  (none, fun _ => .mov always 19 13),
  (none, fun _ => .li always 20 0),
  (none, fun d => .call always 63 (d .sheaf)),
  (none, fun _ => .bfxn always 17 16 (.imm (0x1020))),
  (none, fun _ => .bfxn always 24 16 (.imm (0x1030))),
  (none, fun _ => .mul always ⟨false, false, 17, 17, .reg 24⟩),
  (none, fun _ => .mov always 19 14),
  (none, fun _ => .li always 20 0),
  (none, fun _ => .lih always 20 1),
  (none, fun d => .call always 63 (d .sheaf)),
  (none, fun d => .br always (d .wnext)),
  (some .sheaf, fun _ => .ldv (whenP 1) ⟨0, ⟨19, 0, 0, 0, .virt⟩, .b8, false⟩),
  (none, fun _ => .getmark always ⟨21, ⟨19, 0, 0, 0, .virt⟩⟩),
  (none, fun _ => .or always ⟨false, false, 21, 21, .reg 20⟩),
  (none, fun _ => .shpush always 0 12 21),
  (none, fun _ => .add always ⟨false, false, 19, 19, .imm (64)⟩),
  (none, fun _ => .add always ⟨false, false, 20, 20, .imm (0x10000)⟩),
  (none, fun d => .loop always 17 (d .sheaf)),
  (none, fun _ => .ret always 63)]

/-- A mailbox word (R269). -/
def wainMailbox : List WainSlot := [
  (some .mbox, fun _ => .ctz always ⟨false, 3, 10⟩),
  (none, fun _ => .li always 4 1),
  (none, fun _ => .shl always ⟨false, false, 4, 4, .reg 3⟩),
  (none, fun _ => .andn always ⟨false, false, 10, 10, .reg 4⟩),
  (none, fun _ => .shl always ⟨false, false, 5, 3, .imm (3)⟩),
  (none, fun _ => .ldfe always false ⟨6, ⟨5, 0, 0, 0xFF00, .own⟩⟩),
  (none, fun _ => .bfxn always 3 6 (.imm (0x0710))),
  (none, fun _ => .bfxn always 6 6 (.imm (0x1000))),
  (none, fun _ => .ld always ⟨7, ⟨6, 0, 0, 0, .own⟩, 3, false⟩),
  (none, fun _ => .add always ⟨false, false, 25, 6, .imm (64)⟩),
  (none, fun d => .call always 63 (d .mktgt)),
  (none, fun _ => .bfxn always 8 7 (.imm (0x0400))),
  (none, fun _ => .sub always ⟨false, false, 24, 8, .imm (1)⟩),
  (none, fun d => .bc always .eq 24 (d .copy)),
  (none, fun _ => .sub always ⟨false, false, 24, 8, .imm (2)⟩),
  (none, fun d => .bc always .eq 24 (d .gath)),
  (none, fun _ => .trap always 0xA1),
  (none, fun d => .br always (d .wnext))]

/-- The copy job, a glean included (R269, R270). -/
def wainCopy : List WainSlot := [
  (some .copy, fun _ => .ld always ⟨13, ⟨6, 0, 0, 8, .own⟩, 3, false⟩),
  (none, fun _ => .ld always ⟨14, ⟨6, 0, 0, 16, .own⟩, 3, false⟩),
  (none, fun _ => .ld always ⟨15, ⟨6, 0, 0, 24, .own⟩, 3, false⟩),
  (none, fun _ => .ld always ⟨16, ⟨6, 0, 0, 32, .own⟩, 3, false⟩),
  (none, fun _ => .ld always ⟨17, ⟨6, 0, 0, 40, .own⟩, 3, false⟩),
  (none, fun _ => .ld always ⟨18, ⟨6, 0, 0, 48, .own⟩, 3, false⟩),
  (none, fun _ => .ld always ⟨19, ⟨6, 0, 0, 56, .own⟩, 3, false⟩),
  (none, fun _ => .shr always ⟨false, false, 20, 17, .imm (32)⟩),
  (none, fun _ => .bfxn always 17 17 (.imm (0x2000))),
  (some .crun, fun _ => .mov always 26 20),
  (none, fun _ => .li always 29 0),
  (none, fun d => .bc always .eq 20 (d .fin)),
  (none, fun _ => .and always ⟨false, false, 24, 17, .imm (7)⟩),
  (none, fun d => .bc always .ne 24 (d .badrow)),
  (none, fun d => .bc always .eq 17 (d .badrow)),
  (some .crow, fun _ => .add always ⟨true, false, 24, 14, .reg 29⟩),
  (none, fun _ => .mul always ⟨true, false, 21, 24, .reg 16⟩),
  (none, fun _ => .add always ⟨true, false, 21, 21, .reg 13⟩),
  (none, fun _ => .add always ⟨true, false, 21, 21, .reg 15⟩),
  (none, fun _ => .add always ⟨true, false, 24, 21, .reg 17⟩),
  (none, fun _ => .mul always ⟨true, false, 28, 29, .reg 19⟩),
  (none, fun _ => .add always ⟨true, false, 28, 28, .reg 18⟩),
  (none, fun _ => .add always ⟨true, false, 24, 28, .reg 17⟩),
  (none, fun _ => .li always 22 0),
  (some .celem, fun _ => .ld always ⟨23, ⟨21, 22, 0, 0, .virt⟩, 3, false⟩),
  (none, fun _ => .st always ⟨23, ⟨28, 22, 0, 0, .virt⟩, 3, none⟩),
  (none, fun _ => .add always ⟨false, false, 22, 22, .imm (8)⟩),
  (none, fun d => .bcmp always ⟨.ltn, 22, 17, d .celem⟩),
  (none, fun _ => .add always ⟨false, false, 29, 29, .imm (1)⟩),
  (none, fun d => .loop always 20 (d .crow)),
  (some .fin, fun d => .bc always .eq 25 (d .wnext)),
  (none, fun _ => .stc always ⟨.g 26, 25, 12, 0, .own⟩),
  (none, fun d => .br always (d .wnext)),
  (some .badrow, fun _ => .trap always 0xA2),
  (none, fun d => .br always (d .wnext))]

/-- The gather job (R271), and the target descriptor of a bin. -/
def wainGather : List WainSlot := [
  (some .gath, fun _ => .ld always ⟨13, ⟨6, 0, 0, 8, .own⟩, 3, false⟩),
  (none, fun _ => .ld always ⟨14, ⟨6, 0, 0, 16, .own⟩, 3, false⟩),
  (none, fun _ => .ld always ⟨15, ⟨6, 0, 0, 24, .own⟩, 3, false⟩),
  (none, fun _ => .ld always ⟨17, ⟨6, 0, 0, 32, .own⟩, 3, false⟩),
  (none, fun _ => .ld always ⟨16, ⟨6, 0, 0, 40, .own⟩, 3, false⟩),
  (none, fun _ => .ld always ⟨18, ⟨6, 0, 0, 48, .own⟩, 3, false⟩),
  (none, fun _ => .ld always ⟨19, ⟨6, 0, 0, 56, .own⟩, 3, false⟩),
  (none, fun _ => .li always 26 0),
  (none, fun _ => .li always 22 0),
  (none, fun _ => .li always 27 0),
  (none, fun d => .bc always .eq 17 (d .fin)),
  (some .gel, fun _ => .ld always ⟨20, ⟨15, 22, 3, 0, .virt⟩, 3, false⟩),
  (none, fun _ => .cmpp always ⟨.ltn, 2, 20, .reg 14⟩),
  (none, fun _ => .mov always 23 16),
  (none, fun _ => .shl (whenP 2) ⟨true, false, 24, 20, .imm (3)⟩),
  (none, fun _ => .add (whenP 2) ⟨true, false, 24, 24, .reg 13⟩),
  (none, fun _ => .ld (whenP 2) ⟨23, ⟨24, 0, 0, 0, .virt⟩, 3, false⟩),
  (none, fun _ => .st always ⟨23, ⟨18, 22, 3, 0, .virt⟩, 3, none⟩),
  (none, fun _ => .and always ⟨false, false, 24, 22, .imm (63)⟩),
  (none, fun _ => .li always 28 1),
  (none, fun _ => .shl always ⟨false, false, 28, 28, .reg 24⟩),
  (none, fun _ => .or (unlessP 2) ⟨false, false, 27, 27, .reg 28⟩),
  (none, fun _ => .add (unlessP 2) ⟨false, false, 26, 26, .imm (1)⟩),
  (none, fun _ => .cmpp always ⟨.eq, 3, 24, .imm (63)⟩),
  (none, fun _ => .shr always ⟨false, false, 28, 22, .imm (6)⟩),
  (none, fun _ => .add always ⟨false, false, 22, 22, .imm (1)⟩),
  (none, fun _ => .cmpp always ⟨.eq, 4, 22, .reg 17⟩),
  (none, fun _ => .por always ⟨3, 3, 4⟩),
  (none, fun _ => .st (whenP 3) ⟨27, ⟨19, 28, 3, 0, .virt⟩, 3, none⟩),
  (none, fun _ => .li (whenP 3) 27 0),
  (none, fun d => .bcmp always ⟨.ltn, 22, 17, d .gel⟩),
  (none, fun d => .br always (d .fin)),
  (some .mktgt, fun _ => .bfxn always 8 7 (.imm (0x0308))),
  (none, fun _ => .shl always ⟨false, false, 8, 8, .imm (31)⟩),
  (none, fun _ => .shl always ⟨false, false, 12, 3, .imm (24)⟩),
  (none, fun _ => .or always ⟨false, false, 12, 12, .reg 8⟩),
  (none, fun _ => .or always ⟨false, false, 12, 12, .reg 2⟩),
  (none, fun _ => .ret always 63)]

def wainSlots : List WainSlot := wainScan ++ wainJob ++ wainMailbox ++ wainCopy ++ wainGather
/-- The place of a label. -/
def wainPlace (l : WainLabel) : Nat := wainSlots.findIdx fun x => x.1 == some l
/-- The instruction of slot k, its displacements counted in slots (R80). -/
def wainInstr (k : Nat) : Instr :=
  match nth wainSlots k with
  | some x => x.2 fun l => BitVec.ofInt 50 ((wainPlace l : Int) - (k : Int))
  | none => .nop
/-- A slot that a transfer may reach: one with a label, and one that follows a CALL (R93). -/
def wainTarget (k : Nat) : Bool :=
  (nth wainSlots k).any (fun x => x.1.isSome) ||
    (match k with | 0 => false | k + 1 => match wainInstr k with | .call _ _ _ => true | _ => false)

/-- A fetch line of five words with the targets among them, no pairs, and its parities (R61, R62, R93). -/
def makeLine (ws : List (Nat × Bool)) : LineWord :=
  let at_ (i : Nat) : Nat × Bool := (nth ws i).getD (0, false)
  let is := List.range 5
  let slots := (is.map fun i => (at_ i).1 % 2 ^ 96 * 2 ^ (96 * i)).sum
  let tgt := (is.map fun i => if (at_ i).2 then 2 ^ (27 + i) else 0).sum
  let par := (is.map fun i => if oddOnes 96 (at_ i).1 then 2 ^ i else 0).sum
  let top := if oddOnes 26 (tgt / 64) then 32 else 0
  BitVec.ofNat 512 (slots + (tgt + par + top) * 2 ^ 480)
/-- The lines of the wain program; its entry slot is the first slot of the first. -/
def wainLines : List LineWord :=
  (List.range ((wainSlots.length + 4) / 5)).map fun j =>
    makeLine ((List.range 5).map fun i => ((encode (wainInstr (5 * j + i))).getD 0, wainTarget (5 * j + i)))

end Sys2Proof.Machine
end

