-- ==== Sys2Proof/Tests/Slice0.lean ====
section
/-! SUPPORT. Small tests: terms without an encoding, words written out from the encoding tables, one step of an instruction
against values of the manual, and a state and operands that meet the hypotheses of each statement. -/

set_option Elab.async false

namespace Sys2Proof.Tests
open Sys2Proof Sys2Proof.Machine

/-! ## States to test on -/

/-- A guard that is always true, no gate, no scope. -/
def h0 : Hdr := ⟨0, false, 0⟩
def withG (gs : List (Nat × W64)) : Regs := gs.foldl (fun r e => putG r (Fin.ofNat 64 e.1) e.2) Regs.zero
/-- Context 1 of croft 0 about to issue: a privileged hand with the registers named, its record changed by f. -/
def ready (gs : List (Nat × W64)) (f : Context → Context := id) : State :=
  let s := State.reset.withFetchWord 96 0
  updCtx { s with cur := (0, 1) } 0 1 fun k => f { k with regs := withG gs }
def user (k : Context) : Context := { k with priv := false }
/-- What g[i] of the acting context holds after a step that gives a next state. -/
def gAfter (o : Out) (i : GReg) : Option W64 := match o with | .next t => some (getG (me t).regs i) | _ => none
def pcAfter (o : Out) : Option Nat := match o with | .next t => some (me t).pc | _ => none
def modeAfter (o : Out) : Option Mode := match o with | .next t => some (me t).mode | _ => none

theorem budget_all (rs : List Rn) : rs.all (inBudget 0x2040) = true := by
  rw [List.all_eq_true]; intro r _
  cases r with
  | g i => have : ∀ j : Fin 64, inBudget 0x2040 (.g j) = true := by decide
           exact this i
  | v i => have : ∀ j : Fin 32, inBudget 0x2040 (.v j) = true := by decide
           exact this i
theorem gate0 (s : State) : gateClear h0 s = true := by
  have : srcCount s 0 = 0 := by unfold srcCount; cases (me s).grp <;> simp [countOf]
  simp [gateClear, h0, this]
theorem issues {s : State} (rs : List Rn) (hb : (me s).budget = 0x2040 := by decide) : Issues h0 rs s :=
  ⟨by rw [hb]; exact budget_all rs, gate0 s, by simp [guardTrue, h0, rdP, getP]⟩
theorem vissues {s : State} (w : Nat) (rs : List Rn) (hb : (me s).budget = 0x2040 := by decide)
    (hw : w ∈ [2, 4, 8, 16, 32, 64] := by decide) : VIssues h0 w rs s :=
  ⟨by rw [hb]; exact budget_all rs, gate0 s, by
    have : guardBits h0 s = BitVec.allOnes 128 := by simp [guardBits, h0, rdP, getP]
    rw [this]; fin_cases hw <;> decide +kernel⟩

/-! ## Scalar instructions -/

theorem test_alu_hypotheses : (∀ p ∈ aluMeanings, wf (p.1 h0 ⟨false, false, 3, 1, .imm 0x10⟩) = true) ∧
    Issues h0 ([.g 3, .g 1] ++ srcRn (.imm 0x10)) (ready [(1, 64)]) := ⟨by simp [aluMeanings]; decide, issues _⟩
def alu (f : Hdr → Alu → Instr) (w : Bool) (x y : W64) : Option W64 :=
  gAfter (exec (f h0 ⟨false, w, 3, 1, .reg 2⟩) (ready [(1, x), (2, y)])) 3
/-- R97: sums, products, quotients and remainders; the first is the line of R61's worked example. -/
theorem test_alu_arithmetic :
    gAfter (exec (.add h0 ⟨false, false, 3, 1, .imm 0x10⟩) (ready [(1, 64)])) 3 = some 80 ∧
    alu .sub false 0 1 = some (-1) ∧ alu .mul true 0x10000 0x10000 = some 0 ∧ alu .mulh false (-1) 2 = some (-1) ∧
    alu .mulhn false (-1) 2 = some 1 ∧ alu .div false (-7) 2 = some (-3) ∧ alu .divn true 7 0 = some (-1) ∧
    alu .rem false (-7) 2 = some (-1) ∧ alu .remn false 7 0 = some 7 ∧
    alu .div false 0x8000000000000000 (-1) = some 0x8000000000000000 := by decide +kernel
/-- R97, R98: bitwise rows, shifts by the amount modulo the width, minima and maxima. -/
theorem test_alu_bits :
    alu .and false 12 10 = some 8 ∧ alu .or false 12 10 = some 14 ∧ alu .xor false 12 10 = some 6 ∧ alu .andn false 12 10 = some 4 ∧
    alu .shl false 1 65 = some 2 ∧ alu .shr true 0x80000000 0 = some 0xFFFFFFFF80000000 ∧ alu .sha false (-8) 1 = some (-4) ∧
    alu .rol false 0x8000000000000001 1 = some 3 ∧ alu .min false (-1) 1 = some (-1) ∧ alu .max false (-1) 1 = some 1 ∧
    alu .minn false (-1) 1 = some 1 ∧ alu .maxn false (-1) 1 = some (-1) := by decide +kernel

theorem test_overflow_hypotheses : Issues h0 ([.g 3, .g 1] ++ srcRn (.reg 2)) (ready [(1, 0x7FFFFFFFFFFFFFFF), (2, 1)]) ∧
    ((0x7FFFFFFFFFFFFFFF + 1 : W64).toInt ≠ (0x7FFFFFFFFFFFFFFF : W64).toInt + (1 : W64).toInt) ∧
    ¬ ((3 + 1 : W64).toInt ≠ (3 : W64).toInt + (1 : W64).toInt) := ⟨issues _, by decide, by decide⟩
/-- R96: SUB.chk at −2^63 freezes its context and leaves g3; in range it gives the difference. -/
theorem test_sub_chk :
    modeAfter (exec (.sub h0 ⟨true, false, 3, 1, .imm 1⟩) (ready [(1, 0x8000000000000000), (3, 9)])) = some .frozen ∧
    gAfter (exec (.sub h0 ⟨true, false, 3, 1, .imm 1⟩) (ready [(1, 0x8000000000000000), (3, 9)])) 3 = some 9 ∧
    gAfter (exec (.sub h0 ⟨true, false, 3, 1, .imm 1⟩) (ready [(1, 5)])) 3 = some 4 := by decide +kernel
theorem test_abs_hypotheses : Issues h0 [.g 3, .g 1] (ready [(1, 0x8000000000000000)]) ∧
    rdG (ready [(1, 0x8000000000000000)]) 1 = BitVec.intMin 64 ∧ rdG (ready [(1, -5)]) 1 ≠ BitVec.intMin 64 :=
  ⟨issues _, by decide, by decide⟩
theorem test_abs : gAfter (exec (.abs h0 ⟨true, false, 3, 1⟩) (ready [(1, -5)])) 3 = some 5 ∧
    modeAfter (exec (.abs h0 ⟨true, true, 3, 1⟩) (ready [(1, 0x80000000)])) = some .frozen := by decide +kernel

theorem test_compare_hypotheses : Issues h0 (.g 4 :: srcRn (.imm 64)) (ready [(4, 63)]) ∧
    Issues h0 ([.g 3, .g 4] ++ srcRn (.imm 64)) (ready [(4, 64)]) ∧
    Cond.holds .ltn (rdG (ready [(4, 63)]) 4) 64 ∧ ¬ Cond.holds .ltn (rdG (ready [(4, 64)]) 4) 64 :=
  ⟨issues _, issues _, by simp only [Cond.holds]; decide, by simp only [Cond.holds]; decide⟩
/-- R99: p2 all ones when g4 < 64 unsigned. -/
theorem test_compare : (match exec (.cmpp h0 ⟨.ltn, 2, 4, .imm 64⟩) (ready [(4, 63)]) with
      | .next t => decide (getP (me t).regs 2 = BitVec.allOnes 128) | _ => false) = true ∧
    gAfter (exec (.setc h0 ⟨.lt, 3, 4, .imm 0⟩) (ready [(4, -1)])) 3 = some 1 ∧
    gAfter (exec (.setc h0 ⟨.ltn, 3, 4, .imm 0⟩) (ready [(4, -1)])) 3 = some 0 := by decide +kernel

theorem test_bit_hypotheses : Issues h0 [.g 5, .g 1] (ready [(1, 0x11223344)]) := issues _
/-- R101, R102: the example of BSWAP.w, and counts at both widths. -/
theorem test_bits : gAfter (exec (.bswap h0 ⟨true, 5, 5⟩) (ready [(5, 0x11223344)])) 5 = some 0x44332211 ∧
    gAfter (exec (.clz h0 ⟨false, 5, 1⟩) (ready [(1, 1)])) 5 = some 63 ∧
    gAfter (exec (.ctz h0 ⟨true, 5, 1⟩) (ready [(1, 0)])) 5 = some 32 ∧
    gAfter (exec (.popc h0 ⟨false, 5, 1⟩) (ready [(1, 0xFF00F)])) 5 = some 12 ∧
    gAfter (exec (.brev h0 ⟨true, 5, 1⟩) (ready [(1, 1)])) 5 = some 0xFFFFFFFF80000000 := by decide +kernel

theorem test_field_hypotheses : Issues h0 ([.g 3, .g 6] ++ srcRn (.imm 0x810)) (ready [(6, 0xF30000)]) ∧
    Issues h0 ([.g 8, .g 9, .g 8] ++ srcRn (.imm 0x43C)) (ready [(9, 0xA5)]) ∧
    Issues h0 ([.g 5, .g 3] ++ srcRn (.imm 0)) (ready [(3, 7)]) := ⟨issues _, issues _, issues _⟩
/-- The worked example of R103 and R104, and an empty field. -/
theorem test_fields : gAfter (exec (.bfx h0 3 6 (.imm 0x810)) (ready [(6, 0xF30000)])) 3 = some 0xFFFFFFFFFFFFFFF3 ∧
    gAfter (exec (.bfxn h0 3 6 (.imm 0x810)) (ready [(6, 0xF30000)])) 3 = some 0xF3 ∧
    gAfter (exec (.bfi h0 8 9 (.imm 0x43C) 8) (ready [(9, 0xA5)])) 8 = some 0x5000000000000000 ∧
    gAfter (exec (.bfi h0 8 9 (.imm 0x83C) 8) (ready [(9, 0xA5)])) 8 = some 0x5000000000000000 ∧
    gAfter (exec (.bfx h0 3 6 (.imm 0x10)) (ready [(6, -1)])) 3 = some 0 ∧
    gAfter (exec (.sel h0 5 3 (.imm 0) 2) (ready [(3, 7)])) 5 = some 0 ∧
    gAfter (exec (.sel h0 5 3 (.imm 0) 0) (ready [(3, 7)])) 5 = some 7 := by decide +kernel

theorem test_move_hypotheses : Issues h0 [.g 3, .g 4] (ready []) ∧ Issues h0 [.g 0] (ready []) ∧
    Issues h0 (srcRn (.imm 5)) (ready []) ∧ Issues h0 [.g 4] (ready []) ∧ Issues h0 [.g 8, .g 4, .g 5] (ready []) :=
  ⟨issues _, issues _, issues _, issues _, issues _⟩
/-- R106 to R113: moves, both halves of a predicate, and the example of LEA. -/
theorem test_moves : gAfter (exec (.mov h0 3 4) (ready [(4, 7)])) 3 = some 7 ∧
    gAfter (exec (.li h0 7 0xFFFFFFFF) (ready [])) 7 = some 0xFFFFFFFFFFFFFFFF ∧
    gAfter (exec (.lih h0 7 0x12345678) (ready [(7, 0xAAAAAAAA99999999)])) 7 = some 0x1234567899999999 ∧
    gAfter (exec (.mfp h0 true 7 0) (ready [])) 7 = some 0xFFFFFFFFFFFFFFFF ∧
    gAfter (exec (.lea h0 8 4 5 3 24) (ready [(4, 100), (5, 2)])) 8 = some 140 ∧
    gAfter (exec (.li h0 0 5) (ready [])) 0 = some 0 := by decide +kernel
theorem test_bins_and_predicates : (match exec (.mtb h0 3 (.imm 5)) (ready []) with
      | .next t => gAfter (exec (.mfb h0 7 3) t) 7 | _ => none) = some 5 ∧
    (match exec (.mtp h0 true 2 4) (ready [(4, 0xF0)]) with
      | .next t => some ((getP (me t).regs 2).toNat) | _ => none) = some 0xF00000000000000000 := by decide +kernel

theorem test_special_hypotheses : Issues h0 [.g 9] (ready []) ∧ (me (ready [])).priv = true ∧ (me (ready [])).grp = none ∧
    (me (ready [] user)).priv = false ∧ Issues h0 [.g 9] (ready [] user) := ⟨issues _, by decide, by decide, by decide, issues _⟩
/-- R19, R24, R18: ctx of context 1 of croft 0 in a privileged hand; fpcsr keeps its own bits; a tenant's read of hcap is PRIV. -/
theorem test_special : gAfter (exec (.mfs h0 9 0) (ready [])) 9 = some 0x4000001 ∧
    gAfter (exec (.mfs h0 9 2) (ready [])) 9 = some 0x2040 ∧
    (match exec (.mts h0 3 4) (ready [(4, -1)]) with
      | .next t => some (me t).regs.fpcsr | _ => none) = some 0x11F3 ∧
    modeAfter (exec (.mfs h0 9 0x0A) (ready [] user)) = some .frozen ∧
    modeAfter (exec (.mfs h0 9 0x0C) (ready [])) = some .frozen := by decide +kernel

/-! ## Control transfers -/

theorem test_transfer_hypotheses : Issues h0 [] (ready [] fun k => { k with pc := 0x1024 }) ∧
    0 ≤ relTarget (ready [] fun k => { k with pc := 0x1024 }) 0x3FFFFFFFFFFF9 ∧
    relTarget (ready [] fun k => { k with pc := 0x1024 }) 0x3FFFFFFFFFFF9 < 5 * 2 ^ 58 ∧ relTarget (ready []) (-1) < 0 ∧ relTarget (ready [(3, 1)]) (-1) < 0 ∧
    Issues h0 [.g 3] (ready [(3, 1)]) ∧ Cond.holds .ne (rdG (ready [(3, 1)]) 3) 0 ∧ ¬ Cond.holds .eq (rdG (ready [(3, 1)]) 3) 0 ∧
    rdG (ready [(3, 1)]) 3 = 1 ∧ Issues h0 [.g 3, .g 4] (ready []) ∧ slotOk 0x1030 = true ∧ slotOk 0x1031 = false := by
  refine ⟨issues _, by decide, by decide, by decide, by decide, issues _, ?_, ?_, by decide, issues _, by decide, by decide⟩ <;>
    simp only [Cond.holds] <;> decide
/-- The worked example of R115: slot 3 of the line at 0x1000 to slot 1 of the line at 0xFC0; the links of CALL and JMPL; LOOP. -/
theorem test_transfers : pcAfter (exec (.br h0 0x3FFFFFFFFFFF9) (ready [] fun k => { k with pc := 0x1024 })) = some 0xFCC ∧
    pcAfter (exec (.bc h0 .eq 3 5) (ready [(3, 1)])) = some 12 ∧ pcAfter (exec (.bcmp h0 ⟨.ltn, 3, 9, 5⟩) (ready [(9, 1)])) = some 64 ∧
    pcAfter (exec (.loop h0 3 5) (ready [(3, 1)])) = some 12 ∧ gAfter (exec (.loop h0 3 5) (ready [(3, 0)])) 3 = some (-1) ∧
    gAfter (exec (.call h0 63 5) (ready [] fun k => { k with pc := 0x30 })) 63 = some 0x40 ∧
    pcAfter (exec (.jmp h0 12) (ready [(12, 0x1018)])) = some 0x1018 ∧ pcAfter (exec (.ret h0 63) (ready [(63, 0x40)])) = some 0x40 ∧
    gAfter (exec (.jmpl h0 12 63) (ready [(12, 0x1018)])) 63 = some 12 ∧
    modeAfter (exec (.jmp h0 12) (ready [(12, 0x1019)])) = some .frozen ∧
    modeAfter (exec (.bc h0 .ne 3 (-1)) (ready [(3, 1)])) = some .frozen ∧ modeAfter (exec (.bc h0 .eq 3 (-1)) (ready [(3, 1)])) = some .running ∧
    modeAfter (exec (.loop h0 3 (-1)) (ready [(3, 2)])) = some .frozen := by decide +kernel
/-- R87, R216: BRK passes where break-enable is clear; a frozen TRAP goes on after itself. -/
theorem test_trap : modeAfter (exec (.trap h0 0x21) (ready [])) = some .frozen ∧ pcAfter (exec (.trap h0 0x21) (ready [])) = some 12 ∧
    modeAfter (exec (.brk h0 0x21) (ready [])) = some .running ∧ pcAfter (exec .nop (ready [])) = some 12 := by decide +kernel
theorem test_trap_hypotheses : Issues h0 [] (ready []) ∧ (myCroft (ready [])).brken = false ∧
    (myCroft (setCroft (ready []) 0 { croftAt (ready []) 0 with brken := true })).brken = true ∧
    Issues h0 [] (setCroft (ready []) 0 { croftAt (ready []) 0 with brken := true }) :=
  ⟨issues _, by decide, by decide, issues _⟩

/-! ## Vector instructions -/

/-- A register from its elements of width w, the lowest first. -/
def vreg (w : Nat) (l : List Nat) : VWord := BitVec.ofNat 1024 (joinElems w l)
/-- v1, v2 and v3 as given, scalar registers too. -/
def vready (w : Nat) (a b c : List Nat) (gs : List (Nat × W64) := []) : State :=
  ready gs fun k => { k with regs := putV (putV (putV k.regs 1 (vreg w a)) 2 (vreg w b)) 3 (vreg w c) }
/-- Element i, of width w, of v[d] after a step that gives a next state. -/
def vAfter (o : Out) (d : VReg) (w i : Nat) : Option Nat := match o with | .next t => some (elem w (getV (me t).regs d) i) | _ => none
/-- fpcsr's flags NX, UF, OF, DZ, NV (bits 0 to 4) after the step. -/
def flagsAfter (o : Out) : Option Nat := match o with | .next t => some ((me t).regs.fpcsr.toNat / 16) | _ => none
/-- Element 0 of v4 after VOP.T v4, v1, v2 on the elements x and y. -/
def vop (f : Hdr → VBin → Instr) (t : ElemType) (x y : Nat) : Option Nat :=
  vAfter (exec (f h0 ⟨t, 4, 1, .reg 2⟩) (vready t.width [x] [y] [])) 4 t.width 0

theorem test_vector_hypotheses :
    (∀ p ∈ vecInts, wf (p.1 h0 ⟨.s8, 4, 1, .reg 2⟩) = true ∧ wf (p.1 h0 ⟨.n64, 4, 1, .imm 4⟩) = true) ∧
    VIssues h0 8 (.v 4 :: .v 1 :: vsrcRn (.reg 2)) (vready 8 [1] [2] []) ∧
    VIssues h0 64 (.v 4 :: .v 1 :: vsrcRn (.imm 4)) (vready 64 [1] [2] []) ∧
    VIssues h0 2 (.v 4 :: .v 1 :: vsrcRn (.reg 2)) (vready 2 [1] [2] []) :=
  ⟨by simp [vecInts]; decide, vissues _ _, vissues _ _, vissues _ _⟩
/-- R125: wrapping and saturating arithmetic, the high half, minima, maxima and shifts. -/
theorem test_vector_integers : vop .vadd .s8 255 1 = some 0 ∧ vop .vsub .n16 0 1 = some 0xFFFF ∧ vop .vmul .n32 0x10001 0x10000 = some 0x10000 ∧
    vop .vadds .s8 100 100 = some 127 ∧ vop .vsubs .n8 1 2 = some 0 ∧ vop .vmulh .s16 0xFFFF 2 = some 0xFFFF ∧
    vop .vmin .s8 0x80 1 = some 0x80 ∧ vop .vmax .n8 0x80 1 = some 0x80 ∧ vop .vsha .s16 0xFFEF 4 = some 0xFFFE ∧
    vop .vshl .s8 1 8 = some 0 ∧ vop .vshr .n64 0x8000000000000000 63 = some 1 := by decide +kernel
/-- R127: bitwise rows on bytes, and the absolute value and negative of −128. -/
theorem test_vector_bits : vop .vand .s8 12 10 = some 8 ∧ vop .vor .s8 12 10 = some 14 ∧ vop .vxor .s8 12 10 = some 6 ∧
    vop .vandn .s8 12 10 = some 4 ∧ vAfter (exec (.vabs h0 ⟨.s8, 4, 1⟩) (vready 8 [0x80, 0xFF] [] [])) 4 8 0 = some 0x80 ∧
    vAfter (exec (.vneg h0 ⟨.s8, 4, 1⟩) (vready 8 [5] [] [])) 4 8 0 = some 0xFB := by decide +kernel

theorem test_vector_float_hypotheses : ElemType.f.inF = true ∧ ElemType.bf2.inF = true ∧
    VIssues h0 32 (.v 4 :: .v 1 :: vsrcRn (.reg 2)) (vready 32 [0] [0] []) ∧
    VIssues h0 32 (.v 4 :: .v 1 :: .v 3 :: vsrcRn (.reg 2)) (vready 32 [0] [0] [0]) ∧
    VIssues h0 32 [.v 4, .v 1] (vready 32 [0] [] []) ∧ ElemType.s8.inS = true ∧ VIssues h0 8 [.v 4, .v 1] (vready 8 [0] [] []) :=
  ⟨rfl, rfl, vissues _ _, vissues _ _, vissues _ _, rfl, vissues _ _⟩
/-- R126 in FP32: 1.5 + 2.25, 3 − 1, 2 × 3, 1 ÷ 3 rounded, minima and maxima; 1 ÷ 0 raises DZ (R24). -/
theorem test_vector_floats : vop .vadd .f 0x3FC00000 0x40100000 = some 0x40700000 ∧ vop .vsub .f 0x40400000 0x3F800000 = some 0x40000000 ∧
    vop .vmul .f 0x40000000 0x40400000 = some 0x40C00000 ∧ vop .vdiv .f 0x3F800000 0x40400000 = some 0x3EAAAAAB ∧
    vop .vmin .f 0xBF800000 0x3F800000 = some 0xBF800000 ∧ vop .vmax .f 0xBF800000 0x3F800000 = some 0x3F800000 ∧
    flagsAfter (exec (.vdiv h0 ⟨.f, 4, 1, .imm 0⟩) (vready 32 (List.replicate 32 0x3F800000) [] [])) = some 8 := by decide +kernel
/-- R126: 2 × 3 with 1 added, taken away, and taken from 1; roots and reciprocals of exact values; √−1 is the default NaN. -/
theorem test_vector_fused : let s := vready 32 [0x40000000] [0x40400000] [0x3F800000]
    vAfter (exec (.vfma h0 ⟨.f, 4, 1, .reg 2, 3⟩) s) 4 32 0 = some 0x40E00000 ∧
    vAfter (exec (.vfms h0 ⟨.f, 4, 1, .reg 2, 3⟩) s) 4 32 0 = some 0x40A00000 ∧
    vAfter (exec (.vfnma h0 ⟨.f, 4, 1, .reg 2, 3⟩) s) 4 32 0 = some 0xC0A00000 ∧
    vAfter (exec (.vsqrt h0 ⟨.f, 4, 1⟩) s) 4 32 0 = some 0x3FB504F3 ∧ vAfter (exec (.vrcp h0 ⟨.f, 4, 1⟩) s) 4 32 0 = some 0x3F000000 ∧
    vAfter (exec (.vrsq h0 ⟨.f, 4, 1⟩) (vready 32 [0x40800000] [] [])) 4 32 0 = some 0x3F000000 ∧
    vAfter (exec (.vsqrt h0 ⟨.f, 4, 1⟩) (vready 32 [0xBF800000] [] [])) 4 32 0 = some 0x7FC00000 := by decide +kernel

theorem test_vector_predicate_hypotheses : wf (.vcmp h0 ⟨.lt, .f, 3, 1, .imm 0⟩) = true ∧
    VIssues h0 32 (.v 1 :: vsrcRn (.imm 0)) (vready 32 [1] [] []) ∧ VIssues h0 16 ([.v 4, .v 1] ++ vsrcRn (.imm 0)) (vready 16 [1] [] []) ∧
    VIssues h0 8 [] (ready []) ∧ VIssues h0 32 [.g 6] (ready []) := ⟨rfl, vissues _ _, vissues _ _, vissues _ _, vissues _ _⟩
def pAfter (o : Out) (i : PReg) : Option Nat := match o with | .next t => some (getP (me t).regs i).toNat | _ => none
/-- R128 to R132: the lanes of the FP32 elements below 0, the choice by a predicate, and the index 32 of no element. -/
theorem test_vector_predicates :
    pAfter (exec (.vcmp h0 ⟨.lt, .f, 3, 1, .imm 0⟩) (vready 32 [0x3F800000, 0xBF800000] [] [])) 3 = some 0xF0 ∧
    vAfter (exec (.vsel h0 ⟨.bf, 4, 1, .imm 0, 3⟩) (vready 16 [7] [] [])) 4 16 0 = some 0 ∧
    pAfter (exec (.pnot h0 4 0) (ready [])) 4 = some 0 ∧ pAfter (exec (.por h0 ⟨4, 0, 3⟩) (ready [])) 4 = some (2 ^ 128 - 1) ∧
    pAfter (exec (.pand h0 ⟨4, 0, 3⟩) (ready [])) 4 = some 0 ∧ pAfter (exec (.pxor h0 ⟨4, 0, 3⟩) (ready [])) 4 = some (2 ^ 128 - 1) ∧
    gAfter (exec (.vcnt h0 ⟨.h, 6, 0⟩) (ready [])) 6 = some 64 ∧ gAfter (exec (.vfirst h0 ⟨.f, 6, 3⟩) (ready [])) 6 = some 32 := by
  decide +kernel

theorem test_permute_hypotheses : VIssues h0 8 ([.v 4, .v 1] ++ vsrcRn (.reg 2)) (ready []) ∧ VIssues h0 32 [.v 4, .v 1, .v 2] (ready []) ∧
    VIssues h0 32 [.v 4, .v 1, .v 2, .g 9] (ready []) ∧ VIssues h0 2 (.v 4 :: srcRn (.imm 1)) (ready []) ∧
    VIssues h0 64 (.v 4 :: srcRn (.reg 9)) (ready []) ∧ VIssues h0 4 [.v 4, .v 1] (ready []) ∧
    VIssues h0 64 ([.g 7, .v 1] ++ srcRn (.imm 16)) (ready []) ∧ VIssues h0 64 ([.v 5, .g 7] ++ srcRn (.imm 3)) (ready []) :=
  ⟨vissues _ _, vissues _ _, vissues _ _, vissues _ _, vissues _ _, vissues _ _, vissues _ _, vissues _ _⟩
/-- R133 to R137: selection out of range gives 0, the zips and unzips, and the example of VSLIDE. -/
theorem test_permutes : let s := vready 32 (List.range 32) ((List.range 32).map (· + 100)) [31, 32] [(9, 1)]
    vAfter (exec (.vperm h0 ⟨.f, 4, 1, 3⟩) s) 4 32 0 = some 31 ∧ vAfter (exec (.vperm h0 ⟨.f, 4, 1, 3⟩) s) 4 32 1 = some 0 ∧
    vAfter (exec (.vshuf h0 0 ⟨.f, 4, 1, 2⟩) s) 4 32 3 = some 101 ∧ vAfter (exec (.vshuf h0 1 ⟨.f, 4, 1, 2⟩) s) 4 32 2 = some 17 ∧
    vAfter (exec (.vshuf h0 2 ⟨.f, 4, 1, 2⟩) s) 4 32 17 = some 102 ∧ vAfter (exec (.vshuf h0 3 ⟨.f, 4, 1, 2⟩) s) 4 32 1 = some 3 ∧
    vAfter (exec (.vslide h0 ⟨.f, 4, 1, 2⟩ 9) s) 4 32 30 = some 31 ∧ vAfter (exec (.vslide h0 ⟨.f, 4, 1, 2⟩ 9) s) 4 32 31 = some 100 ∧
    vAfter (exec (.vpermb h0 4 1 (.imm 0x80)) s) 4 8 5 = some 0 ∧ vAfter (exec (.vpermb h0 4 1 (.imm 4)) s) 4 8 5 = some 1 := by
  decide +kernel
theorem test_vector_moves : let s := vready 64 [1, 2, 3] [] [] [(7, 0xABCD)]
    vAfter (exec (.vins h0 ⟨.d, 1, 7, .imm 3⟩) s) 1 64 3 = some 0xABCD ∧ vAfter (exec (.vins h0 ⟨.d, 1, 7, .imm 3⟩) s) 1 64 2 = some 3 ∧
    gAfter (exec (.vext h0 ⟨.s64, 6, 1, .imm 2⟩) s) 6 = some 3 ∧ gAfter (exec (.vext h0 ⟨.s64, 6, 1, .imm 16⟩) s) 6 = some 0 ∧
    vAfter (exec (.vbcast h0 ⟨.h, 4, .reg 7⟩) s) 4 16 63 = some 0xABCD ∧ vAfter (exec (.vidx h0 ⟨.n8, 4, .imm 250⟩) s) 4 8 7 = some 1 ∧
    vAfter (exec (.vmov h0 ⟨.t2, 4, 1⟩) s) 4 64 1 = some 2 := by decide +kernel

theorem test_reduction_hypotheses : ElemType.n16.inI = true ∧ wf (.vred h0 .max .n16 4 3 0) = true ∧ wf (.vred h0 .min .h 4 3 0) = true ∧
    wf (.vscan h0 .add .n16 4 3 0) = true ∧ VIssues h0 16 [.g 4, .v 3] (ready []) ∧ VIssues h0 16 [.v 4, .v 3] (ready []) ∧
    VIssues h0 32 ([.v 4, .v 1, .v 3] ++ vsrcRn (.reg 2)) (ready []) ∧ VIssues h0 32 ([.v 4, .v 1, .v 3] ++ vsrcRn (.imm 2)) (ready []) :=
  ⟨rfl, rfl, rfl, rfl, vissues _ _, vissues _ _, vissues _ _, vissues _ _⟩
/-- R138 to R141: the largest element, running sums, and a sum of four products. -/
theorem test_reductions : gAfter (exec (.vred h0 .max .n16 4 3 0) (vready 16 [] [] [5, 0xFFFF, 7])) 4 = some 0xFFFF ∧
    gAfter (exec (.vred h0 .add .s16 4 3 0) (vready 16 [] [] [5, 0xFFFF, 7])) 4 = some 11 ∧
    gAfter (exec (.vred h0 .and .s8 4 3 1) (vready 8 [] [] [5])) 4 = some (-1) ∧
    vAfter (exec (.vscan h0 .add .s32 6 1 0) (vready 32 [1, 2, 3] [] [])) 6 32 2 = some 6 ∧
    vAfter (exec (.vdot4 h0 false false 4 1 (.reg 2) 3) (vready 8 [1, 2, 3, 0xFF] [5, 6, 7, 8] [10])) 4 32 0 = some 40 := by
  decide +kernel

theorem test_accumulator_hypotheses : VIssues h0 64 [.v 7] (ready []) ∧ VIssues h0 64 ([.v 7, .v 5] ++ vsrcRn (.reg 2)) (ready []) ∧ VIssues h0 64 ([.v 7, .v 5] ++ vsrcRn (.imm 2)) (ready []) ∧
    wf (.vxaccRd h0 .f 8 7) = true ∧ VIssues h0 32 [.v 8, .v 7] (ready []) ∧ wf (.vcvt h0 ⟨.s64, .s32, false, 1, 6, 4⟩) = true ∧
    wf (.vcvt h0 ⟨.e5, .d, true, 7, 6, 4⟩) = true ∧ VIssues h0 8 [.v 6, .v 4] (ready []) ∧ VIssues h0 64 [.v 6, .v 4] (ready []) :=
  ⟨vissues _ _, vissues _ _, vissues _ _, rfl, vissues _ _, by decide, by decide, vissues _ _, vissues _ _⟩
/-- R54, R142 to R144: the terms (1002, −3), (−37, −1) and (20, −6) leave 107.0. -/
theorem test_accumulator : let go (i : Instr) (o : Out) : Out := match o with | .next t => exec i t | x => x
    let s := vready 64 [1002] [0xFFFD] []
    let add (a e : Nat) (o : Out) : Out := go (.vxaccAdd h0 7 1 (.reg 2))
      (match o with | .next t => .next (updMe t fun k => { k with regs := putV (putV k.regs 1 (vreg 64 [a])) 2 (vreg 64 [e]) }) | x => x)
    vAfter (go (.vxaccRd h0 .f 8 7) (add 20 0xFFFA (add (2 ^ 64 - 37) 0xFFFF (add 1002 0xFFFD (exec (.vxaccClr h0 7) s))))) 8 32 0
      = some 0x42D60000 := by decide +kernel
/-- R145: the example of part1, a ternarising conversion, and bf to f. -/
theorem test_convert : vAfter (exec (.vcvt h0 ⟨.s64, .s32, false, 1, 6, 1⟩) (vready 32 (List.replicate 16 0 ++ [2 ^ 32 - 9]) [] [])) 6 64 0
      = some (2 ^ 64 - 9) ∧
    vAfter (exec (.vcvt h0 ⟨.t2, .s8, false, 0, 6, 1⟩) (vready 8 [2 ^ 8 - 5, 9] [] [])) 6 4 0 = some 7 ∧
    vAfter (exec (.vcvt h0 ⟨.f, .bf, false, 0, 6, 1⟩) (vready 16 [0x3FC0] [] [])) 6 32 0 = some 0x3FC00000 := by decide +kernel

/-- The number 1.5, and a NaN, in each format (R40, R41). -/
theorem test_number_hypotheses : (∀ p ∈ [(ElemType.d, 0x3FF8000000000000), (.f, 0x3FC00000), (.bf, 0x3FC0), (.h, 0x3E00), (.e5, 0x3E), (.e4, 0x3C)],
      numOf (fmtOf p.1) p.2 = some (3 / 2) ∧ ¬ nanPat (fmtOf p.1) p.2) ∧
    (∀ p ∈ [(ElemType.d, 0x7FF8000000000000), (.f, 0x7FC00000), (.bf, 0x7FC0), (.h, 0x7E00)], nanPat (fmtOf p.1) p.2) ∧
    (3 / 2 : ℝ) ≠ 0 ∧ (0 : ℝ) ≤ 3 / 2 ∧ (0 : ℝ) < 3 / 2 ∧ Cond.signed .ne = true ∧ ElemType.s8.inI = true ∧ 0x80 < 2 ^ ElemType.s8.width ∧
    numOf (fmtOf .h) 0x7C00 = none := by
  refine ⟨?_, ?_, by norm_num, by norm_num, by norm_num, rfl, rfl, by decide, by norm_num [numOf, fmtOf]⟩
  · intro p hp; simp only [List.mem_cons, List.not_mem_nil, or_false] at hp
    rcases hp with rfl | rfl | rfl | rfl | rfl | rfl <;> refine ⟨?_, ?_⟩ <;> norm_num [numOf, fmtOf, nanPat, Nat.testBit, Nat.shiftRight_eq_div_pow]
  · intro p hp; simp only [List.mem_cons, List.not_mem_nil, or_false] at hp
    rcases hp with rfl | rfl | rfl | rfl <;> norm_num [fmtOf, nanPat]
/-- In each format of arithmetic 0, an infinity with its sign, a quiet and a signalling NaN; a subnormal; a ternary type (R37, R41). -/
theorem test_special_number_hypotheses : (∀ p ∈ [(ElemType.d, 0x7FF0000000000000, 0x7FF8000000000000, 0x7FF0000000000001),
      (.f, 0x7F800000, 0x7FC00000, 0x7F800001), (.bf, 0x7F80, 0x7FC0, 0x7F81), (.h, 0x7C00, 0x7E00, 0x7C01)],
      numOf (fmtOf p.1) 0 = some 0 ∧ infPat (fmtOf p.1) p.2.1 ∧ negPat (fmtOf p.1) p.2.1 = false ∧ ¬ nanPat (fmtOf p.1) p.2.1 ∧
      nanPat (fmtOf p.1) p.2.2.1 ∧ ¬ signallingPat (fmtOf p.1) p.2.2.1 ∧ signallingPat (fmtOf p.1) p.2.2.2) ∧
    infPat (fmtOf .e5) 0x7C ∧ nanPat (fmtOf .e4) 0x7F ∧ negPat (fmtOf .h) 0xFC00 = true ∧ fzIn (fmtOf .h) 0x8001 = 0x8000 ∧
    Machine.ElemType.isInt .t2 = true ∧ 3 < 2 ^ ElemType.t2.width ∧ intVal .t2 3 = -1 := by
  refine ⟨?_, ?_, ?_, ?_, ?_, ?_, ?_, ?_⟩
  · intro p hp; simp only [List.mem_cons, List.not_mem_nil, or_false] at hp
    rcases hp with rfl | rfl | rfl | rfl <;> refine ⟨?_, ?_, ?_, ?_, ?_, ?_, ?_⟩ <;>
      norm_num [numOf, fmtOf, nanPat, infPat, signallingPat, negPat, Nat.testBit, Nat.shiftRight_eq_div_pow]
  · norm_num [infPat, fmtOf]
  · norm_num [nanPat, fmtOf]
  all_goals decide +kernel
/-- R176 in FP32 and on a pair of bf: 1.5 + 1.5, a NaN on one side; the lower half is element 0. -/
theorem test_float_atomics : atomVal (.flt .fadd .f) 4 0x3FC00000 0x3FC00000 0 = 0x40400000 ∧
    atomVal (.flt .fmin .f) 4 0x7FC00000 0x3FC00000 0 = 0x3FC00000 ∧ atomVal (.flt .fadd .bf2) 4 0x3FC00000 0x3FC03FC0 0 = 0x40403FC0 ∧
    (0x3FC03F80 < 2 ^ (8 * fsBytes .bf2) ∧ 0x3FC03F80 / 2 ^ (16 * 1) % 2 ^ 16 = 0x3FC0 ∧ 1 < 2) := by decide +kernel

/-! ## Memory -/

def atG (b : GReg) (sp : Space) (d : Nat := 0) (x : GReg := 0) (xs : Fin 4 := 0) : Addr := ⟨b, x, xs, BitVec.ofNat 39 d, sp⟩
/-- The tenant of croft 0 changed by f, the acting croft by k, the set by m. -/
def onTen (f : Tenant → Tenant) (s : State) : State := updTen s 0 f
def onCroft (f : Croft → Croft) (s : State) : State := setCroft s 0 (f (croftAt s 0))
/-- Bytes at an offset of croft memory. -/
def bytesIn (off : Nat) (l : List Byte) : State → State := onTen fun t => { t with mem := storeBytes t.mem off l }
def cmAfter (o : Out) (off n : Nat) : Option Nat := match o with | .next t => some (cmGet t 0 off n) | _ => none

theorem own {s : State} {sp : Space} {a n off : Nat} (h : placeOf sp a = some (.own off) ∧ off + n ≤ 0x10000 ∧
    poisonIn (fun b => cmMark s (myTen s) b) off n = none ∧ forward s (myTen s + 1) off n = none := by decide +kernel) :
    OwnAt s sp a n off := ⟨h.1, h.2.1, h.2.2.1, h.2.2.2⟩
theorem reads {s : State} {n off : Nat} (h : forward s (myTen s + 1) off n = none ∧
    poisonIn (fun b => cmMark s (myTen s) b) off n = none) : OwnReads s n off (cmGet s (myTen s) off n) := .inl ⟨h.1, h.2, rfl⟩
/-- Own croft memory at the places of each form, that no store on its way touches. -/
theorem test_own_load_hypotheses : let s := ready [(4, 0x100), (6, 3)]
    Issues h0 (.g 5 :: addrRn (atG 4 .own)) s ∧ placeOf .own (ea s (atG 4 .own)).toNat = some (.own 0x100) ∧
    placeOf .own 0xFFF8 = some (.own 0xFFF8) ∧ placeOf .virt 0x01FFFF000000FFFF = some (.own 0xFFFF) ∧
    (∀ off < 16, OwnReads s 8 (0x100 + 8 * off) (cmGet s (myTen s) (0x100 + 8 * off) 8)) ∧
    wf (.ldq h0 ⟨4, atG 4 .own, false⟩) = true ∧ VIssues h0 64 (.v 1 :: addrRn (atG 4 .own)) s ∧
    (∀ i < 16, placeOf .own (ldvAddr s (atG 4 .own) 64 i) = some (.own (0x100 + 8 * i))) ∧
    wf (.ldvs h0 ⟨1, atG 4 .own 0 6 3, .b64, false⟩) = true ∧
    (∀ i < 16, placeOf .own (strideAddr s (atG 4 .own 0 6 3) i) = some (.own (0x100 + 24 * i))) ∧
    wf (.gath h0 ⟨1, 4, 2, 3, 0, .own, .b64, false⟩) = true ∧ VIssues h0 64 [.v 1, .g 4, .v 2] s ∧
    (∀ i < 16, placeOf .own (gatherAddr s ⟨1, 4, 2, 3, 0, .own, .b64, false⟩ 64 i) = some (.own 0x100)) := by
  have h : ∀ i < 16, forward (ready [(4, 0x100), (6, 3)]) (myTen (ready [(4, 0x100), (6, 3)]) + 1) (0x100 + 8 * i) 8 = none ∧
    poisonIn (fun b => cmMark (ready [(4, 0x100), (6, 3)]) (myTen (ready [(4, 0x100), (6, 3)])) b) (0x100 + 8 * i) 8 = none := by
      decide +kernel
  refine ⟨issues _, ?_, ?_, ?_, fun i hi => reads (h i hi), rfl, vissues _ _, ?_, rfl, ?_, rfl, vissues _ _, ?_⟩ <;> decide +kernel
/-- R156: the example LD.s16 g5, [g4 + g6<<1 + 2], little-endian and sign-extended; a pair; elements at a stride. -/
theorem test_own_loads : let s := bytesIn 0x104 [0xFE, 0xFF, 1, 2, 3, 4, 5, 6, 7] (ready [(4, 0x100), (6, 1)])
    gAfter (exec (.ld h0 ⟨5, atG 4 .own 2 6 1, 5, false⟩) s) 5 = some (-2) ∧
    gAfter (exec (.ld h0 ⟨5, atG 4 .own 6, 2, false⟩) s) 5 = some 0x04030201 ∧
    gAfter (exec (.ldq h0 ⟨8, atG 4 .own 4, false⟩) s) 9 = some 7 ∧
    vAfter (exec (.ldv h0 ⟨1, atG 4 .own 4, .b16, false⟩) s) 1 16 1 = some 0x0201 ∧
    vAfter (exec (.ldvs h0 ⟨1, atG 4 .own 4 6 1, .b8, false⟩) s) 1 8 3 = some 5 ∧
    vAfter (exec (.gath h0 ⟨1, 4, 2, 1, 4, .own, .b32, false⟩) (updMe s fun k => { k with regs := putV k.regs 2 (vreg 32 [1]) })) 1 32 0
      = some 0x04030201 := by decide +kernel

theorem test_own_store_hypotheses : let s := ready [(4, 0x100), (5, -2), (7, 0x123)]
    Issues h0 ([.g 5] ++ addrRn (atG 4 .own) ++ emRn (some 7)) s ∧ markBad s (markOf s (some 7)) = false ∧ markBad s (markOf s none) = false ∧
    placeOf .own (ea s (atG 4 .own)).toNat = some (.own 0x100) ∧ placeOf .own 0xFFFC = some (.own 0xFFFC) ∧
    wf (.stq h0 ⟨4, atG 4 .own, some 7⟩) = true ∧
    Issues h0 ([.g 4, .g (4 + 1)] ++ addrRn (atG 4 .own) ++ emRn (some 7)) s ∧
    VIssues h0 64 (.v 1 :: addrRn (atG 4 .own) ++ emRn none) s ∧
    (∀ i < 1024 / 64, active (guardBits h0 s) 64 i = true →
      placeOf .own (ldvAddr s (atG 4 .own) 64 i) = some (.own (0x100 + 8 * i)) ∧ 0x100 + 8 * i + 64 / 8 ≤ 0x10000) ∧
    wf (.stvs h0 ⟨1, atG 4 .own 0 7 0, .b32, false⟩) = true ∧ VIssues h0 32 (.v 1 :: addrRn (atG 4 .own 0 7 0)) s ∧
    (∀ i < 1024 / 32, active (guardBits h0 s) 32 i = true →
      placeOf .own (strideAddr s (atG 4 .own 0 7 0) i) = some (.own (0x100 + 0x123 * i)) ∧ 0x100 + 0x123 * i + 32 / 8 ≤ 0x10000) ∧
    wf (.scat h0 ⟨1, 4, 2, 0, 0, .own, .b32, false⟩) = true ∧ VIssues h0 32 [.v 1, .g 4, .v 2] s ∧
    (∀ i < 1024 / 32, active (guardBits h0 s) 32 i = true →
      placeOf .own (gatherAddr s ⟨1, 4, 2, 0, 0, .own, .b32, false⟩ 32 i) = some (.own 0x100) ∧ 0x100 + 32 / 8 ≤ 0x10000) := by
  refine ⟨issues _, ?_, ?_, ?_, ?_, rfl, issues _, vissues _ _, ?_, rfl, vissues _ _, ?_, rfl, vissues _ _, ?_⟩ <;> decide +kernel
/-- R156 to R161: bytes in order, and of two elements at one place the higher; the earmark of a .mk store (R168). -/
theorem test_own_stores : let s := ready [(4, 0x100), (5, 0x1122334455667788), (7, 0x123)] fun k =>
      { k with regs := putV k.regs 1 (vreg 32 [1, 2, 3]) }
    cmAfter (exec (.st h0 ⟨5, atG 4 .own, 1, none⟩) s) 0xFF 4 = some 0x778800 ∧
    cmAfter (exec (.stq h0 ⟨4, atG 4 .own, some 7⟩) s) 0x100 16 = some (0x100 + 0x1122334455667788 * 2 ^ 64) ∧
    cmAfter (exec (.stv h0 ⟨1, atG 4 .own, .b32, none⟩) s) 0x100 12 = some 0x300000002_00000001 ∧
    cmAfter (exec (.stvs h0 ⟨1, atG 4 .own 0 7, .b32, false⟩) s) (0x100 + 0x246) 4 = some 3 ∧
    cmAfter (exec (.scat h0 ⟨1, 4, 2, 0, 0, .own, .b32, false⟩) s) 0x100 4 = some 0 ∧
    (match exec (.st h0 ⟨5, atG 4 .own, 1, some 7⟩) s with | .next t => some (cmMark t 0 0x13F) | _ => none) = some 0x123 := by decide +kernel

theorem test_virtual_load_hypotheses : let s := ready [(4, 0x48)]
    let post (a : Nat) := ready [(4, 0x48)] fun k => { k with posted := [⟨1, 0, a, [(a, List.replicate 8 7)], none, [1]⟩] }
    Issues h0 (.g 5 :: addrRn (atG 4 .virt)) s ∧ placeOf .virt (ea s (atG 4 .virt)).toNat = some (.virt 0x48) ∧
    rangeOk (winsOf s) Window.r 0x48 8 = true ∧ 0x48 % 32 + 8 ≤ 32 ∧ forward s 0 0x48 8 = none ∧
    forward (post 0x4C) 0 0x48 8 = some none ∧ forward (post 0x48) 0 0x48 8 = some (some 0x0707070707070707) ∧
    l1Find s 0 (tagOf (resOf s 0x48).glob (resOf s 0x48).asid) (0x48 / 32) = none ∧
    (l1Find (onCroft (fun k => { k with l1 := [⟨tagOf (resOf s 0x48).glob (resOf s 0x48).asid, 2, 9, 0⟩] }) s) 0
      (tagOf (resOf s 0x48).glob (resOf s 0x48).asid) (0x48 / 32)).isSome = true ∧ 0x48 % 16 + 8 ≤ 16 := by
  refine ⟨issues _, ?_, ?_, by decide, ?_, ?_, ?_, ?_, ?_, by decide⟩ <;> decide +kernel
/-- R149, R151: a load that no posted store covers leaves the rotation; one that is covered takes the newest bytes. -/
theorem test_virtual_loads : modeAfter (exec (.ld h0 ⟨5, atG 4 .virt, 3, false⟩) (ready [(4, 0x48)])) = some .awaiting ∧
    gAfter (exec (.ld h0 ⟨5, atG 4 .virt, 0, false⟩) (ready [(4, 0x49)] fun k =>
      { k with posted := [⟨1, 0, 0x48, [(0x48, [1, 2, 3, 4])], none, [1]⟩, ⟨2, 0, 0x49, [(0x49, [9])], none, [1]⟩] })) 5 = some 9 := by decide +kernel

theorem test_virtual_store_hypotheses : let s := ready [(4, 0x48), (5, 7)]
    let full := ready [(4, 0x48), (5, 7)] fun k => { k with o1 := 255, o2 := 255, o3 := 255 }
    Issues h0 ([.g 5] ++ addrRn (atG 4 .virt) ++ emRn none) s ∧ Issues h0 ([.g 5] ++ addrRn (atG 4 .virt) ++ emRn none) full ∧
    markBad s (markOf s none) = false ∧ placeOf .virt (ea s (atG 4 .virt)).toNat = some (.virt 0x48) ∧
    rangeOk (winsOf s) Window.w 0x48 8 = true ∧ 0x48 % 64 + 8 ≤ 64 ∧ countOf 1 (me s) < 255 ∧ countOf 2 (me s) < 255 ∧
    (me s).o1 ≤ 255 ∧ (me full).o1 ≤ 255 ∧ (me full).o2 ≤ 255 ∧ (me full).o3 ≤ 255 ∧ 255 ≤ countOf 1 (me full) ∧ 255 ≤ countOf 2 (me full) := by
  refine ⟨issues _, issues _, ?_, ?_, ?_, by decide, by decide, by decide, by decide, by decide, by decide, by decide,
    by decide, by decide⟩ <;> decide +kernel
theorem test_virtual_stores : (match exec (.st h0 ⟨5, atG 4 .virt, 3, none⟩) (ready [(4, 0x48), (5, 7)]) with
      | .next t => some ((me t).o1 + (me t).o2 + (me t).o3, t.net.length, (me t).posted.length) | _ => none) = some (1, 1, 1) := by decide +kernel

def deniedB (s : State) (right : Window → Bool) (debug virt : Bool) (sp : Space) (a n x : Nat) : Bool :=
  match placeOf sp a with
  | none => x == a
  | some p => x == p.addr && match p with
    | .own off => decide (0x10000 < off + n)
    | .virt va => !virt || !rangeOk (winsOf s) right va n
    | .rem t off => decide (0x10000 < off + n) || !inSet s (mySetId s) t
    | .dbg t off => !debug || decide (0x4000 < off + n) || !inSet s (mySetId s) t
theorem denied_iff {s : State} {right : Window → Bool} {d v : Bool} {sp : Space} {a n x : Nat} :
    deniedB s right d v sp a n x = true ↔ Denied s right d v sp a n x := by
  unfold deniedB Denied; rcases placeOf sp a with _ | _ | _ | _ | _ <;> simp [or_assoc]
def atomDeniedB (s : State) (a n x : Nat) : Bool :=
  match placeOf .virt a with
  | none => x == a
  | some (.virt va) => x == va && !rangeOk (winsOf s) Window.rw va n
  | some p => x == p.addr
theorem atomDenied_iff {s : State} {a n x : Nat} : atomDeniedB s a n x = true ↔ AtomDenied s a n x := by
  unfold atomDeniedB AtomDenied; rcases placeOf .virt a with _ | _ | _ | _ | _ <;> simp

/-- Addresses past the end of own memory (4), of no window (5), of a croft of another set and past the end of a croft (6, 7), of a debug
window (8) and past its end (9), of no region (10); an index vector whose element 1 reaches past every window. -/
def deniedState (f : Context → Context := id) : State :=
  ready [(4, 0x01FFFF000000FFF9), (5, 0x10000000), (6, 0x01FE000005000100), (7, 0x01FE00000000FFF9), (8, 0x01FE010000000000),
    (9, 0x01FE010000003FF9), (10, 0x0200000000000000), (11, 0x44), (12, 0x48)] fun k => f { k with regs := putV k.regs 2 (vreg 64 [0, 0x20000000, 4]) }
/-- R30, R147, R148, R162, R176, R378: an address of each kind that is denied, for each kind of form. -/
theorem test_denied_hypotheses : let s := deniedState
    let g (i : GReg) : Nat := (ea s (atG i .virt)).toNat
    (∀ i ∈ [4, 5, 6, 7, 9, 10], ∃ x, Denied s Window.r true true .virt (g i) 8 x ∧ Denied s Window.w true true .virt (g i) 16 x) ∧
    (∀ i ∈ [5, 6, 8, 10], ∃ x, Denied s Window.r false true .virt (g i) 1 x ∧ Denied s (fun _ => true) false false .virt (g i) 8 x) ∧
    Denied s (fun _ => true) false false .virt (g 12) 8 0x48 ∧ g 12 % 8 = 0 ∧
    (∀ i : GReg, Issues h0 (.g 5 :: addrRn (atG i .virt)) s ∧ Issues h0 ([.g 20, .g (20 + 1)] ++ addrRn (atG i .virt)) s) ∧
    (let u := deniedState user;
      placeOf .virt (ea u (atG 8 .virt)).toNat = some (.dbg 0 0) ∧ (me u).priv = false ∧ inSet u (mySetId u) 0 = true ∧
      Issues h0 (.g 5 :: addrRn (atG 8 .virt)) u) ∧
    FirstDenied s Window.r .virt 8 (activeEls h0 64 s) (gatherAddr s ⟨1, 12, 2, 0, 0, .virt, .b64, false⟩ 64) 0x20000048 ∧
    wf (.gath h0 ⟨1, 12, 2, 0, 0, .virt, .b64, false⟩) = true ∧ VIssues h0 64 [.v 1, .g 12, .v 2] s ∧
    AtomFaults s 8 [0] (fun _ => g 11) cALIGN 0x44 ∧ (∀ i ∈ [5, 6, 8, 10], ∃ x, AtomFaults s 8 [0] (fun _ => g i) cPERM x) ∧
    AtomFaults s 8 (activeEls h0 64 s) (fun i => 0x48 + elem 64 (rdV s 2) i) cPERM 0x20000048 ∧
    placeOf .virt (g 12) ≠ some (.own (0xFF00 + 8 * s.cur.2)) := by
  have el : activeEls h0 64 deniedState = [0] ++ 1 :: (List.range 14).map (· + 2) := by decide +kernel
  refine ⟨?_, ?_, denied_iff.mp (by decide +kernel), by decide +kernel, fun i => ⟨issues _, issues _⟩, ?_, ?_, rfl, vissues _ _, ?_, ?_, ?_, ?_⟩
  · simp only [← denied_iff, List.forall_mem_cons, List.not_mem_nil, false_imp_iff, implies_true, and_true]
    refine ⟨⟨0x01FFFF000000FFF9, ?_⟩, ⟨0x10000000, ?_⟩, ⟨0x01FE000005000100, ?_⟩, ⟨0x01FE00000000FFF9, ?_⟩, ⟨0x01FE010000003FF9, ?_⟩,
      ⟨0x0200000000000000, ?_⟩⟩ <;> decide +kernel
  · simp only [← denied_iff, List.forall_mem_cons, List.not_mem_nil, false_imp_iff, implies_true, and_true]
    refine ⟨⟨0x10000000, ?_⟩, ⟨0x01FE000005000100, ?_⟩, ⟨0x01FE010000000000, ?_⟩, ⟨0x0200000000000000, ?_⟩⟩ <;> decide +kernel
  · exact ⟨by decide +kernel, by decide, by decide +kernel, issues _⟩
  · refine ⟨[0], 1, _, el, ?_, ?_⟩; swap; · rw [← denied_iff]; decide +kernel
    simp only [List.mem_singleton, forall_eq]; intro y
    have : placeOf .virt (gatherAddr deniedState ⟨1, 12, 2, 0, 0, .virt, .b64, false⟩ 64 0) = some (.virt 0x48) ∧
      rangeOk (winsOf deniedState) Window.r 0x48 8 = true := by decide +kernel
    unfold Denied; rw [this.1]; simp [this.2]
  · refine ⟨[], 0, [], rfl, by simp, ?_⟩
    have : (ea deniedState (atG 11 .virt)).toNat = 0x44 := by decide +kernel
    simp [this]
  · simp only [List.forall_mem_cons, List.not_mem_nil, false_imp_iff, implies_true, and_true]
    have f {x : Nat} {i : GReg} (h : (ea deniedState (atG i .virt)).toNat % 8 = 0 ∧ atomDeniedB deniedState (ea deniedState (atG i .virt)).toNat 8 x = true) :
        AtomFaults deniedState 8 [0] (fun _ => (ea deniedState (atG i .virt)).toNat) cPERM x :=
      ⟨[], 0, [], rfl, by simp, by rw [if_pos h.1]; exact ⟨rfl, atomDenied_iff.mp h.2⟩⟩
    refine ⟨⟨0x10000000, f ?_⟩, ⟨0x01FE000005000100, f ?_⟩, ⟨0x01FE010000000000, f ?_⟩, ⟨0x0200000000000000, f ?_⟩⟩ <;> decide +kernel
  · refine ⟨[0], 1, _, el, ?_, ?_⟩
    · simp only [List.mem_singleton, forall_eq, ← atomDenied_iff]
      have : 0x48 + elem 64 (rdV deniedState 2) 0 = 0x48 ∧ rangeOk (winsOf deniedState) Window.rw 0x48 8 = true := by decide +kernel
      rw [this.1]; refine ⟨by decide, ?_⟩; intro y; simp [atomDeniedB, placeOf, this]
    · have : (0x48 + elem 64 (rdV deniedState 2) 1) % 8 = 0 ∧ atomDeniedB deniedState (0x48 + elem 64 (rdV deniedState 2) 1) 8 0x20000048 = true := by
        decide +kernel
      simp only [this.1, if_true, ← atomDenied_iff, this.2, and_self]
  · decide +kernel

theorem test_earmark_hypotheses : let s := ready [(4, 0x140), (5, 0x01FF), (6, 0xFF00)]
    let u := ready [(4, 0x140), (6, 0xFF00)] user
    Issues h0 (.g 5 :: addrRn (atG 4 .own)) s ∧ placeOf .own (ea s (atG 4 .own)).toNat = some (.own 0x140) ∧
    markBad s (some ((rdG s 5).setWidth 16)) = false ∧ Issues h0 (.g 6 :: addrRn (atG 4 .own)) u ∧
    markBad u (some ((rdG u 6).setWidth 16)) = true ∧ poisoned (cmMark s (myTen s) 0x140) = false ∧
    (forwardMark s (.own (0x140 / 64 * 64))).getD (cmMark s (myTen s) 0x140) = 0 ∧ poisoned 0 = false ∧ Issues h0 (addrRn (atG 4 .virt)) s ∧
    Issues h0 [] s ∧ (me s).busy = false ∧ (me (ready [] fun k => { k with o2 := 1 })).busy = true ∧
    Issues h0 [] (ready [] fun k => { k with o2 := 1 }) := by
  refine ⟨issues _, ?_, ?_, issues _, ?_, ?_, ?_, by decide, issues _, issues _, by decide, by decide, issues _⟩ <;> decide +kernel
/-- R53, R167 to R174: an earmark written and read, a fence that waits, a drain of the classes it names. -/
theorem test_earmarks : let s := ready [(4, 0x140), (5, 0x01FF)]
    (match exec (.setmark h0 ⟨5, atG 4 .own⟩) s with | .next t => gAfter (exec (.getmark h0 ⟨6, atG 4 .own 0x3F⟩) t) 6 | _ => none) = some 0x01FF ∧
    pcAfter (exec (.pref h0 false (atG 4 .virt)) s) = some 12 ∧ pcAfter (exec (.invl h0 true (atG 4 .virt)) s) = some 12 ∧
    pcAfter (exec (.fence h0 .rel .field) (ready [] fun k => { k with o2 := 1 })) = some 0 ∧
    pcAfter (exec (.fence h0 .full .pkg) s) = some 12 ∧ pcAfter (exec (.drain h0 2) (ready [] fun k => { k with o2 := 1 })) = some 0 ∧
    pcAfter (exec (.drain h0 1) (ready [] fun k => { k with o2 := 1 })) = some 12 := by decide +kernel

theorem quiet {s : State} (h : (me s).stage = .open ∧ (me s).sub = 0 ∧ (me s).busy = false ∧ (me s).held = [] ∧
    (myCroft s).quiesce = false := by decide +kernel) : Quiet s := ⟨h.1, h.2.1, h.2.2.1, h.2.2.2.1, h.2.2.2.2⟩
/-- The full/empty word at an offset set full. -/
def full (off : Nat) : State → State := onTen fun t => { t with fe := sset t.fe (off / 8) true }
theorem test_full_empty_hypotheses : let s := ready [(4, 0x200), (5, 9), (6, 0x201), (7, 0xFF08)]
    Issues h0 (.g 5 :: addrRn (atG 4 .own)) s ∧ Quiet s ∧ OwnAt s .own (ea s (atG 4 .own)).toNat 8 0x200 ∧ (ea s (atG 4 .own)).toNat % 8 = 0 ∧
    (tenAt s (myTen s)).waiters = [] ∧ cmFull s (myTen s) 0x200 = false ∧ cmFull (full 0x200 s) (myTen (full 0x200 s)) 0x200 = true ∧
    Issues h0 (.g 5 :: addrRn (atG 4 .own)) (full 0x200 s) ∧ Quiet (full 0x200 s) ∧ OwnAt (full 0x200 s) .own 0x200 8 0x200 ∧
    Issues h0 [.g 5, .g 7] s ∧ placeOf .own (rdG s 7 + (0 : BitVec 39).signExtend 64).toNat = some (.own (0xFF00 + 8 * s.cur.2)) ∧
    cmFull s (myTen s) (0xFF00 + 8 * s.cur.2) = false ∧ s.cur.2 < 16 ∧ Issues h0 (.g 5 :: addrRn (atG 6 .own)) s ∧ (ea s (atG 6 .own)).toNat % 8 ≠ 0 ∧
    poisoned (cmMark s (myTen s) 0x200) = false ∧ (let u := onTen (fun t => { t with marks := [(8, 0xFF00)] }) s
      Issues h0 (.g 5 :: addrRn (atG 4 .own)) u ∧ poisoned (cmMark u (myTen u) 0x200) = true) := by
  refine ⟨issues _, quiet, own, ?_, ?_, ?_, ?_, issues _, quiet, own, issues _, ?_, ?_, by decide, issues _, ?_, ?_,
    issues _, ?_⟩ <;> decide +kernel
/-- R163: a take empties the word, a store waits where it is full, and FESTAT reads the block's bits. -/
theorem test_full_empty : let s := full 0x208 (bytesIn 0x208 [5] (ready [(4, 0x200), (5, 9)]))
    gAfter (exec (.ldfe h0 false ⟨6, atG 4 .own 8⟩) s) 6 = some 5 ∧
    (match exec (.ldfe h0 false ⟨6, atG 4 .own 8⟩) s with | .next t => some (cmFull t 0 0x208) | _ => none) = some false ∧
    modeAfter (exec (.stfe h0 false ⟨5, atG 4 .own 8⟩) s) = some .parked ∧ cmAfter (exec (.stfe h0 true ⟨5, atG 4 .own 8⟩) s) 0x208 8 = some 9 ∧
    gAfter (exec (.festat h0 ⟨6, atG 4 .own⟩) s) 6 = some 2 ∧
    (match exec (.wkick h0 5 4 0x7FD08 true) s with | .next t => some (modeAfter (.next t)) | _ => none) ≠ none := by decide +kernel

def amo0 : AmoO := ⟨.add, .b64, false, .none, 5, 4, 6, 0⟩
theorem test_atomic_hypotheses : let s := ready [(4, 0x40), (6, 3)]
    Issues h0 [.g 5, .g 4, .g 6] s ∧ Quiet s ∧ (rdG s 4 + (0 : BitVec 32).signExtend 64).toNat = 0x40 ∧ 0x40 % 16 = 0 ∧ 0x40 < vaEnd ∧
    rangeOk (winsOf s) Window.rw 0x40 16 = true ∧ rangeOk (winsOf s) Window.rw 0x40 8 = true ∧ rangeOk (winsOf s) Window.rw 0x40 4 = true ∧
    rangeOk (winsOf s) Window.rw 0x40 2 = true ∧ Issues h0 [.g 8, .g (8 + 1), .g 4, .g 6, .g (6 + 1)] s ∧
    VIssues h0 32 [.v 1, .g 4, .v 2] s ∧ vopBytes (.int .add false) = 4 ∧
    (∀ i < 32, (rdG s 4 + (BitVec.ofInt 64 (sgn 32 (elem 32 (rdV s 2) i)) <<< 0) + (0 : BitVec 32).signExtend 64).toNat = 0x40) ∧
    (4 ∈ [4, 8]) ∧ (2 ^ 32 - 1 < 2 ^ (8 * 4)) := by
  refine ⟨issues _, quiet, ?_, by decide, by decide, ?_, ?_, ?_, ?_, issues _, vissues _ _, rfl, ?_, by decide, by
    decide⟩ <;> decide +kernel
/-- R175 to R183: a returning atomic waits, a no-return one is held; the unit's results (R176). -/
theorem test_atomics : let s := ready [(4, 0x40), (6, 3)]
    modeAfter (exec (.amo h0 amo0) s) = some .awaiting ∧
    (match exec (.amo h0 { amo0 with nr := true, d := 0 }) s with | .next t => some ((me t).held.map Held.va) | _ => none) = some [0x40] ∧
    modeAfter (exec (.amof h0 ⟨.fadd, .f, false, .none, 5, 4, 6, 0⟩) s) = some .awaiting ∧
    modeAfter (exec (.cas h0 ⟨.s32, .none, 5, 4, 6, 0⟩) s) = some .awaiting ∧ modeAfter (exec (.cas2 h0 ⟨.none, 8, 4, 6, 0⟩) s) = some .awaiting ∧
    modeAfter (exec (.vamo h0 ⟨.int .add false, false, .none, 1, 4, 2, 0, 0⟩) s) = some .awaiting ∧
    atomVal (.int .min) 4 0xFFFFFFFF 1 0 = 0xFFFFFFFF ∧ atomVal (.int .minn) 4 0xFFFFFFFF 1 0 = 1 ∧ atomVal .cas 8 5 9 5 = 9 ∧
    atomVal .cas 8 5 9 6 = 5 := by decide +kernel

def unservedB (s : State) (debug : Bool) (p : Place) (n : Nat) : Bool :=
  match p with
  | .own _ => false
  | .virt va => rangeOk (winsOf s) Window.r va n && decide (forward s 0 va n = none) && (pieces 32 va n).all fun l =>
      decide (l1Find s s.cur.1 (tagOf (resOf s l.1).glob (resOf s l.1).asid) (l.1 / 32) = none)
  | .rem t off => decide (off + n ≤ 0x10000) && inSet s (mySetId s) t && decide (forward s (t + 1) off n = none)
  | .dbg t off => debug && (me s).priv && decide (off + n ≤ 0x4000) && inSet s (mySetId s) t &&
      decide (forward s (t + 1 + 2 ^ 24) off n = none)
theorem unserved_of {s : State} {na debug : Bool} {p : Place} {n : Nat} (h : unservedB s debug p n = true) : Unserved s na debug p n := by
  cases p <;> simp [unservedB, Unserved] at h ⊢ <;> tauto
def storableB (s : State) (debug : Bool) (p : Place) (n : Nat) : Bool :=
  match p with
  | .own _ => false
  | .virt va => rangeOk (winsOf s) Window.w va n
  | .rem t off => decide (off + n ≤ 0x10000) && inSet s (mySetId s) t
  | .dbg t off => debug && (me s).priv && decide (off + n ≤ 0x4000) && inSet s (mySetId s) t
theorem storable_of {s : State} {debug : Bool} {p : Place} {n : Nat} (h : storableB s debug p n = true) : Storable s debug p n := by
  cases p <;> simp [storableB, Storable] at h ⊢ <;> tauto
theorem of_els {h : Hdr} {w : Nat} {s : State} {P : Nat → Prop} (a : ∀ i < 1024 / w, P i) : ∀ i ∈ activeEls h w s, P i :=
  fun i hi => a i (List.mem_range.mp (List.mem_of_mem_filter hi))

/-- Addresses of device memory in g4, of the own croft as another's in g7, and of its debug window in g8; small indexes in g6 and v2. -/
def formState (f : Context → Context := id) : State :=
  ready [(4, 0x48), (6, 3), (7, 0x01FE000000000100), (8, 0x01FE010000000000)] fun k =>
    f { k with regs := putV k.regs 2 (vreg 64 (List.range 16)) }
/-- A store of the context to its own tenant by a remote form, on its way, of n bytes at 0x100. -/
def behind (n : Nat) : State := formState fun k => { k with regs := putG k.regs 4 0x100, posted := [⟨1, 1, 0x100, [(0x100, List.replicate n 7)], none, [1]⟩] }

theorem test_load_forms_hypotheses : let s := formState
    Issues h0 (.g 5 :: addrRn (atG 4 .virt)) s ∧ placeOf .virt (ea s (atG 4 .virt)).toNat = some (.virt 0x48) ∧ Unserved s false true (.virt 0x48) 8 ∧
    Unserved s true true (.virt 0x58) 16 ∧ placeOf .virt (ea s (atG 7 .virt)).toNat = some (.rem 0 0x100) ∧ Unserved s false true (.rem 0 0x100) 8 ∧
    placeOf .virt (ea s (atG 8 .virt)).toNat = some (.dbg 0 0) ∧ Unserved s false true (.dbg 0 0) 16 ∧
    wf (.ldq h0 ⟨10, atG 8 .virt, false⟩) = true ∧ Issues h0 ([.g 10, .g (10 + 1)] ++ addrRn (atG 8 .virt)) s ∧
    VIssues h0 64 (.v 1 :: addrRn (atG 4 .virt)) s ∧
    (∀ i ∈ activeEls h0 64 s, placeOf .virt (ldvAddr s (atG 4 .virt) 64 i) = some (.virt (0x48 + 8 * i)) ∧ Unserved s false false (.virt (0x48 + 8 * i)) 8) ∧
    wf (.ldvs h0 ⟨1, atG 7 .virt 0 6 3, .b64, false⟩) = true ∧ VIssues h0 64 (.v 1 :: addrRn (atG 7 .virt 0 6 3)) s ∧
    rdG s 6 <<< 3 ≠ 0 ∧ rdG s 0 <<< 0 = 0 ∧
    (∀ i ∈ activeEls h0 64 s, placeOf .virt (strideAddr s (atG 7 .virt 0 6 3) i) = some (.rem 0 (0x100 + 24 * i)) ∧
      Unserved s false false (.rem 0 (0x100 + 24 * i)) 8) ∧
    (∀ i ∈ activeEls h0 64 s, placeOf .virt (strideAddr s (atG 7 .virt 0 0 0) i) = some (.rem 0 0x100) ∧ Unserved s false false (.rem 0 0x100) 8) ∧
    wf (.gath h0 ⟨1, 4, 2, 3, 0, .virt, .b64, false⟩) = true ∧ VIssues h0 64 [.v 1, .g 4, .v 2] s ∧
    (∀ i ∈ activeEls h0 64 s, placeOf .virt (gatherAddr s ⟨1, 4, 2, 3, 0, .virt, .b64, false⟩ 64 i) = some (.virt (0x48 + 8 * i)) ∧
      Unserved s false false (.virt (0x48 + 8 * i)) 8) := by
  have a : ∀ i < 16, placeOf .virt (ldvAddr formState (atG 4 .virt) 64 i) = some (.virt (0x48 + 8 * i)) ∧
    unservedB formState false (.virt (0x48 + 8 * i)) 8 = true := by decide +kernel
  have b : ∀ i < 16, placeOf .virt (strideAddr formState (atG 7 .virt 0 6 3) i) = some (.rem 0 (0x100 + 24 * i)) ∧
    unservedB formState false (.rem 0 (0x100 + 24 * i)) 8 = true := by decide +kernel
  have c : ∀ i < 16, placeOf .virt (strideAddr formState (atG 7 .virt 0 0 0) i) = some (.rem 0 0x100) ∧
    unservedB formState false (.rem 0 0x100) 8 = true := by decide +kernel
  have d : ∀ i < 16, placeOf .virt (gatherAddr formState ⟨1, 4, 2, 3, 0, .virt, .b64, false⟩ 64 i) = some (.virt (0x48 + 8 * i)) := by decide +kernel
  refine ⟨issues _, by decide +kernel, unserved_of (by decide +kernel), unserved_of (by decide +kernel), by decide +kernel,
    unserved_of (by decide +kernel), by decide +kernel, unserved_of (by decide +kernel), rfl, issues _, vissues _ _,
    of_els fun i hi => ⟨(a i hi).1, unserved_of (a i hi).2⟩, rfl, vissues _ _, by decide +kernel, by decide +kernel,
    of_els fun i hi => ⟨(b i hi).1, unserved_of (b i hi).2⟩, of_els fun i hi => ⟨(c i hi).1, unserved_of (c i hi).2⟩, rfl, vissues _ _,
    of_els fun i hi => ⟨d i hi, unserved_of (a i hi).2⟩⟩
/-- R149, R152: a vector load of 128 bytes at 0x48 asks for each of its units; one at stride 0 asks once. -/
theorem test_load_forms : let sent (i : Instr) : Option Nat := match exec i formState with | .next t => some t.net.length | _ => none
    sent (.ldv h0 ⟨1, atG 4 .virt, .b64, false⟩) = some 16 ∧ sent (.ldvs h0 ⟨1, atG 7 .virt, .b64, false⟩) = some 1 ∧
    sent (.ldq h0 ⟨10, atG 4 .virt, false⟩) = some 2 ∧ sent (.gath h0 ⟨1, 4, 2, 3, 0, .virt, .b64, false⟩) = some 16 ∧
    sent (.ld h0 ⟨5, atG 8 .virt, 3, false⟩) = some 1 := by decide +kernel

/-- A poisoned block of own croft memory. -/
def poisonedBlock : State := cmSetMark formState 0 0x100 0xFF00
/-- A store behind which an element is blocked, one that covers it, and a poisoned block. -/
theorem test_forward_hypotheses : let p := poisonedBlock
    placeOf .own (ea (behind 8) (atG 4 .own)).toNat = some (.own 0x100) ∧ OwnBlocked (behind 4) 8 0x100 ∧
    (∀ i < 15, OwnReads (behind 4) 8 (0x108 + 8 * i) (cmGet (behind 4) (myTen (behind 4)) (0x108 + 8 * i) 8)) ∧
    OwnReads (behind 8) 8 0x100 0x0707070707070707 ∧ OwnPoison p 8 0x138 0x100 ∧
    (∀ i < 7, OwnReads p 8 (0xC0 + 8 * i) (cmGet p (myTen p) (0xC0 + 8 * i) 8)) ∧
    Issues h0 (.g 5 :: addrRn (atG 4 .own)) (behind 4) ∧ Issues h0 (.g 5 :: addrRn (atG 4 .own)) (behind 8) ∧
    VIssues h0 64 (.v 1 :: addrRn (atG 4 .own)) (behind 4) ∧ ¬ NoneBehind (behind 8) ∧ NoneBehind formState ∧ (me (behind 8)).sub = 0 := by
  have h : ∀ i < 15, forward (behind 4) (myTen (behind 4) + 1) (0x108 + 8 * i) 8 = none ∧
    poisonIn (fun b => cmMark (behind 4) (myTen (behind 4)) b) (0x108 + 8 * i) 8 = none := by decide +kernel
  have k : ∀ i < 7, forward (poisonedBlock) (myTen (poisonedBlock) + 1) (0xC0 + 8 * i) 8 = none ∧
    poisonIn (fun b => cmMark (poisonedBlock) (myTen (poisonedBlock)) b) (0xC0 + 8 * i) 8 = none := by
      decide +kernel
  refine ⟨?_, by unfold OwnBlocked; decide +kernel, fun i hi => reads (h i hi), .inr ?_, by unfold OwnPoison; decide +kernel,
    fun i hi => reads (k i hi), issues _, issues _, vissues _ _, ?_, ?_, ?_⟩ <;> decide +kernel
/-- R147, R151: an own load takes the bytes of a store sent to its own croft by a remote form; a store waits behind it (log 82). -/
theorem test_forward : gAfter (exec (.ld h0 ⟨5, atG 4 .own, 2, false⟩) (behind 8)) 5 = some 0x07070707 ∧
    pcAfter (exec (.ld h0 ⟨5, atG 4 .own, 3, false⟩) (behind 4)) = some 0 ∧ pcAfter (exec (.st h0 ⟨5, atG 4 .own, 3, none⟩) (behind 8)) = some 0 ∧
    pcAfter (exec (.ldv h0 ⟨1, atG 4 .own, .b64, false⟩) (behind 4)) = some 0 ∧
    vAfter (exec (.ldv h0 ⟨1, atG 4 .own, .b64, false⟩) (behind 8)) 1 64 0 = some 0x0707070707070707 ∧
    modeAfter (exec (.ldq h0 ⟨10, atG 6 .own 0x10D, false⟩) (poisonedBlock)) = some .frozen := by decide +kernel

/-- An unprivileged context whose g7 holds the earmark of a poisoned block. -/
def poisoner : State := ready [(4, 0x100), (7, 0xFF00)] user
theorem test_poison_mark_hypotheses : markBad poisoner (markOf poisoner (some 7)) = true ∧
    Issues h0 ([.g 5] ++ addrRn (atG 4 .own) ++ emRn (some 7)) poisoner ∧ placeOf .own (ea poisoner (atG 4 .own)).toNat = some (.own 0x100) ∧
    Issues h0 ([.g 10, .g (10 + 1)] ++ addrRn (atG 4 .own) ++ emRn (some 7)) poisoner ∧
    VIssues h0 64 (.v 1 :: addrRn (atG 4 .own) ++ emRn (some 7)) poisoner ∧ activeEls h0 64 poisoner = 0 :: (List.range 15).map (· + 1) ∧
    modeAfter (exec (.stv h0 ⟨1, atG 4 .own, .b64, some 7⟩) poisoner) = some .frozen := by
  refine ⟨?_, issues _, ?_, issues _, vissues _ _, ?_, ?_⟩ <;> decide +kernel

/-- The stores of a form, and room for them. -/
def roomB (s : State) (ps : List (List Piece)) : Bool := [1, 2, 3].all fun k => decide (countOf k (me s) + storesIn s k ps ≤ 255)
def crowdedStores : State := formState fun k => { k with o1 := 255, o2 := 255, o3 := 255 }
theorem test_store_forms_hypotheses : let s := formState
    Issues h0 ([.g 5] ++ addrRn (atG 7 .virt) ++ emRn (some 6)) s ∧ markBad s (markOf s (some 6)) = false ∧
    Storable s true (.rem 0 0x100) 8 ∧ Storable s true (.virt 0x48) 8 ∧ Storable s true (.dbg 0 0) 16 ∧
    wf (.stq h0 ⟨10, atG 8 .virt, none⟩) = true ∧ Issues h0 ([.g 10, .g (10 + 1)] ++ addrRn (atG 8 .virt) ++ emRn none) s ∧
    VIssues h0 64 (.v 1 :: addrRn (atG 4 .virt) ++ emRn (some 6)) s ∧
    (∀ i ∈ activeEls h0 64 s, placeOf .virt (ldvAddr s (atG 4 .virt) 64 i) = some (.virt (0x48 + 8 * i)) ∧ Storable s false (.virt (0x48 + 8 * i)) 8) ∧
    wf (.stvs h0 ⟨1, atG 7 .virt 0 6 3, .b64, false⟩) = true ∧
    (∀ i ∈ activeEls h0 64 s, placeOf .virt (strideAddr s (atG 7 .virt 0 6 3) i) = some (.rem 0 (0x100 + 24 * i)) ∧
      Storable s false (.rem 0 (0x100 + 24 * i)) 8) ∧
    wf (.scat h0 ⟨1, 4, 2, 3, 0, .virt, .b64, false⟩) = true ∧
    (∀ i ∈ activeEls h0 64 s, placeOf .virt (gatherAddr s ⟨1, 4, 2, 3, 0, .virt, .b64, false⟩ 64 i) = some (.virt (0x48 + 8 * i)) ∧
      Storable s false (.virt (0x48 + 8 * i)) 8) ∧
    (let ps := (activeEls h0 64 s).map fun i => blockPieces (.rem 0 (0x100 + 24 * i)) (toBytes 8 0) none
     roomB s ps = true ∧ roomB crowdedStores ps = false) := by
  have a : ∀ i < 16, placeOf .virt (ldvAddr formState (atG 4 .virt) 64 i) = some (.virt (0x48 + 8 * i)) ∧
    storableB formState false (.virt (0x48 + 8 * i)) 8 = true := by decide +kernel
  have b : ∀ i < 16, placeOf .virt (strideAddr formState (atG 7 .virt 0 6 3) i) = some (.rem 0 (0x100 + 24 * i)) ∧
    storableB formState false (.rem 0 (0x100 + 24 * i)) 8 = true := by decide +kernel
  have d : ∀ i < 16, placeOf .virt (gatherAddr formState ⟨1, 4, 2, 3, 0, .virt, .b64, false⟩ 64 i) = some (.virt (0x48 + 8 * i)) := by decide +kernel
  exact ⟨issues _, by decide +kernel, storable_of (by decide +kernel), storable_of (by decide +kernel), storable_of (by decide +kernel), rfl,
    issues _, vissues _ _, of_els fun i hi => ⟨(a i hi).1, storable_of (a i hi).2⟩, rfl, of_els fun i hi => ⟨(b i hi).1, storable_of (b i hi).2⟩,
    rfl, of_els fun i hi => ⟨d i hi, storable_of (a i hi).2⟩, by decide +kernel, by decide +kernel⟩
/-- R14, R150, R159: 16 stores of a scatter; an STV with an earmark posts one for each of its three blocks; none where they do not fit. -/
theorem test_store_forms : let posted (s : State) (i : Instr) : Option Nat := match exec i s with | .next t => some ((me t).posted.length) | _ => none
    posted formState (.scat h0 ⟨1, 4, 2, 3, 0, .virt, .b64, false⟩) = some 16 ∧ posted formState (.stv h0 ⟨1, atG 4 .virt, .b64, some 6⟩) = some 3 ∧
    posted formState (.stq h0 ⟨10, atG 8 .virt, none⟩) = some 1 ∧ posted crowdedStores (.stv h0 ⟨1, atG 4 .virt, .b64, none⟩) = some 0 := by
  decide +kernel

theorem test_mark_forms_hypotheses : let s := formState
    Issues h0 (.g 6 :: addrRn (atG 4 .virt)) s ∧ Issues h0 (.g 6 :: addrRn (atG 7 .virt)) s ∧
    placeOf .virt (ea s (atG 7 .virt)).toNat = some (.rem 0 0x100) ∧ Storable s false (.virt 0x48) 1 ∧ Storable s false (.rem 0 0x100) 1 ∧
    markBad s (some ((rdG s 6).setWidth 16)) = false ∧ rangeOk (winsOf s) Window.r 0x48 1 = true ∧
    forwardMark s (.virt (0x48 / 64 * 64)) = none ∧
    l1Find s s.cur.1 (tagOf (resOf s (0x48 / 64 * 64)).glob (resOf s (0x48 / 64 * 64)).asid) (0x48 / 32) = none ∧
    inSet s (mySetId s) 0 = true ∧ forwardMark s (.rem 0 (0x100 / 64 * 64)) = none ∧
    roomB s [[⟨blockPlace (.virt 0x48), [], some 3, none⟩]] = true ∧ roomB crowdedStores [[⟨blockPlace (.virt 0x48), [], some 3, none⟩]] = false ∧
    forwardMark (formState fun k => { k with posted := [⟨1, 1, 0x100, [], some 9, [1]⟩] }) (.own 0x100) = some 9 := by
  refine ⟨issues _, issues _, ?_, storable_of ?_, storable_of ?_, ?_, ?_, ?_, ?_, ?_, ?_, ?_, ?_, ?_⟩ <;> decide +kernel
/-- R165, R209 to another croft: each full/empty form sends its request. -/
theorem test_remote_full_empty : let s := formState
    Quiet s ∧ Issues h0 (.g 5 :: addrRn (atG 7 .virt)) s ∧ (ea s (atG 7 .virt)).toNat % 8 = 0 ∧
    modeAfter (exec (.ldfe h0 true ⟨5, atG 7 .virt⟩) s) = some .awaiting ∧ modeAfter (exec (.stfe h0 true ⟨5, atG 7 .virt⟩) s) = some .awaiting ∧
    modeAfter (exec (.festat h0 ⟨5, atG 7 .virt⟩) s) = some .awaiting := by
  refine ⟨quiet, issues _, ?_, ?_, ?_, ?_⟩ <;> decide +kernel

/-! ## Bins, barriers, cribs, channels, work and contexts -/

/-- Context i of croft 0 about to issue: 0 the steward's, 15 the wain's. -/
def readyAt (i : Nat) (gs : List (Nat × W64)) (f : Context → Context := id) : State :=
  let s := State.reset.withFetchWord 96 0
  setCtx { s with cur := (0, i) } 0 i (f { ctxAt s 0 1 with regs := withG gs })
/-- Tenants 0 and 1 in the set of tenant 0. -/
def twoTenants (s : State) : State := updSet s 0 fun k => { k with count := 2 }
def netAfter (o : Out) : Option Nat := match o with | .next t => some t.net.length | _ => none

theorem test_bin_hypotheses : let s := ready [] fun k => { k with regs := putB k.regs 3 128 }
    Issues h0 (srcRn (.imm 128)) s ∧ Quiet s ∧ ((rdSrc s (.imm 128)).setWidth 32 : W32).toNat ≤ (rdB s 3).toNat ∧
    (rdB s 3).toNat < ((rdSrc s (.imm 129)).setWidth 32 : W32).toNat ∧ Issues h0 (.g 9 :: srcRn (.imm 144)) s ∧ (me s).arrivals = [] ∧
    Issues h0 [.g 9] s := ⟨issues _, quiet, by decide +kernel, by decide +kernel, issues _, by decide +kernel, issues _⟩
/-- R188: the example WAITB b3, #128 takes 128; R190: arrivals of a barrier go on their way. -/
theorem test_bins : let s := ready [] fun k => { k with regs := putB k.regs 3 130 }
    (match exec (.waitb h0 3 (.imm 128)) s with | .next t => some (getB (me t).regs 3) | _ => none) = some 2 ∧
    modeAfter (exec (.waitb h0 3 (.imm 131)) s) = some .parked ∧ modeAfter (exec (.bar h0 .die 0 9 (.imm 144)) s) = some .parked ∧
    netAfter (exec (.bara h0 .die 0 none (.imm 144)) s) = some 1 ∧ modeAfter (exec (.bara h0 .die 0 none (.imm 144)) s) = some .running ∧
    gAfter (exec (.barw h0 .die 0 9) (ready [(9, 5)])) 9 = some 0 := by decide +kernel

theorem test_crib_hypotheses : let s := ready [(10, 0x5), (11, 0x40), (12, 0x41)]
    Issues h0 [.g 10, .v 4] s ∧ Quiet s ∧ Issues h0 [.v 4, .g 10] s ∧ Issues h0 [.g 9, .g 10] s ∧ Issues h0 [.g 10, .g 11] s ∧
    (me s).priv = true ∧ (rdG s 12).toNat % 64 ≠ 0 ∧ (rdG s 11).toNat % 64 = 0 ∧ rangeOk (winsOf s) Window.rw (rdG s 11).toNat (64 * 2) = true ∧
    Issues h0 [.g 10] s := ⟨issues _, quiet, issues _, issues _, issues _, by decide, by decide, by decide, by decide +kernel, issues _⟩
theorem test_channel_hypotheses : let s := twoTenants (ready [(12, 0x1000001), (13, 0x3000005), (14, 0x1000000)])
    let steward := onTen (fun t => { t with chans := [(3, ⟨some 7, false, true, [(1, 2)]⟩)] }) (readyAt 0 [(12, 3), (13, 0x99)])
    Issues h0 [.g 12, .g 20, .g (20 + 1)] s ∧ Quiet s ∧ inSet s (mySetId s) ((rdG s 12).toNat % 2 ^ 24) = true ∧
    Issues h0 [.g 13, .g 20, .g (20 + 1)] s ∧ inSet s (mySetId s) ((rdG s 13).toNat % 2 ^ 24) = false ∧
    Issues h0 [.g 14] s ∧ inSet s (mySetId s) (myTen s) = true ∧ (rdG s 14).toNat % 2 ^ 24 = myTen s ∧
    Issues h0 [.g 12, .g 13] steward ∧ Issues h0 [.g 12] steward ∧ steward.cur.2 = 0 ∧ wf (.chnext h0 4 6) = true ∧
    Issues h0 [.g 4, .g (4 + 1), .g 6] steward ∧ (me steward).stage = .open ∧ nextChan (tenAt steward (myTen steward)) = some 3 ∧
    (tenAt steward (myTen steward)).senders = [] ∧ (chanOf (tenAt steward (myTen steward)) 3).q = [(1, 2)] := by
  refine ⟨issues _, quiet, ?_, issues _, ?_, issues _, ?_, ?_, issues _, issues _, by decide, rfl, issues _, ?_, ?_,
    ?_, ?_⟩ <;> decide +kernel
/-- R192 to R196: what asks a slice or an owner leaves the rotation; an own channel's bits and messages are served in the turn. -/
theorem test_cribs_channels : let s := twoTenants (ready [(10, 5), (11, 0x40), (12, 0x1000001), (13, 0x1000007), (14, 0x1000000)])
    let steward := onTen (fun t => { t with chans := [(3, ⟨some 7, false, true, [(1, 2)]⟩)] }) (readyAt 0 [(12, 3), (13, 0x99)])
    modeAfter (exec (.cradd h0 10 4) s) = some .awaiting ∧ modeAfter (exec (.crtake h0 4 10) s) = some .awaiting ∧
    modeAfter (exec (.crtry h0 4 10 2) s) = some .awaiting ∧ modeAfter (exec (.crstat h0 4 10) s) = some .awaiting ∧
    modeAfter (exec (.crinit h0 10 11 2) s) = some .awaiting ∧ modeAfter (exec (.crinitUnbind h0 10) s) = some .awaiting ∧
    modeAfter (exec (.chsend h0 12 20) s) = some .awaiting ∧ modeAfter (exec (.chsend h0 13 20) s) = some .frozen ∧
    (match exec (.chhold h0 true 14) s with | .next t => some (chanOf (tenAt t 0) 1).h | _ => none) = some true ∧
    (match exec (.chready h0 true 14) s with | .next t => some (chanOf (tenAt t 0) 1).y | _ => none) = some true ∧
    (match exec (.chbind h0 true false 12 13) steward with | .next t => some ((chanOf (tenAt t 0) 3).slot, (chanOf (tenAt t 0) 3).h) | _ => none)
      = some (some 0x99, true) ∧
    (match exec (.chbindUnbind h0 false false 12) steward with | .next t => some (chanOf (tenAt t 0) 3).slot | _ => none) = some none ∧
    gAfter (exec (.chnext h0 4 6) steward) 5 = some 2 ∧ gAfter (exec (.chnext h0 4 6) steward) 6 = some 0x0C00000000000007 := by decide +kernel

def hire0 : HireO := ⟨20, 8, 3, 1, 1, 2, 0, false, false, true, 0, 0, 0⟩
/-- One hire on floor 0, id 8, of continuation 0 of tenant 0. -/
def hired (f : Hire → Hire) (s : State) : State :=
  updFair s 0 fun k => { k with hires := [(4, f (Hire.new 8 (hireReqOf (ready []) hire0) 0 0))] }
theorem test_own_hire_hypotheses : let x := Hire.new 8 (hireReqOf (ready []) hire0) 0 0
    let s := hired id (ready [(20, 8)])
    let ended := hired (fun h => { h with state := 5 }) (ready [(20, 8)])
    let landing := hired (fun h => { h with state := 4, issued := [0] }) (ready [(20, 8)])
    Issues h0 [.g 9, .g 20] s ∧ Issues h0 [.g 9, .g 20] ended ∧ Issues h0 [.g 9, .g 20] landing ∧
    myHire s (rdG s 20) = some x ∧ x.live = true ∧ x.dropping = false ∧ x.issued = [] ∧ x.waiters = [] ∧
    myHire ended (rdG ended 20) = some { x with state := 5 } ∧ ({ x with state := 5 } : Hire).live = false ∧
    myHire landing (rdG landing 20) = some { x with state := 4, issued := [0] } ∧
    ({ x with state := 4, issued := [0] } : Hire).live = true ∧ 0 ∉ x.counted ∧ 0 ∉ x.parked :=
  ⟨issues _, issues _, issues _, by decide +kernel⟩
theorem test_hire_hypotheses : let s := ready [(20, 77)]
    let wain := readyAt 15 [(12, 0x101)]
    wf (.hire h0 hire0) = true ∧ (∀ i : Fin 64, inBudget (me s).budget (.g ⟨i.val % 64, by omega⟩) = true) ∧ Issues h0 [] s ∧ Quiet s ∧
    hireBad s (hireReqOf s hire0) = none ∧ freeRing s (myTen s) = some 0 ∧ fairLoad s (hireReqOf s hire0).floor < 1024 ∧
    Issues h0 [.g 9, .g 20] s ∧ myHire s (rdG s 20) = none ∧ Issues h0 [.v 0, .g 12, .g 21] s ∧ s.cur.2 ≠ 15 ∧
    Issues h0 [.v 0, .g 12, .g 21] wain ∧ wain.cur.2 = 15 ∧ (me wain).o2 < 255 := by
  refine ⟨rfl, ?_, issues _, quiet, ?_, ?_, ?_, issues _, ?_, issues _, by decide, issues _, by decide, by decide⟩ <;> decide +kernel
/-- R197, R202, R204: a hire, a status and a cancellation wait for their answers; only the wain pushes sheaves. -/
theorem test_hires : modeAfter (exec (.hire h0 hire0) (ready [])) = some .awaiting ∧ modeAfter (exec (.hstat h0 9 20) (ready [])) = some .awaiting ∧
    modeAfter (exec (.hdrop h0 9 20) (ready [])) = some .awaiting ∧ modeAfter (exec (.shpush h0 0 12 21) (ready [])) = some .frozen ∧
    netAfter (exec (.shpush h0 0 12 21) (readyAt 15 [])) = some 1 := by decide +kernel

theorem test_counted_hypotheses : let u := twoTenants (ready [(4, 0x100), (6, 3 * 2 ^ 32), (7, 1)])
    let s := onTen (fun t => { t with slots := [(0, { Slot.empty with taken := true })] }) u
    let two := setCroft s 5 { Croft.empty with tenant := some 1 }
    let freeing := onTen (fun t => { t with frees := [⟨9, 0, 0, [], [0], []⟩] }) s
    wf (.stc h0 ⟨.g 9, 4, 6, 0, .own⟩) = true ∧ Issues h0 (stcRns (.g 9) ++ [.g 4, .g 6]) s ∧
    placeOf .own (rdG s 4 + (0 : BitVec 39).signExtend 64).toNat = some (.own 0x100) ∧ (stcBytes s (.g 9)).length = 8 ∧
    inSet s (mySetId s) (targetOf (rdG s 6)).ten = true ∧ (me s).busy = false ∧ (targetOf (rdG s 6)).ten = myTen s ∧
    (targetOf (rdG s 6)).bin < 8 ∧ findName s (myTen s) (targetOf (rdG s 6)).name = some s.cur ∧
    (slotAt s (myTen s) (targetOf (rdG s 6)).name).evicted = none ∧ Issues h0 (stcmRns (.g 9) ++ [.g 4, .g 7]) two ∧
    (rdG two 4 + (0 : BitVec 39).signExtend 64).toNat % 2 ^ 16 % (stcmBytes two (.g 9)).length = 0 ∧ (me two).busy = false ∧
    receivers two ((rdG two 7).toNat % 2 ^ 9) ≠ [] ∧ Issues h0 [.g 0] freeing ∧ holdsMulticast freeing (myTen freeing) 0 9 = true ∧
    holdsMulticast s (myTen s) 0 9 = false ∧ (me freeing).o1 < 255 ∧ (me freeing).o2 < 255 := by
  refine ⟨rfl, issues _, ?_, ?_, ?_, ?_, ?_, ?_, ?_, ?_, issues _, ?_, ?_, ?_, issues _, ?_, ?_, ?_, ?_⟩ <;> decide +kernel
theorem test_call_hypotheses : let s := bytesIn 0x308 [0x40] (bytesIn 0x300 [0x40] (ready [(4, 0x100), (14, 0x01FFFF0000000300)]))
    Issues h0 [.g 4] s ∧ (rdG s 4).toNat % 2 ^ 16 % 8 = 0 ∧ (rdG s 4).toNat % 2 ^ 16 + 32 ≤ 0x10000 ∧ freeRing s (myTen s) = some 0 ∧
    (tenAt s (myTen s)).waiters = [] ∧ Issues h0 [.g 14] s ∧ Quiet s ∧ (rdG s 14).toNat % 8 = 0 ∧ (me s).await = none ∧
    OwnAt s .virt (rdG s 14).toNat 32 0x300 ∧ (coverOf (winsOf s) (cmGet s (myTen s) 0x300 8)).isSome = true ∧
    rangeOk (winsOf s) Window.rw (cmGet s (myTen s) 0x300 8) (cmGet s (myTen s) 0x308 8) = true := by
  refine ⟨issues _, ?_, ?_, ?_, ?_, issues _, quiet, ?_, ?_, own, ?_, ?_⟩ <;> decide +kernel
/-- R203 to R211: a counted store of its own croft counts its bin in the turn; a call and a gleaning leave what they ask for. -/
theorem test_counted : let u := twoTenants (ready [(4, 0x100), (6, 3 * 2 ^ 32), (7, 1), (9, 5)])
    let s := onTen (fun t => { t with slots := [(0, { Slot.empty with taken := true })] }) u
    let call := bytesIn 0x308 [0x40] (bytesIn 0x300 [0x40] (ready [(4, 0x100), (14, 0x01FFFF0000000300)]))
    cmAfter (exec (.stc h0 ⟨.g 9, 4, 6, 0, .own⟩) s) 0x100 8 = some 5 ∧
    (match exec (.stc h0 ⟨.g 9, 4, 6, 0, .own⟩) s with | .next t => some ((me t).regs.b.toList.map BitVec.toNat) | _ => none) ≠ none ∧
    netAfter (exec (.stcm h0 ⟨.g 9, 4, 7, 0⟩) (setCroft s 5 { Croft.empty with tenant := some 1 })) = some 1 ∧
    pcAfter (exec (.freeb h0 0 9) s) = some 12 ∧ netAfter (exec (.mcall h0 1 14 2) call) = some 1 ∧
    (match exec (.glean h0 0 4 1) call with | .next t => some (tenAt t 0).ring | _ => none) = some [0] := by decide +kernel

theorem test_context_hypotheses : let s := readyAt 0 [(20, 0x40), (21, 5), (8, 2)]
    let exited := setCtx s 0 2 { Context.empty with mode := .exited, exitVal := 9 }
    let crowd := onTen (fun t => { t with slots := (List.range 64).map fun k => (k, { Slot.empty with taken := true }) }) s
    let hand := ready [(12, 0), (13, 5)] fun k => { k with origin := .spawned }
    Issues h0 [.g 5, .g 20, .g 21] s ∧ Quiet s ∧ s.cur.2 = 0 ∧ freeHand s s.cur.1 = some 2 ∧ freeName s (myTen s) = some 0 ∧
    freeName crowd (myTen crowd) = none ∧ Quiet crowd ∧ Issues h0 [.g 5, .g 20, .g 21] crowd ∧ Issues h0 [.g 5, .g 8] exited ∧ Quiet exited ∧
    (ctxAt exited exited.cur.1 ((rdG exited 8).toNat % 16)).mode = .exited ∧ (ctxAt s s.cur.1 ((rdG s 8).toNat % 16)).mode ≠ .exited ∧
    Issues h0 [.g 12] hand ∧ Quiet hand ∧ hand.cur.2 ≠ 0 ∧ 1 ≤ hand.cur.2 ∧ hand.cur.2 ≤ 14 ∧ (me hand).hires = [] ∧ (me hand).origin = .spawned ∧
    Issues h0 [] hand ∧ 7 ∉ (tenAt hand (myTen hand)).resumes ∧ 7 ∈ (tenAt (onTen (fun t => { t with resumes := [7] }) hand) 0).resumes ∧
    Quiet (onTen (fun t => { t with resumes := [7] }) hand) ∧ inSet hand (mySetId hand) ((rdG hand 12).toNat % 2 ^ 24) = true ∧
    inSet hand (mySetId hand) ((rdG hand 13).toNat % 2 ^ 24) = false ∧ hasRecord hand (myTen hand) = false := by
  refine ⟨issues _, quiet, by decide, ?_, ?_, ?_, quiet, issues _, issues _, quiet, ?_, ?_, issues _, quiet, by
    decide, by decide, by decide, ?_, ?_, issues _, ?_, ?_, quiet, ?_, ?_, ?_⟩ <;> decide +kernel
/-- A record in the continuation queue of tenant 0. -/
def waiting (s : State) : State := onTen (fun t => { t with backlog := [0] }) s
/-- Every hand of croft 0 occupied, the acting one as it stands. -/
def crowded (s : State) : State :=
  (List.range 14).foldl (fun s j => updCtx s 0 (j + 1) fun k => { k with mode := .running }) s
theorem test_record_hypotheses : let s := waiting (readyAt 0 [(20, 0x40), (21, 5)])
    let hand := crowded (waiting (ready []))
    let busy := crowded (readyAt 0 [(20, 0x40), (21, 5)])
    Issues h0 [.g 5, .g 20, .g 21] s ∧ Quiet s ∧ Issues h0 [] hand ∧ Quiet hand ∧ Issues h0 [.g 5, .g 20, .g 21] busy ∧ Quiet busy ∧
    Quiet (waiting (ready [])) ∧
    s.cur.2 = 0 ∧ hasRecord s (myTen s) = true ∧ freeHand s s.cur.1 ≠ none ∧ freeName s (myTen s) ≠ none ∧ 1 ≤ hand.cur.2 ∧
    hand.cur.2 ≤ 14 ∧ hasRecord hand (myTen hand) = true ∧ freeHand hand hand.cur.1 = none ∧ freeHand busy busy.cur.1 = none ∧
    hasRecord (readyAt 0 []) 0 = false ∧ freeHand (waiting (ready [])) 0 ≠ none :=
  ⟨issues _, quiet, issues _, quiet, issues _, quiet, quiet, by decide +kernel⟩
/-- R212, R213, R228: the lowest free name and hand, the exit value, a pending resume taken. -/
theorem test_contexts : let s := readyAt 0 [(20, 0x40), (21, 5), (8, 2)]
    let exited := setCtx s 0 2 { Context.empty with mode := .exited, exitVal := 9 }
    let hand := ready [(12, 0), (13, 5)] fun k => { k with origin := .spawned }
    gAfter (exec (.spawn h0 5 20 21 0x410) s) 5 = some 2 ∧ gAfter (exec (.spawn h0 5 20 21 0x410) (crowded s)) 5 = some 0 ∧ gAfter (exec (.reap h0 5 8) exited) 5 = some 0x100000009 ∧
    gAfter (exec (.reap h0 5 8) s) 5 = some 0 ∧ modeAfter (exec (.exit h0 13) hand) = some .exited ∧
    modeAfter (exec (.susp h0 7) hand) = some .parked ∧ modeAfter (exec (.susp h0 7) (onTen (fun t => { t with resumes := [7] }) hand)) = some .running ∧
    modeAfter (exec (.yield h0) (crowded (waiting hand))) = some .free ∧ netAfter (exec (.resume h0 12 7) hand) = some 1 ∧ pcAfter (exec (.yield h0) hand) = some 12 := by decide +kernel

theorem test_fairctl_hypotheses : let x := Hire.new 8 (hireReqOf (ready []) hire0) 0 0
    let s := hired id (ready [(7, 8)])
    let ended := hired (fun h => { h with state := 5 }) (ready [(7, 8)])
    let rick := hired (fun h => { h with state := 3 }) (ready [(7, 8)])
    Issues h0 [.g 5, .g 7] s ∧ Issues h0 [.g 5, .g 7] ended ∧ Issues h0 [.g 5, .g 7] rick ∧ Quiet s ∧ Quiet ended ∧ Quiet rick ∧
    (me s).priv = true ∧ (me ended).priv = true ∧ (me rick).priv = true ∧ floorHire s 7 false = some x ∧ x.state ≠ 3 ∧
    x.live = true ∧ x.dropping = false ∧ x.issued = [] ∧ floorHire rick 7 false = some { x with state := 3 } ∧
    floorHire ended 7 false = some { x with state := 5 } ∧ ({ x with state := 5 } : Hire).live = false :=
  ⟨issues _, issues _, issues _, quiet, quiet, quiet, by decide +kernel⟩
theorem test_privileged_hypotheses : let s := ready [(7, 100)]
    (me (ready [] user)).priv = false ∧ Issues h0 [.g 5, .g 7] s ∧ (me s).priv = true ∧ Quiet s ∧ Issues h0 [.g 5] s ∧
    floorHire s 7 true = none ∧ Issues h0 [.g 5, .g 10, .g 11] s ∧ s.chans = [] ∧ s.net = [] ∧ (mySet s).shoots = [] ∧ s.banks = [] ∧
    (∀ e ∈ s.tenants, ∀ x ∈ e.2.slots, x.2.evicted = none) := by
  refine ⟨by decide, issues _, by decide, quiet, issues _, ?_, issues _, rfl, rfl, ?_, rfl, ?_⟩ <;> decide +kernel
/-- R214, R215, R349: a window clamped to 1, the read of a die's fields, a SHOOT's generation. -/
theorem test_privileged : let s := ready [(7, 0), (10, 0x1000), (11, 0x1000)]
    (match exec (.swapctlWindow h0 0 7 3) s with | .next t => some (dieAt t 3).window | _ => none) = some 1 ∧
    (match exec (.swapctlTheta h0 0 10 3) s with | .next t => some (dieAt t 3).theta | _ => none) = some 0x1000 ∧
    (match exec (.swapctlEnable h0 0 7 3) s with | .next t => some (dieAt t 3).enable | _ => none) = some false ∧
    gAfter (exec (.swapctlRead h0 5 3) s) 5 = some 0x10080010000 ∧ gAfter (exec (.fairctlResume h0 5 7 true) s) 5 = some 0 ∧
    gAfter (exec (.fairctlDrop h0 5 7 true) s) 5 = some 0 ∧ gAfter (exec (.shoot h0 5 10 11) s) 5 = some 1 ∧
    pcAfter (exec (.fairctlStat h0 5 true) s) = some 12 := by decide +kernel

/-- A hire under a budget that has g[d] and the source group, but not every register (R22). -/
theorem test_small_budget_hypotheses : let s := ready [(20, 77)] fun k => { k with budget := 0x418 }
    inBudget (me s).budget (.g hire0.d) = true ∧ (∀ i < 4, inBudget (me s).budget (.g (Fin.ofNat 64 (hire0.s.val + i))) = true) ∧
    inBudget (me s).budget (.g 40) = false ∧ hireBad s (hireReqOf s hire0) = none ∧ modeAfter (exec (.hire h0 hire0) s) = some .awaiting := by
  decide +kernel
/-- An STC to the own croft as another's; a GLEAN of a poisoned descriptor, and one with a store outstanding. -/
theorem test_counted_forms_hypotheses : let s := ready [(4, 0x100), (6, 3 * 2 ^ 32), (7, 0x01FE000000000100)]
    let bad := onTen (fun t => { t with marks := [(4, 0xFF00)] }) s
    let busy := ready [(4, 0x100)] fun k => { k with o1 := 1 }
    wf (.stc h0 ⟨.g 9, 7, 6, 0, .virt⟩) = true ∧ Issues h0 (stcRns (.g 9) ++ [.g 7, .g 6]) s ∧
    placeOf .virt (rdG s 7 + (0 : BitVec 39).signExtend 64).toNat = some (.rem 0 0x100) ∧
    (0x100 + (stcBytes s (.g 9)).length ≤ 0x10000 ∧ inSet s (mySetId s) 0 = true) ∧ (rdG s 7).toNat % 64 + (stcBytes s (.g 9)).length ≤ 64 ∧
    inSet s (mySetId s) (targetOf (rdG s 6)).ten = true ∧ (me s).busy = false ∧ netAfter (exec (.stc h0 ⟨.g 9, 7, 6, 0, .virt⟩) s) = some 1 ∧
    poisonIn (fun b => cmMark bad (myTen bad) b) 0x100 32 = some 0x100 ∧ modeAfter (exec (.glean h0 0 4 1) bad) = some .frozen ∧
    poisonIn (fun b => cmMark busy (myTen busy) b) 0x100 32 = none ∧ (me busy).busy = true ∧ pcAfter (exec (.glean h0 0 4 1) busy) = some 0 := by
  refine ⟨rfl, issues _, ?_⟩; decide +kernel

theorem shootClear {s : State} {b : Nat} {r : Nat × Nat} (a : (setAtId s b).shoots = [])
    (w : (s.chans.all fun e => e.2.walks.all fun w => w.asid != (setAtId s b).asid) = true) (n : s.net = [])
    (k : (s.banks.all fun e => e.2.lines.all fun l => !l.dirty) = true)
    (p : (s.tenants.all fun e => e.2.slots.all fun x => x.2.evicted.all fun p => p.kind != .resident) = true) : ShootClear s b r := by
  refine ⟨a, ?_, ?_, ?_, ?_⟩
  · intro e he x hx; have := List.all_eq_true.mp w e he; have := List.all_eq_true.mp this x hx; simpa using this
  · rw [n]; intro f hf; simp at hf
  · intro e he l hl _; have := List.all_eq_true.mp k e he; have := List.all_eq_true.mp this l hl; simpa using this
  · intro e he x hx q hq; have := List.all_eq_true.mp p e he; have := List.all_eq_true.mp this x hx; rw [hq] at this; simpa using this
/-- A SHOOT with a mill loaded, a line and a walk of another space at hand. -/
def shooting : State :=
  let s := updChan (ready [(10, 0x1000), (11, 0x1000)]) 3 fun k => { k with mill := k.mill.loaded }
  updChan (updBank s 0 fun k => { k with lines := [⟨1, 0x40, 0, 0, false, false, 0x5000⟩, ⟨2, 0x40, 0, 0, false, false, 0x6000⟩] }) 0 fun k =>
    { k with walks := [⟨2, 1, 0, 0, false, false, none⟩] }
theorem test_shoot_hypotheses : ShootClear shooting (mySetId shooting) (shootRange 0x1000 0x1000) ∧
    Issues h0 [.g 5, .g 10, .g 11] shooting ∧ (me shooting).priv = true ∧ Quiet shooting ∧ shooting.chans.length = 2 ∧
    (match exec (.shoot h0 5 10 11) shooting with | .next t => some ((bankAt t 0).lines.map Line.asid) | _ => none) = some [2] := by
  refine ⟨shootClear ?_ ?_ ?_ ?_ ?_, issues _, ?_, quiet, ?_, ?_⟩ <;> decide +kernel

/-! ## Mills, Lomwen cores, queues, requests -/

def callOf0 : Call := ⟨0, 0, setAgent 0, 1, 0, 64, 0, 0, .bin ⟨0, 0, 2⟩, [], []⟩
def win0 : Window := ⟨0xF, 0, 0x10010, 0x101, []⟩
/-- The home of a line of set 0 for that call, and its resolution. -/
def millHome (s : State) (va : Nat) : Nat × Res :=
  match coverOf (setAtId s 0).windows va with
  | some w => let r := resolve s 1 w va (some callOf0.who.core); (homeNow s r va, { r with bank := homeNow s r va })
  | none => (0, ⟨0, 0, 0, false, false, false, false⟩)
/-- A line of page 0 at its home. -/
def holdLine (va : Nat) (mark : Mark) (ro : Bool) (s : State) : State :=
  let (b, r) := millHome s va
  updBank s b fun k => { k with lines := k.lines ++ [⟨tagOf r.glob r.asid, va / 64, 0, mark, false, ro, 0x5000 + va⟩] }
/-- Mill 0 with a call and page 0 of the set at frame 5, its registers m; no barn holds a line. -/
def millBare (m : Vector W64 8) (z : Bool := false) (f : Channel → Channel := id) : State :=
  updChan (onTen (fun t => { t with slots := [(0, { Slot.empty with taken := true })] }) (ready [])) 0 fun k =>
    f { k with tlb := [⟨1, 0, 0, 5, false, false⟩], mill := { k.mill with call := some callOf0, m := m, z := z, upc := 3 } }
/-- The same with the first two lines at their homes. -/
def milling (m : Vector W64 8) (z : Bool := false) (f : Channel → Channel := id) (ro : Bool := false) : State :=
  holdLine 0x40 0 ro (holdLine 0 0 ro (millBare m z f))
def micro0 : Micro := ⟨none, 4, 0x36, 0, 1, 0, 0x55⟩
def regAfter (o : Out) (i : Fin 8) : Option W64 := match o with | .next t => some (millAt t).m[i] | _ => none
def upcAfter (o : Out) : Option Nat := match o with | .next t => some (millAt t).upc | _ => none
def lineAfter (o : Out) (pa i : Nat) : Option Nat := match o with | .next t => some (lineElem 64 (physLine t pa).1 i) | _ => none

theorem test_mill_hypotheses : let s := milling (Vector.replicate 8 0)
    (running s).isSome = true ∧ (micro0.cond = 4 ∧ (millAt s).m[micro0.ra] = 0) ∧
    ¬ (millAt (milling #v[0, 9, 0, 0, 0, 0, 0, 0])).m[micro0.ra] = 0 ∧ (millAt s).queue = [] ∧
    (millAt (milling (Vector.replicate 8 0) false fun k => { k with mill := { k.mill with queue := k.mill.call.toList } })).queue.length = 1 ∧
    (match (millAt s).call with | some c => c.done == .bin ⟨0, 0, 2⟩ | none => false) = true ∧ findName s 0 0 = some (0, 1) ∧
    (slotAt s 0 0).evicted = none := by decide +kernel
/-- The line of a step of one line, and the source of a step of two, as their statements name them. -/
def one (s : State) (c : Call) (l : Nat) (w : Bool) : Reach := reachLine (leaveBanks s s.unit [(l, false)]) c l w false
def firstOf (s : State) (c : Call) (la ld : Nat) : Reach := reachLine (leaveBanks s s.unit [(la, true), (ld, false)]) c la false true
/-- The resolution and the step of a call's line. -/
def resOfStep (s : State) (c : Call) (w : Window) (va : Nat) : Res :=
  resolve s (setAtId s c.set).asid w va (match c.done with | .bin _ => some c.who.core | _ => none)
def stepOf (s : State) (c : Call) (w : Window) (va : Nat) (source : Bool) : Req :=
  stepReq s c { resOfStep s c w va with bank := homeNow s (resOfStep s c w va) va } va source
/-- A step of a line that no barn holds and no fill brings. -/
theorem absent_line {s : State} {c : Call} {write source : Bool} {va : Nat} {w : Window} (ha : va / 64 * 64 = va)
    (hc : coverOf (callWins s c va) va = some w)
    (hl : lineAt s (homeNow s (resOfStep s c w va) va) (tagOf (resOfStep s c w va).glob (setAtId s c.set).asid) (va / 64) = none)
    (hf : fillComing s (homeNow s (resOfStep s c w va) va) (stepOf s c w va source) = false) :
    reachLine s c va write source = if Config.monitorNames s.free (va / 64)
      then .busy (draw (stepWaits s (homeNow s (resOfStep s c w va) va) (stepOf s c w va source)))
      else stepBuffered (draw s) (stepOf s c w va source) write := by
  unfold reachLine
  simp only [ha, hc]
  show (match lineAt s (homeNow s (resOfStep s c w va) va) (tagOf (resOfStep s c w va).glob (setAtId s c.set).asid) (va / 64) with
    | some l => stepAtHome s (homeNow s (resOfStep s c w va) va) (stepOf s c w va source) write l
    | none => if fillComing s (homeNow s (resOfStep s c w va) va) (stepOf s c w va source) || Config.monitorNames s.free (va / 64) then
        .busy (draw (stepWaits s (homeNow s (resOfStep s c w va) va) (stepOf s c w va source)))
      else stepBuffered (draw s) (stepOf s c w va source) write) = _
  rw [hl]; simp only [hf, Bool.false_or]
theorem test_mill_line_hypotheses : let s := milling (Vector.replicate 8 0)
    BanksTidy s ∧ (match running s with
      | some c => (match one s c 0 true with | .at_ _ _ _ none => true | _ => false) &&
          (match one s c 0 false with | .at_ _ _ _ none => true | _ => false) &&
          (match firstOf s c 0 0x40 with
            | .at_ r _ _ none => (match reachLine r c 0x40 true false with | .at_ _ _ _ none => true | _ => false) | _ => false) &&
          (match one s c 0x200000 true with | .wait _ => true | _ => false) && (match one s c 0x200000 false with | .wait _ => true | _ => false) &&
          (match firstOf s c 0x200000 0 with | .wait _ => true | _ => false) &&
          (match firstOf s c 0 0x200000 with | .at_ r _ _ _ => (match reachLine r c 0x200000 true false with | .wait _ => true | _ => false) | _ => false)
      | none => false) = true := ⟨⟨by decide +kernel, by decide +kernel⟩, by decide +kernel⟩
/-- A step of the line at 0 waits while a store begun on it stands at its bank, and one that changes it while an atomic waits there, on
another line too (R275). -/
theorem test_mill_busy_hypotheses : let s := milling (Vector.replicate 8 0)
    let (b, r) := millHome s 0
    let at_ (va : Nat) (op : HomeOp) : State := updBank s (if va = 0x40 then (millHome s va).1 else b) fun k =>
      { k with queue := [⟨setAgent 0, .host, { r with bank := if va = 0x40 then (millHome s va).1 else b }, va, op, none, .none⟩] }
    let begun := at_ 0 (.rest [(0, [1])])
    let atom := at_ 0x4000 (.atom 8 (.int .add) (.one (setAgent 0) 1 0 true 0 0 0))
    BanksTidy begun ∧ BanksTidy atom ∧
    (match one begun callOf0 0 false, firstOf begun callOf0 0 0x40, one atom callOf0 0 true, one atom callOf0 0 false with
      | .busy _, .busy _, .busy _, .busy _ => true | _, _, _, _ => false) = true ∧
    (match firstOf (at_ 0x40 (.rest [(0x40, [1])])) callOf0 0 0x40 with
      | .at_ u _ _ _ => (match reachLine u callOf0 0x40 true false with | .busy _ => true | _ => false) | _ => false) = true :=
  ⟨⟨by decide +kernel, by decide +kernel⟩, ⟨by decide +kernel, by decide +kernel⟩, by decide +kernel, by decide +kernel⟩
/-- A line that no barn holds: its step waits for its home where the locality monitor names it, and passes through the buffer of the mill
of channel 0 where it does not (R285). -/
theorem test_mill_buffer_hypotheses : let s := millBare (Vector.replicate 8 0)
    BanksTidy s ∧ (Config.monitorNames s.free 0 = true → ∃ u, one s callOf0 0 true = .busy u) ∧
    (Config.monitorNames s.free 0 = false → ∃ u wt, one s callOf0 0 true = .at_ u 0x5000 wt (some 0)) := by
  have e := absent_line (s := leaveBanks (millBare (Vector.replicate 8 0)) 0 [(0, false)]) (c := callOf0) (write := true) (source := false)
    (va := 0) (w := win0) rfl (by decide +kernel) (by decide +kernel) (by decide +kernel)
  refine ⟨⟨by decide +kernel, by decide +kernel⟩, fun h => ⟨_, (e.trans (if_pos h) :)⟩, fun h => ?_⟩
  have : (match stepBuffered (draw (leaveBanks (millBare (Vector.replicate 8 0)) 0 [(0, false)]))
      (stepOf (leaveBanks (millBare (Vector.replicate 8 0)) 0 [(0, false)]) callOf0 win0 0 false) true with
    | .at_ _ pa _ g => pa == 0x5000 && g == some 0 | _ => false) = true := by decide +kernel
  unfold one
  rw [show (millBare (Vector.replicate 8 0)).unit = 0 from rfl, (e.trans (if_neg fun x => Bool.noConfusion (h.symm.trans x)) :)]
  revert this
  split
  · intro h; simp only [Bool.and_eq_true, beq_iff_eq] at h; obtain ⟨rfl, rfl⟩ := h; exact ⟨_, _, by assumption⟩
  · simp
/-- R283, R284: BR on a zero register, ADD, LI, END, and the line steps on the line at frame 5. -/
theorem test_mill : let s := milling #v[0, 0x40, 7, 0, 0, 0, 0, 0]
    upcAfter (exec (.millBr { micro0 with ra := 3 }) s) = some 0x36 ∧ upcAfter (exec (.millBr micro0) s) = some 4 ∧
    regAfter (exec (.millLi micro0) s) 0 = some 0x55 ∧ regAfter (exec (.millAdd { micro0 with rd := 4 }) s) 4 = some 0x95 ∧
    (match exec (.millEnd micro0) s with | .next t => some ((millAt t).call.isNone, getB (ctxAt t 0 1).regs 2) | _ => none) = some (true, 1) ∧
    lineAfter (exec (.lfill micro0) s) 0x5000 7 = some 0x55 ∧ lineAfter (exec (.stw { micro0 with rd := 1, ra := 2 }) s) 0x5040 0 = some 7 ∧
    (match exec (.ltz { micro0 with ra := 0 }) s with | .next t => some (millAt t).z | _ => none) = some true ∧
    upcAfter (exec (.lzmk micro0) s) = some 4 := by decide +kernel
/-- R284, on s64: m × line added to a line, scaled, copied and summed. -/
theorem test_mill_arithmetic : let s := milling #v[0, 0x40, 3, 0, 0, 0, 0, 0]
    let t := match exec (.lfill { micro0 with rd := 0, imm := 5 }) s with | .next t => t | _ => s
    let o : Micro := ⟨some .s64, 0, 0, 1, 0, 2, 0⟩
    lineAfter (exec (.lfma o) t) 0x5040 3 = some 15 ∧ lineAfter (exec (.lscal o) t) 0x5040 7 = some 15 ∧
    lineAfter (exec (.lcopy { o with ty := none }) t) 0x5040 0 = some 5 ∧ regAfter (exec (.lred { o with rd := 3 }) t) 3 = some 40 := by
  decide +kernel

/-- Lomwen core 0 with x1 and x2 given. -/
def lomwen (x y : W64) (f : Lomwen → Lomwen := id) : State :=
  updLom (onCroft id (ready [])) 0 fun k => f { k with x := (k.x.set 1 x).set 2 y }
def xAfter (o : Out) (i : Fin 32) : Option W64 := match o with | .next t => some (lomAt t 0).x[i] | _ => none
def causeAfter (o : Out) : Option W64 := match o with | .next t => some (lomAt t 0).mcause | _ => none
/-- A ring cursor at SRAM 0x80000100 on a host ring of 4 KiB at 0x2000, from fetch to tail; the NOP packet there has one word. -/
def cursor (fetch tail : Nat) : State :=
  { lomwen 0x80000100 0x80000200 (fun k => { k with sram := storeBytes (storeBytes (storeBytes (storeBytes k.sram 0x80000100
      (toBytes 8 (2 ^ 57 + 0x2000))) 0x80000108 (toBytes 8 12)) 0x80000110 (toBytes 8 (fetch * 2 ^ 32))) 0x80000118 (toBytes 8 tail) }) with
    hostMem := storeBytes [] 0x2000 (toBytes 8 0x100) }
/-- A launch packet of one member in SRAM at 0x80000100; function 0 bound to set 0 with die 0 in service. -/
def launchWords : List W64 := [0x100000501, 0, 7, 0x1000001000000, 0x2040]
def dispatchable : State :=
  let s := lomwen 0x80000100 0 fun k => { k with sram := storeBytes k.sram 0x80000100 (launchWords.flatMap fun w => toBytes 8 w.toNat) }
  let s := updFunc s 0 fun k => { k with set := some 0 }
  { s with mgmt := { s.mgmt with dies := 1 } }

theorem test_lomwen_hypotheses : let s := lomwen 5 0x0810
    (xreg s 2).toNat / 256 % 128 ≠ 0 ∧ (xreg s 2).toNat % 64 + (xreg s 2).toNat / 256 % 128 ≤ 64 ∧ (xreg s 1).toNat / 256 % 128 = 0 ∧
    64 < (xreg (lomwen 0 0x403F) 2).toNat % 64 + (xreg (lomwen 0 0x403F) 2).toNat / 256 % 128 ∧ xreg s 0 = 0 ∧
    64 ≤ (xreg (lomwen 64 0) 1).toNat ∧ (xreg s 1).toNat < 64 ∧ (lomAt s 0).pending &&& xreg s 1 = 0 ∧
    (lomAt (lomwen 5 0 fun k => { k with pending := 4 }) 0).pending &&& (5 : W64) ≠ 0 ∧
    (xreg s 1).toNat % 8 ≠ 0 ∧ (cursorQueue (cursor 0 8) 0x80000100).log2 = 12 ∧ (cursorQueue (cursor 0 8) 0x80000100).fetch = 0 ∧
    (cursorQueue (cursor 0 8) 0x80000100).tail = 8 ∧ (cursorQueue (cursor 8 8) 0x80000100).fetch = 8 := by decide +kernel
theorem test_lomwen_fetch_hypotheses : let s := cursor 0 8
    let k := cursorQueue s 0x80000100
    (match readWords s k false k.fetch 1 with
      | (s', .ok [w]) => w.toNat / 256 % 256 == 1 && (match readWords s' k false k.fetch 1 with | (_, .ok _) => true | _ => false)
      | _ => false) = true ∧ 8 * 1 ≤ (k.tail + 2 ^ k.log2 - k.fetch % 2 ^ k.log2) % 2 ^ k.log2 ∧ inSram 0x80000200 8 = true := by decide +kernel
/-- The checks of LM.RFETCH: a packet of no word, one that is not all there, a destination that is no SRAM, a ring of a function without a
set; and a fetch under way with its word read, and with it still to read. -/
theorem test_lomwen_rfetch_hypotheses : let s := cursor 0 8
    let c := 0x80000100
    let len (s : State) : Nat := loadBytes s.hostMem ((cursorQueue s c).base + (cursorQueue s c).fetch) 8 / 256 % 256
    let avail (s : State) : Nat := let k := cursorQueue s c
      (k.tail + 2 ^ k.log2 - k.fetch % 2 ^ k.log2) % 2 ^ k.log2
    let dev := updLom s 0 fun k => { k with sram := storeBytes k.sram 0x80000100 (toBytes 8 0x2000) }
    let on (ws : List (Nat × W64)) := updLom s 0 fun k => { k with rfetch := some (1, { cursorQueue s c with words := ws }) }
    (lomAt s s.unit).rfetch = none ∧ (xreg s 1).toNat = c ∧ c % 8 = 0 ∧ 12 ≤ (cursorQueue s c).log2 ∧ (cursorQueue s c).log2 ≤ 25 ∧
    (cursorQueue s c).host = true ∧ (cursorQueue s c).fetch ≠ (cursorQueue s c).tail ∧ len s = 1 ∧ avail s = 8 ∧
    len { s with hostMem := [] } = 0 ∧ len { s with hostMem := storeBytes [] 0x2000 (toBytes 8 0x300) } = 3 ∧
    (xreg s 2).toNat % 8 = 0 ∧ inSram (xreg s 2).toNat 8 = true ∧ inSram 0x1000 8 = false ∧
    (cursorQueue dev c).host = false ∧ funcSet dev (cursorQueue dev c).func = none ∧
    (cursorQueue (updLom s 0 fun k => { k with sram := storeBytes k.sram 0x80000108 (toBytes 8 11) }) c).log2 < 12 ∧
    (lomAt (on []) (on []).unit).rfetch = some (1, { cursorQueue s c with words := [] }) ∧
    (∃ i < 1, ∀ w ∈ ([] : List (Nat × W64)), w.1 ≠ i) ∧ (∀ i < 1, ∃ w, ([(0, 0x100)] : List (Nat × W64)).find? (fun w => w.1 == i) = some w ∧
      ([0x100] : List W64)[i]? = some w.2) ∧ inSram (c + 20) 4 = true := by
  repeat' apply And.intro
  all_goals first | decide +kernel | rfl
theorem test_lomwen_dispatch_hypotheses : let s := dispatchable
    let p : Packet := ⟨false, false, 0, launchWords⟩
    ((List.range 5).map fun i => BitVec.ofNat 64 (lomLoad s (0x80000100 + 8 * i) 8)) = launchWords ∧ inSram 0x80000100 40 = true ∧
    wf (.launch p) = true ∧ slotOk (launchOf p none 0 1).entry = true ∧ launchRefused s 0 (launchOf p none 0 1) = false ∧
    freeLaunch s (s.unit / 2) = some 0 ∧ freeLaunch s 8 = none ∧ launchRefused (lomwen 0 0) 0 (launchOf p none 0 1) = true ∧
    (xreg (lomwen 4 0) 1).toNat % 8 ≠ 0 := by decide +kernel
/-- R319 to R324: a field, an empty field's cause, pending signals taken, a packet fetched, a launch slot taken, lmdone cleared. -/
theorem test_lomwen : xAfter (exec (.lmBext ⟨3, 1, 2⟩) (lomwen 0xF30000 0x0810)) 3 = some 0xF3 ∧
    causeAfter (exec (.lmBext ⟨3, 1, 0⟩) (lomwen 5 0)) = some 27 ∧
    xAfter (exec (.lmSwait 3 1) (lomwen 5 0 fun k => { k with pending := 6 })) 3 = some 4 ∧ causeAfter (exec (.lmSwait 3 0) (lomwen 0 0)) = some 28 ∧
    xAfter (exec (.lmRfetch ⟨3, 1, 2⟩) (cursor 8 8)) 3 = some 0 ∧
    causeAfter (exec (.lmRfetch ⟨3, 2, 2⟩) (lomwen 0 4)) = some 25 ∧ xAfter (exec (.lmDisp ⟨3, 1, 2⟩) dispatchable) 3 = some 0 ∧
    causeAfter (exec (.lmDisp ⟨3, 1, 2⟩) (lomwen 4 0)) = some 29 ∧
    xAfter (exec (.lmdoneRead 3) (updDie (lomwen 0 0) 0 fun k => { k with lmdone := 9 })) 3 = some 9 := by decide +kernel
/-- The base set (log 51): an add of an immediate, a store and a load of SRAM, an illegal word. -/
theorem test_rv64 : let run (w : Nat) : Out := step { (lomwen 0x80000100 9 fun k =>
        { k with pc := 0x80000000, sram := storeBytes (storeBytes k.sram 0x80000000 (toBytes 4 w)) 0x80000100 [0xFE, 0xFF] }) with
      sched := [.lomwen 0], mgmt := { State.reset.mgmt with stb := true, dies := 1 } }
    xAfter (run 0xFFF10193) 3 = some 8 ∧ xAfter (run 0x00009183) 3 = some (-2) ∧ causeAfter (run 0x00C5A50B) = some 2 ∧
    (match run 0x0020B423 with | .next t => some (lomLoad t 0x80000108 8) | _ => none) = some 9 := by decide +kernel

/-- Queue 0 of function 0, bound to set 0, at a packet that is its whole ring-level packet. -/
def queued (i : Instr) (f : Queue → Queue := id) : State :=
  updQueue { dispatchable with unit := 0 } 0 fun _ => f { Queue.empty with log2 := 12, state := 2, tail := 8, items := [.pkt i Cursor.start, .close 8 false] }
/-- The same with a NOP as the body. -/
def body (i : Instr) : State := queued i fun k => { k with items := [.pkt i Cursor.start, .pkt (.packetNop ⟨false, false, 0, [0x100]⟩) Cursor.start, .close 8 false] }
theorem atHead (p : Packet) (i : Instr) : AtHead (queued i) p i 8 false :=
  ⟨rfl, ⟨rfl, rfl, rfl⟩, ⟨_, rfl⟩, ⟨rfl, rfl, rfl⟩, ⟨rfl, rfl⟩⟩
def pkt (words : List W64) (kf : BitVec 8 := 0) : Packet := ⟨false, false, kf, words⟩
def qAfter (o : Out) : Option (Nat × Nat × Nat) :=
  match o with | .next t => some ((queueAt t 0).head, (queueAt t 0).rseq.toNat, (queueAt t 0).state) | _ => none

theorem test_packet_hypotheses : let l : Packet := pkt launchWords
    let q := queued (.launch l)
    let c := pkt [0x402, 0x40, 0x80, 0x40]
    AtHead q l (.launch l) 8 false ∧ AtHead (queued (.copyPacket c)) c (.copyPacket c) 8 false ∧
    slotOk (launchOf l (some (0, 0)) 0 1).entry = true ∧ funcSet q (queueAt q 0).func = some 0 ∧
    launchRefused q (queueAt q 0).func (launchOf l (some (0, 0)) 0 1) = false ∧ freeLaunch q (q.unit / 512) = some 0 ∧
    (setCall q 0 1 0x40 0x80 0x100 0 (.queue 0 0) []).isSome = true ∧ rangeOk (setAtId q 0).windows Window.rw 0x40 8 = true ∧
    (setCall q 0 1 (pword c 1) (pword c 3) (pword c 2) 0 (.queue 0 0) [((pword c 2).toNat, (pword c 3).toNat)]).isSome = true ∧
    rangeOk (setAtId q 0).windows Window.w (pword c 2).toNat (pword c 3).toNat = true ∧
    rangeOk (setAtId q 0).windows Window.w (2 ^ 56) 0x40 = false ∧
    rangeOk (setAtId q 0).windows Window.r 0x40 8 = true ∧ rangeOk (setAtId q 0).windows Window.w 0x40 8 = true ∧
    (hostRes q 0 0x40).isSome = true ∧ (2 : BitVec 8).getLsbD 1 = true ∧ (0 : BitVec 8).getLsbD 1 = false :=
  ⟨atHead _ _, atHead _ _, by decide +kernel⟩
theorem test_packet_wait_hypotheses : let l : Packet := pkt launchWords
    let b := queueAt (body (.ib l)) 0
    (b.state = 2 ∧ b.preempt = false ∧ b.disable = false ∧ b.replay = [] ∧ b.ip = 0 ∧ b.iter = none ∧
      b.skip = none ∧ b.outs = [] ∧ b.closed = []) ∧
    b.items = [.pkt (.ib l) Cursor.start, .pkt (.packetNop ⟨false, false, 0, [0x100]⟩) Cursor.start, .close 8 false] ∧
    (queueAt (queued (.ffence l) fun k => { k with outs := [(0, .call)] }) 0).outs ≠ [] ∧
    (queueAt (queued (.ffence l) fun k => { k with state := 4 }) 0).state ≠ 2 := by decide +kernel
/-- R314: NOP and FFENCE retire, HEAD and RSEQ advanced and the queue idle; the others are owed, and a WAITMEM waits (state 3). -/
theorem test_packets : qAfter (exec (.packetNop (pkt [0x100])) (queued (.packetNop (pkt [0x100])))) = some (8, 1, 1) ∧
    qAfter (exec (.ffence (pkt [0x107])) (queued (.ffence (pkt [0x107])))) = some (8, 1, 1) ∧
    qAfter (exec (.launch (pkt launchWords)) (queued (.launch (pkt launchWords)))) = some (0, 0, 2) ∧
    netAfter (exec (.copyPacket (pkt [0x402, 0x40, 0x80, 0x40])) (queued (.copyPacket (pkt [0x402, 0x40, 0x80, 0x40])))) = some 1 ∧
    netAfter (exec (.millPacket (pkt [0x100000503, 0x40, 0x40, 0, 0])) (queued (.millPacket (pkt [0x100000503, 0x40, 0x40, 0, 0])))) = some 1 ∧
    qAfter (exec (.waitmem (pkt [0x404, 0x40, 1, 1])) (queued (.waitmem (pkt [0x404, 0x40, 1, 1])))) = some (0, 0, 3) ∧
    netAfter (exec (.signal (pkt [0x308, 0x40, 1])) (queued (.signal (pkt [0x308, 0x40, 1])))) = some 1 ∧
    (match exec (.loopPacket (pkt [0x300000106])) (body (.loopPacket (pkt [0x300000106]))) with
      | .next t => some (queueAt t 0).iter | _ => none) = some (some (3, true)) ∧
    (match exec (.ib (pkt [0x305, 0x40, 8])) (body (.ib (pkt [0x305, 0x40, 8]))) with
      | .next t => some (queueAt t 0).items.length | _ => none) = some 2 := by decide +kernel

def locked : State := updFunc dispatchable 0 fun k => { k with tdi := .locked }
theorem test_request_hypotheses : let s := dispatchable
    isLocked locked 0 = true ∧ isLocked s 0 = false ∧ s.mailbox.begun = false ∧ (queueAt s 3).func ≠ 2 ∧ (queueAt s 3).func = 0 ∧
    wf (.qconfig 0 3 0x1000 12 0x105) = true ∧ (queueAt s 3).state = 0 ∧ (queueAt (queued .nop) 0).state ≠ 0 ∧
    s.mgmt.dies.getLsbD (3 / 512) = true ∧ (queueAt s 3).outs = [] ∧ wf (.mrconfig 0 0x1000 24 0x1FF) = true ∧
    (setAtId s 0).count ≠ 0 ∧ (setAtId s 9).count = 0 ∧ funcSet s 0 = some 0 := by decide +kernel
/-- Queues with work issued, one packet of it failed, and a request that has begun. -/
theorem test_queue_request_hypotheses : let owing (o : Owed) := queued .nop fun k => { k with outs := [(0, o)] }
    let begun := { queued .nop fun k => { k with state := 5 } with mailbox := { dispatchable.mailbox with begun := true } }
    isLocked (owing .call) 0 = false ∧ (queueAt (owing .call) 0).func = 0 ∧ (∀ o ∈ (queueAt (owing .failed) 0).outs, o.2 = .failed) ∧
    (queueAt (owing .call) 0).state ≠ 0 ∧ (∀ o ∈ (queueAt (owing .call) 0).outs, o.2 ≠ .failed) ∧ (owing .call).mailbox.begun = false ∧
    begun.mailbox.begun = true ∧ (queueAt begun 0).func = 0 ∧ (queueAt begun 0).state = 5 ∧ (queueAt begun 3).state = 0 ∧
    (queueAt (queued .nop) 0).state = 2 ∧ (queueAt (queued .nop fun k => { k with state := 5 }) 0).state = 5 := by decide +kernel
/-- An ASHOOT with a mill loaded, a line of the space and a walk of another at hand; the doorbell of a package owned by the host. -/
def ashooting : State :=
  let s := updChan dispatchable 3 fun k => { k with mill := k.mill.loaded }
  updChan (updBank s 0 fun k => { k with lines := [⟨1, 0x40, 0, 0, false, false, 0x5000⟩] }) 0 fun k => { k with walks := [⟨2, 1, 0, 0, false, false, none⟩] }
theorem test_shoot_request_hypotheses : ShootClear ashooting 0 (shootRange 0x1000 0x1000) ∧ funcSet ashooting 0 = some 0 ∧
    ashooting.mailbox.gen = none ∧ ashooting.chans.length = 2 ∧ ashooting.mailbox.pending = false ∧ ashooting.mgmt.owner ≠ 1 ∧
    ({ ashooting with mgmt := { ashooting.mgmt with owner := 1, stb := true } } : State).mgmt.owner = 1 ∧
    (match exec (.ashoot 0 0x1000 0x1000) ashooting with | .next t => some ((bankAt t 0).lines.length, t.mailbox.reply1) | _ => none)
      = some (0, 1) := by
  refine ⟨shootClear ?_ ?_ ?_ ?_ ?_, ?_, ?_, ?_, ?_, ?_, ?_, ?_⟩ <;> decide +kernel
/-- R313: an enabled queue keeps what it had issued, but no WAITMEM and no failed packet (log 90). -/
theorem test_enable_hypotheses : let p := pkt [0x404, 0x40, 1, 1]
    let s := queued .nop fun k => { k with state := 4, outs := [(0, .call), (1, .waitmem p), (2, .failed)] }
    isLocked s 0 = false ∧ (queueAt s 0).func = 0 ∧ s.mgmt.dies.getLsbD (0 / 512) = true ∧
    (match exec (.qenable 0 0) s with | .next t => some ((queueAt t 0).state, (queueAt t 0).outs) | _ => none) = some (1, [(0, .call)]) := by
  decide +kernel
def replyAfter (o : Out) : Option W64 := match o with | .next t => some t.mailbox.reply0 | _ => none
/-- R312: answers, and a queue record as configured. -/
theorem test_requests : let s := dispatchable
    (match exec (.qconfig 0 3 0x1000 12 0x105) s with
      | .next t => some (((queueAt t 3).base, (queueAt t 3).log2), ((queueAt t 3).vec, (queueAt t 3).ien)) | _ => none) = some ((0x1000, 12), (5, true)) ∧
    replyAfter (exec (.qconfig 0 3 0x1000 12 0x105) locked) = some 0x21 ∧ replyAfter (exec (.qconfig 0 0 0x1000 12 0) (queued .nop)) = some 2 ∧
    (match exec (.qenable 0 3) s with | .next t => some (queueAt t 3).state | _ => none) = some 1 ∧
    (match exec (.qdisable 0 0) (queued .nop) with | .next t => some (queueAt t 0).state | _ => none) = some 0 ∧
    replyAfter (exec (.qpreempt 2 3) s) = some 1 ∧ replyAfter (exec (.qrestore 2 3) s) = some 1 ∧
    (match exec (.mrconfig 0 0x1000 24 0x1FF) s with | .next t => some (funcAt t 0).mring.log2 | _ => none) = some 24 ∧
    (match exec (.irqroute 0 5 0x1000 7) s with | .next t => some (sread (0, 0) (funcAt t 0).irqs 5) | _ => none) = some (0x1000, 7) ∧
    (match exec (.fbind 0 0xFFFFFF) s with | .next t => some (funcAt t 0).set | _ => none) = some none ∧
    (match exec (.ashoot 0 0x1000 0x1000) s with | .next t => some t.mailbox.reply1 | _ => none) = some 1 ∧
    replyAfter (exec (.mailboxDoorbell 1) s) = some 2 ∧
    (match exec (.mailboxDoorbell 1) { s with mgmt := { s.mgmt with owner := 1, stb := true } } with
      | .next t => some (t.mailbox.pending, (lomAt t 1).pending) | _ => none) = some (true, 16) := by decide +kernel

/-! ## The host, interfaces, ownership, start -/

theorem test_host_hypotheses : let s := dispatchable
    let q (st : Nat) : State := queued .nop fun k => { k with state := st }
    2 ^ 41 < 2 ^ 41 - 7 + 8 ∧ funcSet s 5 = none ∧ funcSet s 0 = some 0 ∧ 2 ^ 41 - 8 + 8 ≤ 2 ^ 41 ∧
    rangeOk (setAtId s 0).windows Window.r 0x20000000 8 = false ∧ rangeOk (setAtId s 0).windows Window.w 0x20000000 8 = false ∧
    rangeOk (setAtId s 0).windows Window.r 0x40 8 = true ∧ rangeOk (setAtId s 0).windows Window.w 0x40 8 = true ∧
    rangeOk (setAtId s 0).windows Window.rw 0x40 8 = true ∧ (hostRes s 0 0x40).isSome = true ∧ 0x40 % 64 + 64 ≤ 64 ∧
    (funcAt s 0).stream = [] ∧ (funcAt s 0).flying = false ∧
    (funcAt (updFunc s 0 fun k => { k with stream := [.kick 0 8], flying := true }) 0).stream ≠ [] ∧
    (queueAt (q 0) 0).state = 0 ∧ (queueAt (q 5) 0).state = 5 ∧ (queueAt (q 1) 0).state = 1 ∧ (queueAt (q 3) 0).state = 3 ∧
    (queueAt (q 1) 0).func = 0 ∧ (queueAt (q 1) 1).func ≠ 7 ∧ (queueAt (q 1) 0).disable = false ∧ (4 : W64).toNat % 2 ^ 32 % 8 ≠ 0 ∧
    2 ^ (queueAt (q 1) 0).log2 ≤ (0x1000 : W64).toNat % 2 ^ 32 ∧ (0xFF8 : W64).toNat % 2 ^ 32 < 2 ^ (queueAt (q 1) 0).log2 ∧ 0x7FF8 < 0x8000 ∧
    ({ s with mgmt := { s.mgmt with stb := true } } : State).mgmt.stb = true ∧ (funcAt s 0).mring.state = 0 ∧
    (let m := (funcAt (updFunc s 0 fun k => { k with mring := { k.mring with state := 1, log2 := 12 } }) 0).mring
     m.state = 1 ∧ m.disable = false ∧ 2 ^ m.log2 ≤ (0x1000 : W64).toNat % 2 ^ 32 ∧ (0xFF8 : W64).toNat % 2 ^ 32 < 2 ^ m.log2) ∧
    (funcAt (updFunc s 0 fun k => { k with mring := { k.mring with state := 4 } }) 0).mring.state = 4 := by decide +kernel
/-- R302, R303, R306: a read unsupported past the aperture, a write on its way, the next one behind it, kicks by state. -/
theorem test_host : let s := dispatchable
    let q (st : Nat) : State := queued .nop fun k => { k with state := st }
    let kicked (o : Out) : Option (Nat × Nat × Nat) :=
      match o with | .next t => some ((queueAt t 0).tail, (queueAt t 0).state, (queueAt t 0).err) | _ => none
    (match exec (.apertureRead 0 (2 ^ 41) 8) s with | .next t => some t.out | _ => none) = some [.done 0 false 0] ∧
    netAfter (exec (.apertureRead 0 0x40 8) s) = some 1 ∧ netAfter (exec (.apertureWrite 0 0x40 [1, 2]) s) = some 1 ∧
    (match exec (.apertureWrite 0 0x40 [1, 2]) s with
      | .next t => (match exec (.apertureWrite 0 0x80 [3]) t with | .next u => some (u.net.length, (funcAt u 0).stream.length) | _ => none)
      | _ => none) = some (1, 2) ∧ netAfter (exec (.hostAtomic 0 0x40 1 2) s) = some 1 ∧
    kicked (exec (.kickWrite 0 0 0x10) (q 1)) = some (16, 2, 0) ∧ kicked (exec (.kickWrite 0 0 4) (q 1)) = some (8, 4, 6) ∧
    kicked (exec (.kickWrite 0 0 0x10) (q 4)) = some (8, 4, 0) ∧
    (match exec (.kickWrite 0 0 0x10) (queued .nop fun k => { k with state := 5, save := 0x9000 }) with
      | .next t => some (memGet t 0x900C 4) | _ => none) = some 16 ∧
    (match exec (.millRingKick 0 8) (updFunc s 0 fun k => { k with mring := { k.mring with state := 1, log2 := 12 } }) with
      | .next t => some ((funcAt t 0).mring.tail, (funcAt t 0).mring.state) | _ => none) = some (8, 2) ∧
    controlRead { q 2 with mgmt := { s.mgmt with stb := true } } 0 0 = some 0x200000000 := by decide +kernel

/-- Function 0 bound to set 0, after stage B. -/
def started : State := { dispatchable with mgmt := { dispatchable.mgmt with stb := true } }
theorem test_interface_hypotheses : let s := started
    let run := updFunc s 1 fun k => { k with tdi := .run }
    let busy := updQueue run 0 fun k => { k with func := 1, state := 2, outs := [(0, .call)] }
    s.mgmt.stb = true ∧ dispatchable.mgmt.stb = false ∧
    s.mailbox.pending = false ∧ ({ s with mailbox := { s.mailbox with pending := true } } : State).mailbox.pending = true ∧
    (funcAt s 1).tdi = .unlocked ∧ (funcAt locked 0).tdi = .locked ∧ (funcAt run 1).tdi ≠ .unlocked ∧
    (∀ e ∈ run.queues, e.2.func = 1 → e.2.outs = []) ∧ (funcAt run 1).mring.outs = [] ∧
    (busy.queues.any fun e => e.2.func == 1 && e.2.state != 0 && e.2.outs.any fun o => decide (o.2 ≠ .failed)) = true ∧
    (funcAt s 1).stopping = false ∧ (funcAt (updFunc s 1 fun k => { k with stopping := true }) 1).stopping = true ∧
    (s.mailbox.req.set 0 0x100)[0].toNat / 256 % 128 = 1 ∧ ¬ (1 ≤ 0 ∧ 0 ≤ 64) ∧
    (funcAt s 1).report = none ∧ (funcAt (updFunc s 1 fun k => { k with report := some (reportOf s 1) }) 1).report.isSome = true ∧
    s.mgmt.stage = 0 ∧ ({ s with mgmt := { s.mgmt with stage := 2 } } : State).mgmt.stage ≠ 0 := by decide +kernel
/-- R328, R329, R395: unlocked, locked, run, unlocked again; measurement 5 is the owner and the ticket. -/
theorem test_interfaces : let s := started
    let tdi (o : Out) : Option Tdi := match o with | .next t => some (funcAt t 1).tdi | _ => none
    let go (i : Instr) (o : Out) : Out := match o with | .next t => exec i t | x => x
    tdi (exec (.lockInterface 1) s) = some .locked ∧ tdi (go (.startInterface 1) (exec (.lockInterface 1) s)) = some .run ∧
    tdi (go (.stopInterface 1) (go (.startInterface 1) (exec (.lockInterface 1) s))) = some .unlocked ∧
    tdi (go (.tdispInterfaceError 1) (exec (.lockInterface 1) s)) = some .unlocked ∧
    (match exec (.startInterface 1) s with | .next t => some t.out | _ => none) = some [.refused 1] ∧
    (match exec (.getDeviceInterfaceState 1) s with | .next t => some t.out | _ => none) = some [.tdi 1 .unlocked] ∧
    (match exec (.getDeviceInterfaceReport 1) s with | .next t => some t.out | _ => none) = some [.refused 1] ∧
    (match exec (.spdmMeasurementRequest 5) { s with mgmt := { s.mgmt with stage := 2, owner := 1, ticket := 3 } } with
      | .next t => some t.out | _ => none) = some [.measure 5 0x301] ∧
    tdi (exec (.lockInterface 1) dispatchable) = some .unlocked := by decide +kernel

/-- The package after stage B, owned through a port. -/
def owned (p : Nat) : State := { dispatchable with mgmt := { dispatchable.mgmt with stage := 1, stb := true, owner := p } }
theorem test_management_hypotheses : let s := owned 0
    let o := owned 2
    let m := { o with mgmt := { o.mgmt with imgaddr := 5 } }
    s.mgmt.stage ≠ 0 ∧ (0 : W64).setWidth 16 = s.mgmt.ticket ∧ s.mgmt.owner = 0 ∧ (1 : W64).setWidth 16 ≠ s.mgmt.ticket ∧
    o.mgmt.owner = portId .board ∧ o.mgmt.owner ≠ portId .host ∧ (1 : Fin 4) ≠ 0 ∧ (1 : Fin 4).val ≠ portId .board ∧
    ({ o with mgmt := { o.mgmt with pend := true, hto := 1 } } : State).mgmt.hto = portId .host ∧ o.mgmt.code ≠ 1 ∧
    m.mgmt.imgaddr.toNat % 4096 ≠ 0 ∧ s.border = none ∧ (0x7 : BitVec 72) ||| 0xFFFFFFFFFFFFFFFFF8 = (padAt s 0).fields ||| (padAt s 1).fields ∧
    (0x7 : BitVec 72) &&& 0xFFFFFFFFFFFFFFFFF8 = 0 ∧ (setAtId s 0).count ≠ 0 ∧ (s.tenants.any fun x => x.1 == 0) = true ∧ (cribAt s 4607).set = none ∧
    (croftAt s 0).tenant.isSome = true ∧
    (ctxAt (updCtx s 0 0 fun k => { k with mode := .frozen, budget := 0x2040 }) 0 (croftAt s 0).sel).mode = .frozen ∧
    gAdmitted (ctxAt (updCtx s 0 0 fun k => { k with mode := .frozen, budget := 0x2040 }) 0 0).budget 63 = true := by decide +kernel
/-- R389, R390: a claim by the ticket, and the three handovers. -/
theorem test_management : let s := owned 0
    let o := owned 2
    let mg (x : Out) : Option (Nat × Nat × Bool × Nat) :=
      match x with | .next t => some (t.mgmt.ticket.toNat, t.mgmt.owner, t.mgmt.pend, t.mgmt.hto) | _ => none
    mg (exec (.ownerClaim .board 0) s) = some (1, 2, false, 0) ∧ mg (exec (.ownerClaim .board 1) s) = some (0, 0, false, 0) ∧
    mg (exec (.handoverOffer .board 1) o) = some (0, 2, true, 1) ∧ mg (exec (.handoverRelease .board) o) = some (1, 0, false, 0) ∧
    mg (exec (.handoverWithdraw .board) { o with mgmt := { o.mgmt with pend := true } }) = some (0, 2, false, 0) := by decide +kernel
/-- R391 to R394: the limits clamped, the log window followed, a misaligned image, the owner's fields read by another port. -/
theorem test_management_fields : let o := owned 2
    (match exec (.plimitWrite .board 100) o with | .next t => some t.mgmt.plimit | _ => none) = some 400 ∧
    (match exec (.tlimitWrite .board 200) o with | .next t => some t.mgmt.tlimit | _ => none) = some 110 ∧
    (match exec (.logposWrite .board 0x80000000) o with | .next t => some t.mgmt.logpos | _ => none) = some 4064 ∧
    (match exec (.activate .board 1) { o with mgmt := { o.mgmt with imgaddr := 5 } } with | .next t => some t.mgmt.code | _ => none) = some 2 ∧
    mgmtRead o .board 0x030 = some 2800 ∧ mgmtRead o .host 0x040 = some 0 := by decide +kernel
/-- R263, R282, R365, R379, R386: registers with no row of their own. -/
theorem test_register_writes : let s := owned 0
    (match exec (.registerWrite (.fairKey 1 5 0x7FF)) s with | .next t => some (sread 0 (fairAt t 1).keys 5) | _ => none) = some 0x7FF ∧
    (match exec (.registerWrite (.millEntry 3 2 true 9)) s with | .next t => some (sread (false, 0) (chanAt t 3).mill.entry 2) | _ => none) = some (true, 9) ∧
    (match exec (.registerWrite (.paddocks 0 7 1 (BitVec.allOnes 72 - 7))) s with | .next t => some (padAt t 0).fields | _ => none) = some 7 ∧
    (match exec (.registerWrite (.watchdog 3 100)) s with | .next t => some (dieAt t 3).watchdog | _ => none) = some 100 ∧
    (match exec (.registerWrite (.debug 0 0x418 8 77)) (updCtx s 0 0 fun k => { k with mode := .frozen, budget := 0x2040 }) with
      | .next t => some (getG (ctxAt t 0 0).regs 3) | _ => none) = some 77 := by decide +kernel

theorem test_power_hypotheses : let r := State.reset
    let l : Line := ⟨1, 0, 5, 0, true, false, 0x5000⟩
    let s := updBank (updFair r 0 fun k => { k with dead := [3] }) 4 fun k => { k with lines := [l, { l with dirty := false, la := 1 }] }
    let odd := { r with flash := [(0, List.replicate 32 1), (1, List.replicate 32 1)] }
    (owned 0).power = .on ∧ r.mgmt.stb = false ∧ (flashImage odd odd.mgmt.bootSlot).2 ≠ 0 ∧ (flashImage odd (1 - odd.mgmt.bootSlot)).2 ≠ 0 ∧
    r.power = .on ∧ ({ r with power := .off } : State).power = .off ∧ r.mgmt.stage = 0 ∧ (owned 0).mgmt.stage = 1 ∧ (owned 0).mgmt.stb = true ∧
    ({ owned 0 with mgmt := { (owned 0).mgmt with stb := false } } : State).mgmt.stb = false ∧ r.mgmt.lognext < 4096 ∧
    r.mgmt.narrow.contains 2 = false ∧ (dispatchable.tenants.any fun k => k.1 == 0) = true ∧ nth (bankAt s 4).lines 0 = some l ∧ l.dirty = true ∧
    (nth (bankAt s 4).lines 1).isSome = true ∧ (nth (croftAt (ready []) 0).icache 0).isSome = true ∧
    (hiresOf (fairAt r 0)).filter (fun h => h.rick) = [] ∧ (nth (send r ⟨[], .ack (setAgent 0) 0 0, none⟩).net 0).isSome = true := by decide +kernel
/-- R387, R388, R396 to R398: stages A and B, a trip at 125 degrees, throttling above the limit, a lane lost, poisoned memory. -/
theorem test_power : let s := owned 0
    let pw (o : Out) : Option Power := match o with | .next t => some t.power | _ => none
    let mg (o : Out) : Option (Nat × Nat × Nat) := match o with | .next t => some (t.mgmt.stage, t.mgmt.thr1, t.mgmt.narrow.length) | _ => none
    pw (exec .powerLoss s) = some .off ∧ pw (exec .powerGood { s with power := .off }) = some .on ∧ pw (exec (.thermalTrip 125) s) = some .tripped ∧
    pw (exec (.thermalTrip 124) s) = some .on ∧ mg (exec .stageADone State.reset) = some (1, 0, 0) ∧
    mg (exec .stageBDone State.reset) = some (0, 0, 0) ∧ mg (exec (.laneRepair 2 0 false) s) = some (1, 0, 1) ∧
    (match exec (.throttle 2801 []) s with | .next t => some (fairAt t 0).throttled | _ => none) = some true ∧
    (match exec (.softError (.dram 0x1000)) s with | .next t => some (poisoned (sread 0 t.marks 0x40)) | _ => none) = some true := by decide +kernel

/-- An RSA-4096 modulus made for this test, and its key's signature over the header below with a salt of zeros, as 128-bit words. -/
def modulus0 : List Byte := ([0xEBCBD0F9B177CFE39357E3D5D50F1210, 0x867B53CD02236946E82D3C734A68FC86, 0xD6FE72E17EBC40720BD2981FA38E7990, 0xF50387FC1465DEF87F9042AB63A81C35,
  0xB4450977C5FB232557C77656904907A8, 0x7592CAA890965775ABEF3FCC664EC409, 0x41925B736A3A4EAD0608300108F8A76C, 0x65A4D88B76FDC031D2C148A68E0E1629,
  0xD4B671E005DABA557930651FA0F21F28, 0x296E405EAF5A97742B9AAE6FC4D3BCD0, 0x33D2D9964483040F97C1A2FC4987B1F0, 0x57E811B81CA31488003779B4CD66705D,
  0xB9D57FB71FC9E8F35583CD0AF29F1ACF, 0x07C16145BA39687754CEB31519095A6A, 0xA5163EC1B0A16644645A7E8E157764BE, 0x455F92131E2CC81FB2B6FBB3991D8C3B,
  0xE26F8A44E8825C588484D9CA74205B45, 0xB576EEE167E0780D9291CB2DB36D8550, 0xCC6E6374AE79E23511EDA5EA50D07754, 0x7A605177AFDB5D9D6A8946C4A0C03592,
  0x805247E87E7265093804CEC262755693, 0x115FFEDBAA7AC18E5166F0025D5B58EC, 0x31FA8E49F96A475BC7E2C971BF454E41, 0xC40A9E89CF7F3B4AD037F4A4970E744C,
  0xC09D3DAA1545D38D509101826CC35BA8, 0xB6D8CA43A8517FD53B6321A0BD2F45F0, 0x13C6418260A56C34AD3953E20FADAAA1, 0x993B6D1AEF07A10E269966A2E6061C2C,
  0xA81E6E0D6AE7837E350A8FC05AAE20CF, 0x98D7A63AF287977349893DC8EA02B4DA, 0x4EB0F38AA2441337A6AF89EBC8AEE3B8, 0x89E4931548E8E78948A5102CEC6A760F] : List Nat).flatMap (toBytesBE 16)
def signature0 : List Byte := ([0x179F49F3BEBBBCD9DA7946CD906B9FBD, 0xF8C190295E061F35C36DB400E1C4CAAD, 0x90199162B8F93C4C8D326D5DC96B262B, 0x03D213D607EC11A67E143F618391A106,
  0x12CCB122F1AE74756A03842A68DBE27E, 0x0A5B8DAC182B8A72A84B10E48313D9BE, 0x70B8AE5ABDC894BFDE67B9FE21E49BC9, 0x1EEFB3B4062133DEE81D822B06EFE0C7,
  0x2FBB604FEA8FF48320035106A4918626, 0x43AC843453B0E7C058B12A5EED8F7D63, 0xF73F73A34639FC745AC9FF8F391C33C5, 0xA54C077B9E22516E8849228E0888B5C0,
  0x5757A63E4022AE0B345E306FF1FACE28, 0x5F799A1EB5869A888103343214DE76FB, 0x597DA758298A40FEF7FC43BE232C2AF8, 0x97A1E20192ED6AA1B2A468B031ADDC20,
  0x192C7882EABAE849208B48D80F2A0D53, 0x095C6DEF7FD295F008405D737D2077CC, 0xBA87BD2FE9C7AF8F2EA6F43FE32E9B93, 0xBCFE3B99B296BBCC629510C7328AA643,
  0x6B7CCF061BE8854B870CA082260EC7A2, 0xF7CD20483DEAF4E4EBAA268960DDA8DF, 0xB15ED7F7A21D8382AA9A07918B5B72B2, 0xA77198C7FA70D7582D64A4CFDDCB5D1F,
  0xE71469DCFC355DDFFF263B45AF2730A3, 0x965F7C19602C5391E35877212E5C8783, 0xD36AFA47EDEBE405C608A2C24D9051F1, 0x4AC4AB370424D2F870AD0343A5E88824,
  0x9B797BDD72AD720A6A62DCE4E05F5A90, 0x33F85DE781226BD23C34C3D9954DDF82, 0x7C01FBC7868F5DCCF9998B3D31910D07, 0x1AFA2BFEBA72A131C5022B3D22240B6E] : List Nat).flatMap (toBytesBE 16)
/-- A header as R393 lays it out: MAGIC, the highest SVN, layouts 1, key 0, an empty body and its digest, the key. -/
def signed0 : List Byte :=
  [0x54, 0x52, 0x53, 0x4B, 0x58, 0x30, 0x30, 0x31, 0xFF, 0xFF, 0xFF, 0xFF, 1, 0, 1, 0, 1, 0, 0, 0] ++ List.replicate 12 0 ++
  toBytesBE 64 0xCF83E1357EEFB8BDF1542850D66D8007D620E4050B5715DC83F4A921D36CE9CE47D0D13C5D85F2B0FF8318D2877EEC2F63B931BD47417A81A538327AF927DA3E ++
  modulus0 ++ toBytes 4 65537 ++ List.replicate 412 0
def digest0 : Nat := 0x99CAB26F02A3BFEEC726525E784D19DC5FB5EE4C95CF75D5CD49E2B90CCFBAF9CFE7AF0A477D73232E766252456589D91B9527149F93C6AF954BBBA23369937C
def image0 : List Byte := signed0 ++ signature0 ++ List.replicate 512 0
theorem key_digest0 : ofBytesBE (sha512 ((image0.drop 96).take 516)) = digest0 := by decide +kernel
theorem signature_verifies : pssVerify (ofBytesBE modulus0) 65537 signed0 signature0 = true := by decide +kernel
theorem body_digest0 : sha512 [] = (image0.drop 32).take 64 := by decide +kernel
theorem image_fields0 : imageField image0 18 2 = 0 ∧ imageField image0 8 4 = 0xFFFFFFFF ∧ imageField image0 12 2 = 1 ∧ imageField image0 14 2 = 1 ∧
    imageField image0 16 2 = 1 ∧ imageField image0 608 4 = 65537 ∧ imageField image0 24 8 = 0 ∧ (image0.drop 96).take 512 = modulus0 ∧
    image0.take 1024 = signed0 ∧ (image0.drop 1024).take 512 = signature0 ∧ image0.take 2048 = image0 ∧ image0.drop 2048 = [] := by decide +kernel
/-- Where the fuses hold that key and no higher SVN, the image passes every check of R393. -/
theorem image_passes (r : Config.keyRevoked 0 = false) (d : Config.keyDigest 0 = BitVec.ofNat 512 digest0)
    (v : Config.fusedSvn ≤ 0xFFFFFFFF) : checkImage image0 [] = 0 := by
  obtain ⟨a, b, c, e, f, g, h, i, j, k, l, m⟩ := image_fields0
  simp [checkImage, a, b, c, e, f, g, i, j, k, key_digest0, signature_verifies, r, d, body_digest0, Nat.not_lt.mpr v]
/-- In the boot slot, and in the other one beside a boot slot that fails; and in device memory, for ACTIVATE. -/
def bootable : State := { State.reset with flash := [(0, image0), (1, [])], mgmt := { State.reset.mgmt with stage := 1 } }
def fallback : State := { bootable with flash := [(0, List.replicate 32 1), (1, image0)] }
theorem test_image_hypotheses (r : Config.keyRevoked 0 = false) (d : Config.keyDigest 0 = BitVec.ofNat 512 digest0)
    (v : Config.fusedSvn ≤ 0xFFFFFFFF) : (flashImage bootable bootable.mgmt.bootSlot).2 = 0 ∧
    (flashImage fallback fallback.mgmt.bootSlot).2 ≠ 0 ∧ (flashImage fallback (1 - fallback.mgmt.bootSlot)).2 = 0 ∧
    bootable.power = .on ∧ bootable.mgmt.stage = 1 ∧ bootable.mgmt.stb = false := by
  obtain ⟨a, b, c, e, f, g, h, i, j, k, l, m⟩ := image_fields0
  have x : ∀ s b, sread [] s.flash b = image0 → (flashImage s b).2 = 0 := fun s b w => by
    simp [flashImage, imageCode, w, l, m, h, image_passes r d v]
  exact ⟨x _ _ rfl, by decide +kernel, x _ _ rfl, rfl, rfl, rfl⟩
/-- Its lines, as a bank holds them, little-endian. -/
def imageLines : List Nat := [
  0xCEE96CD321A9F483DC15570B05E420D607806DD6502854F1BDB8EF7E35E183CF0000000000000000000000000000000100010001FFFFFFFF313030584B535254,
  0x86FC684A733C2DE846692302CD537B8610120FD5D5E35793E3CF77B1F9D0CBEB3EDA27F97A3238A5817A4147BD31B9632FEC7E87D21883FFB0F2855D3CD1D047,
  0x9C44E66CC3FEFAB75579690A8CA9275A80749905676C7572523FBC5770945B4351CA863AB42907FF8DE6514FC8703F590798EA31F98D20B7240BC7EE172FED6,
  0xD0BCD3C46FAE9A2B74975AAF5E406E29281FF2A01F65307955BADA05E071B6D429160E8EA648C1D231C0FD768BD8A4656CA7F80801300806AD4E3A6A735B9241,
  0x6A5A091915B3CE54776839BA4561C107CF1A9FF20ACD8355F3E8C91FB77FD5B95D7066CDB47937008814A31CB811E857F0B18749FCA2C1970F04834496D9D233,
  0x50856DB32DCB91920D78E067E1EE76B5455B2074CAD98484585C82E8448A6FE23B8C1D99B3FBB6B21FC82C1E13925F45BE6477158E7E5A644466A1B0C13E16A5,
  0xEC585B5D02F066518EC17AAADBFE5F1193567562C2CE04380965727EE84752809235C0A0C446896A9D5DDBAF7751607A5477D050EAA5ED1135E279AE74636ECC,
  0xF0452FBDA021633BD57F51A843CAD8B6A85BC36C820191508DD34515AA3D9DC04C740E97A4F437D04A3B7FCF899E0AC4414E45BF71C9E2C75B476AF9498EFA31,
  0xDAB402EAC83D8949739787F23AA6D798CF20AE5AC08F0A357E83E76A0D6E1EA82C1C06E6A26699260EA107EF1A6D3B99A1AAAD0FE25339AD346CA5608241C613,
  0x100010F766AEC2C10A54889E7E8481593E489B8E3AEC8EB89AFA6371344A28AF3B04E,
  0x0,
  0x0,
  0x0,
  0x0,
  0x0,
  0x0,
  0x6A19183613F147EA611EC07D613D2032B266BC95D6D328D4C3CF9B862911990ADCAC4E100B46DC3351F065E2990C1F8BD9F6B90CD4679DAD9BCBBBEF3499F17,
  0xC7E0EF062B821DE8DE332106B4B3EF1EC99BE421FEB967DEBF94C8BD5AAEB870BED91383E4104BA8728A2B18AC8D5B0A7EE2DB682A84036A7574AEF122B1CC12,
  0xC0B588088E2249886E51229E7B074CA5C5331C398FFFC95A74FC3946A3733FF7637D8FED5E2AB158C0E7B0533484AC43268691A40651032083F48FEA4F60BB2F,
  0x20DCAD31B068A4B2A16AED9201E2A197F82A2C23BE43FCF7FE408A2958A77D59FB76DE1432340381889A86B51E9A795F28CEFAF16F305E340BAE22403EA65757,
  0x43A68A32C7109562CCBB96B2993BFEBC939B2EE33FF4A62E8FAFC7E92FBD87BACC77207D735D4008F095D27FEF6D5C09530D2A0FD8488B2049E8BAEA82782C19,
  0x1F5DCBDDCFA4642D58D770FAC79871A7B2725B8B91079AAA82831DA2F7D75EB1DFA8DD608926AAEBE4F4EA3D4820CDF7A2C70E2682A00C874B85E81B06CF7C6B,
  0x2488E8A54303AD70F8D2240437ABC44AF151904DC2A208C605E4EBED47FA6AD383875C2E217758E391532C60197C5F96A33027AF453B26FFDF5D35FCDC6914E7,
  0x6E0B24223D2B02C531A172BAFE2BFA1A070D91313D8B99F9CC5D8F86C7FB017C82DF4D95D9C3343CD26B2281E75DF833905A5FE0E4DC626A0A72AD72DD7B799B,
  0x0,
  0x0,
  0x0,
  0x0,
  0x0,
  0x0,
  0x0,
  0x0]
def imageInMemory : State :=
  let s := updBank (owned 2) 0 fun k => { k with lines := ((List.range 32).zip imageLines).map fun e =>
    ⟨1, e.1, BitVec.ofNat 512 e.2, 0, true, false, 0x10000 + 64 * e.1⟩ }
  { s with mgmt := { s.mgmt with imgaddr := 0x10000 } }
theorem test_activate_hypotheses : coherentBytes imageInMemory imageInMemory.mgmt.imgaddr.toNat 2048 = image0 ∧
    imageInMemory.mgmt.owner = portId .board ∧ imageInMemory.mgmt.code ≠ 1 ∧ imageInMemory.mgmt.imgaddr.toNat % 4096 = 0 ∧
    staleLayouts imageInMemory 1 1 = [] ∧ staleLayouts (onTen (fun t => { t with layout := 2 }) imageInMemory) 1 1 ≠ [] := by decide +kernel

/-- A set of two tenants, on crofts 40 and 41. -/
def spec0 : SetSpec := ⟨8, 7, 0, 0, [⟨40, 0, 0x1000, 0x2000, 0, 0x1FFFF, true, 0x410⟩, ⟨41, 0x100000, 0x1000, 0x2000, 0x10000, 0, false, 0x490⟩]⟩
theorem test_tenant_hypotheses : let s := owned 0
    (setAtId s spec0.set).count = 0 ∧ spec0.tenants ≠ [] ∧ 1 ≤ spec0.asid ∧ spec0.asid ≤ 0xFFFE ∧ spec0.set + spec0.tenants.length ≤ 2 ^ 24 ∧
    (∀ e ∈ s.sets, e.2.count = 0 ∨ (e.2.asid ≠ spec0.asid ∧
      (e.1 + e.2.count ≤ spec0.set ∨ spec0.set + spec0.tenants.length ≤ e.1))) ∧
    (∀ y ∈ spec0.tenants, y.pool % 4096 = 0 ∧ y.save % 4096 = 0 ∧ openCroft s y.core = true ∧ paddockOf s (fieldOf y.core) = spec0.paddock) ∧
    (spec0.tenants.map TenantSpec.core).Nodup ∧ (spec0.tenants[1]?).isSome = true ∧
    (setAtId s 0).count ≠ 0 ∧ (setAtId s 99).count = 0 := by decide +kernel
/-- R352 to R354: the steward and the wain of a new tenant, and nothing left of a deleted set. -/
theorem test_tenants : (match exec (.tenantCreate spec0) (owned 0) with
      | .next t => some (((ctxAt t 40 0).pc, (ctxAt t 41 15).pc, (ctxAt t 40 0).mode), (tenAt t 8).hcap, (croftAt t 41).tenant) | _ => none)
      = some ((0x1000, 0x2000, .running), 0xFFFF, some 9) ∧
    (match exec (.tenantCreate { spec0 with asid := 1 }) (owned 0) with | .next t => decide (t = owned 0) | _ => false) = true ∧
    (match exec (.tenantSetDeletion 0) (owned 0) with | .next t => some (t.tenants.length, t.sets.length) | _ => none) = some (0, 0) := by
  decide +kernel

/-! ## Events -/

/-- Context 1 of croft 0 in the state f gives it; packets in flight, the first named by the event. -/
def event (ms : List Msg) (f : Context → Context := id) (arg : List Nat := [0]) : State :=
  { ready [] f with net := ms.map fun m => ⟨[], m, none⟩, arg := arg }
def who0 : Agent := ⟨0, 0, 0, 1, 1, 0, 0, 1, 0⟩
def mode1 (o : Out) : Option Mode := match o with | .next t => some (ctxAt t 0 1).mode | _ => none
def await0 : Await := ⟨0, 0, 1, 0, .g 5 8 false, .keep, false, none, [], 0, none, false, none, none, (.feFull, 0, 0)⟩
def park0 : Park := Park.plain .bin 3 2 0 0 false 0

theorem test_run_hypotheses :
    let sealing := event [] (fun k => { k with stage := .sealing, held := [⟨0x40, 8, .int .add, 1, resOf (ready []) 0x40, 1⟩] }) [0, 1]
    let listed := event [] (fun k => { k with mode := .awaiting, await := some { await0 with listed := true } }) [0, 1]
    let resident := event [] (fun k => { k with mode := .parked, park := some { park0 with kind := .resident, served := true } }) [0, 1]
    let parked (n : Nat) := event [] (fun k => { k with mode := .parked, park := some { park0 with count := n }, regs := putB k.regs 3 2 }) [0, 1]
    ((evCtx sealing).mode = .running ∧ (evCtx sealing).stage = .sealing ∧ (evCtx sealing).busy = false) ∧
    ¬ (evCtx listed).mode = .running ∧ ((evCtx listed).await.any fun a => a.listed) = true ∧ (evCtx listed).mode = .awaiting ∧
    (evCtx listed).busy = false ∧ (evCtx resident).mode = .parked ∧ ((evCtx resident).park.any fun p => p.kind == .resident && p.served) = true ∧
    (evCtx resident).busy = false ∧ (evCtx resident).frz = false ∧ (croftAt resident 0).stopped = false ∧ (croftAt resident 0).quiesce = false ∧
    (evCtx (parked 2)).park = some park0 ∧ park0.count ≤ (getB (evCtx (parked 2)).regs 3).toNat ∧
    (getB (evCtx (parked 3)).regs 3).toNat < 3 ∧ park0.param < 8 := by decide +kernel
/-- A parked context whose word was served, the word's block poisoned where u is given. -/
def servedPark (w : Wake) (u : Option Nat) : State :=
  event [] (fun k => { k with mode := .parked, park := some { park0 with kind := w, served := true, ue := u } }) [0, 1]
theorem test_served_hypotheses : (∀ w ∈ [Wake.resume, .feEmpty, .crib], (evCtx (servedPark w none)).mode = .parked ∧
      (evCtx (servedPark w none)).park = some { park0 with kind := w, served := true } ∧ (evCtx (servedPark w none)).frz = false ∧
      (croftAt (servedPark w none) 0).stopped = false ∧ (croftAt (servedPark w none) 0).quiesce = false) ∧
    (evCtx (servedPark .feFull (some 0x40))).park = some { park0 with kind := .feFull, served := true, ue := some 0x40 } ∧
    (evCtx (servedPark .feFull (some 0x40))).frz = false ∧ park0.ue = none ∧ park0.owe = Owing.none := by decide +kernel
def reply0 : Reply := ⟨0, 8, 9, none, none, none, false, false, 0x40⟩
theorem test_answer_hypotheses : let ack (l : List Nat) := event [.ack who0 1 7] fun k => { k with o1 := 1, posted := [⟨7, 0, 0, [], none, l⟩] }
    let reply := event [.reply who0 reply0] fun k => { k with mode := .awaiting, await := some await0 }
    let late := event [.reply { who0 with acc := 5 } reply0] fun k => { k with mode := .awaiting, await := some await0 }
    deliverable (ack [1]) (argN (ack [1]) 0) = some (.ack who0 1 7) ∧ findCounts (ack [1]) who0 = some (0, 1) ∧
    findCounts (ack [1]) { who0 with cnt := 9 } = none ∧ (ctxAt (event []) 0 1).posted = [] ∧
    (ctxAt (ack [1]) 0 1).posted.find? (fun p => p.id == 7) = some ⟨7, 0, 0, [], none, [1]⟩ ∧
    (ctxAt (ack [1, 1, 2]) 0 1).posted.find? (fun p => p.id == 7) = some ⟨7, 0, 0, [], none, 1 :: 1 :: [2]⟩ ∧
    deliverable reply (argN reply 0) = some (.reply who0 reply0) ∧ (9 < 2 ^ (8 * 8)) ∧
    (tenAt reply who0.ten).move = .settled ∧ findAccess reply who0 = some (0, 1) ∧ (ctxAt reply 0 1).mode = .awaiting ∧
    deliverable late (argN late 0) = some (.reply { who0 with acc := 5 } reply0) ∧ findAccess late { who0 with acc := 5 } = none ∧
    parkedBy late { who0 with acc := 5 } = false ∧
    (ctxAt reply 0 1).await = some await0 ∧ (ctxAt reply 0 1).owe = Owing.none ∧ (ctxAt reply 0 1).frz = false ∧ await0.ue = none ∧
    await0.acq = false ∧ await0.left = 1 ∧ await0.buf = 0 ∧ await0.run = .keep ∧ 1 < ({ await0 with left := 2 } : Await).left := by decide +kernel
theorem test_fault_hypotheses : let fault (f : Context → Context) := event [.fault who0 0 0 cPROT 0x40 0 false] f
    let parkedAs (w : Wake) := fault fun k => { k with mode := .parked, park := some { park0 with kind := w } }
    deliverable (fault id) (argN (fault id) 0) = some (.fault who0 0 0 cPROT 0x40 0 false) ∧ (tenAt (fault id) 0).move = .settled ∧
    findAccess (fault id) who0 = some (0, 1) ∧ findCounts (event [.fault who0 1 7 cPROT 0x40 0 false]) who0 = some (0, 1) ∧
    (ctxAt (fault id) 0 1).mode = .running ∧ (ctxAt (parkedAs .bin) 0 1).park = some park0 ∧ park0.kind ≠ .resident ∧
    findAccess (parkedAs .resident) who0 = some (0, 1) ∧ (ctxAt (parkedAs .resident) 0 1).mode = .parked ∧
    (ctxAt (parkedAs .resident) 0 1).park = some { park0 with kind := .resident } ∧
    (ctxAt (fault fun k => { k with mode := .frozen }) 0 1).abp = none := by decide +kernel
/-- R149, R150, R223, R225, R345: a seal, an acknowledgement, a reply's value, an abort to the start of the run, a wake. -/
theorem test_run_events :
    let reply := event [.reply who0 reply0] fun k => { k with mode := .awaiting, await := some await0 }
    let fault := event [.fault who0 0 0 cPROT 0x40 0 false] fun k => { k with pc := 0x40, regs := putG k.regs 3 9, shadow := Regs.zero }
    let parked := event [] (fun k => { k with mode := .parked, park := some park0, regs := putB k.regs 3 5 }) [0, 1]
    (match exec .runSeal (event [] (fun k => { k with stage := .sealing }) [0, 1]) with | .next t => some (ctxAt t 0 1).stage | _ => none) = some .sealed ∧
    (match exec .postedStoreAck (event [.ack who0 1 7] fun k => { k with o1 := 2 }) with | .next t => some ((ctxAt t 0 1).o1, t.net.length) | _ => none)
      = some (1, 0) ∧ mode1 (exec .accessReply reply) = some .running ∧
    (match exec .accessReply reply with | .next t => some (getG (ctxAt t 0 1).regs 5) | _ => none) = some 9 ∧
    (match exec .faultAnswer fault with | .next t => some ((ctxAt t 0 1).mode, (ctxAt t 0 1).pc, getG (ctxAt t 0 1).regs 3) | _ => none) = some (.parked, 0, 0) ∧
    (match exec .parkedWake parked with | .next t => some ((ctxAt t 0 1).mode, getB (ctxAt t 0 1).regs 3) | _ => none) = some (.running, 3) ∧
    mode1 (exec .park (event [] (fun k => { k with mode := .awaiting, await := some { await0 with listed := true } }) [0, 1])) = some .parked ∧
    mode1 (exec .abortWaitEnd (event [] (fun k => { k with mode := .parked, park := some { park0 with kind := .resident, served := true } }) [0, 1]))
      = some .running := by decide +kernel

/-- A record of slot 2 for a sown hand at 0x40, as R228 lays it out. -/
def record0 : BitVec 512 := BitVec.ofNat 512 (ofBytes (recordOf 0x40 false false true .ready 0 0 0 0 0 0x2040 1 0 2 1))
/-- The same, evicted while ready. -/
def record1 : BitVec 512 := BitVec.ofNat 512 (ofBytes (recordOf 0x40 false false false .ready 0 0 0 0 0 0x2040 1 0 2 1))
def launch0 : Launch := ⟨1, none, 0, 2, 0x40, 7, 0, 1, 2, false, 0x2040, 0, [], 0⟩
theorem test_continuation_hypotheses :
    let full := onTen (fun t => { t with backlog := [record0] }) (event [] (fun k => { k with name := 3 }))
    let crowded := setCroft full 0 { croftAt full 0 with ctxs := (List.range 15).map fun i => (i + 1,
      { ctxAt full 0 1 with mode := .parked, name := 3 + i, park := some { park0 with kind := .resume, order := i } }) }
    let taking (r : BitVec 512) := onTen (fun t => { t with backlog := [r], slots := [(2, { Slot.empty with evicted := some { park0 with kind := .ready } })] }) (event [])
    let sowing := updDie (event [] id [0, 0]) 0 fun k => { k with launches := [(0, launch0)] }
    let refused := event [] (fun k => { k with mode := .awaiting, await := some { await0 with retry := some 1, again := some (0, .resume 7), crib := some 5 } }) [0, 1]
    (croftAt crowded 0).tenant = some 0 ∧ hasRecord crowded 0 = true ∧ freeHand crowded 0 = none ∧ (tenAt crowded 0).move = .settled ∧
    longestParked crowded 0 = some 1 ∧ ((ctxAt crowded 0 1).park.any fun p => p.kind == .resume && !p.served) = true ∧ (ctxAt crowded 0 1).name < 64 ∧
    freeHand (taking record0) 0 = some 2 ∧ (tenAt (taking record0) 0).backlog = [record0] ∧ (tenAt (taking record0) 0).refetch = 0 ∧
    (tenAt (taking record0) 0).contq = none ∧ (croftAt (taking record0) 0).quiesce = false ∧
    crc64 ((toBytes 64 record0.toNat).take 56) = record0.toNat / 2 ^ (64 * 7) % 2 ^ 64 ∧ (record0.toNat % 2 ^ 64).testBit 59 = true ∧
    (record1.toNat % 2 ^ 64).testBit 59 = false ∧ (record1.toNat % 2 ^ 64).testBit 58 = false ∧
    crc64 ((toBytes 64 record1.toNat).take 56) = record1.toNat / 2 ^ (64 * 7) % 2 ^ 64 ∧ crc64 ((toBytes 64 0).take 56) ≠ 0 ∧
    (∀ e < 8, cmGet (taking record0) 0 (0xFE00 + 32 * e + 20) 2 = 0) ∧
    (slotAt (taking record1) 0 2).evicted = some { park0 with kind := .ready } ∧ (tenAt (taking record0) 0).ring.length ≤ 16 ∧
    (dieAt sowing 0).launches.find? (fun e => e.1 == argN sowing 1) = some (argN sowing 1, launch0) ∧ launch0.next < launch0.size ∧
    launch0.next < launch0.quota * launch0.count ∧ freeName sowing 0 = some 0 ∧ freeHand sowing 0 = some 2 ∧ hasRecord sowing 0 = false ∧
    ((evCtx refused).await.any fun a => a.retry == some 1 && a.again.isSome && a.crib == some 5) = true ∧ (evCtx refused).mode = .awaiting ∧
    (1 : W64).toNat ≤ (croftAt refused 0).cyc.toNat ∧ (croftAt refused 0).cyc.toNat < (2 : W64).toNat := by decide +kernel
/-- R220, R228, R311: a sown record starts its hand; a bad checksum does not; a member is sown with its number. -/
theorem test_continuations :
    let taking (r : BitVec 512) := onTen (fun t => { t with backlog := [r] }) (event [])
    let sowing := updDie (event [] id [0, 0]) 0 fun k => { k with launches := [(0, { launch0 with next := 1 })] }
    (match exec .recordTake (taking record0) with | .next t => some ((ctxAt t 0 2).mode, (ctxAt t 0 2).pc, (ctxAt t 0 2).name) | _ => none)
      = some (.running, 0x40, 2) ∧
    (match exec .recordTake (taking 5) with | .next t => some ((ctxAt t 0 2).mode, (tenAt t 0).backlog.length) | _ => none) = some (.free, 0) ∧
    (match exec .launchSow sowing with | .next t => some ((ctxAt t 0 2).pc, getG (ctxAt t 0 2).regs 1, getG (ctxAt t 0 2).regs 2) | _ => none)
      = some (0x40, 7, 1) ∧
    netAfter (exec .feRetry (event [] (fun k => { k with mode := .awaiting, await := some { await0 with retry := some 1, again := some (0, .resume 7) } }) [0, 1]))
      = some 1 ∧
    netAfter (exec .crtakeRetry (event [] (fun k => { k with mode := .awaiting, await := some { await0 with retry := some 1, crib := some 5 } }) [0, 1]))
      = some 1 ∧ (match exec .eviction (event []) with | .next t => some t.net.length | _ => none) = some 0 := by decide +kernel

/-- Context 1 parked on bin 3, its pair's higher slot having written bin j. -/
def lateBin (j : Nat) : State := event [] (fun k => { k with mode := .parked, regs := putB k.regs 3 5, park := some { park0 with
  owe := { Owing.none with late := some (.bin j 9) } } }) [0, 1]
/-- R34: what the higher slot of a pair wrote stands over what the lower one's wake leaves. -/
theorem test_late_bin_hypotheses : (evCtx (lateBin 3)).mode = .parked ∧ (evCtx (lateBin 3)).frz = false ∧
    (evCtx (lateBin 3)).park = some { park0 with owe := { Owing.none with late := some (.bin 3 9) } } ∧
    (croftAt (lateBin 3) 0).stopped = false ∧ (croftAt (lateBin 3) 0).quiesce = false ∧ park0.count ≤ (getB (evCtx (lateBin 3)).regs 3).toNat ∧
    (match exec .parkedWake (lateBin 3) with | .next t => some (getB (ctxAt t 0 1).regs 3) | _ => none) = some 9 ∧
    (match exec .parkedWake (lateBin 4) with | .next t => some (getB (ctxAt t 0 1).regs 3, getB (ctxAt t 0 1).regs 4) | _ => none) = some (3, 9) := by
  decide +kernel
/-- Two posted stores to one byte, the newer acknowledged first: it forwards no more, nor does the older that byte (log 84). -/
theorem test_shadowed_hypotheses : let p : Posted := ⟨7, 1, 0x100, [(0x100, [2])], none, [1]⟩
    let q : Posted := ⟨6, 1, 0x100, [(0x100, [1, 1])], none, [1]⟩
    let s := event [.ack who0 1 7] fun k => { k with o1 := 2, posted := [q, p] }
    deliverable s (argN s 0) = some (.ack who0 1 7) ∧ findCounts s who0 = some (0, 1) ∧
    (ctxAt s 0 1).posted.find? (fun p => p.id == 7) = some p ∧ p.left = [1] ∧
    (match exec .postedStoreAck s with | .next t => some ((ctxAt t 0 1).o1, (ctxAt t 0 1).posted) | _ => none) = some (1, [shadowed p q]) ∧
    runByte (shadowed p q).runs 0x100 = none ∧ runByte (shadowed p q).runs 0x101 = some 1 := by decide +kernel
/-- R348: a fault whose page is reported while its answer is on its way is served as it parks. -/
theorem test_told_hypotheses : let s := event [.fault who0 0 0 cPROT 0x40 0 true]
    deliverable s (argN s 0) = some (.fault who0 0 0 cPROT 0x40 0 true) ∧
    (match exec .faultAnswer s with | .next t => some ((ctxAt t 0 1).park.map fun p => (p.kind, p.count, p.served)) | _ => none)
      = some (some (.resident, 0x40, true)) := by decide +kernel

/-- A record waiting in the backlog, and the slot it names. -/
def takingOf (r : BitVec 512) (x : Slot) : State := onTen (fun t => { t with backlog := [r], slots := [(2, x)] }) (event [])
/-- R229: record 0 read back with one bit changed fails its check; its packet has the record's address. -/
theorem test_bad_record_hypotheses : let bad : BitVec 512 := record0 ^^^ 1
    let s := takingOf bad Slot.empty
    (tenAt s 0).backlog = [bad] ∧ crc64 ((toBytes 64 bad.toNat).take 56) ≠ bad.toNat / 2 ^ (64 * 7) % 2 ^ 64 ∧
    sread ([], 0) s.reports (agCroft 0) = ([], 0) ∧ routeOf s (tenAt s 0).set = none ∧ (setAtId s 0).held.length < Config.haywardPackets ∧
    (match exec .recordTake s with | .next t => some ((setAtId t 0).held.map fun e => (e.1, e.2.w3.toNat)) | _ => none)
      = some [(agCroft 0, recordPa s 0 2)] := by decide +kernel
/-- R380: a hand evicted with a freeze command waiting stays frozen when it is started. -/
theorem test_frozen_record_hypotheses : let x : Slot := { Slot.empty with evicted := some { park0 with kind := .ready }, frz := true }
    let s := takingOf record1 x
    (slotAt s 0 2).evicted = some { park0 with kind := .ready } ∧ (slotAt s 0 2).frz = true ∧ park0.ue = none ∧ park0.owe.late = none ∧
    (match exec .recordTake s with | .next t => some ((ctxAt t 0 2).mode, (slotAt t 0 2).frz) | _ => none) = some (.frozen, false) := by decide +kernel

/-- A request of context 1 at its home, on va 0x48, and the line it meets there. -/
def req0 (op : HomeOp) (ack : AckTo) : Req := ⟨who0, .load, resOf (ready []) 0x48, 0x48, op, none, ack⟩
def line0 : Line := ⟨tagOf (resOf (ready []) 0x48).glob (resOf (ready []) 0x48).asid, 1, BitVec.ofNat 512 (5 * 2 ^ 64), 0, false, false, 0x5040⟩
def atHome (op : HomeOp) (ack : AckTo) : State :=
  updBank (event [.home (req0 op ack)]) (resOf (ready []) 0x48).bank fun _ => ⟨[line0], []⟩
def add1 (who : Agent) (pos : Nat) : HomeOp := .atom 8 (.int .add) (.one who 1 0 true pos 0 0)
theorem test_home_hypotheses : let s := atHome (.load 8 false) (.reply 0)
    let r := req0 (.load 8 false) (.reply 0)
    let w : Walk := ⟨r.res.asid, 1, r.res.bank, 0, r.res.glob, false, none⟩
    let mapped := updChan (event []) 0 fun k => { k with tlb := [⟨1, 0, 0, 5, false, false⟩], walks := [w] }
    let hole := updBank (updChan (event []) 0 fun k => { k with walks := [w] }) r.res.bank fun k => { k with queue := [r] }
    deliverable s (argN s 0) = some (.home r) ∧ r.res.ft = false ∧ lineAt s r.res.bank (tagOf r.res.glob r.res.asid) (r.va / 64) = some line0 ∧
    waitsAt s r.res.bank (tagOf r.res.glob r.res.asid) (r.va / 64) = false ∧ poisoned line0.mark = false ∧ line0.ro = false ∧ r.res.wt = false ∧
    lineAt (event [.home r]) r.res.bank (tagOf r.res.glob r.res.asid) (r.va / 64) = none ∧
    (∀ l ∈ (bankAt s r.res.bank).lines, l.dirty = false) ∧ lineAt s r.res.bank (tagOf r.res.glob r.res.asid) 7 = none ∧
    nth (chanAt mapped 0).walks 0 = some w ∧ w.ft = false ∧ w.gen = (setAtId mapped (setOfAsid mapped w.asid)).gen ∧
    (match translate (updChan mapped 0 fun k => { k with walks := [] }) 0 w.asid (w.la * 64) w.glob with
      | (s, .ok f ro gl) => f == 5 && !ro && !gl && (nameFrame s 0 f (tagOf w.glob w.asid) 0 none).isSome
      | _ => false) = true ∧
    (match translate (updChan hole 0 fun k => { k with walks := [] }) 0 w.asid (w.la * 64) w.glob with | (_, .fault _) => true | _ => false) = true ∧
    (bankAt hole w.bank).queue = [r] ∧
    ((bankAt hole w.bank).queue.filter fun q => tagOf q.res.glob q.res.asid == tagOf w.glob w.asid && q.va / 64 == w.la) = [r] := by decide +kernel
/-- A store of two units at its home, and the rest of it standing at the bank. -/
theorem test_store_hypotheses : let us : List (Nat × List Byte) := [(0x40, [1]), (0x50, [2])]
    let s := atHome (.store us none) (.cls 1 7)
    let r := req0 (.store us none) (.cls 1 7)
    let q := req0 (.rest [(0x50, [2])]) (.cls 1 7)
    let b := r.res.bank
    let h := { s with net := [], arg := [0, 0, b + 1], banks := sset s.banks b ⟨[line0], [q]⟩ }
    deliverable s (argN s 0) = some (.home r) ∧ argN s 2 = 0 ∧ r.res.bad = false ∧ heldBack s b (bankAt s b).queue.length r = false ∧
    2 ≤ us.length ∧ nth us (argN s 1 % us.length) = some (0x40, [1]) ∧ r.bin = none ∧ line0.ro = false ∧ r.res.wt = false ∧
    (match exec .homeStore s with | .next t => some ((bankAt t b).queue, t.net) | _ => none) = some ([q], []) ∧
    argN h 2 = b + 1 ∧ nth (bankAt h b).queue (argN h 0) = some q ∧ q.res.bank = b ∧ q.res.wt = false ∧
    lineAt h b (tagOf q.res.glob q.res.asid) (q.va / 64) = some line0 ∧
    (match exec .homeStore h with | .next t => some ((bankAt t b).queue, t.net) | _ => none) = some ([], [⟨[], .ack who0 1 7, none⟩]) := by
  decide +kernel
theorem test_drove_hypotheses : let a := req0 (add1 who0 0) (.reply 0)
    let b := { req0 (add1 { who0 with core := 96, name := 5 } 0) (.reply 0) with who := { who0 with core := 96, name := 5 } }
    let s := event [.home a, .home b] id [0, 1, 0]
    let d := a.res.bank % 64
    deliverable s (argN s 0) = some (.home a) ∧ deliverable s (argN s 1) = some (.home b) ∧ a.va = b.va ∧ a.res = b.res ∧ a.ack = .reply 0 ∧
    argN s 0 < argN s 1 ∧ argN s 2 < 6 ∧ fieldOf who0.core = a.res.bank / 64 ∧ fieldOf 96 = a.res.bank / 64 ∧
    droveAt d (argN s 2) (droveLine who0.core) % 2 = 0 ∧ droveAt d (argN s 2) (droveLine 96) = droveAt d (argN s 2) (droveLine who0.core) + 1 ∧
    splitRecords s (a.res.bank / 64 * 192 + argN s 2 * 32 + droveAt d (argN s 2) (droveLine who0.core) / 2) < 8 ∧
    netAfter (exec .droveCombine s) = some 1 ∧
    netAfter (exec .droveSplit (event [.split 5 8 (.int .add) (.both 0 (.one who0 1 0 true 0 0 0) (.one who0 1 0 true 0 0 0)) 0x40 false])) = some 2 := by decide +kernel
/-- R245, R275, R276: a load's value, a store's and an atomic's line, a walk that ends in a fill, a line installed. -/
theorem test_homes :
    let lineOf (o : Out) : Option (Option (Nat × Bool)) := match o with
      | .next t => some ((lineAt t (resOf (ready []) 0x48).bank line0.asid 1).map fun l => (lineElem 64 l.data 1, l.dirty)) | _ => none
    let w : Walk := ⟨line0.asid, 1, (resOf (ready []) 0x48).bank, 0, (resOf (ready []) 0x48).glob, false, none⟩
    (match exec .homeLoad (atHome (.load 8 false) (.reply 0)) with | .next t => some t.net | _ => none) = some [replyFlight (homeCell who0 (resOf (ready []) 0x48).bank) who0 0 8 5 0x40] ∧
    lineOf (exec .homeStore (atHome (.store [(0x48, [9])] none) (.cls 1 7))) = some (some (9, true)) ∧
    lineOf (exec .homeAtomic (atHome (add1 who0 0) (.reply 0))) = some (some (6, true)) ∧
    netAfter (exec .translationWalk (updChan (event [] id [0, 0]) 0 fun k => { k with tlb := [⟨1, 0, 0, 5, false, false⟩], walks := [w] })) = some 1 ∧
    lineOf (exec .barnFill { event [.fill (resOf (ready []) 0x48).bank 0 line0.asid 1 0x5040 0 false 1 false] with
      mem := storeBytes [] 0x5048 [7] }) = some (some (7, false)) := by decide +kernel

def settled (op : CroftOp) (bin : Option Target) (ack : AckTo) (f : Context → Context := id) : State := event [.croft 0 0 who0 op bin ack false] f
theorem arrives (op : CroftOp) (bin : Option Target) (ack : AckTo) (f : Context → Context) :
    ArrivesAt (settled op bin ack f) (argN (settled op bin ack f) 0) 0 0 who0 op bin ack := ⟨rfl, rfl, rfl⟩
theorem test_croft_hypotheses : let s := settled (.load [(0x100, 8, 0)]) none .none
    let susp := event [] fun k => { k with mode := .parked, park := some { park0 with kind := .resume, param := 7 } }
    let crowd := onTen (fun t => { t with senders := List.replicate 16 ⟨1, 0, 0, who0⟩, chans := [(1, { Chan.empty with q := List.replicate 4 (0, 0) })] }) s
    ArrivesAt s (argN s 0) 0 0 who0 (.load [(0x100, 8, 0)]) none .none ∧ poisonIn (fun b => cmMark s 0 b) 0x100 8 = none ∧
    findName s 0 0 = some (0, 1) ∧ (slotAt s 0 0).evicted = none ∧ feReady .ldfe (cmFull s 0 0x100) = false ∧
    feReady .stfe (cmFull s 0 0x100) = true ∧ parkRoom s 0 = true ∧ parkRoom crowd 0 = false ∧ (tenAt crowd 0).waiters = [] ∧
    (chanOf (tenAt s 0) 1).q.length < Config.channelDepth ∧ Config.channelDepth ≤ (chanOf (tenAt crowd 0) 1).q.length ∧ suspended s 0 7 = [] ∧
    (∀ m ∈ (tenAt s who0.ten).frees, m.tag = 4 → 0 ∉ m.left) ∧ 7 ∉ (tenAt s 0).resumes ∧ suspended susp 0 7 = [0] ∧ findName susp 0 0 = some (0, 1) ∧ (ctxAt susp 0 1).park.isSome = true ∧
    (tenAt (onTen (fun t => { t with frees := [⟨9, 0, 2, [], [1], []⟩] }) s) 0).frees = [⟨9, 0, 2, [], [1], []⟩] ∧ (tenAt s 0).move = .settled := by
  refine ⟨arrives _ _ _ _, ?_⟩; decide +kernel
/-- R163, R187, R196, R206, R281: bytes and bins of landings, a taken word, a message, a tag that waits, a multicast freed. -/
theorem test_crofts : let binOf (o : Out) (i : BReg) : Option W32 := match o with | .next t => some (getB (ctxAt t 0 1).regs i) | _ => none
    (match exec .remoteCroftAccess (bytesIn 0x100 [5] (settled (.load [(0x100, 8, 0)]) none .none)) with | .next t => some t.net | _ => none)
      = some [replyFlight (some 0) who0 0 8 5 (feBlock 0 0x100)] ∧
    cmAfter (exec .landing (settled (.store [(0x100, [1, 2])] none) (some ⟨0, 0, 3⟩) (.cls 1 7))) 0x100 2 = some 0x201 ∧
    binOf (exec .landing (settled (.store [(0x100, [1, 2])] none) (some ⟨0, 0, 3⟩) (.cls 1 7))) 3 = some 1 ∧
    (match exec .remoteFeRequest (full 0x100 (settled (.fe .ldfe 0x100 0) none .none)) with | .next t => some (cmFull t 0 0x100) | _ => none) = some false ∧
    (match exec .channelMessage (settled (.chsend 1 5 6) none .none) with | .next t => some (chanOf (tenAt t 0) 1).q | _ => none) = some [(5, 6)] ∧
    (match exec .resumeArrival (settled (.resume 7) none (.cls 1 7)) with | .next t => some (tenAt t 0).resumes | _ => none) = some [7] ∧
    binOf (exec .stcmDelivery (settled (.stcm [(0x200, [9])] 0 2 4) none (.cls 1 7))) 2 = some 1 ∧
    binOf (exec .multicastFree (onTen (fun t => { t with frees := [⟨9, 0, 2, [], [1], []⟩] }) (event [.free 0 9 1 who0 1 7]))) 2 = some 1 := by decide +kernel

def cribbed (op : CribOp) (k : Crib) : State := setCrib (event [.crib who0 0 5 op]) 5 k
theorem test_barrier_hypotheses : let a : Arrival := ⟨who0, none⟩
    let s := event [.arrive 0 0 1 a 3 4] fun k => { k with
      mode := .parked, park := some { park0 with kind := .barrier, param := 4 + 3 * 16, count := 0 } }
    let ab := updSet (event [.abort 0 3 0 who0]) 0 fun k => { k with barriers := [(barrierKey 0 6 3, ⟨0, 4, [a], []⟩)] }
    deliverable s (argN s 0) = some (.arrive 0 0 1 a 3 4) ∧ (barrierAt s 0 (barrierKey 0 4 3)).arrived = [] ∧ findAgent s who0 = some (0, 1) ∧
    (ctxAt s 0 1).park = some { park0 with kind := .barrier, param := 4 + 3 * 16, count := 0 } ∧
    deliverable ab (argN ab 0) = some (.abort 0 3 0 who0) ∧ (barrierAt ab 0 (barrierKey 0 6 3)).gen = 0 ∧ (barrierAt ab 0 (barrierKey 0 6 3)).arrived ≠ [] ∧
    (barrierAt (event [.abort 0 3 1 who0]) 0 (barrierKey 0 6 3)).gen ≠ 1 ∧ 0 + 1 < max 1 2 ∧ max 1 1 ≤ 0 + 1 := by decide +kernel
theorem test_crib_event_hypotheses : let mine : Crib := { Crib.empty with set := some 0 }
    let s := cribbed .take { mine with q := [7] }
    let mapped := updChan (cribbed (.bind 0x40 2 [(0, win0)]) Crib.empty) 0 fun k => { k with tlb := [⟨1, 0, 0, 5, false, false⟩] }
    deliverable s (argN s 0) = some (.crib who0 0 5 .take) ∧ (cribAt s 5).set = some 0 ∧ (cribAt s 5).q = [7] ∧ (cribAt s 5).held = 0 ∧
    (cribAt (cribbed .take Crib.empty) 5).set = none ∧ (cribAt (cribbed .take { mine with set := some 8 }) 5).set = some 8 ∧
    (cribAt (cribbed (.add 1) { mine with waiters := [who0] }) 5).waiters = [who0] ∧ (cribAt (cribbed .take mine) 5).q = [] ∧
    (cribAt (cribbed .take mine) 5).waiters.length < Config.cribWaiters ∧
    Config.cribOnChip ≤ (cribAt (cribbed (.add 1) { mine with q := List.replicate 32 1 }) 5).q.length ∧
    mapped.arg = [0] ∧ (match loftPages 0 0 [(0, win0)] 1 2 0x40 (drop mapped 0) [] with | (_, .ok ps) => ps.length == 2 | _ => false) = true := by decide +kernel
/-- Two records for one crib: the drove's core lies in another field, the meadow's in the crib's own. -/
theorem test_crib_order_hypotheses : let far : Agent := { who0 with core := 64 }
    let s := setCrib (event [.crib far 0 5 (.add 1), .crib who0 0 5 (.add 2)] id [0, 1]) 5 { Crib.empty with set := some 0 }
    s.arg = [0, 1] ∧ deliverable s 0 = some (.crib far 0 5 (.add 1)) ∧ deliverable s 1 = some (.crib who0 0 5 (.add 2)) ∧
    fieldOf far.core ≠ 5 / 64 ∧ fieldOf who0.core = 5 / 64 ∧ (cribAt s 5).set = some 0 ∧ (cribAt s 5).waiters = [] ∧ (cribAt s 5).held = 0 ∧
    (cribAt s 5).q.length + 2 ≤ Config.cribOnChip ∧
    (match exec .cribAppend s with | .next t => some (cribAt t 5).q | _ => none) = some [2, 1] := by decide +kernel
/-- R190, R279, R280: the last arrival ends a generation; records in order; CRIBFAULT 1 for a crib that is not the set's. -/
theorem test_barriers_cribs : let mine : Crib := { Crib.empty with set := some 0 }
    let qOf (o : Out) : Option (Nat × Nat) := match o with | .next t => some ((cribAt t 5).q.length, t.net.length) | _ => none
    (match exec .barrierArrival (event [.arrive 0 0 1 ⟨who0, none⟩ 3 4]) with | .next t => some (barrierAt t 0 (barrierKey 0 4 3)).gen | _ => none) = some 1 ∧
    (match exec .barrierArrival (event [.arrive 0 0 2 ⟨who0, none⟩ 3 4]) with | .next t => some (barrierAt t 0 (barrierKey 0 4 3)).arrived.length | _ => none)
      = some 1 ∧
    (match exec .podCollectiveAbort (updSet (event [.abort 0 3 0 who0]) 0 fun k => { k with barriers := [(barrierKey 0 6 3, ⟨0, 4, [⟨who0, none⟩], []⟩)] }) with
      | .next t => some (barrierAt t 0 (barrierKey 0 6 3)).aborted | _ => none) = some [0] ∧
    qOf (exec .cribAppend (cribbed (.add 1) mine)) = some (1, 1) ∧ qOf (exec .cribTake (cribbed .take { mine with q := [7, 8] })) = some (1, 1) ∧
    (match exec .cribStat (cribbed .stat { mine with q := [7, 8] }) with | .next t => some t.net | _ => none) = some [answerFlight (homeCell who0 5) who0 8 (2 + 2 ^ 63)] ∧
    (match exec .cribBind (cribbed .unbind mine) with | .next t => some (cribAt t 5).set | _ => none) = some none ∧
    (match exec .cribTake (cribbed .take Crib.empty) with | .next t => some t.net | _ => none)
      = some [⟨[], .reply who0 ⟨0, 8, 0, none, none, some (0x19, 1, 0), false, false, 0⟩, none⟩] := by decide +kernel

/-- An operation that arrives at a home where nothing waits is held back by none; an atomic on another line waits behind one of the
home's unit, or a step (R275). -/
theorem test_home_order_hypotheses : let r := req0 (add1 who0 0) (.reply 0)
    let s := atHome (add1 who0 0) (.reply 0)
    let us : List (Nat × List Byte) := [(0x40, [1]), (0x50, [2])]
    let st := req0 (.store us none) (.cls 1 7)
    let step := { req0 (.step 0 false) .none with who := setAgent 0, va := 0x2000 }
    let late (q : Req) := updBank s r.res.bank fun k => { k with queue := [q] }
    heldBack s r.res.bank (bankAt s r.res.bank).queue.length r = false ∧ heldBack s r.res.bank 0 (req0 (.load 8 false) (.reply 0)) = false ∧
    r.res.bad = false ∧ r.ack = .reply 0 ∧ outOfTurn (atHome (.store us none) (.cls 1 7)) r.res.bank st = false ∧
    outOfTurn (late (req0 (.rest [(0x50, [2])]) (.cls 1 7))) r.res.bank (req0 (.rest [(0x50, [2])]) (.cls 1 7)) = false ∧
    ofUnit { r with va := 0x2000 } = true ∧ ofUnit step = true ∧
    (∀ q ∈ [{ r with va := 0x2000 }, step], q ∈ (bankAt (late q) r.res.bank).queue ∧
      deliverable (late q) (argN (late q) 0) = some (.home r) ∧
      (lineAt (late q) r.res.bank (tagOf r.res.glob r.res.asid) (r.va / 64)).isSome = true ∧
      (match exec .homeAtomic (late q) with | .next t => some ((bankAt t r.res.bank).queue, t.net) | _ => none) = some ([q, r], [])) := by
  decide +kernel
/-- A load on an absent line, with no walk nor fill under way; a fill; a walk of an older generation. -/
theorem test_walk_hypotheses : let r := req0 (.load 8 false) (.reply 0)
    let s := event [.home r]
    let fill : Msg := .fill r.res.bank 0 (tagOf r.res.glob r.res.asid) 1 0x5040 0 false r.res.asid false
    let w : Walk := ⟨r.res.asid, 1, r.res.bank, 0, r.res.glob, false, none⟩
    let old := updSet (updChan (event []) 0 fun k => { k with walks := [w] }) 0 fun k => { k with gen := 1 }
    deliverable s (argN s 0) = some (.home r) ∧ (chanAt s r.res.chan).walks = [] ∧ s.net = [⟨[], .home r, none⟩] ∧
    deliverable (event [fill]) (argN (event [fill]) 0) = some fill ∧ (bankAt (event [fill]) r.res.bank).lines = [] ∧
    nth (chanAt old (argN old 0)).walks (argN old 1) = some w ∧ w.ft = false ∧ w.gen ≠ (setAtId old (setOfAsid old w.asid)).gen ∧
    (match exec .translationWalk old with | .next t => some (t.net.length, (chanAt t 0).walks.map Walk.gen) | _ => none) = some (0, [1]) := by
  decide +kernel
/-- R383, R384: an error on the way of a split reply reaches the member that reads a value; of two atomics that combine, the earlier
place and either's error stand (log 83). -/
theorem test_drove_error_hypotheses : let a := req0 (add1 who0 0) (.reply 0)
    let w : Agent := { who0 with core := 96, name := 5 }
    let b := { req0 (add1 w 0) (.reply 0) with who := w }
    let bad := { b with res := { b.res with bad := true } }
    let s := event [.home bad, .home a] id [1, 0, 0]
    let split : Msg := .split 5 8 (.int .add) (.both 0 (.one who0 1 0 true 0 0 0) (.one w 1 0 false 0 1 7)) 0x40 true
    deliverable s (argN s 0) = some (.home a) ∧ deliverable s (argN s 1) = some (.home bad) ∧ argN s 0 ≠ argN s 1 ∧ min (argN s 0) (argN s 1) = 0 ∧
    (match exec .droveCombine s with | .next t => some (t.net.map fun f => match f.msg with | .home r => r.res.bad | _ => false) | _ => none) = some [true] ∧
    deliverable (event [split]) 0 = some split ∧
    (match exec .droveSplit (event [split]) with | .next t => some t.net | _ => none)
      = some [⟨[], .reply who0 ⟨0, 8, 5, some 0x40, none, none, false, false, 0x40⟩, none⟩, ⟨[], .ack w 1 7, none⟩] := by decide +kernel

/-- What has two units lands one at an event, the rest staying on its way. -/
theorem test_unit_hypotheses : let us : List (Nat × List Byte) := [(0x100, [1]), (0x110, [2])]
    let netOf (o : Out) : Option (List Msg) := match o with | .next t => some (t.net.map Flight.msg) | _ => none
    let st := settled (.store us none) none (.cls 1 7)
    let ld := settled (.store us none) (some ⟨0, 0, 3⟩) (.cls 1 7)
    let mc := settled (.stcm us 0 2 4) none (.cls 1 7)
    2 ≤ us.length ∧ nth us (argN st 1 % us.length) = some (0x100, [1]) ∧
    ArrivesAt st (argN st 0) 0 0 who0 (.store us none) none (.cls 1 7) ∧ ArrivesAt ld (argN ld 0) 0 0 who0 (.store us none) (some ⟨0, 0, 3⟩) (.cls 1 7) ∧
    ArrivesAt mc (argN mc 0) 0 0 who0 (.stcm us 0 2 4) none (.cls 1 7) ∧ (∀ m ∈ (tenAt mc who0.ten).frees, m.tag = 4 → 0 ∉ m.left) ∧
    netOf (exec .remoteCroftAccess st) = some [.croft 0 0 who0 (.store [(0x110, [2])] none) none (.cls 1 7) false] ∧
    netOf (exec .landing ld) = some [.croft 0 0 who0 (.store [(0x110, [2])] none) (some ⟨0, 0, 3⟩) (.cls 1 7) false] ∧
    netOf (exec .stcmDelivery mc) = some [.croft 0 0 who0 (.stcm [(0x110, [2])] 0 2 4) none (.cls 1 7) false] := by
  refine ⟨by decide, rfl, arrives _ _ _ _, arrives _ _ _ _, arrives _ _ _ _, ?_⟩; decide +kernel

/-- A crib waits while an atomic waits at the unit of its home (R275). -/
theorem test_crib_unit_hypotheses : let s := updBank (cribbed .take { Crib.empty with set := some 0, q := [7] }) 5 fun k =>
      { k with queue := [req0 (add1 who0 0) (.reply 0)] }
    let q := req0 (add1 who0 0) (.reply 0)
    s.arg = [0] ∧ deliverable s 0 = some (.crib who0 0 5 .take) ∧ (q ∈ (bankAt s 5).queue ∧ ofUnit q = true) ∧
    (match exec .cribTake s with | .next t => some ((cribAt t 5).q, t.net.length) | _ => none) = some ([7], 1) ∧
    (∀ q ∈ (bankAt (cribbed .take Crib.empty) 5).queue, ofUnit q = false) := by decide +kernel

/-! ## Floor dies, calls, reports, swaps, debug commands -/

def hreq (land : Bool := true) : HireReq := { hireReqOf (ready []) hire0 with land := land, hcap := 0x4005, who := who0 }
/-- A hire of that request under id 0, changed by f. -/
def hire1 (f : Hire → Hire := id) (land : Bool := true) : Hire :=
  f { Hire.new 0 (hreq land) 1 0 with state := 2, thr := some 0 }
def chain0 : Chain := ⟨0, 0, 0, 0, 1, 1, 0, 0, true, false, some 0, []⟩
/-- The fair of floor 0, which stage C has trained, with that hire and its chain, the event naming id 0; key 5 for paddock 0. -/
def fairWith (h : Hire) (ms : List Msg := []) : State :=
  let s := updFair (onTen (fun t => { t with ring := [0] }) (event ms)) 0 fun k =>
    { k with keys := [(0, 5)], hires := [(0, h)], chains := [chain0], rings := [(h.req.pri, [(0, 0)])] }
  { s with mgmt := { s.mgmt with floors := 3 } }
theorem test_fair_hypotheses : let s := updFair (event [.hire (hreq)]) 0 fun k => { k with keys := [(0, 5)] }
    let waiting := updFair (fairWith (hire1 fun h => { h with state := 1, thr := none })) 0 fun k => { k with chains := [{ chain0 with thr := none }] }
    let resumed := fairWith (hire1 fun h => { h with state := 1, resumed := true, rick := true, image := [⟨0, [0], none⟩] })
    let sheaf := fairWith (hire1) [.sheaf who0 0 0 0 (BitVec.ofNat 16 (256 * sheafFmt 2 0)) 5 9]
    let done := fairWith (hire1 fun h => { h with seqA := h.req.m * ablkOf h.req, seqB := h.req.n * bblkOf h.req })
    let more := (List.range 32).map fun i => (i + 1, { hire1 with id := 2 * (i + 1), state := 4, engine := true })
    let full := updFair done 0 fun k => { k with hires := k.hires ++ more }
    deliverable s (argN s 0) = some (.hire hreq) ∧ (tenAt s 0).move = .settled ∧ (hreq).floor < 2 ∧ (tenAt waiting 0).waiters = [] ∧
    ¬ (sread 0 (fairAt s 0).keys 0 = 0 ∨ (sread 0 (fairAt s 0).keys 0).toNat ≠ (hreq).hcap.toNat % 4096 ∨ (hreq).pri < (hreq).hcap.toNat / 4096 % 4 ∨
      (hreq).hcap.getLsbD (14 + (hreq).floor) = false) ∧ sread 0 (fairAt (event [.hire hreq]) 0).keys 0 = 0 ∧ (hreq).chain = false ∧
    (chooseGrant (fairAt waiting 0)).isSome = true ∧ (hire1).id % 2 = argN waiting 0 ∧ (hire1).req.ring < 16 ∧
    (match chooseGrant (fairAt resumed 0) with | some (.resumed _) => true | _ => false) = true ∧ (0 : Nat) ≠ 1 ∧ waiting.mgmt.floors.getLsbD 0 = true ∧ s.mgmt.floors.getLsbD 0 = false ∧
    chooseGrant (fairAt s 0) = none ∧ hireAt sheaf 0 = some hire1 ∧ (hire1).state = 2 ∧ (hire1).summed = false ∧
    0 < (hire1).req.m * ablkOf (hire1).req ∧ (evHire done).isSome = true ∧ (chainAt (fairAt done 0) 0).isSome = true ∧
    engineFree (fairAt done 0) = true ∧ (hiresOf (fairAt done 0)).any (fun g => g.summed) = false ∧ engineFree (fairAt full 0) = false := by
  decide +kernel
/-- Packet 0 of hire 0 in the fault bay of channel 0. -/
def inBay0 : Bay := ⟨⟨who0, .landing, resOf (ready []) 0x40, 0x40, .store [(0x40, [1])] none, none, .hire 0 0⟩, 0, some (0, 0)⟩
def parked0 (s : State) : State := updChan s 0 fun k => { k with bay := [inBay0] }
theorem test_landing_hypotheses : let l : Landing := ⟨0x01FFFF0000000100, [1, 2], none⟩
    let summed := fairWith (hire1 fun h => { h with summed := true })
    let landing := fairWith (hire1 fun h => { h with state := 4, engine := true, image := [l] })
    let fault := fairWith (hire1 fun h => { h with state := 4, engine := true, image := [l], issued := [0] }) [.landFault 0 0] |> parked0
    let stopped := fairWith (hire1 fun h => { h with state := 3, engine := true, stopped := true, image := [l] })
    (oldestBy (fun h => h.order) ((hiresOf (fairAt summed 0)).filter fun h => h.summed)).isSome = true ∧ engineFree (fairAt summed 0) = true ∧
    (chainAt (fairAt summed 0) 0).isSome = true ∧
    (evHire landing).any (fun h => h.state == 4 && h.engine && !h.stopped && !h.dropping && nth h.image 0 == some l &&
      (List.range h.image.length).find? (fun i => !h.issued.contains i) == some 0) = true ∧ placeOf .virt l.va = some (.own 0x100) ∧
    (hireAt fault 0).isSome = true ∧ (deliverable fault (argN fault 0)).isSome = true ∧
    (evHire stopped).any (fun h => h.state == 3 && h.engine && !h.dropping) = true ∧ ricksUsed (fairAt stopped 0) < Config.ricks := by decide +kernel
def hireAfter (o : Out) : Option (Option (Nat × Bool × Nat)) := match o with | .next t => some ((hireAt t 0).map fun h => (h.state, h.engine, h.sent)) | _ => none
/-- R204, R257 to R265: a sheaf, a landing packet, a fault that stops its hire; then a rick, the last segment, an engine, a
refusal and a grant (R199, R399). -/
theorem test_fairs : let l : Landing := ⟨0x01FFFF0000000100, [1, 2], none⟩
    let sheaf := fairWith (hire1) [.sheaf who0 0 0 0 (BitVec.ofNat 16 (256 * sheafFmt 2 0)) 5 9]
    let fault := fairWith (hire1 fun h => { h with state := 4, engine := true, image := [l], issued := [0] }) [.landFault 0 0] |> parked0
    (match exec .sheafArrival sheaf with | .next t => some ((hireAt t 0).map fun h => h.seqA) | _ => none) = some (some 1) ∧
    hireAfter (exec .landingPacketIssue (fairWith (hire1 fun h => { h with state := 4, engine := true, image := [l] }))) = some (some (4, true, 1)) ∧
    hireAfter (exec .landingFault fault) = some (some (3, true, 0)) := by decide +kernel
theorem test_fair_engines : let l : Landing := ⟨0x01FFFF0000000100, [1, 2], none⟩
    hireAfter (exec .rickPreempt (fairWith (hire1 fun h => { h with state := 3, engine := true, stopped := true, image := [l] }))) = some (some (3, false, 0)) ∧
    hireAfter (exec .lastSegment (fairWith (hire1 fun h => { h with seqA := h.req.m * ablkOf h.req, seqB := h.req.n * bblkOf h.req, blocksA := [(0, 0)], blocksB := [(0, 0)] })))
      = some (some (4, true, 0)) ∧
    hireAfter (exec .landingEngineGrant (fairWith (hire1 fun h => { h with summed := true }))) = some (some (4, true, 0)) ∧
    (match exec .fairRegister (event [.hire hreq]) with | .next t => some t.net | _ => none)
      = some [⟨[], .reply who0 ⟨0, 8, 0, none, none, some (0x20, 0, 0), false, false, 0⟩, none⟩] ∧
    hireAfter (exec .fairGrant (updFair (fairWith (hire1 fun h => { h with state := 1, thr := none })) 0 fun k => { k with chains := [{ chain0 with thr := none }] }))
      = some (some (2, false, 0)) := by decide +kernel

def call0 : Call := ⟨0, 0, who0, 1, 0x40, 0x7F, 0, 0, .bin ⟨0, 0, 2⟩, [], []⟩
def loaded (ms : List Msg) (f : Mill → Mill := id) : State :=
  updChan (event ms) 0 fun k => { k with mill := f { k.mill with entry := [(1, (true, 9))] } }
def report0 : Report := ⟨0, 1, 2, 3⟩
/-- A packet that the steward of its route's own tenant did not raise. -/
def report1 : Report := ⟨0x100, 1, 2, 3⟩
def routed (f : TSet → TSet) : State := updSet (event []) 0 fun k => f { k with svroute := 0x80000000 }
theorem test_network_hypotheses : let s := loaded [.mcall call0]
    let busy := loaded [.mcall call0] fun k => { k with call := some call0 }
    let shut := onTen (fun t => { t with chans := [(0, { Chan.empty with q := [(0, 0), (0, 0), (0, 0)] })] }) (routed fun k => { k with held := [(7, report0)] })
    deliverable s (argN s 0) = some (.mcall call0) ∧ (sread (false, 0) (chanAt s 0).mill.entry 1).1 = true ∧ (chanAt s 0).mill.call = none ∧
    (chanAt s 0).mill.queue = [] ∧ (chanAt busy 0).mill.call.isSome = true ∧ (chanAt busy 0).mill.queue.length + 1 < Config.millCalls ∧
    Config.millCalls ≤ (chanAt (loaded [] fun k => { k with queue := List.replicate 15 call0 }) 0).mill.queue.length + 1 ∧
    (sread (false, 0) (chanAt (event [.mcall call0]) 0).mill.entry 1).1 = false ∧ findAccess s who0 = some (0, 1) ∧
    roomFor (routed fun k => { k with held := [(7, report0)] }) 0 = some (0, 0) ∧ roomFor shut 0 = none ∧ (routeOf shut 0).isSome = true ∧
    (setAtId (routed fun k => { k with held := [(7, report0)] }) 0).held = [(7, report0)] ∧ setOfTen (routed id) (report1.w0.toNat / 2 ^ 39 % 2 ^ 24) = some 0 ∧
    sread ([], 0) ({ routed id with reports := [(0, ([report1], 2))] } : State).reports 0 = ([report1], 2) ∧ argN s 0 < s.net.length ∧
    roomFor (routed id) 0 = some (0, 0) ∧ byRoute (routed id) 0 report1 = false ∧ olderHeld (routed id) 0 (argN (routed id) 0) = false ∧
    olderHeld (routed fun k => { k with held := [(0, report0)] }) 0 (argN (routed id) 0) = true ∧ argN s 0 ∉ s.asleep ∧
    routerBusy (routed id) 7 = false := by decide +kernel
/-- A packet of croft 0 for its own tenant passes the router of croft 0, whichever that is. -/
def near0 : Msg := .croft 0 0 who0 (.resume 1) none .none false
def nearFlight : Flight := ⟨[], near0, none⟩
theorem near_ends {s : State} (h : (tenAt s 0).core = 0) : meadowEnds s nearFlight = some (0, 0) := by
  show some (0, (tenAt s 0).core) = _; rw [h]
theorem near_passes : passesRouter (Config.routerOf 0) 0 0 = true := by
  have path : meadowPath 0 0 = [0] := by decide +kernel
  simp [passesRouter, path]
theorem test_router_hypotheses : let s := { event [near0] with asleep := [Config.routerOf 0] }
    routerBusy s (Config.routerOf 0) = true ∧ nth s.net 0 = some nearFlight ∧ atSleeper s nearFlight = true := by
  refine ⟨?_, rfl, ?_⟩
  · show List.any [nearFlight] _ = true
    simp [near_ends (s := { event [near0] with asleep := [Config.routerOf 0] }) (by decide +kernel), near_passes]
  · simp [atSleeper, near_ends (s := { event [near0] with asleep := [Config.routerOf 0] }) (by decide +kernel), sleeperOn, near_passes]
theorem test_queue_event_hypotheses : let p : Packet := ⟨false, false, 0, [0x100]⟩
    let s := { queued (.packetNop p) (fun k => { k with preempt := true }) with arg := [0, 0x9000] }
    let k := queueAt s (argN s 0)
    k.preempt = true ∧ s.mgmt.code ≠ 1 ∧ 0 < argN s 1 ∧ argN s 1 < 2 ^ 57 ∧ k.outs = [] ∧ Cursor.start.levels = [] ∧ Cursor.start.loop = none ∧
    Cursor.start.rpos = 0 ∧ k.ip = 0 ∧ k.items = [.pkt (.packetNop p) Cursor.start, .close 8 false] ∧ Cursor.start.ring < 2 ^ k.log2 ∧ k.log2 ≤ 24 ∧
    k.tail < 2 ^ 32 ∧ 0 / 512 = argN s 0 ∧ 0 ∈ s.queues.map Prod.fst ∧ (queueAt s 0).state ≠ 5 ∧ (queueAt s 0).disable = false := by decide +kernel
/-- R282, R308, R322, R375, R386: a call begun at its entry, a queue saved, a tick's signal, a packet delivered as two messages. -/
theorem test_network : let p : Packet := ⟨false, false, 0, [0x100]⟩
    let s := { queued (.packetNop p) (fun k => { k with preempt := true }) with arg := [0, 0x9000] }
    (match exec .millCallAccept (loaded [.mcall call0]) with | .next t => some ((chanAt t 0).mill.upc, (chanAt t 0).mill.m[1]) | _ => none) = some (9, 0x40) ∧
    (match exec .queueSaveWrite s with | .next t => some ((queueAt t 0).state, memGet t 0x900C 4) | _ => none) = some (5, 8) ∧
    (match exec .pollTick (event []) with | .next t => some (lomAt t 0).pending | _ => none) = some 8 ∧
    (match exec .watchdogExpiry s with | .next t => some ((queueAt t 0).items.length, (queueAt t 0).fetch) | _ => none) = some (0, 0) ∧
    (match exec .haywardPacketDelivery (routed fun k => { k with held := [(7, report0)] }) with | .next t => some (chanOf (tenAt t 0) 0).q | _ => none)
      = some [(0, 1), (2, 3)] ∧
    (match exec .faultPacketReoffer { routed id with reports := [(0, ([report1], 2))] } with
      | .next t => some ((chanOf (tenAt t 0) 0).q, sread ([], 0) t.reports 0) | _ => none) = some ([(0x100, 1), (2, 3)], ([], 2)) ∧
    (match exec .packetDrop (event [.ack who0 1 7] id [0, 1, 2, 3]) with | .next t => some (t.net.length, t.losses) | _ => none) = some (0, [(1, 2, 3)]) ∧
    (match exec .lossReport { event [] with losses := [(1, 2, 3)] } with | .next t => some t.losses | _ => none) = some [] ∧
    (match exec .routerPowerDown (event [] id [7]) with | .next t => some t.asleep | _ => none) = some [7] ∧
    (match exec .routerWake { event [] id [7] with asleep := [7] } with | .next t => some t.asleep | _ => none) = some [] := by decide +kernel

/-- Croft 0's tenant at rest, with a partner at croft 20, its pair's window at its end. -/
def windowEnd (f : Tenant → Tenant := id) : State :=
  let s := onTen (fun t => f { t with partners := [⟨true, 1, 1000⟩] }) (event [] (fun k => { k with mode := .free }))
  let s := setTen s 1 { Tenant.empty with core := 20 }
  { updPair s 0 (fun k => { k with count := 65536, ended := some 0 }) with mgmt := { s.mgmt with dies := 1 } }
def bordered (n : Nat) (arg : List Nat := [0]) : State :=
  { windowEnd with border := some ⟨0, 0, 1, n, []⟩, arg := arg }
theorem test_swap_hypotheses : let s := windowEnd
    mayClose s 0 = true ∧ mayClose (updPair (event []) 0 fun k => { k with count := 5 }) 0 = false ∧ sameEnd s 0 = [0] ∧
    (pairAt s 0).sent < (dieAt s (dieOf (pairCrofts 0).1)).window ∧ (croftAt s (pairCrofts 0).1).tenant = some 0 ∧
    (croftAt s (pairCrofts 0).2).tenant = none ∧ swapGate s 0 = true ∧ swapGate (windowEnd fun t => { t with cool := 3 }) 0 = false ∧
    (pairAt (updPair s 0 fun k => { k with move := .exchanging }) 0).move = .exchanging ∧
    (tenAt (onTen (fun t => { t with move := .remapping }) s) 0).move = .remapping ∧ 0 ∈ s.tenants.map Prod.fst ∧
    (tenAt (onTen (fun t => { t with move := .draining }) s) 0).move = .draining ∧ oldPackets s 0 = false ∧ argN s 0 = 0 ∧
    oldPackets (onTen (fun t => { t with epoch := 3 }) (event [.croft 0 0 who0 (.resume 1) none .none false])) 0 = true ∧
    (∀ e < 8, cmGet s 0 (0xFE00 + 32 * e + 20) 2 = 0) := by decide +kernel
theorem test_border_hypotheses : let s := bordered 1
    s.border.isSome = true ∧ fieldOf (tenAt s 0).core = 0 ∧ (croftAt s 0).tenant = some 0 ∧ inMove s 0 = false ∧
    settledCroft s 0 = true ∧ noWork s 0 = true ∧ (dieAt s (dieOf 0)).enable = true ∧
    s.mgmt.code ≠ 1 ∧ shelter s ⟨0, 0, 1, 1, []⟩ = some 8 ∧ arrivalsFit s 0 0 8 = true ∧ (8 : Nat) ≠ 0 ∧ s.period < 2 ^ 22 ∧
    2 ^ 22 ≤ ({ s with period := 2 ^ 22 } : State).period ∧
    ((List.range Config.crofts).filter fun c => fieldOf c == 0).all (fun c => !inMove s c && settledCroft s c) = true ∧
    ((List.range Config.crofts).filter fun c => fieldOf c == 1).all (fun c => (croftAt s c).tenant.isNone && !inMove s c) = true ∧
    s.banks.all (fun e => e.1 / 64 != 0 || e.2.lines.isEmpty) = true := by decide +kernel
/-- R356 to R370: a window closed by a swap, the state exchanged, the drain marker, and the stages of a border move. -/
theorem test_swaps : let stage (o : Out) : Option (Option Nat) := match o with | .next t => some (t.border.map fun b => b.stage) | _ => none
    (match exec .swapWindowClose windowEnd with | .next t => some ((pairAt t 0).move, (croftAt t 1).stopped) | _ => none) = some (.exchanging, true) ∧
    (match exec .swapStateCrossed (updPair windowEnd 0 fun k => { k with move := .exchanging }) with
      | .next t => some ((croftAt t 1).tenant, (tenAt t 0).core, (tenAt t 0).move) | _ => none) = some (some 0, 1, .remapping) ∧
    (match exec .routersSwitched (windowEnd fun t => { t with move := .remapping }) with | .next t => some (tenAt t 0).move | _ => none) = some .draining ∧
    (match exec .drainMarker (windowEnd fun t => { t with move := .draining }) with | .next t => some ((tenAt t 0).move, (tenAt t 0).cool) | _ => none)
      = some (.settled, 4) ∧
    (match exec .relocate (bordered 1) with | .next t => some ((croftAt t 8).tenant, (tenAt t 0).core) | _ => none) = some (some 0, 8) ∧
    stage (exec .borderQuiesced (bordered 0)) = some (some 1) ∧ stage (exec .borderRelocated (bordered 1)) = some (some 1) ∧
    stage (exec .borderBanksEmpty (bordered 2)) = some (some 3) ∧
    (match exec .borderShootsDone (bordered 3) with | .next t => some ((padAt t 0).fields.getLsbD 0, (padAt t 1).fields.getLsbD 0) | _ => none)
      = some (false, true) ∧
    (match exec .servicePeriodEnd { windowEnd with period := 2 ^ 22 + 5 } with | .next t => some t.period | _ => none) = some 5 := by decide +kernel

def commanded (n i : Nat) (f : Context → Context := id) : State := onCroft (fun k => { k with cmds := [(n, i)] }) (event [] f)
theorem test_debug_hypotheses : let frozen (n : Nat) := commanded n 1 fun k => { k with mode := .frozen }
    (∀ n ∈ [1, 2, 3, 4, 5], (croftAt (commanded n 1) 0).cmds = (n, 1) :: []) ∧ (ctxAt (frozen 1) 0 1).mode = .frozen ∧ (ctxAt (frozen 1) 0 1).abp = none ∧
    (ctxAt (commanded 1 1 fun k => { k with mode := .frozen, abp := some (64, 3, true) }) 0 1).abp = some (64, 3, true) ∧
    (ctxAt (commanded 1 1) 0 1).mode ≠ .frozen ∧ (ctxAt (frozen 2) 0 1).hires = [] ∧ (ctxAt (frozen 2) 0 1).origin = .firmware ∧
    (ctxAt (commanded 2 1 fun k => { k with mode := .frozen, origin := .spawned }) 0 1).origin = .spawned ∧
    (ctxAt (commanded 3 1) 0 1).mode = .running ∧ (ctxAt (commanded 3 1 fun k => { k with mode := .awaiting }) 0 1).mode = .awaiting ∧
    (ctxAt (commanded 5 1 fun k => { k with mode := .parked, park := some park0 }) 0 1).park = some park0 ∧
    (ctxAt (commanded 5 1 fun k => { k with mode := .parked, park := some park0 }) 0 1).busy = false ∧ (croftAt (commanded 5 1) 0).tenant = some 0 := by
  decide +kernel
/-- R379 to R381: the five commands. -/
theorem test_debug : mode1 (exec .debugRelease (commanded 1 1 fun k => { k with mode := .frozen })) = some .running ∧
    mode1 (exec .debugKill (commanded 2 1 fun k => { k with mode := .frozen, origin := .spawned })) = some .exited ∧
    mode1 (exec .debugFreeze (commanded 3 1)) = some .frozen ∧
    (match exec .debugZeroCounts (commanded 4 1 fun k => { k with mode := .frozen, o2 := 7 }) with | .next t => some (ctxAt t 0 1).o2 | _ => none) = some 0 ∧
    (match exec .debugEvict (commanded 5 1) with | .next t => some ((croftAt t 0).cmds, (ctxAt t 0 1).mode) | _ => none) = some ([], .running) := by decide +kernel

/-- Packet 0 of hire 0 at a read-only line of its home. -/
def landReq : Req := ⟨who0, .landing, resOf (ready []) 0x48, 0x48, .store [(0x48, [1])] none, some ⟨0, 0, 2⟩, .hire 0 0⟩
def landing0 (f : Hire → Hire := id) : State :=
  updBank (fairWith (hire1 fun h => f { h with state := 4, engine := true, image := [⟨0x48, [1], none⟩], issued := [0] }) [.home landReq])
    landReq.res.bank fun _ => ⟨[{ line0 with ro := true }], []⟩
/-- R258, R265, R347: such a packet parks while the bay has room; the hire's first one sends a fault packet, a later one none. -/
theorem test_bay_hypotheses : let s := landing0
    let told := landing0 fun h => { h with reported := true }
    let full := updChan s landReq.res.chan fun k => { k with bay := List.replicate 256 inBay0 }
    let bayAfter (o : Out) : Option (Nat × Nat × Nat) := match o with
      | .next t => some ((chanAt t landReq.res.chan).bay.length, t.net.length, (setAtId t 0).held.length) | _ => none
    deliverable s (argN s 0) = some (.home landReq) ∧ argN s 2 = 0 ∧ landReq.res.ft = false ∧ (hireAt s 0).isSome = true ∧ landReq.bin ≠ none ∧
    lineAt s landReq.res.bank (tagOf landReq.res.glob landReq.res.asid) (landReq.va / 64) = some { line0 with ro := true } ∧
    heldBack s landReq.res.bank (bankAt s landReq.res.bank).queue.length landReq = false ∧ outOfTurn s landReq.res.bank landReq = false ∧
    (chanAt s landReq.res.chan).bay.length < Config.bayMax ∧ Config.bayMax ≤ (chanAt full landReq.res.chan).bay.length ∧
    (hireAt s 0).any (fun h => !h.reported) = true ∧ (hireAt told 0).any (fun h => h.reported && !h.replays.contains 0) = true ∧
    bayAfter (exec .landing s) = some (1, 1, 1) ∧ bayAfter (exec .landing told) = some (1, 1, 0) ∧ bayAfter (exec .landing full) = some (256, 1, 0) := by
  decide +kernel
/-- The notice of a packet: one the bay does not hold, one of a hire that lands, one of a hire being dropped (log 34). -/
theorem test_notice_hypotheses : let of (f : Hire → Hire) := fairWith (hire1 fun h => f { h with state := 4, engine := true, image := [⟨0x48, [1], none⟩], issued := [0] }) [.landFault 0 0]
    let drops := parked0 (of fun h => { h with state := 3, stopped := true, dropping := true })
    deliverable (of id) (argN (of id) 0) = some (.landFault 0 0) ∧ (hireAt (of id) 0).isSome = true ∧ 0 ∉ bayOf (of id) 0 ∧ 0 ∈ bayOf (parked0 (of id)) 0 ∧
    (hireAt (parked0 (of id)) 0).any (fun h => h.state == 4 && !h.dropping && !h.parked.contains 0) = true ∧
    (hireAt drops 0).any (fun h => h.dropping) = true ∧ 0 ∈ bayOf drops 0 ∧
    (match exec .landingFault (of id) with | .next t => some ((hireAt t 0).map fun h => h.state) | _ => none) = some (some 4) ∧
    (match exec .landingFault drops with | .next t => some (bayOf t 0) | _ => none) = some [] := by decide +kernel
/-- A packet of the image at a virtual address goes out under the windows of its hire's check, in the order of hire and bank. -/
theorem test_landing_send_hypotheses : let l : Landing := ⟨0x48, [1], none⟩
    let s := fairWith (hire1 fun h => { h with state := 4, engine := true, image := [l] })
    (evHire s).any (fun h => (coverOf h.req.wins 0x48).isSome) = true ∧ placeOf .virt l.va = some (.virt 0x48) ∧
    (match exec .landingPacketIssue s with | .next t => some (t.net.map Flight.key) | _ => none)
      = some [landKey 0 (resOf (ready []) 0x48)] := by decide +kernel

/-- R211: an MCALL that waits for an entry that is not loaded, its word read, as the first slot or the higher slot of a pair. -/
def refusing (sub : Nat) : State :=
  { bytesIn 0x308 [0x40] (bytesIn 0x300 [0x40] (ready [(14, 0x01FFFF0000000300)] fun k =>
    { k with mode := .awaiting, stage := .sealed, sub := sub, await := some await0 })) with net := [⟨[], .mcall call0, none⟩], arg := [0] }
def refused (sub : Nat) : State := match exec .millCallAccept (refusing sub) with | .next t => { t with cur := (0, 1) } | _ => refusing sub
theorem test_refused_call_hypotheses : (∀ sub ∈ [3, 11], deliverable (refusing sub) (argN (refusing sub) 0) = some (.mcall call0) ∧
      (sread (false, 0) (chanAt (refusing sub) call0.chan).mill.entry call0.entry).1 = false ∧ findAccess (refusing sub) call0.who = some (0, 1) ∧
      (ctxAt (refusing sub) 0 1).sub = sub ∧ (me (refused sub)).stage = .sealed ∧ (me (refused sub)).busy = false ∧
      (rdG (refused sub) 14).toNat % 8 = 0 ∧ (match checkEl (refused sub) needR .virt (rdG (refused sub) 14).toNat 32 with | .ok _ => true | _ => false) = true ∧
      modeAfter (exec (.mcall h0 1 14 2) (refused sub)) = some .frozen) ∧ call0.done = .bin ⟨0, 0, 2⟩ ∧
    Issues h0 [.g 14] (refused 3) ∧ Issues h0 [.g 14] (refused 11) := by
  refine ⟨?_, rfl, issues _, issues _⟩; decide +kernel

/-- A set with a route, its agent 0 owing a packet behind two that were not sent, and one that its hayward dropped. -/
theorem test_lost_hypotheses : let s := { routed (fun k => { k with lost := [(0, 1)] }) with reports := [(0, ([report1], 2))] }
    roomFor s 0 = some (0, 0) ∧ byRoute s 0 report1 = false ∧ olderHeld s 0 (argN s 0) = false ∧ sread 0 (setAtId s 0).lost (argN s 0) = 1 ∧
    setOfTen s (report1.w0.toNat / 2 ^ 39 % 2 ^ 24) = some 0 ∧ olderHeld (routed fun k => { k with held := [(0, report0)] }) 0 0 = true ∧
    (match exec .faultPacketReoffer s with | .next t => some ((chanOf (tenAt t 0) 0).q.map fun e => lostOf ⟨e.1, 0, 0, 0⟩, sread 0 (setAtId t 0).lost 0) | _ => none)
      = some ([1, 0], 0) ∧ argN (routed id) 0 = 0 := by decide +kernel

/-- Debug commands on a context with fetched words, and on one that awaits. -/
theorem test_debug_more_hypotheses : let frozen := commanded 1 1 fun k => { k with mode := .frozen, fetched := some (5, none) }
    (ctxAt frozen 0 1).mode = .frozen ∧ (ctxAt frozen 0 1).abp = none ∧
    (match exec .debugRelease frozen with | .next t => some ((ctxAt t 0 1).mode, (ctxAt t 0 1).fetched) | _ => none) = some (.running, none) ∧
    (match exec .debugFreeze (commanded 3 1 fun k => { k with fetched := some (5, none), await := some await0 }) with
      | .next t => some ((ctxAt t 0 1).mode, (ctxAt t 0 1).fetched, (ctxAt t 0 1).await) | _ => none) = some (.frozen, none, none) ∧
    (ctxAt (commanded 4 1 fun k => { k with mode := .frozen }) 0 1).mode = .frozen ∧
    (ctxAt (commanded 3 1 fun k => { k with mode := .parked }) 0 1).mode = .parked ∧
    (ctxAt (commanded 5 1 fun k => { k with mode := .parked, park := some park0, o1 := 1 }) 0 1).busy = true := by decide +kernel

/-- R74: a scalar guard whose bit 0 is clear and another set; a vector guard of which no element's bit is set (log 21). -/
theorem test_false_guard_hypotheses : let s := ready [(1, 5), (2, 6), (3, 7)] fun k => { k with regs := putP k.regs 2 0x2 }
    let h : Hdr := ⟨2, false, 0⟩
    headerOf (.add h ⟨false, false, 3, 1, .reg 2⟩) = some h ∧ GuardFalse (.add h ⟨false, false, 3, 1, .reg 2⟩) h s ∧ guardBits h s ≠ 0 ∧
    GuardFalse (.vadd h ⟨.f, 3, 1, .reg 2⟩) h s ∧ GuardFalse (.vadd ⟨0, true, 0⟩ ⟨.f, 3, 1, .reg 2⟩) ⟨0, true, 0⟩ s ∧
    gAfter (exec (.add h ⟨false, false, 3, 1, .reg 2⟩) s) 3 = some 7 ∧ pcAfter (exec (.add h ⟨false, false, 3, 1, .reg 2⟩) s) = some 12 := by
  have a : ∀ n < 32, active (guardBits ⟨2, false, 0⟩ (ready [(1, 5), (2, 6), (3, 7)] fun k => { k with regs := putP k.regs 2 0x2 })) 32 n = false := by
    decide +kernel
  have b : ∀ n < 32, active (guardBits ⟨0, true, 0⟩ (ready [(1, 5), (2, 6), (3, 7)] fun k => { k with regs := putP k.regs 2 0x2 })) 32 n = false := by
    decide +kernel
  refine ⟨rfl, ?_, ?_, a, b, ?_, ?_⟩
  · show (rdP _ 2).getLsbD 0 = false; decide +kernel
  all_goals decide +kernel

/-! ## Words written out from the formats of R73 and R78 to R83 -/

/-- Format A, S or none: op, fn, SCOPE, d, a, b, then [49:32] and imm32. -/
def fA (op fn scope d a b mid imm : Nat) : Nat :=
  op * 2 ^ 88 + fn * 2 ^ 80 + scope * 2 ^ 71 + d * 2 ^ 64 + a * 2 ^ 57 + b * 2 ^ 50 + mid * 2 ^ 32 + imm
/-- [49:32] of format A: c, type, mod; of format S: id, sub. -/
def mA (c ty mod : Nat) : Nat := c * 2 ^ 11 + ty * 2 ^ 5 + mod
def mS (ident sub : Nat) : Nat := ident * 2 ^ 8 + sub
/-- Format M: op, fn, data, base, index, xs, size, space, MK, NA, disp39. -/
def fM (op fn d base x xs size sp mk na disp : Nat) : Nat :=
  op * 2 ^ 88 + fn * 2 ^ 80 + d * 2 ^ 64 + base * 2 ^ 57 + x * 2 ^ 50 + xs * 2 ^ 48 + size * 2 ^ 44 + sp * 2 ^ 41 + mk * 2 ^ 40 + na * 2 ^ 39 + disp
/-- Format J: op 0x18. -/
def fJ (fn a b c disp : Nat) : Nat := 0x18 * 2 ^ 88 + fn * 2 ^ 80 + a * 2 ^ 64 + b * 2 ^ 57 + c * 2 ^ 53 + disp

theorem test_words_scalar :
    decode 0 = some .nop ∧ decode (fA 1 1 0 0 0 0 0 0x21) = some (.trap h0 0x21) ∧ decode (fA 1 0 0 0 0 0 0 7) = some (.brk h0 7) ∧
    decode (fA 0x10 5 0 3 1 2 (mA 0 0 3) 0) = some (.div h0 ⟨true, true, 3, 1, .reg 2⟩) ∧
    decode (fA 0x10 0x15 0 3 1 0 (mA 0 0 1) 0) = some (.abs h0 ⟨true, false, 3, 1⟩) ∧
    decode (fA 0x11 0 0 0x62 4 0x7F (mA 0 0 6) 64) = some (.cmpp h0 ⟨.ltn, 2, 4, .imm 64⟩) ∧
    decode (fA 0x11 1 0 5 4 6 (mA 0 0 2) 0) = some (.setc h0 ⟨.lt, 5, 4, .reg 6⟩) ∧
    decode (fA 0x12 4 0 5 5 0 (mA 0 0 2) 0) = some (.bswap h0 ⟨true, 5, 5⟩) ∧
    decode (fA 0x12 7 0 8 9 0x7F (mA 8 0 0) 0x43C) = some (.bfi h0 8 9 (.imm 0x43C) 8) ∧
    decode (fA 0x12 8 0 5 3 0x7F (mA 0x62 0 0) 0) = some (.sel h0 5 3 (.imm 0) 2) ∧
    decode (fA 0x13 1 0 7 0 0x7F 0 0xFFFFFFFF) = some (.li h0 7 0xFFFFFFFF) ∧ decode (fA 0x13 3 0 9 0 0x7F 0 4) = some (.mfs h0 9 4) ∧
    decode (fA 0x13 6 0 0x6B 0 0x7F 0 0) = some (.mtb h0 3 (.imm 0)) ∧
    decode (fM 0x14 0 8 4 5 3 3 0 0 0 24) = some (.lea h0 8 4 5 3 24) ∧ decode (fJ 0 0 0 0 0x3FFFFFFFFFFF9) = some (.br h0 0x3FFFFFFFFFFF9) ∧
    decode (fJ 2 3 9 6 5) = some (.bcmp h0 ⟨.ltn, 3, 9, 5⟩) ∧ decode (fJ 5 12 63 0 0) = some (.jmpl h0 12 63) ∧
    decode (fA 0x10 0 0 3 0x41 2 0 0) = none ∧ decode (fA 0x10 0 2 3 1 2 0 0) = none ∧ decode (fA 0x10 0x16 0 3 1 2 0 0) = none := by decide +kernel
theorem test_words_vector :
    decode (fA 0x20 0 0 0x45 0x41 0x42 (mA 0 0x0C 0) 0 + 5 * 2 ^ 76) = some (.vadd ⟨2, true, 0⟩ ⟨.f, 5, 1, .reg 2⟩) ∧
    decode (fA 0x20 3 0 0x44 0x41 0x42 (mA 0x43 0x0A 0) 0) = some (.vfma h0 ⟨.h, 4, 1, .reg 2, 3⟩) ∧
    decode (fA 0x21 6 0 0x43 0x43 0x7F (mA 0 1 0) 4) = some (.vsha h0 ⟨.s16, 3, 3, .imm 4⟩) ∧
    decode (fA 0x22 0 0 0x63 0x41 0x7F (mA 0 0x0C 2) 0) = some (.vcmp h0 ⟨.lt, .f, 3, 1, .imm 0⟩) ∧
    decode (fA 0x22 7 0 6 0x63 0 (mA 0 0x0C 0) 0) = some (.vfirst h0 ⟨.f, 6, 3⟩) ∧
    decode (fA 0x23 8 0 0x44 0x41 0x42 (mA 9 0x0C 0) 0) = some (.vslide h0 ⟨.f, 4, 1, 2⟩ 9) ∧
    decode (fA 0x24 0 0 4 0x43 0 (mA 0x60 5 2) 0) = some (.vred h0 .max .n16 4 3 0) ∧
    decode (fA 0x24 2 0 0x44 0x41 0x42 (mA 0x44 0 0) 0) = some (.vdot4 h0 false false 4 1 (.reg 2) 4) ∧
    decode (fA 0x24 0 0 4 0x43 0 (mA 0x60 0x0C 3) 0) = none ∧
    decode (fA 0x20 0 0 0x45 0x41 0x42 (mA 0 0x12 0) 0) = none := by decide +kernel
theorem test_words_memory :
    decode (fM 0x30 0 5 4 6 1 5 0 0 0 2) = some (.ld h0 ⟨5, atG 4 .virt 2 6 1, 5, false⟩) ∧
    decode (fM 0x30 1 5 4 7 0 3 2 1 0 0) = some (.st h0 ⟨5, atG 4 .rem, 3, some 7⟩) := by decide +kernel
theorem test_words_memory_more :
    decode (fM 0x31 2 0x43 8 9 2 0xA 0 0 0 0) = some (.ldvs h0 ⟨3, atG 8 .virt 0 9 2, .b32, false⟩) ∧
    decode (fM 0x31 4 0x45 4 0x42 3 0xB 0 0 1 0) = some (.gath h0 ⟨5, 4, 2, 3, 0, .virt, .b64, true⟩) ∧
    decode (fM 0x32 1 5 12 0 0 3 2 0 0 8) = some (.stfe h0 false ⟨5, atG 12 .rem 8⟩) ∧
    decode (fM 0x33 0 7 6 0 0 3 1 0 0 0) = some (.setmark h0 ⟨7, atG 6 .own⟩) ∧
    decode (fM 0x33 3 0 9 0 0 1 0 0 0 0) = some (.invl h0 true (atG 9 .virt)) ∧
    decode (fA 0x34 0 3 0 0 0 (mS 0 1) 0) = some (.fence h0 .rel .field) ∧ decode (fA 0x34 1 0 0 0 0 (mS 0 6) 0) = some (.drain h0 6) ∧
    decode (fM 0x30 2 5 4 0 0 7 0 0 0 0) = none ∧ decode (fM 0x30 0 5 4 6 1 5 3 0 0 2) = none := by decide +kernel
theorem test_words_system :
    decode (fA 0x41 0 4 9 0 0x7F 0 144) = some (.bar h0 .die 0 9 (.imm 144)) ∧ decode (fA 0x42 1 0 0x44 10 0 0 0) = some (.crtake h0 4 10) ∧
    decode (fA 0x43 0 0 0 12 20 0 0) = some (.chsend h0 12 20) ∧ decode (fA 0x50 2 0 9 20 0 0 0) = some (.hdrop h0 9 20) ∧
    decode (fA 0x52 0 0 0 14 0 (mS 1 2) 0) = some (.mcall h0 1 14 2) ∧ decode (fA 0x60 1 0 5 8 0 0 0) = some (.reap h0 5 8) ∧
    decode (fA 0x60 5 0 0 0 0 0 0) = some (.yield h0) ∧ decode 0x70000005142C000000000000 = some (.shoot h0 5 10 11) ∧
    decode (fA 0x60 6 0 0 0 0 0 0) = none ∧ decode (fA 0x43 0 0 0 12 21 0 0) = none := by decide +kernel
/-- Conversions, atomics (R175), WAITB (R189) and format M of op 0x51 (R202 to R205). -/
theorem test_words_atomics_and_stores :
    decode (fA 0x25 0 0 0x46 0x44 0 (mA 0 3 0) (2 + 2 ^ 10)) = some (.vcvt h0 ⟨.s64, .s32, false, 1, 6, 4⟩) ∧
    decode (fM 0x39 0 5 4 6 0 0xA 0 0 0 0) = some (.amof h0 ⟨.fadd, .f, false, .none, 5, 4, 6, 0⟩) ∧
    decode (fM 0x3B 0 0x41 4 0x42 0 0xA 0 0 0 0) = some (.vamo h0 ⟨.int .add false, false, .none, 1, 4, 2, 0, 0⟩) ∧
    decode (fA 0x40 0 0 0 0x6B 4 0 0) = some (.waitb h0 3 (.reg 4)) ∧
    decode (fM 0x51 1 9 4 6 0 3 1 0 0 0) = some (.stc h0 ⟨.g 9, 4, 6, 0, .own⟩) ∧
    decode (fA 0x51 3 0 0 7 0x7F 0 0x21) = some (.freeb h0 7 0x21) ∧
    decode (fA 0x51 4 0 0 7 0 (mS 2 5) 0) = some (.glean h0 2 7 5) ∧
    decode (fM 0x51 5 9 4 0 0 3 1 0 0 8) = some (.wkick h0 9 4 8 true) := by decide +kernel
/-- The 96-bit values the spec's worked programs give (pages 12 to 19). -/
theorem test_words_of_the_worked_programs :
    decode 0x500000061055800201010000 = some (.hire h0 ⟨6, 8, 1, 1, 1, 3, 0, false, false, false, 1, 1, 1⟩) ∧
    decode 0x500040071855840201010000 = some (.hire ⟨2, false, 0⟩ ⟨7, 12, 1, 1, 1, 3, 0, true, false, false, 1, 1, 1⟩) ∧
    decode 0x500050071855800201010000 = some (.hire ⟨2, true, 0⟩ ⟨7, 12, 1, 1, 1, 3, 0, false, false, false, 1, 1, 1⟩) ∧
    decode 0x380000002654308000000000 = some (.amo h0 ⟨.add, .b64, true, .none, 0, 19, 21, 0⟩) ∧
    decode 0x41000190000C000000000000 = some (.bar h0 .field 0 16 (.reg 3)) ∧
    decode 0x42040000142C000000000080 = some (.crinit h0 10 11 128) ∧
    decode 0x420000001508000000000000 = some (.cradd h0 10 2) ∧ decode 0x420100441400000000000000 = some (.crtake h0 4 10) ∧
    decode 0x420200441588000000000000 = some (.crtry h0 4 10 2) ∧
    decode 0x320100051000340000000000 = some (.stfe h0 false ⟨5, atG 8 .rem⟩) ∧
    decode 0x230000428300000000000000 = some (.vpermb h0 2 1 (.reg 0)) ∧
    decode 0x2106004385FC00400000001C = some (.vsha h0 ⟨.s32, 3, 2, .imm 28⟩) ∧
    decode 0x250000448800018000000002 = some (.vcvt h0 ⟨.f, .s32, false, 0, 4, 4⟩) ∧
    decode 0x200300478916398000000000 = some (.vfma h0 ⟨.f, 7, 4, .reg 5, 7⟩) ∧
    decode 0x1101000B121C000900000000 = some (.setc h0 ⟨.gen, 11, 9, .reg 7⟩) ∧
    decode 0x700200000014000000000000 = some (.swapctlWindow h0 0 5 0) := by decide +kernel
/-- Micro-words (R283), packets (R309), requests (R312) and Lomwen words (R319). -/
theorem test_words_units :
    decodePacket [0x100000501, 0, 7, 0x1000001000000, 0x2040] = .ok (.launch ⟨false, false, 0, launchWords⟩) ∧
    decodePacket [0x404, 0x40, 1, 1] = .ok (.waitmem ⟨false, false, 0, [0x404, 0x40, 1, 1]⟩) ∧
    decodeRequest #v[0x300000001 + 2 * 2 ^ 8, 0x1000, 12, 0x105, 0, 0, 0, 0] = some (.qconfig 2 3 0x1000 12 0x105) ∧
    decodeTableWord 32 (0x0B + 10 * 2 ^ 7 + 2 * 2 ^ 12 + 11 * 2 ^ 15) = some (.lmSwait 10 11) ∧ decodeTableWord 96 0 = some .nop := by decide +kernel

/-! ## Terms without an encoding: one for each check of wf -/

def mi (ty : Option ElemType) : Micro := ⟨ty, 0, 0, 0, 0, 0, 0⟩
/-- Scalar, vector and memory terms. -/
theorem test_ill_formed : ([.mulh h0 ⟨true, false, 1, 2, .reg 3⟩, .and h0 ⟨true, false, 1, 2, .reg 3⟩, .loop h0 0 5, .vadd h0 ⟨.t2, 1, 2, .reg 3⟩,
    .vfma h0 ⟨.s8, 1, 2, .reg 3, 4⟩, .vdiv h0 ⟨.s8, 1, 2, .reg 3⟩, .vsqrt h0 ⟨.n8, 1, 2⟩, .vabs h0 ⟨.n8, 1, 2⟩, .vmulh h0 ⟨.f, 1, 2, .reg 3⟩,
    .vcmp h0 ⟨.ltn, .f, 1, 2, .reg 3⟩, .vperm h0 ⟨.s4, 1, 2, 3⟩, .vshuf h0 0 ⟨.t2, 1, 2, 3⟩, .vslide h0 ⟨.t2, 1, 2, 3⟩ 4, .vidx h0 ⟨.f, 1, .reg 2⟩,
    .vred h0 .and .f 1 2 0, .vscan h0 .xor .s8 1 2 0, .vdot4 h0 true true 1 2 (.reg 3) 4, .vxaccRd h0 .h 1 2, .vcvt h0 ⟨.f, .f, false, 0, 1, 2⟩,
    .vcvt h0 ⟨.f, .h, true, 0, 1, 2⟩, .vcvt h0 ⟨.d, .s8, false, 8, 1, 2⟩, .st h0 ⟨1, ⟨2, 3, 0, 0, .virt⟩, 0, some 4⟩, .ldq h0 ⟨3, atG 1 .virt, false⟩,
    .stq h0 ⟨3, atG 1 .virt, none⟩, .stv h0 ⟨1, ⟨2, 0, 1, 0, .virt⟩, .b8, some 4⟩, .ldvs h0 ⟨1, atG 2 .virt, .b8, false⟩,
    .stvs h0 ⟨1, atG 2 .virt 0 3, .b8, true⟩, .gath h0 ⟨1, 2, 3, 0, 0, .virt, .b8, false⟩, .scat h0 ⟨1, 2, 3, 0, 0, .virt, .b32, true⟩] : List Instr).all
      (fun i => !wf i) = true := by decide +kernel
/-- Synchronisation, hires, micro-words, packets and requests. -/
theorem test_ill_formed_more : ([.fence h0 .acq .lane, .drain h0 0, .amo h0 ⟨.add, .b64, true, .acq .pkg, 0, 1, 2, 0⟩,
    .amof h0 ⟨.fadd, .f, true, .none, 3, 1, 2, 0⟩, .cas h0 ⟨.b64, .rel .lane, 3, 1, 2, 0⟩, .cas2 h0 ⟨.none, 3, 1, 2, 0⟩,
    .vamo h0 ⟨.flt .fadd .bf, false, .none, 1, 2, 3, 0, 0⟩, .bar h0 .core 0 1 (.reg 2), .barw h0 .lane 0 1, .bara h0 .die 0 (some 1) (.reg 2),
    .chsend h0 1 3, .chnext h0 3 1, .hire h0 { (⟨20, 61, 3, 1, 1, 2, 0, false, false, true, 0, 0, 0⟩ : HireO) with m := 1 },
    .stc h0 ⟨.pair 3, 1, 2, 0, .virt⟩, .spawn h0 1 2 3 0, .spawn h0 1 2 3 0x2100, .millLi (mi (some .f)), .millBr (mi (some .f)), .lfma (mi none),
    .lred (mi (some .s8)), .packetNop ⟨false, false, 0, []⟩, .launch ⟨false, false, 0, [0x501, 0, 7, 0x1000001000000, 0x2040]⟩,
    .copyPacket ⟨false, false, 0, [0x402, 0x41, 0x80, 0x40]⟩, .millPacket ⟨false, false, 0, [0x2000000503, 0, 0, 0, 0]⟩,
    .waitmem ⟨false, false, 0, [0x404, 0x44, 1, 1]⟩, .ib ⟨false, false, 0, [0x305, 0x40, 0]⟩, .loopPacket ⟨false, false, 0, [0x106]⟩,
    .ffence ⟨false, false, 2, [0x2000107]⟩, .signal ⟨true, false, 0, [0x308, 0x40, 1]⟩, .qconfig 65 0 0x1000 12 0, .qconfig 0 0 0x1001 12 0,
    .qenable 0 4096, .mrconfig 0 0x1000 25 0, .irqroute 0 256 0 0, .fbind 0 0x1000000, .ashoot 65 0 0] : List Instr).all
      (fun i => !wf i) = true := by decide +kernel

/-! ## Steps -/

/-- A mill, a queue and an event as a schedule names them. -/
def scheduled (m : Sched) (s : State) : State := { s with sched := [m] }
theorem test_step_hypotheses : let s := State.reset.withFetchWord 96 (fA 0x13 1 0 7 0 0x7F 0 5)
    let l : ILine := ⟨0, lineWith (fA 0x13 1 0 7 0 0x7F 0 5), none, false⟩
    let n := (croftAt s 0).cyc.toNat % 16
    let u := { setCroft s 0 { croftAt s 0 with cyc := (croftAt s 0).cyc + 1 } with cur := (0, n), sched := s.sched.tail }
    pressing s = none ∧ pressing { s with period := 2 ^ 22 } = some (.servicePeriodEnd, []) ∧ pressing windowEnd = some (.swapWindowClose, [0]) ∧
    slotOk (me u).pc = true ∧ s.sched = [] ∧ s.cur.1 = 0 ∧ (ctxAt s 0 n).mode = .running ∧ (croftAt s 0).tenant ≠ none ∧ (croftAt s 0).stopped = false ∧
    rightAt (mySet u).windows Window.x ((me u).pc / 64 * 64) = true ∧ (croftAt s 0).icache.find? (fun x => x.la == (me u).pc / 64) = some l ∧
    lineParity l.data = true ∧ slotParity l.data 0 = true ∧ lineOk l.data = true ∧ pairBit l.data 0 = false ∧ (me u).tgt = none ∧
    decode (slotWord l.data 0) = some (.li h0 7 5) ∧ (match step s with | .next t => some (getG (ctxAt t 0 1).regs 7) | _ => none) = some 5 ∧
    (ctxAt State.reset 0 0).mode ≠ .running ∧
    (match step (State.reset.withFetchWord 96 1) with | .next t => some (ctxAt t 0 1).mode | _ => none) = some .frozen := by decide +kernel
theorem test_step_transfer_hypotheses : let s := State.reset.withFetchWord 96 0
    let t := updCtx s 0 1 fun k => { k with tgt := some 4 }
    let far := updCtx s 0 1 fun k => { k with pc := 0x40000000 }
    (ctxAt t 0 1).tgt = some 4 ∧ tgtBit (lineWith 0) 0 = false ∧ rightAt (setAtId far 0).windows Window.x ((ctxAt far 0 1).pc / 64 * 64) = false ∧
    (match step t with | .next u => some (ctxAt u 0 1).mode | _ => none) = some .frozen ∧
    (match step far with | .next u => some (ctxAt u 0 1).mode | _ => none) = some .frozen := by decide +kernel
theorem test_agent_hypotheses :
    let m := State.reset.withFetchWord 128 (0x04043604000000000000000000000000)
    let l := State.reset.withFetchWord 32 0x00C5950B
    let q := scheduled (.issue 0) (queued (.ffence (pkt [0x107])))
    let b := scheduled .mailbox { dispatchable with mailbox := { dispatchable.mailbox with pending := true, req := #v[0x502, 0, 0, 0, 0, 0, 0, 0] } }
    m.sched = [.mill 0] ∧ (chanAt m 0).mill.call ≠ none ∧ (chanAt m 0).mill.wait = false ∧
    decodeMicro (microWord m 0).toNat = some (.millBr ⟨none, 4, 0x36, 0, 1, 0, 0⟩) ∧ l.sched = [.lomwen 0] ∧ inSram (lomAt l 0).pc.toNat 4 = true ∧
    decodeLm (loadBytes (lomAt l 0).sram (lomAt l 0).pc.toNat 4) = some (.lmBext ⟨10, 11, 12⟩) ∧
    decodeLm (loadBytes (lomAt (State.reset.withFetchWord 32 0x13) 0).sram 0x80000000 4) = none ∧ q.sched = [.issue 0] ∧
    nth (queueAt q 0).items (queueAt q 0).ip = some (.pkt (.ffence (pkt [0x107])) Cursor.start) ∧ b.mailbox.pending = true ∧
    (funcAt b (b.mailbox.req[0].toNat / 256 % 128)).stopping = false ∧ (∀ x ∈ [m, l, q, b], pressing x = none) ∧
    decodeRequest b.mailbox.req = some (.qenable 5 0) ∧ isEvent .powerLoss = true ∧
    (match step { State.reset with sched := [.lomwen 18] } with | .fault .noCore => true | _ => false) = true := by decide +kernel

/-- Slot 0 moves g1 to g3, slot 1 g3 to g1, the two a pair (R61, R67). -/
def movLo : Nat := fA 0x13 0 0 3 1 0 0 0
def movHi : Nat := fA 0x13 0 0 1 3 0 0 0
def pairLine : LineWord :=
  BitVec.ofNat 512 (movLo + movHi * 2 ^ 96 + ((oddOnes 96 movLo).toNat + 2 * (oddOnes 96 movHi).toNat + 32 + 2 ^ 23) * 2 ^ 480)
def pairState (f : Context → Context := id) : State :=
  let s := State.reset.withFetchWord 96 0
  setCroft s 0 { croftAt s 0 with icache := [⟨0, pairLine, none, true⟩], ctxs := [(1, f (ctxAt s 0 1))] }
theorem test_pair_step_hypotheses : let s := pairState
    let u := { setCroft s 0 { croftAt s 0 with cyc := (croftAt s 0).cyc + 1 } with cur := (0, 1), sched := [] }
    pressing s = none ∧ s.power = .on ∧ s.sched = [] ∧ s.cur.1 = 0 ∧ (croftAt s 0).cyc.toNat % 16 = 1 ∧ (ctxAt s 0 1).mode = .running ∧
    (ctxAt s 0 1).fetched = none ∧ (me u).pc = 0 ∧ slotOk 0 = true ∧
    (croftAt s 0).icache.find? (fun x => x.la == (me u).pc / 64) = some ⟨0, pairLine, none, true⟩ ∧ slotParity pairLine 0 = true ∧
    slotParity pairLine 1 = true ∧ lineParity pairLine = true ∧ lineOk pairLine = true ∧ pairBit pairLine 0 = true ∧
    pairOk (slotWord pairLine 0) (slotWord pairLine 1) = true ∧ (me u).tgt = none ∧ pairBit (lineWith 0) 0 = false ∧
    (match step s with | .next t => some (getG (ctxAt t 0 1).regs 3, (ctxAt t 0 1).pc) | _ => none) = some (0, 24) := by decide +kernel
/-- Words that wait in the rotation issue again, whatever the line holds now. -/
theorem test_fetched_step_hypotheses : let s := pairState fun k => { k with fetched := some (fA 0x13 1 0 7 0 0x7F 0 5, none) }
    let p := pairState fun k => { k with fetched := some (movLo, some movHi), regs := putG k.regs 1 5 }
    pressing s = none ∧ (ctxAt s 0 1).fetched = some (fA 0x13 1 0 7 0 0x7F 0 5, none) ∧ pressing p = none ∧
    (ctxAt p 0 1).fetched = some (movLo, some movHi) ∧
    (match step s with | .next t => some (getG (ctxAt t 0 1).regs 7, (ctxAt t 0 1).fetched) | _ => none) = some (5, none) ∧
    (match step p with | .next t => some (getG (ctxAt t 0 1).regs 3, (ctxAt t 0 1).fetched) | _ => none) = some (5, none) := by decide +kernel
/-- A cycle that a schedule names, and agents without power or before firmware. -/
theorem test_power_step_hypotheses : let c := scheduled (.cycle 0) pairState
    let off (m : Sched) := { scheduled m pairState with power := .off }
    let early := scheduled (.lomwen 0) State.reset
    let ev (i : Instr) := scheduled (.event i []) State.reset
    (pressing c = none ∧ c.sched = .cycle 0 :: [] ∧ c.power = .on) ∧
    (∀ m ∈ [Sched.cycle 0, .lomwen 0, .mill 0, .mailbox, .event .pollTick []], pressing (off m) = none ∧ (off m).power ≠ .on ∧ (off m).sched = m :: [] ∧
      (match step (off m) with | .next t => decide (t = { off m with sched := [] }) | _ => false) = true) ∧ (∀ i : Instr, ∀ arg, Sched.cycle 0 = .event i arg → i ≠ .powerGood ∧ i ≠ .powerLoss) ∧
    (pressing early = none ∧ early.mgmt.stb = false ∧ early.sched = .lomwen 0 :: []) ∧
    (∀ i ∈ [Instr.powerLoss, .powerGood, .stageADone, .packetDrop], pressing (ev i) = none ∧ canHappen (ev i) i = true) ∧
    canHappen (off (.event .powerGood [])) .powerGood = true ∧ canHappen (off .mailbox) .stageADone = false := by
  refine ⟨?_, ?_, fun i arg h => (by cases h), ?_⟩ <;> decide +kernel
theorem test_agent_power_hypotheses : let m := State.reset.withFetchWord 128 (0x04043604000000000000000000000000)
    let l := State.reset.withFetchWord 32 0x00C5950B
    m.power = .on ∧ m.mgmt.dies.getLsbD (0 / 32) = true ∧ l.power = .on ∧ l.mgmt.stb = true ∧ lomReach (lomAt l 0).pc.toNat 4 = true ∧
    decodeLm (lomLoad { l with sched := [], unit := 0 } (lomAt l 0).pc.toNat 4) = some (.lmBext ⟨10, 11, 12⟩) ∧
    (let b := State.reset.withFetchWord 32 0x13
     decodeLm (lomLoad { b with sched := [], unit := 0 } (lomAt b 0).pc.toNat 4) = none) ∧
    (∀ s ∈ [queued .nop, dispatchable], s.power = .on) := by decide +kernel

theorem test_issue_hypotheses : let s := ready [(1, 5)]
    let gated := ready [] fun k => { k with o2 := 1 }
    headerOf (.mov ⟨0, false, 2⟩ 3 1) = some ⟨0, false, 2⟩ ∧ gateClear ⟨0, false, 2⟩ gated = false ∧ guardBits ⟨0, true, 0⟩ s = 0 ∧
    routeOf (routed id) (tenAt (routed id) (myTen (routed id))).set = some (0, 0) ∧ roomFor (routed id) 0 = some (0, 0) ∧ (routed id).cur.2 ≠ 0 ∧
    sread ([], 0) (routed id).reports (agCroft (routed id).cur.1) = ([], 0) ∧ routeOf s (tenAt s (myTen s)).set = none ∧
    (setAtId s 0).held.length < Config.haywardPackets ∧ (me s).grp = none ∧ (me s).mode = .running ∧ (me s).stage = .open ∧ (me s).sub = 0 ∧
    decode (fA 0x13 0 0 3 1 0 0 0) = some (.mov h0 3 1) ∧ decode (fA 0x13 0 0 1 3 0 0 0) = some (.mov h0 1 3) ∧ Issues h0 [.g 3, .g 1] s ∧
    Issues h0 [.g 1, .g 3] s := by
  repeat' apply And.intro
  all_goals first | exact issues _ | decide +kernel
/-- R68, R75, R373, R375: a pair of moves exchanges; a gate holds; a fault packet goes to the route as two messages. -/
theorem test_issue : let s := ready [(1, 5), (3, 7)]
    (match issuePair s (fA 0x13 0 0 3 1 0 0 0) (fA 0x13 0 0 1 3 0 0 0) with
      | .next t => some (getG (me t).regs 3, getG (me t).regs 1, (me t).pc) | _ => none) = some (5, 7, 24) ∧
    pcAfter (exec (.mov ⟨0, false, 2⟩ 3 1) (ready [(1, 5)] fun k => { k with o2 := 1 })) = some 0 ∧
    gAfter (exec (.mov ⟨0, true, 0⟩ 3 1) s) 3 = some 7 ∧
    (match exec (.trap h0 0x21) (routed id) with | .next t => some (chanOf (tenAt t 0) 0).q.length | _ => none) = some 2 := by decide +kernel

theorem test_encode_hypotheses : wf (.amo h0 ⟨.add, .b64, true, .rel .pkg, 0, 6, 7, 8⟩) = true ∧ (headerOf (.yield h0)).isSome = true ∧
    encode (.amo h0 ⟨.add, .b64, true, .rel .pkg, 0, 6, 7, 8⟩) = some 0x380002800C1C308200000008 ∧
    (encodeMicro (.millBr ⟨none, 4, 0x36, 0, 1, 0, 0⟩)) = some 0x04043604000000000000000000000000 ∧
    encodePacket (.ffence (pkt [0x107])) = some [0x107] ∧ encodeRequest (.qenable 3 5) = some #v[0x500000302, 0, 0, 0, 0, 0, 0, 0] ∧
    encodeLm (.lmSwait 10 11) = some 0x0005A50B := by decide +kernel
theorem test_memory_form : Memory.wf State.reset.mem = true ∧ Memory.wf (storeBytes [] 0x5048 [7, 0, 9]) = true ∧
    (match step { State.reset with sched := [.event .powerLoss []] } with | .next _ => true | _ => false) = true := by decide +kernel
/-- R336: a window whose MODE changes while a barn holds a line of it is undefined to loads until a later SHOOT covers it. -/
theorem test_rehomed_window : let w : Window := ⟨0x1003, 0x1000, 0x10010, 0x101, []⟩
    let s := updBank State.reset 0 fun k => { k with lines := [⟨1, 0x1040 / 64, 0, 0, false, false, 0⟩] }
    let ws : Sparse Window := [(2, w)]
    staleRange s 1 4 ws 2 { w with d2 := 0x10012 } = [(0x1000, 0x2000, 4)] ∧ staleRange State.reset 1 4 ws 2 { w with d2 := 0x10012 } = [] ∧
    staleRange s 1 4 [(1, w), (2, w)] 2 { w with d2 := 0x10012 } = [] ∧
    shootStale ⟨[(0x1000, 0x2000)], 5⟩ (0x1000, 0x2000, 4) = [] ∧ shootStale ⟨[(0x1000, 0x2000)], 4⟩ (0x1000, 0x2000, 4) = [(0x1000, 0x2000, 4)] ∧
    shootStale ⟨[(0x2000, 0x3000)], 5⟩ (0x1000, 0x4000, 4) = [(0x1000, 0x2000, 4), (0x3000, 0x4000, 4)] := by decide +kernel
/-- R61, R62, R255, R268: every slot of the wain program has a word, the push of a block the one the manual prints, and its lines
pass their parity checks, its entry a target. -/
theorem test_wain : (List.range wainSlots.length).all (fun k => (encode (wainInstr k)).isSome) = true ∧
    ((List.range wainSlots.length).any fun k => encode (wainInstr k) == some 0x510000401854800000000000) = true ∧
    wainLines.all (fun l => lineParity l && lineOk l && (List.range 5).all (slotParity l)) = true ∧
    (wainLines.head?.any fun l => tgtBit l 0) = true := by decide +kernel

/-! ## Further forms of the statements -/

/-- A line that PREF fetches, one that the L1 holds, an address of no window, and an own address. -/
theorem test_prefetch_hypotheses : let s := ready [(4, 0x48), (5, 0x10000000), (6, 0x01FFFF0000000100)]
    let r := resOf s 0x48
    let held := onCroft (fun k => { k with l1 := [⟨tagOf r.glob r.asid, 2, 9, 0⟩] }) s
    Issues h0 (addrRn (atG 4 .virt)) s ∧ placeOf .virt (ea s (atG 4 .virt)).toNat = some (.virt 0x48) ∧ rangeOk (winsOf s) (fun _ => true) 0x48 1 = true ∧
    l1Find s s.cur.1 (tagOf r.glob r.asid) (0x48 / 32) = none ∧ (l1Find held 0 (tagOf r.glob r.asid) (0x48 / 32)).isSome = true ∧
    placeOf .virt (ea s (atG 5 .virt)).toNat = some (.virt 0x10000000) ∧ rangeOk (winsOf s) (fun _ => true) 0x10000000 1 = false ∧
    placeOf .virt (ea s (atG 6 .virt)).toNat = some (.own 0x100) ∧
    netAfter (exec (.pref h0 false (atG 4 .virt)) s) = some 1 ∧ netAfter (exec (.pref h0 false (atG 5 .virt)) s) = some 0 := by
  refine ⟨issues _, ?_, ?_, ?_, ?_, ?_, ?_, ?_, ?_, ?_⟩ <;> decide +kernel

/-- STCM at an offset that its data does not divide, with stores outstanding, and with no receiver; FREEB with its class at its limit. -/
theorem test_multicast_hypotheses : let at' (off : W64) (f : Context → Context) := onTen (fun t => { t with
      slots := [(0, { Slot.empty with taken := true })], frees := [⟨9, 0, 0, [], [0], []⟩] }) (twoTenants (ready [(4, off), (7, 1)] f))
    let s := at' 0x100 id
    let off (s : State) : Nat := (rdG s 4 + (0 : BitVec 39).signExtend 64).toNat % 2 ^ 16
    let full := at' 0x100 fun k => { k with o1 := 255, o2 := 255 }
    Issues h0 (stcmRns (.g 9) ++ [.g 4, .g 7]) s ∧ off (at' 0x104 id) % (stcmBytes s (.g 9)).length ≠ 0 ∧ off s % (stcmBytes s (.g 9)).length = 0 ∧
    (me full).busy = true ∧ (me s).busy = false ∧ receivers s ((rdG s 7).toNat / 2 ^ 0 % 2 ^ 9) = [] ∧ (rdG s 7).toNat / 2 ^ 19 % 2 ^ 3 < 8 ∧
    findName s (myTen s) (me s).name = some s.cur ∧ (slotAt s (myTen s) (me s).name).evicted = none ∧ Issues h0 [.g 0] full ∧
    holdsMulticast full (myTen full) 0 9 = true ∧ 255 ≤ countOf 1 (me full) ∧ 255 ≤ countOf 2 (me full) := by
  refine ⟨issues _, ?_, ?_, ?_, ?_, ?_, ?_, ?_, ?_, issues _, ?_, ?_, ?_⟩ <;> decide +kernel

/-- A hand whose hires are not complete; the members of a launch, the last one and another. -/
theorem test_exit_hypotheses : let hand := ready [(12, 0)] fun k => { k with origin := .spawned, hires := [3] }
    let l : Launch := ⟨1, none, 0, 2, 0x40, 7, 0, 1, 2, false, 0x2040, 2, [0, 1], 0⟩
    let sown (e : Nat) := updDie (ready [(12, 0)] fun k => { k with origin := .launch 0 1 0 }) 0 fun d => { d with launches := [(4, { l with exited := e })] }
    Issues h0 [.g 12] hand ∧ Quiet hand ∧ 1 ≤ hand.cur.2 ∧ hand.cur.2 ≤ 14 ∧ (me hand).hires ≠ [] ∧ Issues h0 [.g 12] (sown 0) ∧ Quiet (sown 0) ∧
    Quiet (sown 1) ∧ (me (sown 0)).hires = [] ∧ (me (sown 0)).origin = .launch 0 1 0 ∧
    ((dieAt (sown 0) 0).launches.find? fun e => e.2.id == 1) = some (4, { l with exited := 0 }) ∧ 0 + 1 ≠ l.size ∧
    ((dieAt (sown 1) 0).launches.find? fun e => e.2.id == 1) = some (4, { l with exited := 1 }) ∧ 1 + 1 = l.size ∧ l.q = none ∧ (4 : Nat) < 64 := by
  refine ⟨issues _, quiet, ?_, ?_, ?_, issues _, quiet, quiet, ?_, ?_, ?_, ?_, ?_, ?_, ?_, ?_⟩ <;> decide +kernel

/-- A hand that has arrived at barriers; a continuation queue with a record on chip, and one with its record behind an empty queue. -/
theorem test_queue_hypotheses : let k := event [] fun k => { k with arrivals := [(4, 3, 1), (6, 15, 2)] }
    let bound (q b : List (BitVec 512)) := setCrib (onTen (fun t => { t with contq := some 9, backlog := b }) (event [])) 9 { Crib.empty with set := some 0, q := q }
    let left (u : State) : List (BitVec 512) := (match (tenAt u 0).contq with | none => [] | some q => (cribAt u q).q) ++ (tenAt u 0).backlog
    (∀ a ∈ (ctxAt k 0 1).arrivals, 2 ≤ a.1 ∧ a.1 ≤ 6 ∧ a.2.1 < 16) ∧ (tenAt (bound [record0] [5]) 0).contq = some 9 ∧
    (cribAt (bound [record0] [5]) 9).held = 0 ∧ (cribAt (bound [record0] [5]) 9).q.length ≤ Config.cribOnChip ∧
    left (bound [record0] [5]) = record0 :: [5] ∧ left (bound [] [record0]) = [record0] ∧
    (match exec .recordTake (bound [record0] [5]) with | .next t => some ((ctxAt t 0 2).pc, left t) | _ => none) = some (0x40, [5]) := by
  decide +kernel

/-- A load that no store of its own stands before, a request of no fault bay, and an atomic at the unit that is not held back. -/
theorem test_unhindered_hypotheses : let r := req0 (.load 8 false) (.reply 0)
    let a := req0 (add1 who0 0) (.reply 0)
    let b := a.res.bank
    let u := updBank (atHome (add1 who0 0) (.reply 0)) b fun k => { k with queue := [a] }
    behindStores (event [.home r]) (.net (argN (event [.home r]) 0)) r = false ∧ bayBefore (atHome (.load 8 false) (.reply 0)) r = false ∧
    stalled u b a = false ∧ ([a].filter fun q => tagOf q.res.glob q.res.asid == tagOf a.res.glob a.res.asid && q.va / 64 == 1 &&
      q.res.asid == a.res.asid && q.res.chan == 0) = [a] ∧
    bayBefore landing0 landReq = false ∧ (let t := landing0 fun h => { h with reported := true, replays := [0] }
      (hireAt t 0).any (fun h => h.reported && h.replays.contains 0) = true) := by decide +kernel

/-- The third arrival of a generation whose others arrived with a bin and in a park; a crib with records in its loft; a full list of takes. -/
theorem test_generation_hypotheses : let s := updSet (event [.arrive 0 0 3 ⟨who0, none⟩ 3 4] fun k => { k with
        mode := .parked, park := some { park0 with kind := .barrier, param := 4 + 3 * 16, count := 0 } }) 0 fun k =>
      { k with barriers := [(barrierKey 0 4 3, ⟨0, 3, [⟨who0, some 2⟩, ⟨{ who0 with name := 5 }, none⟩], []⟩)] }
    let k := barrierAt s 0 (barrierKey 0 4 3)
    let mine : Crib := { Crib.empty with set := some 0 }
    let loft := cribbed .take { mine with q := [7], held := 1, size := 2, pas := [0x5000, 0x5040] }
    let c := cribbed .take { mine with waiters := List.replicate Config.cribWaiters who0 }
    let w := updBank (cribbed .take mine) 5 fun k => { k with queue := [req0 (add1 who0 0) (.reply 0)] }
    k.arrived.length = 2 ∧ k.n ≤ 2 + 1 ∧ srising none (croftAt s 0).ctxs = true ∧ findName s 0 0 = some (0, 1) ∧ findAgent s who0 = some (0, 1) ∧
    ((ctxAt s 0 1).park.any fun p => p.kind == .barrier && p.param == 4 + 3 * 16 && !p.served && p.rearrive.isNone && p.owe.keep.isNone) = true ∧
    park0.d < 64 ∧ (cribAt loft 5).held ≠ 0 ∧ (cribAt loft 5).q = [7] ∧ (cribAt loft 5).held < (cribAt loft 5).size ∧
    (cribAt c 5).q = [] ∧ Config.cribWaiters ≤ (cribAt c 5).waiters.length ∧ stalled w 5 (req0 (add1 who0 0) (.reply 0)) = false ∧
    (match exec .barrierArrival s with | .next t => some ((barrierAt t 0 (barrierKey 0 4 3)).gen, (getB (ctxAt t 0 1).regs 2).toNat) | _ => none)
      = some (1, 1) := by decide +kernel

/-- Fields that pass between two paddocks: of crofts that host no tenant, and field 0 of tenant 0's croft. -/
theorem test_paddock_hypotheses : let s := { owned 0 with paddocks := [(0, { padAt (owned 0) 0 with fields := 3 }), (1, { padAt (owned 0) 1 with fields := 4 })] }
    let changes (fa fb : BitVec 72) (f : Nat) : Bool := (padAt s 0).fields.getLsbD f != fa.getLsbD f || (padAt s 1).fields.getLsbD f != fb.getLsbD f
    s.border = none ∧ (1 : BitVec 72) ||| 6 = (padAt s 0).fields ||| (padAt s 1).fields ∧ (1 : BitVec 72) &&& 6 = 0 ∧
    (∀ e ∈ s.crofts, changes 1 6 (fieldOf e.1) = true → e.2.tenant = none ∧ inMove s e.1 = false) ∧
    (2 : BitVec 72) ||| 5 = (padAt s 0).fields ||| (padAt s 1).fields ∧ (2 : BitVec 72) &&& 5 = 0 ∧
    (∃ e ∈ s.crofts, changes 2 5 (fieldOf e.1) = true ∧ e.2.tenant ≠ none) := by decide +kernel

/-- Events that wait for what the machine has not: a die's watchdog beyond the croft dies, power that is there. -/
theorem test_event_wait_hypotheses : let s := { State.reset with sched := [.event .watchdogExpiry [8], .cycle 3] }
    let p := { State.reset with power := .off, sched := [.cycle 3] }
    let l := { owned 0 with sched := [.lomwen 2], mgmt := { (owned 0).mgmt with dies := 1, stage := 2 } }
    pressing s = none ∧ canHappen { s with sched := [.cycle 3], arg := [8] } .watchdogExpiry = false ∧
    pressing p = none ∧ p.power ≠ .on ∧ (∀ i arg, Sched.cycle 3 = .event i arg → i ≠ .powerGood ∧ i ≠ .powerLoss) ∧
    pressing l = none ∧ l.mgmt.stb = true ∧ l.mgmt.stage = 2 ∧ l.mgmt.dies.getLsbD (2 / 2) = false ∧ (match step s with | .next t => some t.sched.length | _ => none) = some 1 := by
  refine ⟨by decide +kernel, by decide +kernel, by decide +kernel, by decide +kernel, fun i arg h => (by cases h), ?_⟩; decide +kernel

end Sys2Proof.Tests
end

section
namespace Sys2Proof.Machine

/-! ## Registers (R10, R15) -/

theorem putG_zero (r : Regs) (x : W64) : putG r 0 x = r := by simp [putG]
theorem putP_zero (r : Regs) (x : PWord) : putP r 0 x = r := by simp [putP]
theorem getG_zero (r : Regs) : getG r 0 = 0 := by simp [getG]
theorem getP_zero (r : Regs) : getP r 0 = BitVec.allOnes 128 := by simp [getP]
/-- A write of a g or p register touches its own class alone. -/
theorem putG_frame (r : Regs) (i : GReg) (x : W64) : putG r i x = { r with g := (putG r i x).g } := by
  unfold putG; split <;> rfl
theorem putP_frame (r : Regs) (i : PReg) (x : PWord) : putP r i x = { r with p := (putP r i x).p } := by
  unfold putP; split <;> rfl

/-- Settles O8: each class by its read-after-write law and its frame. -/
theorem registerWrites : Obligations.RegisterWrites := by
  unfold Obligations.RegisterWrites
  refine ⟨fun r i j x => ⟨?_, getG_zero r, putG_frame r i x, putG_zero r x⟩,
    fun r i j x => ⟨?_, getP_zero r, putP_frame r i x, putP_zero r x⟩,
    fun r i j x => ⟨getV_putV r i j x, rfl⟩, fun r i j x => ⟨getB_putB r i j x, rfl⟩⟩
  · rw [getG_putG]; simp only [and_comm, ne_eq]
  · rw [getP_putP]; simp only [and_comm, ne_eq]

end Sys2Proof.Machine
end

section
namespace Sys2Proof.Machine

/-! ## Special registers (R17 to R20, R109, R110) -/

/-- An MFS that no decode fault stops writes what the special register reads. -/
theorem mfs_retires {h : Hdr} {d : GReg} {n : Fin 32} {s : State} (c : Issues h [.g d] s)
    (f : specialFault (me s).priv false n.val = none) :
    ∃ t, exec (.mfs h d n) s = .next t ∧ Retired s t (putG (me s).regs d (specialRead s n.val)) :=
  ⟨_, by rw [exec_mfs, execMfs, f]; exact scalar_act s _ c, retired_updRegs s _⟩

/-- A privileged context that still holds the windows of an operand check, which allow no access, while window 0 of its set is void: the
state in which MFS of pwd0 reads the held window and not the set's. -/
def heldWindowState : State :=
  { State.reset with
    crofts := [(0, { Croft.empty with
      tenant := some 0
      ctxs := [(0, { Context.empty with mode := .running, priv := true, budget := 0x2040, wins := some [(0, ⟨1, 0, 0, 0, []⟩)] })] })] }

theorem heldWindowState_issues : Issues ⟨0, false, 0⟩ [.g 1] heldWindowState := ⟨by decide, by decide, by decide⟩

/-- Refutes O9: where the context holds the windows of an earlier operand check (R336), MFS reads pwd0 from those, not from the set. -/
theorem not_specialRegisterReads : ¬ Obligations.SpecialRegisterReads := by
  unfold Obligations.SpecialRegisterReads
  intro H
  obtain ⟨-, -, -, -, -, -, -, -, -, -, -, privileged, -⟩ := H ⟨0, false, 0⟩ 1 0x10 heldWindowState heldWindowState_issues
  obtain ⟨-, -, pwd0, -⟩ := privileged (by decide) (by decide)
  obtain ⟨t, e, r⟩ := pwd0 rfl
  obtain ⟨t', e', r'⟩ := mfs_retires (n := 0x10) heldWindowState_issues (by decide)
  obtain rfl : t = t' := by injection e.symm.trans e'
  have regs := congrArg (fun k => getG k.regs 1) (r.ctx.symm.trans r'.ctx)
  revert regs
  decide

/-! ### Writes -/

theorem mts_act {h : Hdr} {n : Fin 32} {a : GReg} {s : State} (c : Issues h [.g a] s)
    (f : specialFault (me s).priv true n.val = none) :
    exec (.mts h n a) s = .next (retire (specialWrite s n.val (rdG s a))) := by
  rw [exec_mts, execMts, f]; exact scalar_act s _ c
theorem mts_fault {h : Hdr} {n : Fin 32} {a : GReg} {s : State} {k : Nat} (f : specialFault (me s).priv true n.val = some k) :
    exec (.mts h n a) s = .next (raiseDec k s) := by
  rw [exec_mts, execMts, f]

/-- Where a write of a special register is ILL and where PRIV (R17, R18). -/
theorem specialFault_ill {p : Bool} {n : Nat} (h : n < 0x0A ∧ n ≠ 3 ∨ 0x0C ≤ n ∧ n < 0x10 ∨ p = true ∧ 0x15 ≤ n) :
    specialFault p true n = some cILL := by
  unfold specialFault
  rcases h with ⟨a, b⟩ | ⟨a, b⟩ | ⟨rfl, b⟩
  · simp [a, b]
  · simp [a, b, show ¬ n < 0x0A by omega]
  · simp [b, show ¬ n < 0x0A by omega, show ¬ n < 0x10 by omega]
theorem specialFault_priv {n : Nat} (h : n = 0x0A ∨ n = 0x0B ∨ 0x10 ≤ n) : specialFault false true n = some cPRIV := by
  have a : ¬ n < 0x0A := by omega
  have b : ¬ (0x0C ≤ n ∧ n < 0x10) := by omega
  simp [specialFault, a, b]
theorem specialFault_none {n : Nat} (h : n = 0x0A ∨ n = 0x0B ∨ 0x10 ≤ n) (k : n < 0x15) : specialFault true true n = none := by
  have a : ¬ n < 0x0A := by omega
  have b : ¬ (0x0C ≤ n ∧ n < 0x10) := by omega
  simp [specialFault, a, b, k]

@[simp] theorem setAtId_updSet_self (s : State) (b : Nat) (f : TSet → TSet) : setAtId (updSet s b f) b = f (setAtId s b) :=
  sread_sset_self _ _ _ _
theorem setAtId_updSet_ne (s : State) {b x : Nat} (f : TSet → TSet) (h : x ≠ b) : setAtId (updSet s b f) x = setAtId s x :=
  sread_sset_ne _ _ _ h

/-- A retirement that follows a change of the tenants, or of the sets, is a change of the acting context's record apart from it. -/
theorem sameElsewhere_retire_updTen (s : State) (t : Nat) (f : Tenant → Tenant) :
    SameElsewhere s { retire (updTen s t f) with tenants := s.tenants } := setMe_same s _
theorem sameElsewhere_retire_updSet (s : State) (b : Nat) (f : TSet → TSet) :
    SameElsewhere s { retire (updSet s b f) with sets := s.sets } := setMe_same s _

theorem tenAt_retire (s : State) (t : Nat) : tenAt (retire s) t = tenAt s t := rfl
theorem setAtId_retire (s : State) (b : Nat) : setAtId (retire s) b = setAtId s b := rfl

/-- An update of the set alone leaves the acting context's retirement as it is. -/
theorem me_retire_updSet (s : State) (b : Nat) (f : TSet → TSet) : me (retire (updSet s b f)) = me (retire s) := by
  rw [me_retire, me_retire]; rfl
theorem me_retire_updTen (s : State) (t : Nat) (f : Tenant → Tenant) : me (retire (updTen s t f)) = me (retire s) := by
  rw [me_retire, me_retire]; rfl

/-- What a write of one of pwd0 to pwd3 leaves: the window that pwin names, changed by f, and nothing else but marks of stale lines. -/
theorem updWindow_effect (s : State) (f : Window → Window) (g : (me s).grp = none) :
    let t := retire (updWindow s f)
    me t = me (retire s) ∧
    sread Window.void (setAtId t (mySetId s)).windows (me s).pwin = f (sread Window.void (mySet s).windows (me s).pwin) ∧
    (∀ i, i ≠ (me s).pwin → sread Window.void (setAtId t (mySetId s)).windows i = sread Window.void (mySet s).windows i) ∧
    { setAtId t (mySetId s) with windows := [], stale := [] } = { mySet s with windows := [], stale := [] } ∧
    (∀ b, b ≠ mySetId s → setAtId t b = setAtId s b) ∧ SameElsewhere s { t with sets := s.sets } := by
  have p : pwinOf s = (me s).pwin := by simp [pwinOf, g]
  refine ⟨me_retire_updSet .., ?_, fun i hi => ?_, ?_, fun b hb => ?_, sameElsewhere_retire_updSet ..⟩
  · rw [setAtId_retire, updWindow, setAtId_updSet_self, p]; exact sread_sset_self ..
  · rw [setAtId_retire, updWindow, setAtId_updSet_self, p]; exact sread_sset_ne _ _ _ hi
  · rw [setAtId_retire, updWindow, setAtId_updSet_self]; rfl
  · rw [setAtId_retire, updWindow, setAtId_updSet_ne s _ hb]

/-- Settles O10: the fault of each access, then each writable register by what its write leaves. -/
theorem specialRegisterWrites : Obligations.SpecialRegisterWrites := by
  unfold Obligations.SpecialRegisterWrites
  intro h n a s c g
  refine ⟨fun hn => ?_, fun hn => mts_fault (specialFault_ill hn), fun hp hn => mts_fault (hp ▸ specialFault_priv hn),
    fun hp => ⟨fun hn => ?_, fun hn => ?_, fun hn => ?_, fun hn => ?_⟩⟩
  · refine ⟨_, mts_act c (by simp [specialFault, hn]), ?_⟩
    have w : specialWrite s n.val (rdG s a) = updRegs s fun r => { r with fpcsr := rdG s a &&& 0x11F3 } := by
      simp [hn, specialWrite, updRegs, updMe, g, maskFpcsr]
    rw [w]; exact retired_updRegs s _
  · refine ⟨_, mts_act c (hp ▸ specialFault_none (by omega) (by omega)), ?_⟩
    rw [hn]
    refine ⟨me_retire_updTen .., ?_, fun u hu => ?_, sameElsewhere_retire_updTen ..⟩
    · rw [tenAt_retire, specialWrite, tenAt_updTen_self]
    · rw [tenAt_retire, specialWrite, tenAt_updTen_ne s _ hu]
  · refine ⟨_, mts_act c (hp ▸ specialFault_none (by omega) (by omega)), ?_⟩
    rw [hn]
    refine ⟨?_, (setMe_same s _).trans (setMe_same _ _)⟩
    rw [me_retire, me_retire]
    simp [specialWrite, nextSlot]
  · refine ⟨_, mts_act c (hp ▸ specialFault_none (by omega) (by omega)), ?_⟩
    rw [hn]
    refine ⟨me_retire_updSet .., ?_, fun b hb => ?_, sameElsewhere_retire_updSet ..⟩
    · rw [setAtId_retire, specialWrite, setAtId_updSet_self]; rfl
    · rw [setAtId_retire, specialWrite, setAtId_updSet_ne s _ hb]
  · refine ⟨_, mts_act c (hp ▸ specialFault_none (by omega) (by omega)), ?_⟩
    obtain ⟨lo, hi⟩ := hn
    obtain k | k | k | k : n.val = 0x10 ∨ n.val = 0x11 ∨ n.val = 0x12 ∨ n.val = 0x13 := by omega
    all_goals
      rw [k]
      obtain ⟨m, w, rest⟩ := updWindow_effect s _ g
      exact ⟨m, (congrArg Window.d0 w).trans rfl, (congrArg Window.d1 w).trans rfl, (congrArg Window.d2 w).trans rfl,
        (congrArg Window.d3 w).trans rfl, rest⟩

end Sys2Proof.Machine
end

section
namespace Sys2Proof.Machine

/-! ## Vectors, element by element (R11, R12, R123) -/

theorem joinElems_lt (w : Nat) (l : List Nat) : joinElems w l < 2 ^ (w * l.length) := by
  induction l with
  | nil => simp [joinElems]
  | cons x xs ih =>
    have hx : x % 2 ^ w < 2 ^ w := Nat.mod_lt _ (by positivity)
    calc joinElems w (x :: xs) = x % 2 ^ w + 2 ^ w * joinElems w xs := rfl
      _ < 2 ^ w + 2 ^ w * joinElems w xs := by omega
      _ = 2 ^ w * (joinElems w xs + 1) := by ring
      _ ≤ 2 ^ w * 2 ^ (w * xs.length) := Nat.mul_le_mul_left _ ih
      _ = 2 ^ (w * (x :: xs).length) := by rw [← pow_add]; congr 1; simp [Nat.mul_succ, Nat.add_comm]

theorem joinElems_elem (w : Nat) (l : List Nat) (i : Nat) (h : i < l.length) :
    joinElems w l / 2 ^ (w * i) % 2 ^ w = l[i] % 2 ^ w := by
  induction l generalizing i with
  | nil => simp at h
  | cons x xs ih =>
    cases i with
    | zero => simp [joinElems]
    | succ i =>
      have e : 2 ^ (w * (i + 1)) = 2 ^ w * 2 ^ (w * i) := by rw [← pow_add]; congr 1; ring
      have hx : x % 2 ^ w < 2 ^ w := Nat.mod_lt _ (by positivity)
      rw [joinElems, e, ← Nat.div_div_eq_div_mul, Nat.add_mul_div_left _ _ (by positivity), Nat.div_eq_of_lt hx, Nat.zero_add]
      simpa using ih i (by simpa using h)

theorem joinElems_lt_of_le {w m : Nat} {l : List Nat} (n : w * l.length ≤ m) : joinElems w l < 2 ^ m :=
  (joinElems_lt w l).trans_le (Nat.pow_le_pow_right Nat.two_pos n)

/-- Element i of a register that is filled with a list of elements. -/
theorem elem_ofNat_joinElems {w : Nat} {l : List Nat} (n : w * l.length ≤ 1024) {i : Nat} (h : i < l.length) :
    elem w (BitVec.ofNat 1024 (joinElems w l)) i = l[i] % 2 ^ w := by
  have b := joinElems_lt_of_le n
  rw [elem, BitVec.toNat_ofNat, Nat.mod_eq_of_lt b, joinElems_elem w l i h]

theorem elem_vmap (w : Nat) (g : PWord) (old : VWord) (f : Nat → Nat × Nat) :
    EachElem w g old (vmap w g old f).1 fun i => (f i).1 := by
  intro i hi
  rw [vmap, elem_ofNat_joinElems (by simpa [numElems] using Nat.mul_div_le 1024 w) (by simpa [numElems] using hi)]
  by_cases a : active g w i
  · simp [a]
  · simp [a, elem]

/-- A bit of an or over a list is set where it was or where one of the list sets it. -/
theorem testBit_foldl_or {α : Type} (f : α → Nat) (l : List α) (z b : Nat) :
    (l.foldl (fun a r => a ||| f r) z).testBit b ↔ z.testBit b ∨ ∃ r ∈ l, (f r).testBit b := by
  induction l generalizing z with
  | nil => simp
  | cons x xs ih => simp [ih, Nat.testBit_or, or_assoc]

theorem flags_vmap (w : Nat) (g : PWord) (old : VWord) (f : Nat → Nat × Nat) (b : Nat) :
    (vmap w g old f).2.testBit b ↔ ∃ i < 1024 / w, active g w i ∧ (f i).2.testBit b := by
  rw [vmap, testBit_foldl_or Prod.snd]
  simp only [Nat.zero_testBit, Bool.false_eq_true, false_or, List.mem_map, List.mem_range, numElems]
  constructor
  · rintro ⟨_, ⟨i, hi, rfl⟩, h⟩
    by_cases a : active g w i
    · exact ⟨i, hi, a, by simpa [a] using h⟩
    · simp [a] at h
  · rintro ⟨i, hi, a, h⟩
    exact ⟨_, ⟨i, hi, rfl⟩, by simpa [a] using h⟩

/-- A write of registers that raises flags and retires. -/
theorem retire_raiseFlags_updRegs (s : State) (f : Regs → Regs) (fl : Nat) :
    SameElsewhere s (retire (raiseFlags (updRegs s f) fl)) ∧
    me (retire (raiseFlags (updRegs s f) fl)) = { me s with
      regs := { f (me s).regs with fpcsr := (f (me s).regs).fpcsr ||| BitVec.ofNat 64 (fl * 16) }
      raised := (me s).raised ||| BitVec.ofNat 64 (fl * 16)
      pc := nextSlot s, turn := .issued, stage := .open, sub := 0 } := by
  refine ⟨((setMe_same s _).trans (setMe_same _ _)).trans (setMe_same _ _), ?_⟩
  simp [me_retire, raiseFlags, nextSlot]

theorem vecRetired_vmap (s : State) (w : Nat) (g : PWord) (d : VReg) (f : Nat → Nat × Nat) :
    let r := vmap w g (getV (me s).regs d) f
    VecRetired s (retire (raiseFlags (wrV s d r.1) r.2)) w g d f :=
  ⟨_, _, elem_vmap w g _ f, flags_vmap w g (getV (me s).regs d) f, retire_raiseFlags_updRegs s _ _⟩

/-- An element-wise instruction that issues gives each active element its result and raises their flags. -/
theorem vecOp_retires {t : ElemType} {d a : VReg} {b : VSrc} {c : VReg} {rs : List Rn} {f : FMode → Nat → Nat → Nat → Nat × Nat}
    {h : Hdr} {s : State} (k : VIssues h t.width (.v d :: .v a :: rs) s) :
    ∃ u, vecOp t d a b c rs f h s = .next u ∧ VecRetired s u t.width (guardBits h s) d fun i =>
      f (fmode s) (elem t.width (rdV s a) i) (vsrcElem s t b i) (elem t.width (rdV s c) i) := by
  exact ⟨_, vector_act s _ k, vecRetired_vmap s _ _ _ _⟩

/-! ### Floating operations on floating types -/

theorem isInt_of_inF {t : ElemType} (h : t.inF = true) : ElemType.isInt t = false := by cases t <;> simp_all [ElemType.inF, ElemType.isInt]
theorem isInt_of_inI {t : ElemType} (h : t.inI = true) : ElemType.isInt t = true := by cases t <;> simp_all [ElemType.inI, ElemType.isInt]

theorem intOr_of_inF {t : ElemType} (h : t.inF = true) (fi : Int → Int → Int) (ff : Fmt → FMode → Nat → Nat → Nat × Nat) :
    intOr t fi ff = floatBin ff t := by
  funext md x y
  rw [intOr, isInt_of_inF h]; rfl

/-- The binary, fused and unary forms, on the function that the type selects. -/
theorem vbinOp_retires {f : ElemType → FMode → Nat → Nat → Nat × Nat} {g : FMode → Nat → Nat → Nat × Nat} {h : Hdr} {o : VBin} {s : State}
    (e : f o.t = g) (k : VIssues h o.t.width (.v o.d :: .v o.a :: vsrcRn o.b) s) :
    ∃ t, vbinOp f h o s = .next t ∧ VecRetired s t o.t.width (guardBits h s) o.d fun i =>
      g (fmode s) (elem o.t.width (rdV s o.a) i) (vsrcElem s o.t o.b i) := by
  subst e; exact vecOp_retires k
theorem vtriOp_retires {f : ElemType → FMode → Nat → Nat → Nat → Nat × Nat} {h : Hdr} {o : VTri} {s : State}
    (k : VIssues h o.t.width (.v o.d :: .v o.a :: .v o.c :: vsrcRn o.b) s) :
    ∃ t, vtriOp f h o s = .next t ∧ VecRetired s t o.t.width (guardBits h s) o.d fun i =>
      f o.t (fmode s) (elem o.t.width (rdV s o.a) i) (vsrcElem s o.t o.b i) (elem o.t.width (rdV s o.c) i) :=
  vecOp_retires k
theorem vunOp_retires {f : ElemType → FMode → Nat → Nat × Nat} {g : FMode → Nat → Nat × Nat} {h : Hdr} {o : VUn} {s : State}
    (e : f o.t = g) (k : VIssues h o.t.width [.v o.d, .v o.a] s) :
    ∃ t, vunOp f h o s = .next t ∧ VecRetired s t o.t.width (guardBits h s) o.d fun i =>
      g (fmode s) (elem o.t.width (rdV s o.a) i) := by
  subst e; exact vecOp_retires k

/-- VABS and VNEG on a floating type are the floating operation. -/
theorem ite_isInt_of_inF {t : ElemType} (h : t.inF = true) (x : FMode → Nat → Nat × Nat) (y : FMode → Nat → Nat × Nat) :
    (fun md a => if ElemType.isInt t then x md a else y md a) = y := by
  rw [isInt_of_inF h]; rfl

/-- Settles O16: every row of the three tables is one of the three element-wise forms. -/
theorem vectorFloatingResults : Obligations.VectorFloatingResults := by
  unfold Obligations.VectorFloatingResults
  refine ⟨fun p hp h o s hf k => ?_, fun p hp h o s hf k => ?_, fun p hp h o s hf k => ?_⟩
  · simp only [vecFloats, List.mem_cons, List.not_mem_nil, or_false] at hp
    rcases hp with rfl | rfl | rfl | rfl | rfl | rfl
    · rw [exec_vadd]; exact vbinOp_retires (intOr_of_inF hf _ _) k
    · rw [exec_vsub]; exact vbinOp_retires (intOr_of_inF hf _ _) k
    · rw [exec_vmul]; exact vbinOp_retires (intOr_of_inF hf _ _) k
    · rw [exec_vdiv]; exact vbinOp_retires rfl k
    · rw [exec_vmin]; exact vbinOp_retires (intOr_of_inF hf _ _) k
    · rw [exec_vmax]; exact vbinOp_retires (intOr_of_inF hf _ _) k
  · simp only [vecFused, List.mem_cons, List.not_mem_nil, or_false] at hp
    rcases hp with rfl | rfl | rfl
    · rw [exec_vfma]; exact vtriOp_retires k
    · rw [exec_vfms]; exact vtriOp_retires k
    · rw [exec_vfnma]; exact vtriOp_retires k
  · simp only [vecUnary, List.mem_cons, List.not_mem_nil, or_false] at hp
    rcases hp with rfl | rfl | rfl | rfl | rfl
    · rw [exec_vsqrt]; exact vunOp_retires rfl k
    · rw [exec_vrcp]; exact vunOp_retires rfl k
    · rw [exec_vrsq]; exact vunOp_retires rfl k
    · rw [exec_vabs]; exact vunOp_retires (ite_isInt_of_inF hf _ _) k
    · rw [exec_vneg]; exact vunOp_retires (ite_isInt_of_inF hf _ _) k

end Sys2Proof.Machine
end

section
namespace Sys2Proof.Machine

/-! ## Comparisons and predicates (R12, R128 to R132) -/

theorem toInt_ofNat_eq_toS (w x : Nat) : (BitVec.ofNat w x).toInt = toS w x := by
  simp only [BitVec.toInt_eq_toNat_cond, BitVec.toNat_ofNat, toS]; push_cast; rfl

/-- The integer conditions are those on the numbers the elements stand for. -/
theorem condI_iff_elemCond (c : Cond) {w x y : Nat} (hx : x < 2 ^ w) (hy : y < 2 ^ w) :
    condI c w x y = true ↔ elemCond c w x y := by
  have inj : toS w x = toS w y ↔ x = y := by
    rw [← toInt_ofNat_eq_toS, ← toInt_ofNat_eq_toS, BitVec.toInt_inj, ← BitVec.toNat_inj, BitVec.toNat_ofNat, BitVec.toNat_ofNat,
      Nat.mod_eq_of_lt hx, Nat.mod_eq_of_lt hy]
  cases c <;> simp [condI, elemCond, numCond, toInt_ofNat_eq_toS, inj]

/-- The widths of the types that VCMP takes are whole bytes, and divide a register. -/
theorem width_of_vcmp {h : Hdr} {o : VCmp} (k : wf (.vcmp h o) = true) : ∃ m, o.t.width = 8 * m ∧ 0 < m ∧ m ∣ 128 := by
  have e : o.t.width ∈ [8, 16, 32, 64] := by
    rcases o with ⟨c, t, d, a, b⟩
    cases t <;> simp_all [wf, ElemType.width, ElemType.inI, ElemType.inFS]
  simp only [List.mem_cons, List.not_mem_nil, or_false] at e
  rcases e with e | e | e | e <;> rw [e]
  · exact ⟨1, by decide⟩
  · exact ⟨2, by decide⟩
  · exact ⟨4, by decide⟩
  · exact ⟨8, by decide⟩

/-- The lanes of element i of m bytes are those whose number, divided by m, is i. -/
theorem testBit_laneBits {m : Nat} (hm : 0 < m) (i b : Nat) : (laneBits (8 * m) i).testBit b = decide (b / m = i) := by
  have e : i * (8 * m) / 8 = i * m := by rw [show i * (8 * m) = 8 * (i * m) by ring]; exact Nat.mul_div_cancel_left _ (by decide)
  have lanes : b / m = i ↔ i * m ≤ b ∧ b - i * m < m := by
    rw [Nat.div_eq_iff hm]
    omega
  rw [laneBits, e, show 8 * m / 8 = m by omega, show Nat.max 1 m = m from Nat.max_eq_right hm, Nat.testBit_mul_two_pow,
    Nat.testBit_two_pow_sub_one, Bool.eq_iff_iff]
  simp [lanes]

/-- One element of a VCMP with comparison c: the lanes seen so far, those where it holds, and the flags. -/
def cmpStep (w : Nat) (g : PWord) (c : Nat → Bool × Nat) (acc : Nat × Nat × Nat) (i : Nat) : Nat × Nat × Nat :=
  if active g w i then (acc.1 ||| laneBits w i, acc.2.1 ||| (if (c i).1 then laneBits w i else 0), acc.2.2 ||| (c i).2) else acc

theorem cmpStep_foldl (w : Nat) (g : PWord) (c : Nat → Bool × Nat) (l : List Nat) (acc : Nat × Nat × Nat) (b : Nat) :
    let r := l.foldl (cmpStep w g c) acc
    (r.1.testBit b ↔ acc.1.testBit b ∨ ∃ i ∈ l, active g w i ∧ (laneBits w i).testBit b) ∧
    (r.2.1.testBit b ↔ acc.2.1.testBit b ∨ ∃ i ∈ l, active g w i ∧ (c i).1 ∧ (laneBits w i).testBit b) ∧
    (r.2.2.testBit b ↔ acc.2.2.testBit b ∨ ∃ i ∈ l, active g w i ∧ (c i).2.testBit b) := by
  induction l generalizing acc with
  | nil => simp
  | cons x xs ih =>
    obtain ⟨lanes, holds, flags⟩ := ih (cmpStep w g c acc x)
    simp only [List.foldl_cons, lanes, holds, flags, List.exists_mem_cons_iff]
    by_cases a : active g w x
    · by_cases k : (c x).1 <;> simp [cmpStep, a, k, Nat.testBit_or, or_assoc]
    · simp [cmpStep, a]

/-- The lanes, the lanes where the comparison holds, and the flags of all active elements. -/
def cmpAll (w : Nat) (g : PWord) (c : Nat → Bool × Nat) : Nat × Nat × Nat := (List.range (numElems w)).foldl (cmpStep w g c) (0, 0, 0)

theorem testBit_cmpAll_flags (w : Nat) (g : PWord) (c : Nat → Bool × Nat) (b : Nat) :
    (cmpAll w g c).2.2.testBit b ↔ ∃ i < 1024 / w, active g w i ∧ (c i).2.testBit b := by
  obtain ⟨-, -, flags⟩ := cmpStep_foldl w g c (List.range (numElems w)) (0, 0, 0) b
  simpa [cmpAll, numElems] using flags

/-- A lane of the register lies in one element. -/
theorem lane_lt_numElems {m b : Nat} (hm : 0 < m) (hd : m ∣ 128) (hb : b < 128) : b / m < numElems (8 * m) := by
  have e : numElems (8 * m) = 128 / m := by rw [numElems, ← Nat.div_div_eq_div_mul]
  rw [e, Nat.div_lt_iff_lt_mul hm, Nat.div_mul_cancel hd]
  exact hb

theorem testBit_cmpAll_lanes {m b : Nat} (hm : 0 < m) (hd : m ∣ 128) (hb : b < 128) (g : PWord) (c : Nat → Bool × Nat) :
    ((cmpAll (8 * m) g c).1.testBit b ↔ active g (8 * m) (b / m)) ∧
    ((cmpAll (8 * m) g c).2.1.testBit b ↔ active g (8 * m) (b / m) ∧ (c (b / m)).1) := by
  obtain ⟨lanes, holds, -⟩ := cmpStep_foldl (8 * m) g c (List.range (numElems (8 * m))) (0, 0, 0) b
  have n := lane_lt_numElems hm hd hb
  have own (q : Nat → Prop) : (∃ i ∈ List.range (numElems (8 * m)), q i ∧ (laneBits (8 * m) i).testBit b) ↔ q (b / m) := by
    simp only [testBit_laneBits hm, decide_eq_true_eq, List.mem_range]
    exact ⟨fun ⟨i, _, hq, e⟩ => e ▸ hq, fun hq => ⟨_, n, hq, rfl⟩⟩
  simp only [Nat.zero_testBit, Bool.false_eq_true, false_or] at lanes holds
  exact ⟨lanes.trans (own fun i => active g (8 * m) i), holds.trans (by simpa only [and_assoc] using own fun i => active g (8 * m) i ∧ (c i).1)⟩

/-- Lanes a of a predicate replaced by b. -/
theorem getLsbD_merge (old : PWord) (a b : Nat) {i : Nat} (h : i < 128) :
    ((old &&& ~~~ (BitVec.ofNat 128 a)) ||| BitVec.ofNat 128 b).getLsbD i = (old.getLsbD i && !a.testBit i || b.testBit i) := by
  simp only [BitVec.getLsbD_or, BitVec.getLsbD_and, BitVec.getLsbD_not, BitVec.getLsbD_ofNat, h, decide_true, Bool.true_and]

/-- p[d] after a VCMP. -/
def cmpBits (w : Nat) (g : PWord) (c : Nat → Bool × Nat) (old : PWord) : PWord :=
  (old &&& ~~~ (BitVec.ofNat 128 (cmpAll w g c).1)) ||| BitVec.ofNat 128 (cmpAll w g c).2.1

theorem getLsbD_cmpBits {m b : Nat} (hm : 0 < m) (hd : m ∣ 128) (hb : b < 128) (g : PWord) (c : Nat → Bool × Nat) (old : PWord) :
    (cmpBits (8 * m) g c old).getLsbD b = if active g (8 * m) (b / m) then (c (b / m)).1 else old.getLsbD b := by
  obtain ⟨lanes, holds⟩ := testBit_cmpAll_lanes hm hd hb g c
  rw [cmpBits, getLsbD_merge _ _ _ hb, Bool.eq_iff_iff]
  simp only [Bool.or_eq_true, Bool.and_eq_true, Bool.not_eq_true', ← Bool.not_eq_true, lanes, holds]
  by_cases a : active g (8 * m) (b / m) <;> simp [a]

/-- VCMP that issues. -/
theorem vcmp_retires {h : Hdr} {o : VCmp} {s : State} (w : wf (.vcmp h o) = true) (k : VIssues h o.t.width (.v o.a :: vsrcRn o.b) s) :
    let c (i : Nat) := vcond o.t (fmode s) o.c (elem o.t.width (rdV s o.a) i) (vsrcElem s o.t o.b i)
    ∃ t p fl, exec (.vcmp h o) s = .next t ∧ SameElsewhere s t ∧
      me t = { me s with
        regs := { putP (me s).regs o.d p with fpcsr := (me s).regs.fpcsr ||| BitVec.ofNat 64 (fl * 16) }
        raised := (me s).raised ||| BitVec.ofNat 64 (fl * 16)
        pc := nextSlot s, turn := .issued, stage := .open, sub := 0 } ∧
      (∀ b, fl.testBit b ↔ ∃ i < 1024 / o.t.width, active (guardBits h s) o.t.width i ∧ (c i).2.testBit b) ∧
      (∀ b < 128, p.getLsbD b =
        if active (guardBits h s) o.t.width (b / (o.t.width / 8)) then (c (b / (o.t.width / 8))).1
        else (getP (me s).regs o.d).getLsbD b) := by
  intro c
  obtain ⟨m, hw, hm, hd⟩ := width_of_vcmp w
  have e : o.t.width / 8 = m := by rw [hw]; exact Nat.mul_div_cancel_left m (by decide)
  obtain ⟨same, ctx⟩ := retire_raiseFlags_updRegs s
    (fun r => putP r o.d (cmpBits o.t.width (guardBits h s) c (getP (me s).regs o.d))) (cmpAll o.t.width (guardBits h s) c).2.2
  rw [exec_vcmp, execVcmp]
  refine ⟨_, cmpBits o.t.width (guardBits h s) c (getP (me s).regs o.d), _, vector_act s _ k, same, ctx.trans ?_,
    testBit_cmpAll_flags _ _ _, fun b hb => ?_⟩
  · rw [putP_frame]
  · rw [e, hw]; exact getLsbD_cmpBits hm hd hb _ _ _

theorem vsel_retires {h : Hdr} {o : VSelO} {s : State} (k : VIssues h o.t.width ([.v o.d, .v o.a] ++ vsrcRn o.b) s) :
    ∃ t x, exec (.vsel h o) s = .next t ∧ Retired s t (putV (me s).regs o.d x) ∧
      EachElem o.t.width (guardBits h s) (getV (me s).regs o.d) x (fun i =>
        if active (rdP s o.c) o.t.width i then elem o.t.width (rdV s o.a) i else vsrcElem s o.t o.b i) := by
  rw [exec_vsel, execVsel]
  exact ⟨_, _, vector_act s _ k, retired_updRegs s fun r => putV r o.d _, elem_vmap _ _ _ _⟩

/-- A predicate operation f that acts bit by bit as f' does. -/
theorem predOp_retires {f : PWord → PWord → PWord} {f' : Bool → Bool → Bool} {h : Hdr} {d a b : PReg} {s : State} (k : VIssues h 8 [] s)
    (bits : ∀ x y i, i < 128 → (f x y).getLsbD i = f' (x.getLsbD i) (y.getLsbD i)) :
    ∃ t p, predOp f h d a b s = .next t ∧ Retired s t (putP (me s).regs d p) ∧
      ∀ i < 128, p.getLsbD i = if (guardBits h s).getLsbD i then f' ((rdP s a).getLsbD i) ((rdP s b).getLsbD i)
        else (getP (me s).regs d).getLsbD i := by
  refine ⟨_, _, vector_act s _ k, retired_updRegs s _, fun i hi => ?_⟩
  by_cases g : (guardBits h s).getLsbD i <;> simp only [BitVec.getLsbD_or, BitVec.getLsbD_and, BitVec.getLsbD_not, bits _ _ i hi, hi, g] <;> simp

/-- The counted elements are those that are active and marked. -/
theorem mem_counted (h : Hdr) (o : VCount) (s : State) (i : Nat) :
    i ∈ counted h o s ↔ i < 1024 / o.t.width ∧ active (guardBits h s) o.t.width i ∧ active (rdP s o.a) o.t.width i := by
  simp [counted, numElems]

/-- The head of a filtered range is its least element. -/
theorem headD_filter_range (p : Nat → Bool) (n : Nat) :
    let k := ((List.range n).filter p).headD n
    ((k < n ∧ p k) ∧ ∀ i < k, ¬ (i < n ∧ p i)) ∨ (k = n ∧ ∀ i, ¬ (i < n ∧ p i)) := by
  rw [List.headD_eq_head?_getD, List.head?_filter]
  cases e : (List.range n).find? p with
  | none => exact .inr ⟨rfl, fun i ⟨hi, hp⟩ => List.find?_eq_none.mp e i (List.mem_range.mpr hi) hp⟩
  | some k =>
    obtain ⟨hp, hk, least⟩ := List.find?_range_eq_some.mp e
    exact .inl ⟨⟨List.mem_range.mp hk, hp⟩, fun i hi ⟨_, q⟩ => by simp_all⟩

/-- Settles O17: one lemma for each form. -/
theorem vectorPredicateResults : Obligations.VectorPredicateResults := by
  unfold Obligations.VectorPredicateResults
  refine ⟨fun h o s w k => ⟨fun hi x y hx hy => ?_, vcmp_retires w k⟩, fun h o s k => vsel_retires k,
    fun h o s k => ⟨?_, ?_, ?_, ?_⟩, fun h o s k => ⟨?_, ?_⟩⟩
  · rw [vcond, if_pos (isInt_of_inI hi)]; exact ⟨condI_iff_elemCond _ hx hy, rfl⟩
  · exact predOp_retires k fun x y i _ => BitVec.getLsbD_and
  · exact predOp_retires k fun x y i _ => BitVec.getLsbD_or
  · exact predOp_retires k fun x y i _ => by simp
  · obtain ⟨t, p, e, r, bits⟩ := predOp_retires (f := fun x _ => ~~~x) (f' := fun x _ => !x) (d := o.d) (a := o.a) (b := 0) k
      fun x y i hi => by simp [hi]
    exact ⟨t, p, e, r, bits⟩
  · rw [exec_vcnt, execVcnt]
    exact ⟨_, _, vector_act s _ k, retired_updRegs s fun r => putG r o.d _, counted h o s, rfl, List.nodup_range.filter _,
      mem_counted h o s⟩
  · rw [exec_vfirst, execVfirst]
    refine ⟨_, _, vector_act s _ k, retired_updRegs s fun r => putG r o.d _, ?_⟩
    have least := headD_filter_range (fun i => active (guardBits h s) o.t.width i && active (rdP s o.a) o.t.width i) (numElems o.t.width)
    simp only [Bool.and_eq_true] at least
    exact least

end Sys2Proof.Machine
end

section
namespace Sys2Proof.Machine

/-! ## Gates and guards (R22, R74, R75) -/

/-- An instruction's outcome is a decode fault, or that of the common issue with its header and guard. -/
def IssuesBy (h : Hdr) (g : Bool) (s : State) (o : Out) : Prop :=
  (∃ c, o = .next (raiseDec c s)) ∨ ∃ priv rs act, o = issue h priv rs g act s

theorem issuesBy_mfs (h : Hdr) (d : GReg) (n : Fin 32) (s : State) : IssuesBy h (guardTrue h s) s (execMfs h d n s) := by
  unfold execMfs
  cases specialFault (me s).priv false n.val with
  | some c => exact .inl ⟨c, rfl⟩
  | none => exact .inr ⟨_, _, _, rfl⟩
theorem issuesBy_mts (h : Hdr) (n : Fin 32) (a : GReg) (s : State) : IssuesBy h (guardTrue h s) s (execMts h n a s) := by
  unfold execMts
  cases specialFault (me s).priv true n.val with
  | some c => exact .inl ⟨c, rfl⟩
  | none => exact .inr ⟨_, _, _, rfl⟩

/-- The guard of an instruction, true where it may act. -/
def guardOf (i : Instr) (h : Hdr) (s : State) : Bool :=
  match vecWidth i with
  | some w => (List.range (1024 / w)).any (active (guardBits h s) w)
  | none => guardTrue h s

theorem guardOf_false {i : Instr} {h : Hdr} {s : State} (f : GuardFalse i h s) : guardOf i h s = false := by
  unfold GuardFalse at f
  unfold guardOf
  cases e : vecWidth i with
  | some w =>
    rw [e] at f
    simpa using f
  | none =>
    rw [e] at f
    simpa [guardTrue] using f

/-- Every instruction with a header goes through the common issue. Each names the form that hands it on (scalar, vector, privileged …), so the
definitions between `exec` and `issue` are unfolded, and the two sides are the same term. -/
theorem exec_issuesBy (i : Instr) (h : Hdr) (s : State) (e : headerOf i = some h) : IssuesBy h (guardOf i h s) s (exec i s) := by
  cases i <;> cases e
  case mfs => exact issuesBy_mfs _ _ _ _
  case mts => exact issuesBy_mts _ _ _ _
  all_goals
    delta exec guardOf vecWidth
    dsimp only
    delta execBrk execTrap execAdd execSub execMul execMulh execMulhn execDiv execDivn execRem execRemn execAnd execOr
      execXor execAndn execShl execShr execSha execRol execMin execMax execMinn execMaxn execAbs execCmpp execSetc
      execClz execCtz execPopc execBrev execBswap execBfx execBfxn execBfi execSel execMov execLi execLih execMfb
      execMtb execMfp execMtp execLea execBr execBc execBcmp execLoop execCall execJmp execJmpl execRet execVadd
      execVsub execVmul execVfma execVfms execVfnma execVdiv execVsqrt execVrcp execVrsq execVmin execVmax execVabs
      execVneg execVmulh execVadds execVsubs execVand execVor execVxor execVandn execVshl execVshr execVsha execVcmp
      execVsel execPand execPor execPxor execPnot execVcnt execVfirst execVpermb execVperm execVshuf execVbcast
      execVext execVins execVidx execVmov execVslide execVred execVscan execVdot4 execVxaccClr execVxaccAdd
      execVxaccRd execVcvt execLd execSt execLdq execStq execLdv execStv execLdvs execStvs execGath execScat execLdfe
      execStfe execFestat execSetmark execGetmark execPref execInvl execFence execDrain execAmo execAmof execCas
      execCas2 execVamo execWaitb execBar execBara execBarw execCradd execCrtake execCrtry execCrstat execCrinit
      execCrinitUnbind execChsend execChnext execChhold execChready execChbind execChbindUnbind execHire execHstat
      execHdrop execShpush execStc execStcm execFreeb execGlean execWkick execMcall execSpawn execReap execExit
      execSusp execResume execYield execShoot execFairctlResume execFairctlDrop execFairctlStat execSwapctlWindow
      execSwapctlTheta execSwapctlEnable execSwapctlRead aluRow bitRow predOp vbitOp vbinOp vtriOp vunOp vecOp
      scalarStore chanBind chanBit scalar vector privileged stewardOnly wainOnly
    exact .inr ⟨_, _, _, rfl⟩

/-- An issue that its gate or its guard stops: a decode fault, a turn at the gate, or a retirement without effect. -/
theorem issuesBy_stopped {h : Hdr} {g : Bool} {s : State} {o : Out} (i : IssuesBy h g s o) (stop : gateClear h s = false ∨ g = false) :
    (∃ c, o = .next (raiseDec c s)) ∨ o = .next (gateTurn s) ∨
      (gateClear h s = true ∧ ∃ t, o = .next t ∧ Retired s t (me s).regs) := by
  rcases i with fault | ⟨priv, rs, act, rfl⟩
  · exact .inl fault
  cases priv with
  | true => exact .inl ⟨_, issue_priv s act⟩
  | false =>
    cases budget : rs.all (inBudget (me s).budget) with
    | false => exact .inl ⟨_, issue_budget s act budget⟩
    | true =>
      cases gate : gateClear h s with
      | false => exact .inr (.inl (issue_gate s act budget gate))
      | true =>
        obtain rfl : g = false := by simpa [gate] using stop
        exact .inr (.inr ⟨rfl, _, issue_guard s act budget gate, retired_retire s⟩)

/-! ## The packet of a fault (R374 to R376) -/

/-- What a report of an agent without older packets does to those that hold or take it, given the set's route. -/
theorem takeLost_lost (s : State) (b a : Nat) : sread 0 (setAtId (takeLost s b a) b).lost a = 0 := by
  unfold takeLost
  split
  · assumption
  · rw [setAtId_updSet_self]; exact sread_sdel_self ..
theorem takeLost_held (s : State) (b a : Nat) : (setAtId (takeLost s b a) b).held = (setAtId s b).held := by
  unfold takeLost
  split
  · rfl
  · rw [setAtId_updSet_self]
theorem takeLost_others (s : State) {b x : Nat} (a : Nat) (h : x ≠ b) : setAtId (takeLost s b a) x = setAtId s x := by
  unfold takeLost
  split
  · rfl
  · exact setAtId_updSet_ne s _ h
theorem takeLost_tenants (s : State) (b a : Nat) : (takeLost s b a).tenants = s.tenants := by
  unfold takeLost; split <;> rfl

section
variable {s : State} {b : Nat} (a : Nat) (r : Report)

/-- Where the hayward has room it takes the packet, and with it the count of those it had no room for. -/
theorem holdReport_room (room : (setAtId s b).held.length < Config.haywardPackets) :
    holdReport s b a r = updSet (takeLost s b a) b fun x => { x with held := x.held ++ [(a, withLost r (lostAt s b a))] } := by
  simp only [holdReport, if_pos room]
theorem holdReport_held (room : (setAtId s b).held.length < Config.haywardPackets) :
    (setAtId (holdReport s b a r) b).held = (setAtId s b).held ++ [(a, withLost r (lostAt s b a))] := by
  rw [holdReport_room a r room, setAtId_updSet_self, takeLost_held]
theorem holdReport_lost (room : (setAtId s b).held.length < Config.haywardPackets) :
    sread 0 (setAtId (holdReport s b a r) b).lost a = 0 := by
  rw [holdReport_room a r room, setAtId_updSet_self]; exact takeLost_lost s b a
theorem holdReport_others (room : (setAtId s b).held.length < Config.haywardPackets) {x : Nat} (h : x ≠ b) :
    setAtId (holdReport s b a r) x = setAtId s x := by
  rw [holdReport_room a r room, setAtId_updSet_ne _ _ h, takeLost_others s a h]
theorem holdReport_tenants : (holdReport s b a r).tenants = s.tenants := by
  obtain ⟨y, e⟩ := holdReport_eq s b a r
  rw [e]
end

/-- A report fares as `Sends` says, where byStew names the route's own steward. -/
theorem sends_report (s : State) (b a : Nat) (byStew : Bool) (own : Nat → Prop) (r : Report)
    (mine : ∀ d c, routeOf s b = some (d, c) → ¬ own d → byStew = false) : Sends s (report s b a byStew r) b a own r := by
  intro lost hq
  refine ⟨fun d c route room other older => ?_, fun route held => ?_⟩
  · have e : report s b a byStew r =
        { sendReport s b a d c (withLost r lost) with reports := sset (sendReport s b a d c (withLost r lost)).reports a ([], 0) } := by
      simp [report, hq, route, room, mine d c route other, older]
    rw [e]
    refine ⟨?_, takeLost_held s b a, sread_sset_self .., takeLost_lost s b a, fun x hx => takeLost_others s a hx⟩
    have t : tenAt (takeLost s b a) d = tenAt s d := by simp only [tenAt, takeLost_tenants]
    show (chanOf (tenAt (sendReport s b a d c (withLost r lost)) d) c).q = _
    rw [sendReport, pushReport, setChan, tenAt_updTen_self, chanOf, sread_sset_self, t]; rfl
  · have e : report s b a byStew r =
        { holdReport s b a (withLost r lost) with reports := sset (holdReport s b a (withLost r lost)).reports a ([], 0) } := by
      simp [report, hq, route]
    rw [e]
    exact ⟨holdReport_held a _ held, fun d => congrArg (fun x => (sread Tenant.empty x d).chans) (holdReport_tenants a _),
      sread_sset_self .., holdReport_lost a _ held, fun x hx => holdReport_others a _ held hx⟩

/-- Without a route no channel takes a packet. -/
theorem report_tenants (s : State) (b a : Nat) (byStew : Bool) (r : Report) (route : routeOf s b = none) :
    (report s b a byStew r).tenants = s.tenants := by
  simp only [report, route]
  split
  · obtain ⟨x, e⟩ := queueReport_eq s a r
    rw [e]
  · simp [holdReport_tenants]

/-- The acting context is the steward that the set's route names. -/
def stewardOfRoute (s : State) : Bool :=
  s.cur.2 == 0 && (routeOf s (mySetId s)).any fun x => x.1 == myTen s

/-- The report of a fault of the acting context, once its record has changed by f. -/
theorem faultReport_updMe (s : State) (f : Context → Context) (code slot aux addr : Nat) :
    faultReport (updMe s f) s.cur.1 s.cur.2 code slot aux addr =
      report (updMe s f) (mySetId s) (agCroft s.cur.1) (stewardOfRoute s)
        (mkReport code s.cur.2 s.cur.1 0 (myTen s) slot (f (me s)).runseq aux addr) := by
  have ctx : ctxAt (updMe s f) s.cur.1 s.cur.2 = f (me s) := me_updMe s f
  have ten : (croftAt (updMe s f) s.cur.1).tenant = (myCroft s).tenant := by
    have same := congrArg Croft.tenant (setMe_same s (f (me s))).croft
    exact same
  have route : routeOf (updMe s f) (mySetId s) = routeOf s (mySetId s) := rfl
  have id : (tenAt (updMe s f) (myTen s)).set = mySetId s := rfl
  rw [faultReport, ctx, ten]
  simp only [show (myCroft s).tenant.getD 0 = myTen s from rfl, id, route, stewardOfRoute]
  cases routeOf s (mySetId s) <;> rfl

/-- A fault of the slot being issued sends its packet, and leaves the tenants alone where the set has no route. -/
theorem reported_raiseAs (s : State) (turn : Turn) (code aux addr : Nat) : Reported s (raiseAs turn code aux addr s) code aux addr := by
  have e := faultReport_updMe s (fun k => { k with
    mode := .frozen, pc := baseSlot s, stage := .open, sub := 0, await := none, fetched := none, wins := none })
    code (thisSlot s) aux addr
  have frozen : freezeAt s s.cur.1 s.cur.2 code (thisSlot s) (baseSlot s) aux addr = _ := e
  rw [raiseAs, frozen]
  refine ⟨sends_report (updMe s _) _ _ (stewardOfRoute s) _ _ fun d c route other => ?_, report_tenants (updMe s _) _ _ _ _⟩
  have route : routeOf s (mySetId s) = some (d, c) := route
  simpa [stewardOfRoute, route, not_and] using other

/-! ## A pair of moves (R68) -/

/-- Within a pair an instruction reads the registers that the pair found. -/
theorem src_of_grp {s u : State} {g : Group} (gu : (me u).grp = some g) (regs : g.regs = (me s).regs) (gs : (me s).grp = none) :
    src u = src s := by
  simp [src, gu, gs, regs]

/-- What issues before a pair issues in a slot of it: the counts and the guard are those that the pair found. -/
theorem issues_in_pair {s u : State} {b : Bool} {h : Hdr} {rs : List Rn} (gs : (me s).grp = none) (c : Issues h rs s)
    (gu : (me u).grp = some { groupOf s with high := b }) (budget : (me u).budget = (me s).budget)
    (stage : (me u).stage = (me s).stage) (sub : (me u).sub = (me s).sub) : Issues h rs u := by
  have regs : src u = src s := src_of_grp gu rfl gs
  have count : srcCount u h.gate.val = srcCount s h.gate.val := by simp [srcCount, gu, gs, groupOf, countOf]
  obtain ⟨cb, cg, ck⟩ := c
  exact ⟨by rw [budget]; exact cb, by rw [gateClear, stage, sub, count]; exact cg, by rw [guardTrue, rdP, regs]; exact ck⟩

/-- A move in a slot of a pair that begins in s. -/
theorem mov_in_pair {s u : State} {b : Bool} {h : Hdr} {d a : GReg} (gs : (me s).grp = none) (c : Issues h [.g d, .g a] s)
    (gu : (me u).grp = some { groupOf s with high := b }) (budget : (me u).budget = (me s).budget)
    (stage : (me u).stage = (me s).stage) (sub : (me u).sub = (me s).sub) :
    ∃ t, exec (.mov h d a) u = .next t ∧ SameElsewhere u t ∧
      me t = { me u with
        regs := putG (me u).regs d (rdG s a), pc := nextOf (nextOf (me s).pc), turn := .issued, stage := .open, sub := 0 } := by
  have read : rdG u a = rdG s a := by rw [rdG, rdG, src_of_grp gu rfl gs]
  have next : nextSlot u = nextOf (nextOf (me s).pc) := by simp [nextSlot, gu, groupOf]
  obtain ⟨same, ctx⟩ := retired_updRegs u fun r => putG r d (rdG u a)
  rw [exec_mov, execMov]
  exact ⟨_, scalar_act u _ (issues_in_pair gs c gu budget stage sub), same, ctx.trans (by rw [read, next])⟩

/-- The state in which the higher slot of a running context issues, on what the lower one left (R68). -/
def secondSlot (s : State) (g : Group) (l : State) : State :=
  updMe (inGroup l g true) fun k => if k.mode = .running then atStage s k else k

/-- Both slots of a pair whose context stays in the rotation: the lower, then the higher on what the lower left. -/
theorem runBoth_running {s l u : State} {g : Group} {lo hi : Option Instr} (word : Nat) (late : Option Late)
    (el : runSlot lo (inGroup s g false) = .next l) (runl : (me l).mode = .running) (apart : landsOnWrite lo hi = false)
    (eu : runSlot hi (secondSlot s g l) = .next u) (runu : (me u).mode = .running) :
    runBoth s g lo hi word late = .next (outGroup (setMe u (shadowPair g s (secondSlot s g l) (me u)))) := by
  simp only [runBoth, el, runl, apart]
  rw [← secondSlot]
  simp [eu, updMe, runu]

/-- Two moves that issue as a pair. -/
theorem issuePair_movs {s : State} {lo hi : Nat} {h k : Hdr} {d a e b : GReg} (gs : (me s).grp = none) (run : (me s).mode = .running)
    (dlo : decode lo = some (.mov h d a)) (dhi : decode hi = some (.mov k e b))
    (clo : Issues h [.g d, .g a] s) (chi : Issues k [.g e, .g b] s) :
    ∃ t, issuePair s lo hi = .next t ∧
      Passed s t (putG (putG (me s).regs d (rdG s a)) e (rdG s b)) (nextOf (nextOf (me s).pc)) (me s).tgt := by
  have ingroup (u : State) (high : Bool) : me (inGroup u (groupOf s) high) = { me u with grp := some { groupOf s with high := high } } :=
    me_updMe ..
  -- each slot alone
  obtain ⟨l, el, samel, ml⟩ := mov_in_pair (u := inGroup s (groupOf s) false) (b := false) gs clo (by rw [ingroup]) (by rw [ingroup])
    (by rw [ingroup]) (by rw [ingroup])
  obtain ⟨v, ev, -, mv⟩ := mov_in_pair (u := inGroup s (groupOf s) true) (b := true) gs chi (by rw [ingroup]) (by rw [ingroup])
    (by rw [ingroup]) (by rw [ingroup])
  rw [ingroup] at ml mv
  -- the higher slot on what the lower one left
  let m := secondSlot s (groupOf s) l
  have mm : me m = { me l with grp := some { groupOf s with high := true }, stage := (me s).stage, sub := (me s).sub } := by
    simp [m, secondSlot, ingroup, ml, run, atStage]
  obtain ⟨u, eu, sameu, mu⟩ := mov_in_pair (u := m) (b := true) gs chi (by rw [mm]) (by rw [mm, ml]) (by rw [mm]) (by rw [mm])
  have runl : (me l).mode = .running := by rw [ml]; exact run
  have runu : (me u).mode = .running := by rw [mu, mm, ml]; exact run
  have keeps : shadowPair (groupOf s) s m (me u) = me u := by
    have start : (me m).runStart = (me s).runStart := by rw [mm, ml]
    have seq : (me m).runseq = (me s).runseq := by rw [mm, ml]
    simp [shadowPair, start, seq]
  have both : bothSlots s (groupOf s) (some (.mov h d a)) (some (.mov k e b)) hi = .next (outGroup (setMe u (me u))) := by
    rw [bothSlots, runBoth_running (lo := some (.mov h d a)) (hi := some (.mov k e b)) (g := groupOf s) hi none el runl rfl eu runu,
      keeps]; rfl
  refine ⟨outGroup (setMe u (me u)), ?_, ?_, ?_⟩
  · simp only [issuePair, dlo, dhi, runSlot, el, ev, ml, mv, pairTurn, both]
    simp
  · have toM : SameElsewhere l m := (setMe_same l _).trans (setMe_same _ _)
    have out : SameElsewhere u (outGroup (setMe u (me u))) := (setMe_same u _).trans (setMe_same _ _)
    exact ((((setMe_same s _).trans samel).trans toM).trans sameu).trans out
  · have o : me (outGroup (setMe u (me u))) = { me u with grp := none } := by rw [outGroup, me_updMe, me_setMe]
    rw [o, mu, mm, ml, ← gs]

/-- Settles O55: what the common issue does without acting, the freeze and its packet, and the pair of moves. -/
theorem issueAndFaultEntry : Obligations.IssueAndFaultEntry := by
  unfold Obligations.IssueAndFaultEntry
  refine ⟨fun i h s e stop => issuesBy_stopped (exec_issuesBy i h s e) (stop.imp_right guardOf_false),
    fun turn code aux addr s => ⟨froze_raiseAs s turn code aux addr, reported_raiseAs s turn code aux addr⟩,
    fun s lo hi h k d a e b gs run _ _ dlo dhi clo chi => issuePair_movs gs run dlo dhi clo chi⟩

end Sys2Proof.Machine
end

section
namespace Sys2Proof.Machine

/-! ## The words of a turn (R66, R70, R77) -/

/-- A context that a decode fault froze keeps no words. -/
theorem keepFetched_raiseDec (lo : Nat) (hi : Option Nat) (ws : Sparse Window) (c : Nat) (s : State) :
    keepFetched lo hi ws (raiseDec c s) = raiseDec c s := by
  have frozen := (froze_raiseDec (s := s) c).ctx
  simp [keepFetched, goesOn, frozen]

theorem issueWords_slot (u : State) (w : Nat) : issueWords u w none = issuesAs u w := by
  unfold issueWords issuesAs
  cases decode w with
  | none => simp [runSlot, keepFetched_raiseDec]
  | some j => rfl

theorem issueWords_pair (u : State) (lo hi : Nat) : issueWords u lo (some hi) = pairIssuesAs u lo hi := rfl

/-- The parity checks of a line leave every context as it is. -/
theorem me_passed (u : State) (l : ILine) (i : Nat) (paired : Bool) : me (passed u l i paired) = me u := by
  simp [passed, me, ctxAt, myCroft]

/-- A line's checks pass for slot i, or for the pair of slots that begins there. -/
structure LinePasses (l : ILine) (i : Nat) (paired : Bool) : Prop where
  line : l.checked = true ∨ (lineParity l.data = true ∧ lineOk l.data = true)
  slot : slotParity l.data i = true
  pairs : pairBit l.data i = paired
  second : paired = true → slotParity l.data (i + 1) = true ∧ pairOk (slotWord l.data i) (slotWord l.data (i + 1)) = true

/-- An issue from a line whose checks pass depends on what the transfer that reached it owes alone. -/
theorem issueFrom_passed {u : State} {l : ILine} {i : Nat} {paired : Bool} (at_ : (me u).pc % 64 / 12 = i)
    (checks : LinePasses l i paired) :
    issueFrom u l =
      if (me u).tgt.isSome && !tgtBit l.data i then
        .next (fetchFault (passed u l i paired) cBTGT (me u).pc ((me u).tgt.getD 0) (me u).pc)
      else issueWords (passed u l i paired) (slotWord l.data i) (if paired then some (slotWord l.data (i + 1)) else none) := by
  obtain ⟨line, slot, pairs, two⟩ := checks
  have parity : (!l.checked && !lineParity l.data) = false := by rcases line with c | ⟨p, -⟩ <;> simp [*]
  have rules : (!l.checked && !lineOk l.data) = false := by rcases line with c | ⟨-, o⟩ <;> simp [*]
  have second : (paired && !slotParity l.data (i + 1)) = false := by cases paired <;> simp [two]
  have words : (paired && !pairOk (slotWord l.data i) (slotWord l.data (i + 1))) = false := by cases paired <;> simp [two]
  unfold issueFrom
  simp only [at_, parity, rules, slot, pairs, second, words, me_passed]
  cases (me u).tgt <;> simp

theorem issueFrom_ready {u : State} {l : ILine} {i : Nat} {paired : Bool} (at_ : (me u).pc % 64 / 12 = i)
    (checks : LinePasses l i paired) (ready : (me u).tgt = none ∨ tgtBit l.data i = true) :
    issueFrom u l =
      issueWords (passed u l i paired) (slotWord l.data i) (if paired then some (slotWord l.data (i + 1)) else none) := by
  rw [issueFrom_passed at_ checks, if_neg]
  rcases ready with none | marked <;> simp [*]

theorem issueFrom_unmarked {u : State} {l : ILine} {i x : Nat} {paired : Bool} (at_ : (me u).pc % 64 / 12 = i)
    (checks : LinePasses l i paired) (owes : (me u).tgt = some x) (unmarked : tgtBit l.data i = false) :
    issueFrom u l = .next (fetchFault (passed u l i paired) cBTGT (me u).pc x (me u).pc) := by
  simp [issueFrom_passed at_ checks, owes, unmarked]

/-! ## The cycle of a croft (R217) -/

/-- The state in which croft c takes its next cycle: the cycle counted, its owner the acting context, the schedule moved on. -/
def cycleStart (s : State) (c : Nat) : State :=
  { setCroft s c { croftAt s c with cyc := (croftAt s c).cyc + 1 } with
    cur := (c, (croftAt s c).cyc.toNat % 16), sched := s.sched.tail }

theorem ctxAt_cycleStart (s : State) (c i : Nat) : ctxAt (cycleStart s c) c i = ctxAt s c i := by
  show (sread Context.empty (croftAt (setCroft s c _) c).ctxs i) = _
  rw [croftAt_setCroft_self]; rfl
theorem me_cycleStart (s : State) (c : Nat) : me (cycleStart s c) = ctxAt s c ((croftAt s c).cyc.toNat % 16) :=
  ctxAt_cycleStart s c _
theorem icache_cycleStart (s : State) (c : Nat) : (myCroft (cycleStart s c)).icache = (croftAt s c).icache := by
  show (croftAt (setCroft s c _) c).icache = _
  rw [croftAt_setCroft_self]

/-- A step of a croft: its owner's turn where it is ready, else a bubble. -/
theorem step_cycle {s : State} {c : Nat} (first : pressing s = none) (on : s.power = .on)
    (names : s.sched = [] ∧ s.cur.1 = c ∨ ∃ ms, s.sched = .cycle c :: ms) :
    step s = if (ctxAt s c ((croftAt s c).cyc.toNat % 16)).mode = .running && (croftAt s c).tenant.isSome &&
        !(croftAt s c).stopped then turnOf (cycleStart s c) else .next (cycleStart s c) := by
  have cycle : step s = cycleCroft { s with sched := s.sched.tail } c := by
    rcases names with ⟨none, rfl⟩ | ⟨ms, some⟩
    · have same : { s with sched := s.sched.tail } = s := by cases s; simp_all
      simp only [step, first, none]
      rw [← none, same]
    · simp [step, first, some, agentStep, on]
  rw [cycle, ← ctxAt_cycleStart]
  have powered : ¬ (({ s with sched := s.sched.tail } : State).power != .on) = true := by simp [on]
  rw [cycleCroft, if_neg powered]
  rfl

theorem turnOf_fetched {u : State} {lo : Nat} {hi : Option Nat} (f : (me u).fetched = some (lo, hi)) :
    turnOf u = issueWords u lo hi := by
  simp [turnOf, f]

theorem turnOf_perm {u : State} (f : (me u).fetched = none)
    (x : rightAt (mySet u).windows Window.x ((me u).pc / 64 * 64) = false) :
    turnOf u = .next (fetchFault u cPERM (me u).pc 0 (me u).pc) := by
  simp [turnOf, f, x]

theorem turnOf_line {u : State} {l : ILine} (f : (me u).fetched = none)
    (x : rightAt (mySet u).windows Window.x ((me u).pc / 64 * 64) = true) (slot : slotOk (me u).pc = true)
    (line : (myCroft u).icache.find? (fun x => x.la == (me u).pc / 64) = some l) : turnOf u = issueFrom u l := by
  simp [turnOf, f, x, slot, line]

/-! ## The other agents -/

/-- The step of an agent that a schedule names moves the schedule on. -/
theorem step_named {s : State} {m : Sched} {ms : List Sched} (first : pressing s = none) (names : s.sched = m :: ms) :
    step s = agentStep { s with sched := ms } m := by
  simp [step, first, names]

theorem agentStep_on {u : State} (on : u.power = .on) (m : Sched) :
    agentStep u m = match m with
      | .cycle c => cycleCroft u c
      | .lomwen i => lomwenStep u i
      | .mill g => millStep u g
      | .fetch q j => .next (fetchPacket u q j)
      | .issue q => issueStep u q
      | .ring f j => .next (if dieUp u (f % 8) then ringService u f j else u)
      | .mailbox => mailboxStep u
      | .event i arg => if canHappen { u with arg := arg } i then exec i { u with arg := arg } else .next u := by
  simp only [agentStep, on]
  rfl

/-- Without power no event happens but those of power (R398). -/
theorem canHappen_off {u : State} {i : Instr} (off : u.power ≠ .on) (good : i ≠ .powerGood) (loss : i ≠ .powerLoss) :
    canHappen u i = false := by
  have dead : isPower i = false := by
    unfold isPower
    split <;> simp_all
  simp [canHappen, off, dead]

theorem millStep_runs {u : State} {g : Nat} {i : Instr} (up : dieUp u (g / 32) = true) (call : (chanAt u g).mill.call ≠ none)
    (going : (chanAt u g).mill.wait = false) (word : decodeMicro (microWord u g).toNat = some i) :
    millStep u g = exec i { u with unit := g } := by
  simp [millStep, up, call, going, word]

theorem lomwenStep_up {u : State} {k : Nat} (core : k < 18) (up : lomwenUp u k = true) :
    lomwenStep u k =
      match (if lomReach (lomAt u k).pc.toNat 4 then decodeLm (lomLoad { u with unit := k } (lomAt u k).pc.toNat 4) else none) with
      | some j => exec j { u with unit := k }
      | none => rvStep { u with unit := k } := by
  have inside : ¬ Config.lomwens ≤ k := Nat.not_le.mpr core
  have up' : (!lomwenUp { u with unit := k } k) = false := by rw [show lomwenUp { u with unit := k } k = true from up]; rfl
  simp only [lomwenStep, inside, up']
  rfl

theorem lomwenStep_custom {u : State} {k : Nat} {i : Instr} (core : k < 18) (up : lomwenUp u k = true)
    (reach : lomReach (lomAt u k).pc.toNat 4 = true)
    (word : decodeLm (lomLoad { u with unit := k } (lomAt u k).pc.toNat 4) = some i) :
    lomwenStep u k = exec i { u with unit := k } := by
  simp only [lomwenStep_up core up, reach, if_true, word]
theorem lomwenStep_base {u : State} {k : Nat} (core : k < 18) (up : lomwenUp u k = true)
    (reach : lomReach (lomAt u k).pc.toNat 4 = true)
    (word : decodeLm (lomLoad { u with unit := k } (lomAt u k).pc.toNat 4) = none) :
    lomwenStep u k = rvStep { u with unit := k } := by
  simp only [lomwenStep_up core up, reach, if_true, word]

theorem lomwenStep_down {u : State} {k : Nat} (core : k < 18) (down : lomwenUp u k = false) :
    lomwenStep u k = .next { u with unit := k } := by
  have inside : ¬ Config.lomwens ≤ k := Nat.not_le.mpr core
  have down' : (!lomwenUp { u with unit := k } k) = true := by rw [show lomwenUp { u with unit := k } k = false from down]; rfl
  simp only [lomwenStep, inside, down']
  rfl

theorem lomwenUp_iff (u : State) (k : Nat) :
    lomwenUp u k = true ↔ u.mgmt.stb = true ∧ (16 ≤ k ∨ u.mgmt.stage ≠ 2 ∨ u.mgmt.dies.getLsbD (k / 2) = true) := by
  simp [lomwenUp, dieUp, or_assoc]

theorem issueStep_packet {u : State} {q : Nat} {i : Instr} {p : Cursor}
    (at_ : nth (queueAt u q).items (queueAt u q).ip = some (.pkt i p)) : issueStep u q = exec i { u with unit := q } := by
  have at' : nth (queueAt { u with unit := q } q).items (queueAt { u with unit := q } q).ip = some (.pkt i p) := at_
  simp only [issueStep, at']

theorem mailboxStep_request {u : State} {i : Instr} (pending : u.mailbox.pending = true)
    (going : (funcAt u (u.mailbox.req[0].toNat / 256 % 128)).stopping = false)
    (word : decodeRequest u.mailbox.req = some i) : mailboxStep u = exec i u := by
  simp [mailboxStep, pending, going, word]

/-- Settles O56: the step of each agent, by its definition; of a croft, by what its turn does. -/
theorem stepRuns : Obligations.StepRuns := by
  unfold Obligations.StepRuns
  refine ⟨?pressing, ?cycle, ?unpowered, ?mill, ?lomwen, ?lomwenIdle, ?issue, ?mailbox, ?event, ?noEvent⟩
  case pressing => intro s i arg p; simp [step, p]
  case cycle =>
    intro s c l first on names n u i v
    have mine : me u = ctxAt s c n := me_cycleStart s c
    have cache : (myCroft u).icache = (croftAt s c).icache := icache_cycleStart s c
    refine ⟨fun bubble => ?_, fun run owned going => ?_⟩
    · rw [step_cycle first on names, if_neg]
      · rfl
      · intro ready
        simp only [Bool.and_eq_true, decide_eq_true_eq, Option.isSome_iff_ne_none] at ready
        obtain ⟨⟨run, owned⟩, going⟩ := ready
        rcases bubble with b | b | b
        · exact b run
        · exact owned b
        · simp [b] at going
    have turn : step s = turnOf u := by
      rw [step_cycle first on names, if_pos]
      · rfl
      · simp [run, Option.isSome_iff_ne_none, owned, going, n]
    rw [turn, ← mine, ← cache]
    refine ⟨fun w f => ?_, fun lo hi f => turnOf_fetched f, fun f => ⟨turnOf_perm f, fun x slot line checked parity => ?_⟩⟩
    · rw [turnOf_fetched f, issueWords_slot]
    rw [turnOf_line f x slot line]
    refine ⟨fun single => ?_, fun pair second rules ready => ?_⟩
    · have checks : LinePasses l i false := ⟨checked, parity, single, nofun⟩
      exact ⟨fun ready => (issueFrom_ready rfl checks ready).trans (issueWords_slot _ _),
        fun y owes unmarked => issueFrom_unmarked rfl checks owes unmarked⟩
    · exact issueFrom_ready rfl ⟨checked, parity, pair, fun _ => ⟨second, rules⟩⟩ ready
  case unpowered =>
    intro s m ms first off names power
    rw [step_named first names]
    cases m with
    | event i arg =>
      obtain ⟨good, loss⟩ := power i arg rfl
      have cannot : canHappen { s with sched := ms, arg := arg } i = false := canHappen_off off good loss
      simp [agentStep, cannot]
    | _ => simp [agentStep, off]
  case mill =>
    intro s g ms i first on names up call going word
    rw [step_named first names, agentStep_on (u := { s with sched := ms }) on]
    exact millStep_runs (u := { s with sched := ms }) up call going word
  case lomwen =>
    intro s k ms first on names core stb up u pc
    have runs : lomwenUp { s with sched := ms } k = true := (lomwenUp_iff _ k).mpr ⟨stb, up⟩
    have step_eq : step s = lomwenStep { s with sched := ms } k := by
      rw [step_named first names, agentStep_on (u := { s with sched := ms }) on]
    rw [step_eq]
    exact ⟨fun i reach word => lomwenStep_custom core runs reach word, fun reach word => lomwenStep_base core runs reach word⟩
  case lomwenIdle =>
    intro s k ms first on names core idle
    have down : lomwenUp { s with sched := ms } k = false := by
      rw [← Bool.not_eq_true, lomwenUp_iff]
      rintro ⟨stb, up⟩
      rcases idle with off | ⟨low, stage, dead⟩
      · exact Bool.false_ne_true (off.symm.trans stb)
      · rcases up with high | early | alive
        · omega
        · exact early stage
        · exact Bool.false_ne_true (dead.symm.trans alive)
    rw [step_named first names, agentStep_on (u := { s with sched := ms }) on]
    exact lomwenStep_down core down
  case issue =>
    intro s q ms i p first on names packet
    rw [step_named first names, agentStep_on (u := { s with sched := ms }) on]
    exact issueStep_packet (u := { s with sched := ms }) packet
  case mailbox =>
    intro s ms i first on names pending going word
    rw [step_named first names, agentStep_on (u := { s with sched := ms }) on]
    exact mailboxStep_request (u := { s with sched := ms }) pending going word
  case event =>
    intro s ms i arg first names can
    simp [step_named first names, agentStep, can]
  case noEvent =>
    intro s ms i arg first names cannot
    simp [step_named first names, agentStep, cannot]

end Sys2Proof.Machine
end

section
namespace Sys2Proof.Machine

/-! ## The check of one element (R147, R148, R378) -/

theorem checkEl_denied {s : State} {nd : Need} {sp : Space} {a n x : Nat} (d : Denied s nd.right nd.debug nd.virt sp a n x) :
    checkEl s nd sp a n = .error (cPERM, x) := by
  unfold Denied at d
  unfold checkEl
  rcases h : placeOf sp a with _ | p <;> rw [h] at d
  · rw [show x = a from d]
  · obtain ⟨rfl, bad⟩ := d
    cases p with
    | own off => simp only [placeOk, Nat.not_le.mpr bad]; rfl
    | rem t off => rcases bad with past | out <;> simp [placeOk, *]
    | dbg t off => rcases bad with form | past | out <;> simp [placeOk, *]
    | virt va => rcases bad with form | out <;> simp [placeOk, *]

/-- An element that a form without debug windows is not denied passes its check. -/
theorem checkEl_admitted {s : State} {nd : Need} {sp : Space} {a n : Nat}
    (ok : ∀ y, ¬ Denied s nd.right false nd.virt sp a n y) : ∃ p, checkEl s nd sp a n = .ok p := by
  unfold Denied at ok
  unfold checkEl
  rcases h : placeOf sp a with _ | p <;> rw [h] at ok
  · exact absurd rfl (ok a)
  · have admitted := ok p.addr
    cases p with
    | own off => simp only [not_and, not_lt, true_imp_iff] at admitted; simp [placeOk, admitted]
    | rem t off => simp only [not_and, not_or, not_lt, true_imp_iff, Bool.not_eq_false] at admitted; simp [placeOk, admitted]
    | dbg t off => simp at admitted
    | virt va => simp only [not_and, not_or, true_imp_iff, Bool.not_eq_false] at admitted; simp [placeOk, admitted]

/-- A debug window that the form reaches, of a tenant of the set, faults PRIV in an unprivileged context (R378). -/
theorem checkEl_debug {s : State} {nd : Need} {sp : Space} {a n t off : Nat} (at_ : placeOf sp a = some (.dbg t off))
    (reaches : nd.debug = true) (unpriv : (me s).priv = false) (mem : inSet s (mySetId s) t = true) (fits : off + n ≤ 0x4000) :
    checkEl s nd sp a n = .error (cPRIV, (Place.dbg t off).addr) := by
  simp [checkEl, at_, reaches, placeOk, mem, fits, unpriv]

/-! ## The checks of a form (R30) -/

/-- A form checks the elements els (address and bytes) before it does anything else. -/
def Accesses (s : State) (i : Instr) (nd : Need) (sp : Space) (els : List (Nat × Nat)) : Prop :=
  ∃ k, exec i s = .next (withPlaces nd sp els k s)

theorem accesses_fault {s : State} {i : Instr} {nd : Need} {sp : Space} {els : List (Nat × Nat)} {c x : Nat}
    (acc : Accesses s i nd sp els) (bad : checkEls s nd sp els = .error (c, x)) : exec i s = .next (raiseOp c 0 x s) := by
  obtain ⟨k, e⟩ := acc
  rw [e, withPlaces, bad]

theorem checkEls_single {s : State} {nd : Need} {sp : Space} {a n : Nat} {e : Nat × Nat} (bad : checkEl s nd sp a n = .error e) :
    checkEls s nd sp [(a, n)] = .error e := by
  simp [checkEls, bad]

theorem accesses_denied {s : State} {i : Instr} {nd : Need} {sp : Space} {a n x : Nat} (acc : Accesses s i nd sp [(a, n)])
    (d : Denied s nd.right nd.debug nd.virt sp a n x) : exec i s = .next (raiseOp cPERM 0 x s) :=
  accesses_fault acc (checkEls_single (checkEl_denied d))

/-- The elements of a form without debug windows fault at the lowest that is denied. -/
theorem checkEls_firstDenied {s : State} {nd : Need} {sp : Space} {n x : Nat} {els : List Nat} {addr : Nat → Nat}
    (form : nd.debug = false) (virt : nd.virt = true) (first : FirstDenied s nd.right sp n els addr x) :
    checkEls s nd sp (els.map fun i => (addr i, n)) = .error (cPERM, x) := by
  obtain ⟨pre, i, post, rfl, ok, bad⟩ := first
  induction pre with
  | nil =>
    have denied : checkEl s nd sp (addr i) n = .error (cPERM, x) := checkEl_denied (by rw [form, virt]; exact bad)
    simp [checkEls, denied]
  | cons j pre ih =>
    obtain ⟨p, admitted⟩ := checkEl_admitted (nd := nd) (by rw [virt]; exact ok j List.mem_cons_self)
    have rest := ih fun j m => ok j (List.mem_cons_of_mem _ m)
    simp only [List.cons_append, List.map_cons, checkEls, admitted, rest]

theorem accesses_firstDenied {s : State} {i : Instr} {nd : Need} {sp : Space} {n x : Nat} {els : List Nat} {addr : Nat → Nat}
    (form : nd.debug = false) (virt : nd.virt = true) (acc : Accesses s i nd sp (els.map fun j => (addr j, n)))
    (first : FirstDenied s nd.right sp n els addr x) : exec i s = .next (raiseOp cPERM 0 x s) :=
  accesses_fault acc (checkEls_firstDenied form virt first)

/-! ## The scalar forms -/

theorem ld_accesses {h : Hdr} {o : LdO} {s : State} (c : Issues h (.g o.d :: addrRn o.a) s) :
    Accesses s (.ld h o) (scalarNeed needR) o.a.space [((ea s o.a).toNat, ldBytes o.size.val)] := by
  rw [Accesses, exec_ld, execLd]
  exact ⟨_, scalar_act s _ c⟩
theorem ldq_accesses {h : Hdr} {o : LdqO} {s : State} (c : Issues h ([.g o.d, .g (o.d + 1)] ++ addrRn o.a) s) :
    Accesses s (.ldq h o) (scalarNeed needR) o.a.space [((ea s o.a).toNat, 16)] := by
  rw [Accesses, exec_ldq, execLdq]
  exact ⟨_, scalar_act s _ c⟩
theorem st_accesses {h : Hdr} {o : StO} {s : State} (c : Issues h ([.g o.d] ++ addrRn o.a ++ emRn o.em) s) :
    Accesses s (.st h o) (scalarNeed needW) o.a.space [((ea s o.a).toNat, 2 ^ o.size.val)] := by
  rw [Accesses, exec_st, execSt, scalarStore]
  exact ⟨_, scalar_act s _ c⟩
theorem stq_accesses {h : Hdr} {o : StqO} {s : State} (c : Issues h ([.g o.d, .g (o.d + 1)] ++ addrRn o.a ++ emRn o.em) s) :
    Accesses s (.stq h o) (scalarNeed needW) o.a.space [((ea s o.a).toNat, 16)] := by
  rw [Accesses, exec_stq, execStq, scalarStore]
  exact ⟨_, scalar_act s _ c⟩
theorem setmark_accesses {h : Hdr} {o : GAddr} {s : State} (c : Issues h (.g o.d :: addrRn o.a) s) :
    Accesses s (.setmark h o) needW o.a.space [((ea s o.a).toNat, 1)] := by
  rw [Accesses, exec_setmark, execSetmark]
  exact ⟨_, scalar_act s _ c⟩
theorem getmark_accesses {h : Hdr} {o : GAddr} {s : State} (c : Issues h (.g o.d :: addrRn o.a) s) :
    Accesses s (.getmark h o) needR o.a.space [((ea s o.a).toNat, 1)] := by
  rw [Accesses, exec_getmark, execGetmark]
  exact ⟨_, scalar_act s _ c⟩
theorem festat_accesses {h : Hdr} {o : GAddr} {s : State} (c : Issues h (.g o.d :: addrRn o.a) s) :
    Accesses s (.festat h o) needCroft o.a.space [((ea s o.a).toNat, 1)] := by
  rw [Accesses, exec_festat, execFestat]
  exact ⟨_, scalar_act s _ c⟩

/-! ## The vector forms (R158 to R161) -/

theorem vecLoad_checks (na : Bool) (sp : Space) (w d : Nat) (rep : Bool) (els : List (Nat × Nat)) (s : State) :
    ∃ k, vecLoad na sp w d rep els s = withPlaces needR sp (els.map fun e => (e.2, w / 8)) k s := by
  unfold vecLoad
  exact ⟨_, rfl⟩
theorem vecStore_checks (sp : Space) (w : Nat) (d : VReg) (em : Option GReg) (els : List (Nat × Nat)) (s : State) :
    ∃ k, vecStore sp w d em els s =
      withPlaces needW sp ((deciding s (markOf s em) els).map fun e => (e.2, w / 8)) k s := by
  unfold vecStore
  exact ⟨_, rfl⟩

theorem atStep_checked (a step : W64) (n : Nat) (is : List Nat) :
    ((atStep a step is).map fun e => (e.2, n)) = is.map fun i => ((a + BitVec.ofNat 64 i * step).toNat, n) := by
  simp [atStep]
theorem ldvAddr_eq (s : State) (a : Addr) (w i : Nat) :
    ldvAddr s a w i = (ea s a + BitVec.ofNat 64 i * BitVec.ofNat 64 (w / 8)).toNat := by
  rw [ldvAddr, BitVec.ofNat_mul]
theorem offsetEls_eq (s : State) (w : Nat) (base : GReg) (x : VReg) (xs : Nat) (disp : W64) (is : List Nat) :
    offsetEls s w base x xs disp is = is.map fun i =>
      (i, (rdG s base + (BitVec.ofInt 64 (sgn w (elem w (rdV s x) i)) <<< xs) + disp).toNat) := by
  simp only [offsetEls, sgn, toInt_ofNat_eq_toS]
theorem offsetEls_checked (s : State) (o : GsO) (w n : Nat) (is : List Nat) :
    ((offsetEls s w o.base o.x o.xs.val (o.disp.signExtend 64) is).map fun e => (e.2, n)) = is.map fun i => (gatherAddr s o w i, n) := by
  simp [offsetEls_eq, gatherAddr]

theorem ldv_accesses {h : Hdr} {o : LdvO} {s : State} (c : VIssues h (vsizeWidth o.size) (.v o.d :: addrRn o.a) s) :
    Accesses s (.ldv h o) needR o.a.space
      ((activeEls h (vsizeWidth o.size) s).map fun i => (ldvAddr s o.a (vsizeWidth o.size) i, vsizeWidth o.size / 8)) := by
  obtain ⟨k, checks⟩ := vecLoad_checks o.na o.a.space (vsizeWidth o.size) o.d.val false
    (atStep (ea s o.a) (BitVec.ofNat 64 (vsizeWidth o.size / 8)) (activeEls h (vsizeWidth o.size) s)) s
  rw [atStep_checked] at checks
  simp only [Accesses, ldvAddr_eq]
  rw [exec_ldv, execLdv]
  exact ⟨k, (vector_act s _ c).trans (congrArg _ checks)⟩
theorem ldvs_accesses {h : Hdr} {o : VsO} {s : State} (c : VIssues h (vsizeWidth o.size) (.v o.d :: addrRn o.a) s) :
    Accesses s (.ldvs h o) needR o.a.space
      ((activeEls h (vsizeWidth o.size) s).map fun i => (strideAddr s o.a i, vsizeWidth o.size / 8)) := by
  obtain ⟨k, checks⟩ := vecLoad_checks o.na o.a.space (vsizeWidth o.size) o.d.val (rdG s o.a.index <<< o.a.xs.val == 0)
    (atStep (strideBase s o.a) (rdG s o.a.index <<< o.a.xs.val) (activeEls h (vsizeWidth o.size) s)) s
  rw [atStep_checked] at checks
  rw [Accesses, exec_ldvs, execLdvs]
  exact ⟨k, (vector_act s _ c).trans (congrArg _ checks)⟩
theorem gath_accesses {h : Hdr} {o : GsO} {s : State} (c : VIssues h (vsizeWidth o.size) [.v o.d, .g o.base, .v o.x] s) :
    Accesses s (.gath h o) needR o.space
      ((activeEls h (vsizeWidth o.size) s).map fun i => (gatherAddr s o (vsizeWidth o.size) i, vsizeWidth o.size / 8)) := by
  obtain ⟨k, checks⟩ := vecLoad_checks o.na o.space (vsizeWidth o.size) o.d.val false
    (offsetEls s (vsizeWidth o.size) o.base o.x o.xs.val (o.disp.signExtend 64) (activeEls h (vsizeWidth o.size) s)) s
  rw [offsetEls_checked] at checks
  rw [Accesses, exec_gath, execGath]
  exact ⟨k, (vector_act s _ c).trans (congrArg _ checks)⟩

theorem deciding_atStep (s : State) (m : Option Mark) (a step : W64) (is : List Nat) :
    deciding s m (atStep a step is) = atStep a step (if markBad s m then is.take 1 else is) := by
  unfold deciding atStep
  split
  · rw [List.map_take]
  · rfl
theorem markBad_none (s : State) : markBad s none = false := by simp [markBad]

theorem stv_accesses {h : Hdr} {o : StvO} {s : State}
    (c : VIssues h (vsizeWidth o.size) (.v o.d :: addrRn o.a ++ emRn o.em) s) :
    Accesses s (.stv h o) needW o.a.space
      ((if markBad s (markOf s o.em) then (activeEls h (vsizeWidth o.size) s).take 1 else activeEls h (vsizeWidth o.size) s).map
        fun i => (ldvAddr s o.a (vsizeWidth o.size) i, vsizeWidth o.size / 8)) := by
  obtain ⟨k, checks⟩ := vecStore_checks o.a.space (vsizeWidth o.size) o.d o.em
    (atStep (ea s o.a) (BitVec.ofNat 64 (vsizeWidth o.size / 8)) (activeEls h (vsizeWidth o.size) s)) s
  rw [deciding_atStep, atStep_checked] at checks
  simp only [Accesses, ldvAddr_eq]
  rw [exec_stv, execStv]
  exact ⟨k, (vector_act s _ c).trans (congrArg _ checks)⟩
theorem stvs_accesses {h : Hdr} {o : VsO} {s : State} (c : VIssues h (vsizeWidth o.size) (.v o.d :: addrRn o.a) s) :
    Accesses s (.stvs h o) needW o.a.space
      ((activeEls h (vsizeWidth o.size) s).map fun i => (strideAddr s o.a i, vsizeWidth o.size / 8)) := by
  obtain ⟨k, checks⟩ := vecStore_checks o.a.space (vsizeWidth o.size) o.d none
    (atStep (strideBase s o.a) (rdG s o.a.index <<< o.a.xs.val) (activeEls h (vsizeWidth o.size) s)) s
  rw [deciding, if_neg (by rw [markOf, Option.map_none, markBad_none]; exact Bool.false_ne_true), atStep_checked] at checks
  rw [Accesses, exec_stvs, execStvs]
  exact ⟨k, (vector_act s _ c).trans (congrArg _ checks)⟩
theorem scat_accesses {h : Hdr} {o : GsO} {s : State} (c : VIssues h (vsizeWidth o.size) [.v o.d, .g o.base, .v o.x] s) :
    Accesses s (.scat h o) needW o.space
      ((activeEls h (vsizeWidth o.size) s).map fun i => (gatherAddr s o (vsizeWidth o.size) i, vsizeWidth o.size / 8)) := by
  obtain ⟨k, checks⟩ := vecStore_checks o.space (vsizeWidth o.size) o.d none
    (offsetEls s (vsizeWidth o.size) o.base o.x o.xs.val (o.disp.signExtend 64) (activeEls h (vsizeWidth o.size) s)) s
  rw [deciding, if_neg (by rw [markOf, Option.map_none, markBad_none]; exact Bool.false_ne_true), offsetEls_checked] at checks
  rw [Accesses, exec_scat, execScat]
  exact ⟨k, (vector_act s _ c).trans (congrArg _ checks)⟩

/-! ## Full/empty words (R30, R162, R209) -/

theorem withWord_fault {s : State} {a : W64} {sp : Space} {c x : Nat} (k : Place → State → State) (aligned : a.toNat % 8 = 0)
    (bad : checkEl s needCroft sp a.toNat 8 = .error (c, x)) : withWord a sp k s = raiseOp c 0 x s := by
  simp [withWord, aligned, bad]
theorem withWord_at {s : State} {a : W64} {sp : Space} {p : Place} (k : Place → State → State) (aligned : a.toNat % 8 = 0)
    (ok : checkEl s needCroft sp a.toNat 8 = .ok p) : withWord a sp k s = k p s := by
  simp [withWord, aligned, ok]

/-- A word check in croft memory passes, or faults PERM with the address of the place. -/
theorem checkEl_word (s : State) (sp : Space) (a n : Nat) :
    checkEl s needCroft sp a n = .error (cPERM, (placeOf sp a).elim a Place.addr) ∨
      ∃ p, placeOf sp a = some p ∧ checkEl s needCroft sp a n = .ok p := by
  unfold checkEl
  rcases placeOf sp a with _ | p
  · exact .inl rfl
  · cases p <;> simp [needCroft]

theorem wkick_elsewhere {h : Hdr} {d base : GReg} {disp : BitVec 39} {own : Bool} {s : State} (c : Issues h [.g d, .g base] s)
    (aligned : (rdG s base + disp.signExtend 64).toNat % 8 = 0)
    (other : placeOf (if own then .own else .virt) (rdG s base + disp.signExtend 64).toNat ≠ some (.own (mailboxOff s.cur.2))) :
    exec (.wkick h d base disp own) s = .next (raiseOp cPERM 0
      ((placeOf (if own then .own else .virt) (rdG s base + disp.signExtend 64).toNat).elim
        (rdG s base + disp.signExtend 64).toNat Place.addr) s) := by
  rw [exec_wkick, execWkick]
  refine (scalar_act s _ c).trans (congrArg _ ?_)
  rcases checkEl_word s (if own then .own else .virt) (rdG s base + disp.signExtend 64).toNat 8 with bad | ⟨p, at_, ok⟩
  · exact withWord_fault _ aligned bad
  · have away : ¬ p = .own (mailboxOff s.cur.2) := fun e => other (at_.trans (congrArg some e))
    rw [withWord_at _ aligned ok, at_]
    exact if_neg away

/-! ## Atomics (R30, R147, R176) -/

theorem atomFault_misaligned {s : State} {n a : Nat} (as : List Nat) (bad : a % n ≠ 0) :
    atomFault s n (a :: as) = some (cALIGN, a) := by
  simp [atomFault, bad]
theorem atomFault_denied {s : State} {n a x : Nat} (as : List Nat) (aligned : a % n = 0) (d : AtomDenied s a n x) :
    atomFault s n (a :: as) = some (cPERM, x) := by
  unfold AtomDenied at d
  rcases h : placeOf .virt a with _ | p <;> rw [h] at d
  · simp [atomFault, aligned, checkEl, h, show x = a from d]
  · have form : needRW.debug = false ∧ needRW.right = Window.rw := ⟨rfl, rfl⟩
    cases p with
    | own off =>
      rw [show x = (Place.own off).addr from d]
      cases fits : placeOk s Window.rw (.own off) n <;> simp [atomFault, aligned, checkEl, h, form, fits]
    | rem t off =>
      rw [show x = (Place.rem t off).addr from d]
      cases fits : placeOk s Window.rw (.rem t off) n <;> simp [atomFault, aligned, checkEl, h, form, fits]
    | dbg t off =>
      rw [show x = (Place.dbg t off).addr from d]
      simp [atomFault, aligned, checkEl, h, form]
    | virt va =>
      obtain ⟨rfl, out⟩ := d
      simp [atomFault, aligned, checkEl, h, form, placeOk, out, Place.addr]
theorem atomFault_admitted {s : State} {n a : Nat} (as : List Nat) (aligned : a % n = 0) (ok : ∀ y, ¬ AtomDenied s a n y) :
    atomFault s n (a :: as) = atomFault s n as := by
  unfold AtomDenied at ok
  rcases h : placeOf .virt a with _ | p <;> rw [h] at ok
  · exact absurd rfl (ok a)
  · have form : needRW.virt = true ∧ needRW.right = Window.rw := ⟨rfl, rfl⟩
    cases p with
    | virt va =>
      have covered : rangeOk (winsOf s) Window.rw va n = true := by simpa using ok va
      simp [atomFault, aligned, checkEl, h, form, placeOk, covered]
    | _ => exact absurd rfl (ok _)

theorem atomFault_faults {s : State} {n c x : Nat} {els : List Nat} {addr : Nat → Nat} (f : AtomFaults s n els addr c x) :
    atomFault s n (els.map addr) = some (c, x) := by
  obtain ⟨pre, i, post, rfl, ok, bad⟩ := f
  induction pre with
  | nil =>
    split at bad
    · next aligned => obtain ⟨rfl, denied⟩ := bad; exact atomFault_denied _ aligned denied
    · next misaligned => obtain ⟨rfl, rfl⟩ := bad; exact atomFault_misaligned _ misaligned
  | cons j pre ih =>
    obtain ⟨aligned, admitted⟩ := ok j List.mem_cons_self
    exact (atomFault_admitted _ aligned admitted).trans (ih fun j m => ok j (List.mem_cons_of_mem _ m))

theorem asBytes_eq (z : ASize) : asBytes z = if z = .b64 then 8 else 4 := by cases z <;> rfl

theorem doAtoms_fault {s : State} {n c x : Nat} {els : List (Nat × Nat × Nat × Nat)} (f : AtomF) (nr : Bool) (o : Ord) (fin : Done)
    (bad : atomFault s n (els.map fun e => e.2.1) = some (c, x)) : doAtoms n f nr o fin els s = raiseOp c 0 x s := by
  simp [doAtoms, bad]

/-- Settles O25: each form checks its elements first, and their checks fail as they are denied. -/
theorem permissionFaults : Obligations.PermissionFaults := by
  unfold Obligations.PermissionFaults
  refine ⟨fun h o s x c d => accesses_denied (ld_accesses c) d, fun h o s x c d => accesses_denied (st_accesses c) d,
    fun h o s x c d => accesses_denied (ldq_accesses c) d, fun h o s x c d => accesses_denied (stq_accesses c) d, ?debug,
    ?marks, fun h o s x c d => accesses_firstDenied rfl rfl (ldv_accesses c) d,
    fun h o s x c d => accesses_firstDenied rfl rfl (stv_accesses c) d,
    fun h o s x c => ⟨fun _ d => accesses_firstDenied rfl rfl (ldvs_accesses c) d,
      fun _ d => accesses_firstDenied rfl rfl (stvs_accesses c) d⟩,
    fun h o s x c => ⟨fun _ d => accesses_firstDenied rfl rfl (gath_accesses c) d,
      fun _ d => accesses_firstDenied rfl rfl (scat_accesses c) d⟩, ?amo, ?amof, ?cas, ?cas2, ?vamo,
    fun h d base disp own s c aligned other => wkick_elsewhere c aligned other⟩
  case debug =>
    intro s sp a t off at_ unpriv mem x
    have bad {n : Nat} (nd : Need) (fits : off + n ≤ 0x4000) : checkEls s (scalarNeed nd) sp [(a, n)] = .error (cPRIV, x) :=
      checkEls_single (checkEl_debug at_ rfl unpriv mem fits)
    refine ⟨?_, ?_, ?_, ?_⟩
    · rintro h o rfl rfl fits c; exact accesses_fault (ld_accesses c) (bad needR fits)
    · rintro h o rfl rfl fits c; exact accesses_fault (st_accesses c) (bad needW fits)
    · rintro h o rfl rfl fits c; exact accesses_fault (ldq_accesses c) (bad needR fits)
    · rintro h o rfl rfl fits c; exact accesses_fault (stq_accesses c) (bad needW fits)
  case marks =>
    intro h o s x c a
    refine ⟨fun d => accesses_denied (setmark_accesses c) d, fun d => accesses_denied (getmark_accesses c) d,
      fun d => accesses_denied (festat_accesses c) d, fun aligned d f => ⟨?_, ?_⟩⟩
    · rw [exec_ldfe, execLdfe]
      exact (scalar_act s _ c).trans (congrArg _ (withWord_fault _ aligned (checkEl_denied (nd := needCroft) d)))
    · rw [exec_stfe, execStfe]
      exact (scalar_act s _ c).trans (congrArg _ (withWord_fault _ aligned (checkEl_denied (nd := needCroft) d)))
  case amo =>
    intro h o s c x iss f
    rw [← asBytes_eq] at f
    rw [exec_amo, execAmo]
    exact (scalar_act s _ iss).trans (congrArg _ (doAtoms_fault _ _ _ _ (atomFault_faults f)))
  case amof =>
    intro h o s c x iss f
    rw [exec_amof, execAmof]
    exact (scalar_act s _ iss).trans (congrArg _ (doAtoms_fault _ _ _ _ (atomFault_faults f)))
  case cas =>
    intro h o s c x iss f
    rw [← asBytes_eq] at f
    rw [exec_cas, execCas]
    exact (scalar_act s _ iss).trans (congrArg _ (doAtoms_fault _ _ _ _ (atomFault_faults f)))
  case cas2 =>
    intro h o s c x iss f
    rw [exec_cas2, execCas2]
    exact (scalar_act s _ iss).trans (congrArg _ (doAtoms_fault _ _ _ _ (atomFault_faults f)))
  case vamo =>
    intro h o s c x w iss f
    rw [exec_vamo, execVamo]
    refine (vector_act s _ iss).trans (congrArg _ (doAtoms_fault _ _ _ _ ?_))
    rw [offsetEls_eq, List.map_map, List.map_map]
    exact atomFault_faults f

end Sys2Proof.Machine
end

section
namespace Sys2Proof.Machine

/-! ## Which stores go (R14, R150, R151) -/

theorem pieceClass_eq (s : State) (p : Piece) : pieceClass s p = storeClass s p.at_ := by
  rcases p with ⟨_ | _ | _ | _, runs, mark, bin⟩ <;> rfl

/-- Stores of packets, none of them to own croft memory by the own region. -/
def AllPosted (ps : List (List Piece)) : Prop := ∀ p ∈ ps, p ≠ [] ∧ ∀ q ∈ p, ∀ off, q.at_ ≠ .own off

theorem storeClass_pos {s : State} {p : Place} (posted : ∀ off, p ≠ .own off) : storeClass s p = 1 ∨ storeClass s p = 2 := by
  cases p with
  | own off => exact absurd rfl (posted off)
  | _ => simp only [storeClass]; split <;> simp

theorem postClasses_eq {s : State} {p : List Piece} (posted : ∀ q ∈ p, ∀ off, q.at_ ≠ .own off) :
    postClasses s p = p.map fun q => storeClass s q.at_ := by
  rw [postClasses, show pieceClass s = fun q => storeClass s q.at_ from funext (pieceClass_eq s), List.filter_eq_self]
  intro k m
  obtain ⟨q, mq, rfl⟩ := List.mem_map.mp m
  rcases storeClass_pos (s := s) (posted q mq) with one | two <;> simp [*]

/-- The store counts in class k. -/
def countsIn (s : State) (k : Nat) (p : List Piece) : Bool := p.any fun q => storeClass s q.at_ == k

theorem contains_classes (s : State) (k : Nat) (p : List Piece) : (p.map fun q => storeClass s q.at_).contains k = countsIn s k p := by
  rw [Bool.eq_iff_iff, List.contains_iff_mem, List.mem_map, countsIn, List.any_eq_true]
  simp only [beq_iff_eq]

theorem storesIn_cons (s : State) (k : Nat) (p : List Piece) (ps : List (List Piece)) :
    storesIn s k (p :: ps) = (if countsIn s k p then 1 else 0) + storesIn s k ps := by
  change (List.filter (countsIn s k) (p :: ps)).length = _ + (List.filter (countsIn s k) ps).length
  cases c : countsIn s k p
  · rw [List.filter_cons_of_neg (by rw [c]; exact Bool.false_ne_true), if_neg Bool.false_ne_true, Nat.zero_add]
  · rw [List.filter_cons_of_pos c, List.length_cons, if_pos rfl, Nat.add_comm]

theorem postsFit_iff {s : State} {ps : List (List Piece)} (posted : AllPosted ps) :
    postsFit s ps = true ↔ ∀ k ∈ [1, 2, 3], countOf k (me s) + storesIn s k ps ≤ 255 := by
  have count (k : Nat) : ((ps.map (postClasses s)).filter fun c => c.contains k).length = storesIn s k ps := by
    rw [List.filter_map, List.length_map, storesIn]
    congr 1
    refine List.filter_congr fun p m => ?_
    rw [Function.comp_apply, postClasses_eq (posted p m).2, contains_classes, countsIn]
  simp only [postsFit, count]
  simp

theorem storesNow_posted (t : Nat) (sent : Bool) {ps : List (List Piece)} (posted : AllPosted ps) :
    storesNow t sent ps = ps.length := by
  induction ps generalizing sent with
  | nil => rfl
  | cons p ps ih =>
    have away : isOwn p = false := by
      simp only [isOwn, List.any_eq_false]
      intro q m
      have := (posted p List.mem_cons_self).2 q m
      rcases q with ⟨_ | _ | _ | _, runs, mark, bin⟩ <;> simp_all
    rw [storesNow, away, ih _ fun q m => posted q (List.mem_cons_of_mem _ m)]
    simp

/-- A form's stores go all together, or none of them does. -/
theorem doStore_posted {s : State} (a : Nat) {m : Option Mark} {ps : List (List Piece)} (fresh : (me s).sub = 0)
    (ok : markBad s m = false) (nonempty : ps ≠ []) (posted : AllPosted ps) :
    doStore a m ps s = if postsFit s ps then retire (postAll s ps) else waitTurn s := by
  have left : ps.drop (me s).sub = ps := by rw [fresh]; rfl
  have len : ps.length ≠ 0 := fun e => nonempty (List.length_eq_zero_iff.mp e)
  simp only [doStore, left, ok, storesNow_posted _ _ posted]
  cases postsFit s ps <;> simp [nonempty, len]

/-! ## What sending packets leaves (R150 to R152, R355) -/

/-- A context apart from the fills that its reply may install. -/
def Context.quiet (k : Context) : Context := { k with await := none }
/-- A context apart from those fills, its class counts and its posted stores. -/
def Context.bare (k : Context) : Context := { k.quiet with o1 := 0, o2 := 0, o3 := 0, posted := [] }
/-- A tenant apart from its counts of messages to partners. -/
def Tenant.unpartnered (k : Tenant) : Tenant := { k with partners := [], newcomer := ⟨false, 0, 0⟩ }

/-- State t is state s with packets sent by the acting context: of the state that an access and its packets are resolved by, all stands;
of the acting context, what the view v shows. -/
structure Sent (v : Context → Context) (s t : State) : Prop where
  cur : t.cur = s.cur
  ctx : v (me t) = v (me s)
  tenant : (myCroft t).tenant = (myCroft s).tenant
  tens : ∀ n, (tenAt t n).unpartnered = (tenAt s n).unpartnered
  sets : t.sets = s.sets
  chans : t.chans = s.chans
  mem : t.mem = s.mem
  banks : t.banks = s.banks
  now : s.now ≤ t.now

theorem Sent.refl (v : Context → Context) (s : State) : Sent v s s := ⟨rfl, rfl, rfl, fun _ => rfl, rfl, rfl, rfl, rfl, le_rfl⟩
theorem Sent.trans {v : Context → Context} {s t u : State} (a : Sent v s t) (b : Sent v t u) : Sent v s u where
  cur := b.cur.trans a.cur
  ctx := b.ctx.trans a.ctx
  tenant := b.tenant.trans a.tenant
  tens n := (b.tens n).trans (a.tens n)
  sets := b.sets.trans a.sets
  chans := b.chans.trans a.chans
  mem := b.mem.trans a.mem
  banks := b.banks.trans a.banks
  now := a.now.trans b.now
theorem Sent.bare {s t : State} (a : Sent Context.quiet s t) : Sent Context.bare s t :=
  { a with ctx := congrArg (fun k : Context => { k with o1 := 0, o2 := 0, o3 := 0, posted := [] }) a.ctx }

section
variable {s t : State} (a : Sent Context.bare s t)
include a

/-- A part of the acting context that the view shows. -/
theorem Sent.part {α : Type} (f : Context → α) (shown : ∀ k : Context, f k = f k.bare := by intro; rfl) : f (me t) = f (me s) := by
  rw [shown, a.ctx, ← shown]
/-- A part of a tenant besides its counts of messages. -/
theorem Sent.ten {α : Type} (n : Nat) (f : Tenant → α) (shown : ∀ k : Tenant, f k = f k.unpartnered := by intro; rfl) :
    f (tenAt t n) = f (tenAt s n) := by
  rw [shown, a.tens, ← shown]

theorem Sent.myTen_eq : myTen t = myTen s := by rw [myTen, a.tenant]; rfl
theorem Sent.mySetId_eq : mySetId t = mySetId s := by rw [mySetId, a.myTen_eq]; exact a.ten _ Tenant.set
theorem Sent.mySet_eq : mySet t = mySet s := by simp only [mySet, setAtId, a.mySetId_eq, a.sets]
theorem Sent.winsOf_eq : winsOf t = winsOf s := by
  simp only [winsOf, a.part Context.grp, a.part Context.wins, a.mySet_eq]
theorem Sent.nextSlot_eq : nextSlot t = nextSlot s := by
  simp only [nextSlot, a.part Context.grp, a.part Context.pc]
theorem Sent.meAgent_eq : meAgent t = meAgent s := by
  have parts (u : State) : meAgent u = ⟨(myCroft u).tenant.getD 0, (me u).name, u.cur.1, u.cur.2, (me u).epoch, (me u).acc, (me u).cnt,
      (me u).runseq, (me u).runStart⟩ := rfl
  simp only [parts, a.tenant, a.cur, a.part Context.name, a.part Context.epoch, a.part Context.acc, a.part Context.cnt,
    a.part Context.runseq, a.part Context.runStart]
theorem Sent.resOf_eq (va : Nat) : resOf t va = resOf s va := by
  simp only [resOf, a.winsOf_eq, a.mySet_eq, a.cur]
  cases coverOf (winsOf s) va with
  | none => rfl
  | some w => simp only [resolve, touchedField, chanAt, a.chans]
theorem Sent.storeClass_eq (p : Place) : storeClass t p = storeClass s p := by
  cases p with
  | own off => rfl
  | virt va => simp only [storeClass, a.resOf_eq, a.cur]
  | _ => simp only [storeClass, a.cur, a.ten _ Tenant.core]
theorem Sent.storeFlight_eq (id : Nat) (p : Piece) : storeFlight t id p = storeFlight s id p := by
  simp only [storeFlight, a.meAgent_eq, a.storeClass_eq, a.resOf_eq, a.ten _ Tenant.epoch]
theorem Sent.storesIn_eq (k : Nat) (ps : List (List Piece)) : storesIn t k ps = storesIn s k ps := by
  simp only [storesIn, a.storeClass_eq]
end

/-! ## Each packet (R150 to R152) -/

theorem sent_tick (v : Context → Context) (s : State) : Sent v s (tick s) :=
  { Sent.refl v s with now := Nat.le_succ _, tens := fun _ => rfl }
theorem sent_send (v : Context → Context) (s : State) (f : Flight) : Sent v s (send s f) :=
  { Sent.refl v s with tens := fun _ => rfl }

theorem sent_updMe {v : Context → Context} {s : State} {f : Context → Context} (keeps : v (f (me s)) = v (me s)) :
    Sent v s (updMe s f) :=
  { Sent.refl v s with
    ctx := by rw [me_updMe, keeps]
    tenant := by
      show (croftAt (setCroft s s.cur.1 _) s.cur.1).tenant = _
      rw [croftAt_setCroft_self]; rfl
    tens := fun _ => rfl }

/-- A map of entries reads as the function of what stood there, where it keeps the default. -/
theorem sread_map {α : Type} {d : α} (f : α → α) (keeps : f d = d) (m : Sparse α) (k : Nat) :
    sread d (m.map fun e => (e.1, f e.2)) k = f (sread d m k) := by
  induction m with
  | nil => exact keeps.symm
  | cons e m ih =>
    simp only [List.map_cons, sread, ih]
    split <;> rfl

/-- A context whose fills of the lines hit are not installed. -/
def Context.unfilled (hit : Nat → Bool) (k : Context) : Context :=
  { k with await := k.await.map fun a => { a with fills := a.fills.filter fun l => !hit l } }

theorem sent_dropL1 (s : State) (va n : Nat) : Sent Context.quiet s (dropL1 s s.cur.1 va n) where
  cur := rfl
  ctx := by
    show (ctxAt (dropL1 s s.cur.1 va n) s.cur.1 s.cur.2).quiet = _
    rw [ctxAt, dropL1, croftAt_setCroft_self]
    exact (congrArg Context.quiet
      (sread_map (Context.unfilled fun la => va / 32 ≤ la && la ≤ (va + n - 1) / 32) rfl (croftAt s s.cur.1).ctxs s.cur.2)).trans rfl
  tenant := by
    show (croftAt (dropL1 s s.cur.1 va n) s.cur.1).tenant = _
    rw [dropL1, croftAt_setCroft_self]
    rfl
  tens _ := rfl
  sets := rfl
  chans := rfl
  mem := rfl
  banks := rfl
  now := le_rfl
theorem dropL1_net (s : State) (c va n : Nat) : (dropL1 s c va n).net = s.net := rfl

theorem unpartnered_bumpPartner (k : Tenant) (t : Nat) : (bumpPartner k t).unpartnered = k.unpartnered := by
  unfold bumpPartner
  dsimp only
  split
  · rfl
  · split
    · split <;> rfl
    · rfl

theorem sent_updPair (v : Context → Context) (s : State) (p : Nat) (f : Pair → Pair) : Sent v s (updPair s p f) :=
  { Sent.refl v s with tens := fun _ => rfl }
theorem sent_bumpPartner (v : Context → Context) (s : State) (b t : Nat) : Sent v s (updTen s b fun k => bumpPartner k t) :=
  { Sent.refl v s with
    tens := fun n => by
      rcases eq_or_ne n b with rfl | away
      · rw [updTen, tenAt_setTen_self, unpartnered_bumpPartner]
      · rw [updTen, tenAt_setTen_ne _ _ away] }

theorem sent_countMsg (v : Context → Context) (s : State) (c t : Nat) :
    Sent v s (countMsg s c t) ∧ (countMsg s c t).net = s.net := by
  have pairs (ps : List Nat) (f : State → Pair → Pair) (u : State) :
      Sent v u (ps.foldl (fun u p => updPair u p (f u)) u) ∧ (ps.foldl (fun u p => updPair u p (f u)) u).net = u.net := by
    induction ps generalizing u with
    | nil => exact ⟨Sent.refl v u, rfl⟩
    | cons p ps ih =>
      obtain ⟨rest, net⟩ := ih (updPair u p (f u))
      exact ⟨(sent_updPair v u p _).trans rest, net⟩
  unfold countMsg
  split
  · exact ⟨Sent.refl v s, rfl⟩
  · split
    · exact ⟨Sent.refl v s, rfl⟩
    · obtain ⟨rest, net⟩ := pairs (pairsOf c) (fun u => bumpPair (dieAt u (dieOf c)).window u.now) (tick (updTen s _ fun k => bumpPartner k t))
      exact ⟨((sent_bumpPartner v s _ t).trans (sent_tick v _)).trans rest, net⟩

theorem sent_countMsgs (v : Context → Context) (s : State) (c t n : Nat) :
    Sent v s (countMsgs s c t n) ∧ (countMsgs s c t n).net = s.net := by
  induction n generalizing s with
  | zero => exact ⟨Sent.refl v s, rfl⟩
  | succ n ih =>
    obtain ⟨one, net⟩ := sent_countMsg v s c t
    obtain ⟨rest, net'⟩ := ih (countMsg s c t)
    exact ⟨one.trans rest, net'.trans net⟩

/-- A request to another croft: its packet alone is new in the network. -/
theorem sent_sendCroft (s : State) (t n : Nat) (op : CroftOp) (bin : Option Target) (ack : AckTo) :
    Sent Context.quiet s (sendCroft s s.cur.1 s.cur.2 t n op bin ack) ∧
      (sendCroft s s.cur.1 s.cur.2 t n op bin ack).net = s.net ++ [⟨[2, (meAgent s).ten, (meAgent s).name, t],
        .croft t (tenAt s t).epoch (meAgent s) op bin ack false, none⟩] := by
  obtain ⟨counted, net⟩ := sent_countMsgs Context.quiet s s.cur.1 t n
  refine ⟨counted.trans (sent_send _ _ _), ?_⟩
  simp only [sendCroft, send, net]
  rfl

/-- The L1 lines of runs of bytes, removed. -/
def dropAll (c : Nat) (rs : List (Nat × List Byte)) (s : State) : State := rs.foldl (fun u q => dropL1 u c q.1 q.2.length) s

theorem sent_dropAll {s u : State} (rs : List (Nat × List Byte)) (sent : Sent Context.quiet s u) (net : u.net = s.net) :
    Sent Context.quiet s (dropAll s.cur.1 rs u) ∧ (dropAll s.cur.1 rs u).net = s.net := by
  induction rs generalizing u with
  | nil => exact ⟨sent, net⟩
  | cons q rs ih =>
    refine ih (sent.trans ?_) net
    rw [← sent.cur]
    exact sent_dropL1 u _ _

/-- A packet of a posted store: what storeFlight says is all that is new in the network. -/
theorem sent_postPiece {s : State} (id : Nat) {p : Piece} (posted : ∀ off, p.at_ ≠ .own off) :
    Sent Context.quiet s (postPiece id s p) ∧ (postPiece id s p).net = s.net ++ [storeFlight s id p] := by
  have units : (if p.runs.isEmpty then [(p.at_.space.2, [])] else unitsOf p.runs) =
      if p.runs = [] then [(p.at_.pos, [])] else unitsOf p.runs := by
    simp only [List.isEmpty_iff, Place.pos]
  obtain ⟨at_, runs, mark, bin⟩ := p
  unfold postPiece storeFlight
  rw [units, pieceClass_eq]
  cases at_ with
  | own off => exact absurd rfl (posted off)
  | virt va =>
    obtain ⟨dropped, net⟩ := sent_dropAll (if mark.isSome then (va / 64 * 64, List.replicate 64 0) :: runs else runs)
      (Sent.refl _ s) rfl
    exact ⟨dropped.trans (sent_send _ _ _), congrArg (· ++ _) net⟩
  | rem t off => exact sent_sendCroft s t _ _ _ _
  | dbg t off => exact sent_sendCroft s t _ _ _ _

theorem sent_pieces {s : State} (id : Nat) {p : List Piece} (posted : ∀ q ∈ p, ∀ off, q.at_ ≠ .own off) :
    Sent Context.quiet s (p.foldl (postPiece id) s) ∧ (p.foldl (postPiece id) s).net = s.net ++ p.map (storeFlight s id) := by
  induction p generalizing s with
  | nil => exact ⟨Sent.refl _ s, (List.append_nil _).symm⟩
  | cons q p ih =>
    obtain ⟨first, net⟩ := sent_postPiece (s := s) id (posted q List.mem_cons_self)
    obtain ⟨rest, net'⟩ := ih (s := postPiece id s q) fun r m => posted r (List.mem_cons_of_mem _ m)
    have same : storeFlight (postPiece id s q) id = storeFlight s id := funext (first.bare.storeFlight_eq id)
    exact ⟨first.trans rest, by rw [List.foldl_cons, net', net, same, List.append_assoc]; rfl⟩

/-! ## Each posted store (R14, R150, R159) -/

/-- What a posted store keeps for forwarding and for its acknowledgements. -/
def Posted.shown (q : Posted) : Nat × List (Nat × List Byte) × Option Mark × List Nat := (q.id, q.runs, q.mark, q.left)
/-- What the store `p` of number `id` is kept as. -/
def keptAs (s : State) (id : Nat) (p : List Piece) : Nat × List (Nat × List Byte) × Option Mark × List Nat :=
  (id, p.flatMap Piece.runs, p.head?.bind Piece.mark, p.map fun q => storeClass s q.at_)
/-- The record of the store `p` of number `id` among the posted stores of its context. -/
def postedAs (s : State) (id : Nat) (p : List Piece) : Posted :=
  let at_ := (p.head?.map fun q => q.at_.space).getD (0, 0)
  ⟨id, at_.1, at_.2, p.flatMap Piece.runs, p.head?.bind Piece.mark, p.map fun q => storeClass s q.at_⟩

/-- What counting a store in the classes ks makes of its context. -/
def countedIn (ks : List Nat) (k : Context) : Context := ([1, 2, 3].filter ks.contains).foldl (fun x k => addCount k 1 x) k

theorem countOf_addCount {k j : Nat} (cls : k ∈ [1, 2, 3]) (cls' : j ∈ [1, 2, 3]) (x : Context) :
    countOf k (addCount j 1 x) = countOf k x + if k = j then 1 else 0 := by
  simp only [List.mem_cons, List.not_mem_nil, or_false] at cls cls'
  rcases cls with rfl | rfl | rfl <;> rcases cls' with rfl | rfl | rfl <;> rfl

theorem countOf_foldl_addCount {k : Nat} (cls : k ∈ [1, 2, 3]) {js : List Nat} (all : ∀ j ∈ js, j ∈ [1, 2, 3]) (x : Context) :
    countOf k (js.foldl (fun x j => addCount j 1 x) x) = countOf k x + js.count k := by
  induction js generalizing x with
  | nil => rfl
  | cons j js ih =>
    rw [List.foldl_cons, ih (fun i m => all i (List.mem_cons_of_mem _ m)), countOf_addCount cls (all j List.mem_cons_self),
      List.count_cons, Nat.add_assoc, Nat.add_comm (List.count k js)]
    simp only [beq_iff_eq, eq_comm (a := k)]

theorem countOf_countedIn (ks : List Nat) (x : Context) {k : Nat} (cls : k ∈ [1, 2, 3]) :
    countOf k (countedIn ks x) = countOf k x + if ks.contains k then 1 else 0 := by
  rw [countedIn, countOf_foldl_addCount cls fun j m => List.mem_of_mem_filter m]
  congr 1
  by_cases c : ks.contains k
  · have once : [1, 2, 3].count k = 1 := List.count_eq_one_of_mem (by decide) cls
    rw [List.count_filter c, once, if_pos c]
  · rw [if_neg c, List.count_eq_zero]
    exact fun m => c (List.mem_filter.mp m).2

/-- Counting changes the class counts alone. -/
theorem keeps_countedIn {α : Type} (f : Context → α) (keeps : ∀ j x, f (addCount j 1 x) = f x) (ks : List Nat) (x : Context) :
    f (countedIn ks x) = f x := by
  unfold countedIn
  induction [1, 2, 3].filter ks.contains generalizing x with
  | nil => rfl
  | cons j js ih => rw [List.foldl_cons, ih, keeps]
theorem bare_addCount (j : Nat) (x : Context) : (addCount j 1 x).bare = x.bare := by
  unfold addCount; split
  · rfl
  · split <;> rfl
theorem posted_addCount (j : Nat) (x : Context) : (addCount j 1 x).posted = x.posted := by
  unfold addCount; split
  · rfl
  · split <;> rfl

/-- The state t follows s by the posting of the store p. -/
structure PostsOne (s t : State) (p : List Piece) : Prop where
  sends : Sent Context.bare s t
  later : s.now + 1 ≤ t.now
  counts : ∀ k ∈ [1, 2, 3], countOf k (me t) = countOf k (me s) + if countsIn s k p then 1 else 0
  net : t.net = s.net ++ p.map (storeFlight s (s.now + 1))
  posted : (me t).posted = (me s).posted ++ [postedAs s (s.now + 1) p]

theorem postStore_posts {s : State} {p : List Piece} (nonempty : p ≠ []) (posted : ∀ q ∈ p, ∀ off, q.at_ ≠ .own off) :
    PostsOne s (postStore s p) p := by
  obtain ⟨first, more, rfl⟩ := List.exists_cons_of_ne_nil nonempty
  have classes : postClasses s (first :: more) = storeClass s first.at_ :: more.map fun q => storeClass s q.at_ := postClasses_eq posted
  have ticked : Sent Context.quiet s (tick s) := sent_tick _ s
  obtain ⟨sent, net⟩ := sent_pieces (s := tick s) (tick s).now posted
  have whole : Sent Context.quiet s ((first :: more).foldl (postPiece (tick s).now) (tick s)) := ticked.trans sent
  rw [funext (ticked.bare.storeFlight_eq _)] at net
  have form : postStore s (first :: more) = updMe ((first :: more).foldl (postPiece (tick s).now) (tick s)) fun x =>
      countedIn ((first :: more).map fun q => storeClass s q.at_)
        { x with posted := x.posted ++ [postedAs s (tick s).now (first :: more)] } := by
    simp only [postStore, classes]
    rfl
  rw [form]
  generalize (first :: more).foldl (postPiece (tick s).now) (tick s) = u at sent net whole
  have quiet {α : Type} (f : Context → α) (shown : ∀ k : Context, f k = f k.quiet := by intro; rfl) : f (me u) = f (me s) := by
    rw [shown, whole.ctx, ← shown]
  constructor
  case sends =>
    exact whole.bare.trans (sent_updMe (keeps_countedIn _ bare_addCount _ _))
  case later => exact sent.now
  case counts =>
    intro k cls
    rw [me_updMe, countOf_countedIn _ _ cls, contains_classes]
    congr 1
    exact quiet (countOf k)
  case net => exact net
  case posted =>
    rw [me_updMe, keeps_countedIn _ posted_addCount, ← quiet Context.posted]
    rfl

/-- The state t follows s by the posting of the stores ps. -/
structure PostsAll (s t : State) (ps : List (List Piece)) : Prop where
  sends : Sent Context.bare s t
  counts : ∀ k ∈ [1, 2, 3], countOf k (me t) = countOf k (me s) + storesIn s k ps
  stores : ∃ id : Nat → Nat, (∀ i, s.now < id i) ∧ (∀ i j, i < j → id i < id j) ∧
    t.net = s.net ++ ps.zipIdx.flatMap (fun e => e.1.map (storeFlight s (id e.2))) ∧
    (me t).posted.map Posted.shown = (me s).posted.map Posted.shown ++ ps.zipIdx.map fun e => keptAs s (id e.2) e.1

/-- The numbers of a list of stores, from that of the first and those of the others. -/
def idsFrom (first : Nat) (more : Nat → Nat) : Nat → Nat | 0 => first | i + 1 => more i

theorem zipIdx_cons_succ {α : Type} (x : α) (xs : List α) :
    (x :: xs).zipIdx = (x, 0) :: xs.zipIdx.map fun e => (e.1, e.2 + 1) := by
  rw [List.zipIdx_cons, List.zipIdx_succ]

theorem postAll_posts {s : State} {ps : List (List Piece)} (posted : AllPosted ps) : PostsAll s (postAll s ps) ps := by
  induction ps generalizing s with
  | nil => exact ⟨Sent.refl _ s, fun _ _ => rfl, fun i => s.now + 1 + i, by simp; omega, by simp, by simp [postAll], by simp [postAll]⟩
  | cons p ps ih =>
    obtain ⟨nonempty, away⟩ := posted p List.mem_cons_self
    obtain ⟨one, later, count, net, record⟩ := postStore_posts (s := s) nonempty away
    obtain ⟨more, counts, id, above, rising, nets, keeps⟩ := ih (s := postStore s p) fun q m => posted q (List.mem_cons_of_mem _ m)
    have flights (j : Nat) : storeFlight (postStore s p) j = storeFlight s j := funext (one.storeFlight_eq j)
    refine ⟨one.trans more, fun k cls => ?_, idsFrom (s.now + 1) id, ?_, ?_, ?_, ?_⟩
    · rw [storesIn_cons, ← Nat.add_assoc, ← count k cls, ← one.storesIn_eq]
      exact counts k cls
    · rintro (_ | i)
      · exact Nat.lt_succ_self _
      · exact Nat.lt_of_lt_of_le (Nat.lt_succ_self _) (later.trans (above i).le)
    · rintro (_ | i) (_ | j) lt
      · exact absurd lt (lt_irrefl _)
      · exact lt_of_le_of_lt later (above j)
      · exact absurd lt (Nat.not_lt_zero _)
      · exact rising i j (Nat.lt_of_succ_lt_succ lt)
    · rw [zipIdx_cons_succ, List.flatMap_cons, List.flatMap_map, ← List.append_assoc, idsFrom, ← net]
      exact nets.trans (by simp only [flights, idsFrom])
    · have kept : (me (postStore s p)).posted.map Posted.shown = (me s).posted.map Posted.shown ++ [keptAs s (s.now + 1) p] := by
        rw [record, List.map_append]; rfl
      rw [zipIdx_cons_succ, List.map_cons, List.map_map, List.append_cons, idsFrom, ← kept]
      exact keeps.trans (by simp only [keptAs, one.storeClass_eq]; rfl)

/-- Stores that were posted, and their context retired. -/
theorem PostsAll.retired {s t : State} {ps : List (List Piece)} (a : PostsAll s t ps) : PostedStores s (retire t) ps where
  regs := by rw [me_retire]; exact a.sends.part Context.regs
  pc := by rw [me_retire]; exact a.sends.nextSlot_eq
  mode := by rw [me_retire]; exact a.sends.part Context.mode
  counts k cls := by rw [me_retire]; exact a.counts k cls
  stores := by
    obtain ⟨id, above, rising, net, kept⟩ := a.stores
    exact ⟨id, above, rising, net, by rw [me_retire]; exact kept⟩
  mem := a.sends.mem
  banks := a.sends.banks
  croftMem n := ⟨a.sends.ten n Tenant.mem, a.sends.ten n Tenant.marks⟩

/-- A form whose stores are posted posts them, or waits where they do not all fit. -/
theorem postsOrWaits_of_doStore {s : State} {i : Instr} {a : Nat} {m : Option Mark} {ps : List (List Piece)}
    (form : exec i s = .next (doStore a m ps s)) (ok : markBad s m = false) (nonempty : ps ≠ []) (posted : AllPosted ps) :
    PostsOrWaits s i ps := by
  intro fresh
  rw [form, doStore_posted a fresh ok nonempty posted]
  refine ⟨fun fits => ⟨_, congrArg _ (if_pos ((postsFit_iff posted).mpr fits)), (postAll_posts posted).retired⟩, fun exceeds => ?_⟩
  obtain ⟨k, cls, past⟩ := exceeds
  rw [if_neg]
  exact fun fits => absurd ((postsFit_iff posted).mp fits k cls) (Nat.not_le.mpr past)

/-! ## The places and the pieces of a form (R148, R150, R159) -/

theorem not_own_of_storable {s : State} {debug : Bool} {p : Place} {n : Nat} (ok : Storable s debug p n) (off : Nat) : p ≠ .own off := by
  rintro rfl
  exact ok

theorem checkEl_storable {s : State} {nd : Need} {sp : Space} {a n : Nat} {p : Place} (right : nd.right = Window.w) (virt : nd.virt = true)
    (at_ : placeOf sp a = some p) (ok : Storable s nd.debug p n) : checkEl s nd sp a n = .ok p := by
  unfold Storable at ok
  cases p with
  | own off => exact absurd ok id
  | virt va => simp [checkEl, at_, virt, right, placeOk, ok]
  | rem t off => simp [checkEl, at_, placeOk, ok]
  | dbg t off =>
    obtain ⟨form, priv, fits, mem⟩ := ok
    simp [checkEl, at_, placeOk, form, priv, fits, mem]

theorem checkEls_storable {s : State} {nd : Need} {sp : Space} {n : Nat} {els : List Nat} {addr : Nat → Nat} {p : Nat → Place}
    (right : nd.right = Window.w) (virt : nd.virt = true)
    (ok : ∀ i ∈ els, placeOf sp (addr i) = some (p i) ∧ Storable s nd.debug (p i) n) :
    checkEls s nd sp (els.map fun i => (addr i, n)) = .ok (els.map p) := by
  induction els with
  | nil => rfl
  | cons i els ih =>
    obtain ⟨at_, stores⟩ := ok i List.mem_cons_self
    have rest := ih fun j m => ok j (List.mem_cons_of_mem _ m)
    simp only [List.map_cons, checkEls, checkEl_storable right virt at_ stores, rest]

theorem withPlaces_ok {s : State} {nd : Need} {sp : Space} {els : List (Nat × Nat)} {ps : List Place} (k : List Place → State → State)
    (ok : checkEls s nd sp els = .ok ps) : withPlaces nd sp els k s = k ps s := by
  simp only [withPlaces, ok]

theorem blocksOf_ne_nil (p : Place) {bs : List Byte} (m : Option Mark) (nonempty : bs.length ≠ 0) : blocksOf p bs m ≠ [] := by
  have units : (pieces 64 p.pos bs.length) ≠ [] := by
    simp only [pieces, nonempty, if_false]
    intro e
    have := congrArg List.length e
    simp only [List.length_map, List.length_range, List.length_nil] at this
    have := Nat.div_le_div_right (c := 64) (show p.pos ≤ p.pos + bs.length - 1 by omega)
    omega
  simpa [blocksOf] using units

theorem blocksOf_posted {p : Place} (bs : List Byte) (m : Option Mark) (away : ∀ off, p ≠ .own off) :
    ∀ q ∈ blocksOf p bs m, ∀ off, q.at_ ≠ .own off := by
  intro q mem off
  obtain ⟨r, -, rfl⟩ := List.mem_map.mp mem
  cases p with
  | own off => exact absurd rfl (away off)
  | _ => simp [Place.plus]

/-- The stores of a form with an earmark are those of each block. -/
theorem allPosted_blocks {p : List Piece} (posted : ∀ q ∈ p, ∀ off, q.at_ ≠ .own off) : AllPosted (p.map fun q => [q]) := by
  intro r mem
  obtain ⟨q, mq, rfl⟩ := List.mem_map.mp mem
  exact ⟨List.cons_ne_nil _ _, fun x mx => by rw [List.mem_singleton.mp mx]; exact posted q mq⟩

theorem storesOf_posted (m : Option Mark) {p : List Piece} (nonempty : p ≠ []) (posted : ∀ q ∈ p, ∀ off, q.at_ ≠ .own off) :
    AllPosted (storesOf m p) ∧ storesOf m p ≠ [] := by
  unfold storesOf
  split
  · exact ⟨allPosted_blocks posted, by simpa using nonempty⟩
  · exact ⟨fun r mem => by rw [List.mem_singleton.mp mem]; exact ⟨nonempty, posted⟩, List.cons_ne_nil _ _⟩

theorem storesOf_markOf (s : State) (em : Option GReg) (ps : List Piece) :
    storesOf (markOf s em) ps = if em.isSome then ps.map fun q => [q] else [ps] := by
  cases em <;> rfl

/-- A scalar store form whose checks pass stores the blocks of its bytes. -/
theorem scalarStore_stores {h : Hdr} {regs : List Rn} {a : Addr} {em : Option GReg} {n : Nat} {val : State → Nat} {s : State} {p : Place}
    (c : Issues h (regs ++ addrRn a ++ emRn em) s) (at_ : placeOf a.space (ea s a).toNat = some p) (ok : Storable s true p n) :
    scalarStore h regs a em n val s = .next (doStore (ea s a).toNat (markOf s em)
      (storesOf (markOf s em) (blockPieces p (toBytes n (val s)) (markOf s em))) s) := by
  have checks : checkEls s (scalarNeed needW) a.space [((ea s a).toNat, n)] = .ok [p] :=
    checkEls_storable (els := [0]) (addr := fun _ => (ea s a).toNat) (p := fun _ => p) rfl rfl fun _ _ => ⟨at_, ok⟩
  rw [scalarStore]
  refine (scalar_act s _ c).trans (congrArg _ ?_)
  rw [withPlaces_ok _ checks]
  simp only [List.flatMap_cons, List.flatMap_nil, List.append_nil]
  rfl

theorem toBytes_blocks_posted {s : State} {p : Place} {n x : Nat} (m : Option Mark) (bytes : n ≠ 0) (ok : Storable s true p n) :
    AllPosted (storesOf m (blockPieces p (toBytes n x) m)) ∧ storesOf m (blockPieces p (toBytes n x) m) ≠ [] :=
  storesOf_posted m (blocksOf_ne_nil p m (by rw [toBytes_length]; exact bytes)) (blocksOf_posted _ _ (not_own_of_storable ok))

theorem scalarStore_posts {h : Hdr} {regs : List Rn} {a : Addr} {em : Option GReg} {n : Nat} {val : State → Nat} {s : State} {i : Instr}
    {p : Place} (form : exec i s = scalarStore h regs a em n val s) (c : Issues h (regs ++ addrRn a ++ emRn em) s) (bytes : n ≠ 0)
    (at_ : placeOf a.space (ea s a).toNat = some p) (ok : Storable s true p n) (mark : markBad s (markOf s em) = false) :
    let ps := blockPieces p (toBytes n (val s)) (markOf s em)
    PostsOrWaits s i (if em.isSome then ps.map fun q => [q] else [ps]) := by
  intro ps
  have posted := toBytes_blocks_posted (x := val s) (markOf s em) bytes ok
  rw [← storesOf_markOf s]
  exact postsOrWaits_of_doStore (form.trans (scalarStore_stores c at_ ok)) mark posted.2 posted.1

/-- One more piece among the blocks merged so far. -/
def mergeOne (acc : List Piece) (p : Piece) : List Piece :=
  if acc.any fun q => q.at_.pos / 64 == p.at_.pos / 64 then
    acc.map fun q => if q.at_.pos / 64 = p.at_.pos / 64 then { q with runs := q.runs ++ p.runs } else q
  else acc ++ [p]
theorem mergeBlocks_eq (ps : List Piece) : mergeBlocks ps = ps.foldl mergeOne [] := rfl

theorem mergeOne_ne_nil (acc : List Piece) (p : Piece) : mergeOne acc p ≠ [] := by
  unfold mergeOne
  split
  · next hit => cases acc <;> simp at hit ⊢
  · simp

theorem mergeOne_posted {acc : List Piece} {p : Piece} (was : ∀ q ∈ acc, ∀ off, q.at_ ≠ .own off) (away : ∀ off, p.at_ ≠ .own off) :
    ∀ q ∈ mergeOne acc p, ∀ off, q.at_ ≠ .own off := by
  unfold mergeOne
  split
  · intro q mem
    obtain ⟨r, mr, rfl⟩ := List.mem_map.mp mem
    split <;> exact was r mr
  · intro q mem
    rcases List.mem_append.mp mem with old | new
    · exact was q old
    · rw [List.mem_singleton.mp new]; exact away

theorem mergeBlocks_ne_nil {ps : List Piece} (nonempty : ps ≠ []) : mergeBlocks ps ≠ [] := by
  rw [mergeBlocks_eq, ← List.dropLast_concat_getLast nonempty, List.foldl_concat]
  exact mergeOne_ne_nil _ _

theorem foldl_mergeOne_posted {acc ps : List Piece} (was : ∀ q ∈ acc, ∀ off, q.at_ ≠ .own off)
    (posted : ∀ q ∈ ps, ∀ off, q.at_ ≠ .own off) : ∀ q ∈ ps.foldl mergeOne acc, ∀ off, q.at_ ≠ .own off := by
  induction ps generalizing acc with
  | nil => exact was
  | cons p ps ih =>
    exact ih (mergeOne_posted was (posted p List.mem_cons_self)) fun q m => posted q (List.mem_cons_of_mem _ m)
theorem mergeBlocks_posted {ps : List Piece} (posted : ∀ q ∈ ps, ∀ off, q.at_ ≠ .own off) :
    ∀ q ∈ mergeBlocks ps, ∀ off, q.at_ ≠ .own off :=
  foldl_mergeOne_posted (fun _ m => absurd m List.not_mem_nil) posted

theorem flatten_posted {ps : List (List Piece)} (posted : AllPosted ps) : ∀ q ∈ ps.flatten, ∀ off, q.at_ ≠ .own off := by
  intro q mem
  obtain ⟨r, mr, mq⟩ := List.mem_flatten.mp mem
  exact (posted r mr).2 q mq
theorem flatten_ne_nil {ps : List (List Piece)} (posted : AllPosted ps) (nonempty : ps ≠ []) : ps.flatten ≠ [] := by
  obtain ⟨p, more, rfl⟩ := List.exists_cons_of_ne_nil nonempty
  have first := (posted p List.mem_cons_self).1
  simp [first]

/-- The stores of a vector form: one for each element, or with an earmark one for each block. -/
def vecStores (mark : Bool) (ps : List (List Piece)) : List (List Piece) :=
  if mark then (mergeBlocks ps.flatten).map fun q => [q] else ps

theorem vecStores_posted (mark : Bool) {ps : List (List Piece)} (posted : AllPosted ps) (nonempty : ps ≠ []) :
    AllPosted (vecStores mark ps) ∧ vecStores mark ps ≠ [] := by
  cases mark
  · exact ⟨posted, nonempty⟩
  · exact ⟨allPosted_blocks (mergeBlocks_posted (flatten_posted posted)),
      fun e => mergeBlocks_ne_nil (flatten_ne_nil posted nonempty) (List.map_eq_nil_iff.mp e)⟩

section
variable {sp : Space} {w : Nat} {d : VReg} {em : Option GReg} {s : State} {is : List Nat} {addr : Nat → Nat} {p : Nat → Place}
variable (ok : ∀ j ∈ is, placeOf sp (addr j) = some (p j) ∧ Storable s false (p j) (w / 8)) (mark : markBad s (markOf s em) = false)
include ok mark

/-- A vector store form whose checks pass stores the blocks of its elements. -/
theorem vecStore_stores :
    vecStore sp w d em (is.map fun j => (j, addr j)) s =
      doStore (((is.map fun j => (j, addr j)).head?.map Prod.snd).getD 0) (markOf s em)
        (vecStores em.isSome (is.map fun j => blockPieces (p j) (toBytes (w / 8) (elem w (rdV s d) j)) (markOf s em))) s := by
  have checks : checkEls s needW sp ((deciding s (markOf s em) (is.map fun j => (j, addr j))).map fun e => (e.2, w / 8)) =
      .ok (is.map p) := by
    rw [deciding, if_neg (by rw [mark]; exact Bool.false_ne_true), List.map_map]
    exact checkEls_storable rfl rfl ok
  rw [vecStore, withPlaces_ok _ checks]
  dsimp only
  rw [List.zip_map', List.map_map]
  cases em <;> rfl

theorem vecStore_posts {i : Instr} (form : exec i s = .next (vecStore sp w d em (is.map fun j => (j, addr j)) s)) (nonempty : is ≠ [])
    (bytes : w / 8 ≠ 0) :
    PostsOrWaits s i
      (vecStores em.isSome (is.map fun j => blockPieces (p j) (toBytes (w / 8) (elem w (rdV s d) j)) (markOf s em))) := by
  have each : AllPosted (is.map fun j => blockPieces (p j) (toBytes (w / 8) (elem w (rdV s d) j)) (markOf s em)) := by
    intro r mem
    obtain ⟨j, mj, rfl⟩ := List.mem_map.mp mem
    exact ⟨blocksOf_ne_nil _ _ (by rw [toBytes_length]; exact bytes), blocksOf_posted _ _ (not_own_of_storable (ok j mj).2)⟩
  have posted := vecStores_posted em.isSome each (by simpa using nonempty)
  exact postsOrWaits_of_doStore (form.trans (congrArg _ (vecStore_stores ok mark))) mark posted.2 posted.1
end

theorem activeEls_ne_nil {h : Hdr} {w : Nat} {rs : List Rn} {s : State} (c : VIssues h w rs s) : activeEls h w s ≠ [] := by
  obtain ⟨i, mem, on⟩ := List.any_eq_true.mp c.guard
  exact List.ne_nil_of_mem (List.mem_filter.mpr ⟨mem, on⟩)
theorem vsizeBytes_ne_zero (z : VSize) : vsizeWidth z / 8 ≠ 0 := by cases z <;> decide

theorem stv_posts {h : Hdr} {o : StvO} {s : State} {p : Nat → Place}
    (c : VIssues h (vsizeWidth o.size) (.v o.d :: addrRn o.a ++ emRn o.em) s) (mark : markBad s (markOf s o.em) = false)
    (ok : ∀ i ∈ activeEls h (vsizeWidth o.size) s, placeOf o.a.space (ldvAddr s o.a (vsizeWidth o.size) i) = some (p i) ∧
      Storable s false (p i) (vsizeWidth o.size / 8)) :
    let ps := (activeEls h (vsizeWidth o.size) s).map fun i =>
      blockPieces (p i) (toBytes (vsizeWidth o.size / 8) (elem (vsizeWidth o.size) (rdV s o.d) i)) (markOf s o.em)
    PostsOrWaits s (.stv h o) (if o.em.isSome then (mergeBlocks ps.flatten).map fun q => [q] else ps) := by
  simp only [ldvAddr_eq] at ok
  refine vecStore_posts ok mark ?_ (activeEls_ne_nil c) (vsizeBytes_ne_zero _)
  rw [exec_stv, execStv]
  exact vector_act s _ c
theorem stvs_posts {h : Hdr} {o : VsO} {s : State} {p : Nat → Place} (c : VIssues h (vsizeWidth o.size) (.v o.d :: addrRn o.a) s)
    (ok : ∀ i ∈ activeEls h (vsizeWidth o.size) s, placeOf o.a.space (strideAddr s o.a i) = some (p i) ∧
      Storable s false (p i) (vsizeWidth o.size / 8)) :
    PostsOrWaits s (.stvs h o) ((activeEls h (vsizeWidth o.size) s).map fun i =>
      blockPieces (p i) (toBytes (vsizeWidth o.size / 8) (elem (vsizeWidth o.size) (rdV s o.d) i)) none) := by
  refine vecStore_posts (em := none) ok (markBad_none s) ?_ (activeEls_ne_nil c) (vsizeBytes_ne_zero _)
  rw [exec_stvs, execStvs]
  exact vector_act s _ c
theorem scat_posts {h : Hdr} {o : GsO} {s : State} {p : Nat → Place} (c : VIssues h (vsizeWidth o.size) [.v o.d, .g o.base, .v o.x] s)
    (ok : ∀ i ∈ activeEls h (vsizeWidth o.size) s, placeOf o.space (gatherAddr s o (vsizeWidth o.size) i) = some (p i) ∧
      Storable s false (p i) (vsizeWidth o.size / 8)) :
    PostsOrWaits s (.scat h o) ((activeEls h (vsizeWidth o.size) s).map fun i =>
      blockPieces (p i) (toBytes (vsizeWidth o.size / 8) (elem (vsizeWidth o.size) (rdV s o.d) i)) none) := by
  refine vecStore_posts (em := none) (addr := gatherAddr s o (vsizeWidth o.size)) ok (markBad_none s) ?_ (activeEls_ne_nil c)
    (vsizeBytes_ne_zero _)
  rw [exec_scat, execScat]
  refine (vector_act s _ c).trans (congrArg _ ?_)
  rw [offsetEls_eq]
  rfl

/-! ## A store within one block of device memory (R150, R239) -/

/-- The bytes of one block are one piece. -/
theorem blocksOf_block {va n : Nat} {bs : List Byte} (m : Option Mark) (len : bs.length = n) (nonempty : n ≠ 0) (fits : va % 64 + n ≤ 64) :
    blocksOf (.virt va) bs m = [⟨.virt va, [(va, bs)], m, none⟩] := by
  have one : (va + n - 1) / 64 + 1 - va / 64 = 1 := by omega
  have lo : Nat.max va (va / 64 * 64) = va := Nat.max_eq_left (Nat.div_mul_le_self va 64)
  have hi : Nat.min (va + n) ((va / 64 + 1) * 64) = va + n := Nat.min_eq_left (by omega)
  have pieces : pieces 64 va n = [(va, n)] := by
    simp only [Machine.pieces, nonempty, if_false, one, List.range_one, List.map_cons, List.map_nil, Nat.add_zero, lo, hi,
      Nat.add_sub_cancel_left]
  rw [blocksOf, show (Place.virt va).pos = va from rfl, len, pieces]
  simp only [List.map_cons, List.map_nil, Place.plus, Nat.sub_self, Nat.add_zero, List.drop_zero, ← len, List.take_length]

theorem myCroft_updMe_l1 (s : State) (f : Context → Context) : (myCroft (updMe s f)).l1 = (myCroft s).l1 := by
  show (croftAt (setCroft s s.cur.1 _) s.cur.1).l1 = _
  rw [croftAt_setCroft_self]; rfl

theorem myCroft_send (s : State) (f : Flight) : myCroft (send s f) = myCroft s := rfl

theorem l1_dropL1 (s : State) (c va n : Nat) :
    (croftAt (dropL1 s c va n) c).l1 = (croftAt s c).l1.filter fun l => !(va / 32 ≤ l.la && l.la ≤ (va + n - 1) / 32) := by
  rw [dropL1, croftAt_setCroft_self]

/-- The lines of a run of bytes are out of the L1 once its store has gone. -/
theorem l1_dropAll (c : Nat) (rs : List (Nat × List Byte)) (u : State) {l : L1Line}
    (held : l ∈ (croftAt (dropAll c rs u) c).l1) :
    l ∈ (croftAt u c).l1 ∧ ∀ q ∈ rs, ¬ (q.1 / 32 ≤ l.la ∧ l.la ≤ (q.1 + q.2.length - 1) / 32) := by
  induction rs generalizing u with
  | nil => exact ⟨held, fun _ m => absurd m List.not_mem_nil⟩
  | cons r rs ih =>
    obtain ⟨was, out⟩ := ih _ held
    rw [l1_dropL1, List.mem_filter] at was
    obtain ⟨was, away⟩ := was
    refine ⟨was, fun q m => ?_⟩
    rcases List.mem_cons.mp m with rfl | later
    · rintro ⟨lo, hi⟩
      simp [lo, hi] at away
    · exact out q later

theorem tenants_dropAll (c : Nat) (rs : List (Nat × List Byte)) (u : State) :
    (dropAll c rs u).tenants = u.tenants := by
  induction rs generalizing u with
  | nil => rfl
  | cons r rs ih => exact ih _

/-- The posting of one packet to device memory. -/
theorem postStore_virt (s : State) (va : Nat) (runs : List (Nat × List Byte)) (m : Option Mark) :
    (postStore s [⟨.virt va, runs, m, none⟩]).tenants = s.tenants ∧
      ∀ l ∈ (myCroft (postStore s [⟨.virt va, runs, m, none⟩])).l1, ∀ q ∈ runs,
        ¬ (q.1 / 32 ≤ l.la ∧ l.la ≤ (q.1 + q.2.length - 1) / 32) := by
  have classes : postClasses s [⟨.virt va, runs, m, none⟩] = [storeClass s (.virt va)] :=
    postClasses_eq (p := [⟨.virt va, runs, m, none⟩]) fun q mem off => by rw [List.mem_singleton.mp mem]; exact Place.noConfusion
  let lines := if m.isSome then (va / 64 * 64, List.replicate 64 0) :: runs else runs
  obtain ⟨flight, count, form⟩ : ∃ flight count, postStore s [⟨.virt va, runs, m, none⟩] =
      updMe (send (dropAll s.cur.1 lines (tick s)) flight) count := by
    simp only [postStore, classes]
    exact ⟨_, _, rfl⟩
  rw [form]
  have cur : (dropAll s.cur.1 lines (tick s)).cur = s.cur := (sent_dropAll lines (sent_tick _ s) rfl).1.cur
  refine ⟨tenants_dropAll _ lines (tick s), fun l held q mem => ?_⟩
  rw [myCroft_updMe_l1, myCroft_send, myCroft, cur] at held
  refine (l1_dropAll _ lines _ held).2 q ?_
  unfold lines
  split
  · exact List.mem_cons_of_mem _ mem
  · exact mem

/-- A store within one 64-byte block of device memory is one packet in one class, sent where its count is below 255. -/
theorem st_block {h : Hdr} {o : StO} {s : State} {va : Nat} (c : Issues h ([.g o.d] ++ addrRn o.a ++ emRn o.em) s) (fresh : (me s).sub = 0)
    (mark : markBad s (markOf s o.em) = false) (at_ : placeOf o.a.space (ea s o.a).toNat = some (.virt va))
    (ok : Storable s true (.virt va) (2 ^ o.size.val)) (fits : va % 64 + 2 ^ o.size.val ≤ 64) :
    let p : Piece := ⟨.virt va, [(va, toBytes (2 ^ o.size.val) (rdG s o.d).toNat)], markOf s o.em, none⟩
    exec (.st h o) s = .next (if postsFit s [[p]] then retire (postStore s [p]) else waitTurn s) := by
  intro p
  have nonempty : 2 ^ o.size.val ≠ 0 := (Nat.two_pow_pos _).ne'
  have posted := toBytes_blocks_posted (x := (rdG s o.d).toNat) (markOf s o.em) nonempty ok
  have one : storesOf (markOf s o.em) (blockPieces (.virt va) (toBytes (2 ^ o.size.val) (rdG s o.d).toNat) (markOf s o.em)) = [[p]] := by
    rw [blockPieces, blocksOf_block _ (toBytes_length _ _) nonempty fits, storesOf]
    split <;> rfl
  rw [one] at posted
  rw [exec_st, execSt, scalarStore_stores c at_ ok, one, doStore_posted _ fresh mark posted.2 posted.1]
  rfl

theorem storesIn_one (s : State) (k : Nat) (p : Piece) : storesIn s k [[p]] = if storeClass s p.at_ = k then 1 else 0 := by
  rw [storesIn_cons, countsIn, List.any_cons, List.any_nil, Bool.or_false]
  simp only [beq_iff_eq]
  rfl

/-- One packet fits where the count of its class is below 255, no count being above it. -/
theorem postsFit_one {s : State} {p : Piece} (away : ∀ off, p.at_ ≠ .own off) (o1 : (me s).o1 ≤ 255) (o2 : (me s).o2 ≤ 255)
    (o3 : (me s).o3 ≤ 255) : postsFit s [[p]] = true ↔ countOf (storeClass s p.at_) (me s) < 255 := by
  have posted : AllPosted [[p]] := allPosted_blocks (p := [p]) fun q m => by rw [List.mem_singleton.mp m]; exact away
  rw [postsFit_iff posted]
  simp only [List.mem_cons, List.not_mem_nil, or_false, forall_eq_or_imp, forall_eq, storesIn_one]
  rcases storeClass_pos (s := s) away with one | two
  · simp [one, countOf]; omega
  · simp [two, countOf]; omega

/-- Settles O24: a form that passes its checks posts its stores, each of which sends its packets. -/
theorem virtualStores : Obligations.VirtualStores := by
  unfold Obligations.VirtualStores
  refine ⟨?block, ?st, ?stq, fun h o s p c mark ok => stv_posts c mark ok, fun h o s p _ c ok => stvs_posts c ok,
    fun h o s p _ c ok => scat_posts c ok⟩
  case block =>
    intro h o s va c fresh mark n at_ covered fits r k bs o1 o2 o3
    have does := st_block c fresh mark at_ (show Storable s true (.virt va) n from covered) fits
    let p : Piece := ⟨.virt va, [(va, bs)], markOf s o.em, none⟩
    have away : ∀ q ∈ [p], ∀ off, q.at_ ≠ .own off := fun q m off => by rw [List.mem_singleton.mp m]; exact Place.noConfusion
    have room : postsFit s [[p]] = true ↔ countOf k (me s) < 255 := postsFit_one (away p List.mem_cons_self) o1 o2 o3
    have cls : k ∈ [1, 2, 3] := by
      rcases storeClass_pos (s := s) (away p List.mem_cons_self) with one | two
      · rw [show k = 1 from one]; decide
      · rw [show k = 2 from two]; decide
    refine ⟨fun full => ?_, fun free => ⟨retire (postStore s [p]), ?_, ?_⟩⟩
    · rw [does, if_neg]
      exact fun fit => absurd (room.mp fit) (Nat.not_lt.mpr full)
    · rw [does, if_pos (room.mpr free)]
    obtain ⟨sends, -, counts, net, record⟩ := postStore_posts (s := s) (List.cons_ne_nil p []) away
    obtain ⟨tenants, lines⟩ := postStore_virt s va [(va, bs)] (markOf s o.em)
    have counted : countsIn s k [p] = true := by simp [countsIn, p]; rfl
    rw [me_retire]
    refine ⟨sends.part Context.regs, sends.nextSlot_eq, ?_, ?_, record, ?_, sends.mem, tenants, sends.banks⟩
    · exact net
    · have one := counts k cls
      rw [counted, if_pos rfl] at one
      exact one
    · intro l held
      have mine : (myCroft (retire (postStore s [p]))).l1 = (myCroft (postStore s [p])).l1 := myCroft_updMe_l1 _ _
      have out := lines l (mine ▸ held) (va, bs) List.mem_cons_self
      rwa [toBytes_length] at out
  case st =>
    intro h o s p c at_ ok mark
    exact scalarStore_posts (exec_st h o s) c (Nat.two_pow_pos _).ne' at_ ok mark
  case stq =>
    intro h o s p _ c at_ ok mark
    exact scalarStore_posts (val := fun s => (rdG s o.d).toNat + (rdG s (o.d + 1)).toNat * 2 ^ 64) (exec_stq h o s) c (by decide) at_ ok
      mark

end Sys2Proof.Machine
end

section
namespace Sys2Proof.Machine

/-! ## The state at power good (R387) -/

/-- Paddock 0 holds every field, and no other paddock is there. -/
theorem padAt_reset (p : Nat) : padAt State.reset p = if p = 0 then ⟨BitVec.allOnes 72, 0, false, 0⟩ else Paddock.empty := by
  simp only [padAt, State.reset, sread, eq_comm]

/-- Settles O60: nothing but paddock 0 is listed, so every other part reads as an empty one. -/
theorem resetState : Obligations.ResetState := by
  unfold Obligations.ResetState
  refine ⟨by decide, fun d => ?die, fun p => ?pad, fun b => ?set, fun q => ?queue, fun f p => rfl, fun g e => rfl, fun t => ?ten,
    fun c => ?croft, fun c i => ?ctx, fun a => ⟨rfl, rfl⟩, wf_reset⟩
  case die => rw [show dieAt State.reset d = Die.empty from rfl]; decide
  case pad => rw [padAt_reset]; by_cases h : p = 0 <;> simp [h, Paddock.empty]
  case set => rw [show setAtId State.reset b = TSet.empty from rfl]; decide
  case queue => rw [show queueAt State.reset q = Queue.empty from rfl]; decide
  case ten => rw [show tenAt State.reset t = Tenant.empty from rfl]; decide
  case croft => rw [show croftAt State.reset c = Croft.empty from rfl]; decide
  case ctx => rw [show ctxAt State.reset c i = Context.empty from rfl]; exact ⟨rfl, rfl, rfl⟩

end Sys2Proof.Machine
end

section
namespace Sys2Proof.Machine

/-! ## VXACC and VCVT (R142 to R146) -/

/-- The two signed readings of the low bits of a number are one. -/
theorem toS_eq_sgn (w x : Nat) : toS w x = sgn w x := (toInt_ofNat_eq_toS w x).symm

/-- A register filled element by element, nothing raised, and a retirement. -/
theorem vput_retires (s : State) (w : Nat) (h : Hdr) (d : VReg) (f : Nat → Nat) :
    ∃ x, Retired s (vput w h d f s) (putV (me s).regs d x) ∧ EachElem w (guardBits h s) (getV (me s).regs d) x f :=
  ⟨_, retired_updRegs s fun r => putV r d _, elem_vmap w _ _ _⟩

/-- What a vector result says of the elements depends on those of the register alone. -/
theorem VecRetired.congr {s t : State} {w : Nat} {g : PWord} {d : VReg} {f f' : Nat → Nat × Nat} (r : VecRetired s t w g d f)
    (same : ∀ i < 1024 / w, f i = f' i) : VecRetired s t w g d f' := by
  obtain ⟨x, fl, elems, flags, frame⟩ := r
  refine ⟨x, fl, fun i hi => ?_, fun b => (flags b).trans ?_, frame⟩
  · exact (elems i hi).trans (by simp only [same i hi])
  · exact exists_congr fun i => and_congr_right fun hi => by rw [same i hi]

/-- A mapped vector result of an instruction that issues. -/
theorem vector_vmap_retires {h : Hdr} {w : Nat} {rs : List Rn} {s : State} {d : VReg} {f : State → Nat → Nat × Nat} (c : VIssues h w rs s) :
    ∃ t, vector h w rs (fun s => let r := vmap w (guardBits h s) (getV (me s).regs d) (f s)
      retire (raiseFlags (wrV s d r.1) r.2)) s = .next t ∧ VecRetired s t w (guardBits h s) d (f s) :=
  ⟨_, vector_act s _ c, vecRetired_vmap s w _ d _⟩

/-- An addend is saturated where its magnitude reaches 2^46 (R54). -/
theorem saturated_addend (x : Int) :
    (if decide (2 ^ 46 ≤ x.natAbs) = true then x.sign * (2 ^ 46 - 1) else x) = Max.max (-(2 ^ 46 - 1)) (Min.min (2 ^ 46 - 1) x) := by
  rcases lt_trichotomy x 0 with neg | rfl | pos
  · rw [Int.sign_eq_neg_one_of_neg neg]; split <;> simp_all <;> omega
  · decide
  · rw [Int.sign_eq_one_of_pos pos]; split <;> simp_all <;> omega

theorem addend_invalid (x : Int) : (if decide (2 ^ 46 ≤ x.natAbs) = true then NV else 0) = if |x| < 2 ^ 46 then 0 else NV := by
  have iff : 2 ^ 46 ≤ x.natAbs ↔ ¬ |x| < 2 ^ 46 := by rw [Int.abs_eq_natAbs]; omega
  simp only [decide_eq_true_eq, iff, ite_not]

/-- What VXACC.add gives an accumulator of pattern z, an addend x and an exponent e, with its flag. -/
def accStep (z : Nat) (x : Int) (e : Int) : Nat × Nat :=
  (accPack (accAdd (accUnpack z) (Max.max (-(2 ^ 46 - 1)) (Min.min (2 ^ 46 - 1) x)) e), if |x| < 2 ^ 46 then 0 else NV)

theorem vxaccAdd_eq (h : Hdr) (d a : VReg) (b : VSrc) (s : State) :
    exec (.vxaccAdd h d a b) s = vector h 64 ([.v d, .v a] ++ vsrcRn b) (fun s =>
      let r := vmap 64 (guardBits h s) (getV (me s).regs d) fun i => accStep (elem 64 (rdV s d) i) (sgn 64 (elem 64 (rdV s a) i))
        (match b with | .reg r => sgn 16 (elem 64 (rdV s r) i) | .imm k => sgn 16 k.toNat)
      retire (raiseFlags (wrV s d r.1) r.2)) s := by
  rw [exec_vxaccAdd, execVxaccAdd]
  cases b <;> simp only [toS_eq_sgn, saturated_addend, addend_invalid, accStep]

/-- Between types of one width there is one part (R145). -/
theorem vcvt_part_zero {h : Hdr} {o : VCvtO} (k : wf (.vcvt h o) = true) (same : o.t.width = o.s.width) : o.part.val = 0 := by
  have part : o.part.val < Nat.max o.s.width o.t.width / Nat.min o.s.width o.t.width := by simp_all [wf]
  have pos : 0 < o.s.width := by cases o.s <;> decide
  simpa [same, Nat.div_self pos] using part

/-- Settles O20: each form is a map over the elements. -/
theorem accumulatorAndConvertResults : Obligations.AccumulatorAndConvertResults := by
  unfold Obligations.AccumulatorAndConvertResults
  refine ⟨fun h d s c => ?clr, fun h d a b s c => ?add, fun h ty d a s _ c => ?rd, fun h o s w c => ?cvt⟩
  case clr =>
    obtain ⟨x, r, e⟩ := vput_retires s 64 h d fun _ => 0x800000000000
    exact ⟨_, x, vector_act s _ c, r, e⟩
  case add =>
    rw [vxaccAdd_eq]
    refine (vector_vmap_retires c).imp fun t r => ⟨r.1, r.2.congr fun i _ => ?_⟩
    cases b <;> rfl
  case rd => rw [exec_vxaccRd, execVxaccRd]; exact vector_vmap_retires c
  case cvt =>
    rw [exec_vcvt, execVcvt]
    refine (vector_vmap_retires c).imp fun t r => ⟨r.1, r.2.congr fun i hi => ?_⟩
    simp only [Bool.and_eq_true, decide_eq_true_eq]
    rcases lt_trichotomy o.s.width o.t.width with wider | same | narrower
    · rw [if_neg wider.ne', if_neg wider.asymm, if_pos wider]; rfl
    · rw [if_pos same.symm, if_neg same.not_lt, vcvt_part_zero w same.symm, same, Nat.zero_mul, if_pos (by omega), Nat.sub_zero]
    · rw [if_neg narrower.ne, if_pos narrower, if_neg narrower.asymm]; rfl

end Sys2Proof.Machine
end

section
namespace Sys2Proof.Machine

/-! ## Reductions (R58, R138 to R140) -/

/-- A type that an instruction reduces by op: any integer type, or a floating one by add, min or max. -/
def Reduces (op : RedOp) (t : ElemType) : Prop := t.inI = true ∨ t.inFS = true ∧ op ∈ [RedOp.add, .min, .max]
/-- What a tree's node may hold: no value, or one that its type has room for. -/
def Fits (t : ElemType) (a : Option Nat) : Prop := ∀ x, a = some x → t.inI = true → x < 2 ^ t.width

theorem reduces_of_vred {h : Hdr} {op : RedOp} {t : ElemType} {d : GReg} {a : VReg} {c : PReg} (k : wf (.vred h op t d a c) = true) :
    Reduces op t := by
  simp only [wf, Bool.or_eq_true, Bool.and_eq_true, beq_iff_eq] at k
  exact k.imp_right fun ⟨flt, ops⟩ => ⟨flt, by simpa [or_assoc] using ops⟩
theorem reduces_of_vscan {h : Hdr} {op : RedOp} {t : ElemType} {d a : VReg} {c : PReg} (k : wf (.vscan h op t d a c) = true) :
    Reduces op t := by
  simp only [wf, Bool.or_eq_true, Bool.and_eq_true, beq_iff_eq] at k
  obtain ⟨ty, ops⟩ := k
  exact ty.imp_right fun flt => ⟨flt, by simpa [or_assoc] using ops⟩

theorem isSigned_of_inI {t : ElemType} (int : t.inI = true) : ElemType.isSigned t = t.inS := by
  cases t <;> simp_all [ElemType.inI, ElemType.isSigned, ElemType.inS]

/-- An element that its integer type has room for, as the type reads it. -/
theorem readI_eq_asInt {t : ElemType} (int : t.inI = true) {x : Nat} (fits : x < 2 ^ t.width) : readI t x = asInt t x := by
  have t2 : t ≠ .t2 := by rintro rfl; exact absurd int (by decide)
  rw [readI, isSigned_of_inI int, asInt, toS_eq_sgn, Nat.mod_eq_of_lt fits]
  exact fun h => t2 h

theorem wrapTo_lt (w : Nat) (z : Int) : wrapTo w z < 2 ^ w := by
  have pos : (0 : Int) < 2 ^ w := by positivity
  rw [wrapTo, Int.toNat_lt (Int.emod_nonneg _ pos.ne')]
  exact_mod_cast Int.emod_lt_of_pos z pos

/-- The model's node is the one the statement gives. -/
theorem redNode_eq_nodeValue {op : RedOp} {t : ElemType} (ok : Reduces op t) (md : FMode) {x y : Nat}
    (hx : t.inI = true → x < 2 ^ t.width) (hy : t.inI = true → y < 2 ^ t.width) : redNode op t md x y = nodeValue op t md x y := by
  rcases ok with int | ⟨flt, ops⟩
  · have a := readI_eq_asInt int (hx int)
    have b := readI_eq_asInt int (hy int)
    cases op <;> simp only [redNode, nodeValue, int, if_true, intOr, isInt_of_inI int, a, b] <;> rfl
  · have noInt : t.inI = false := by cases t <;> simp_all [ElemType.inI, ElemType.inFS]
    have inF : t.inF = true := by cases t <;> simp_all [ElemType.inF, ElemType.inFS]
    simp only [List.mem_cons, List.not_mem_nil, or_false] at ops
    rcases ops with rfl | rfl | rfl <;> simp [redNode, nodeValue, noInt, intOr_of_inF inF]

theorem nodeValue_lt {op : RedOp} {t : ElemType} (md : FMode) {x y : Nat} (int : t.inI = true) (hx : x < 2 ^ t.width)
    (hy : y < 2 ^ t.width) : (nodeValue op t md x y).1 < 2 ^ t.width := by
  cases op <;> simp only [nodeValue, int, if_true]
  case and => exact Nat.and_lt_two_pow _ hy
  case or => exact Nat.or_lt_two_pow hx hy
  case xor => exact Nat.xor_lt_two_pow hx hy
  all_goals exact wrapTo_lt _ _

theorem redPair_eq_joinPresent {op : RedOp} {t : ElemType} (ok : Reduces op t) (md : FMode) {a b : Option Nat} (ha : Fits t a) (hb : Fits t b) :
    redPair op t md a b = joinPresent (nodeValue op t md) (a, 0) (b, 0) := by
  cases a <;> cases b <;> simp only [redPair, joinPresent, Nat.or_self]
  case some x y => rw [redNode_eq_nodeValue ok md (ha x rfl) (hb y rfl), Nat.zero_or]

theorem fits_joinPresent {op : RedOp} {t : ElemType} {md : FMode} {a b : Option Nat × Nat} (ha : Fits t a.1) (hb : Fits t b.1) :
    Fits t (joinPresent (nodeValue op t md) a b).1 := by
  obtain ⟨a, _⟩ := a
  obtain ⟨b, _⟩ := b
  cases a <;> cases b <;> simp only [joinPresent]
  case some.some x y =>
    rintro _ ⟨⟩ int
    exact nodeValue_lt md int (ha x rfl int) (hb y rfl int)
  all_goals assumption

/-! ### The tree, level by level -/

/-- All the flags of a list. -/
def orAll (l : List Nat) : Nat := l.foldr (· ||| ·) 0
theorem orAll_append (l r : List Nat) : orAll (l ++ r) = orAll l ||| orAll r := by
  induction l with
  | nil => simp [orAll]
  | cons x xs ih => simp only [orAll, List.cons_append, List.foldr_cons] at ih ⊢; rw [ih, Nat.or_assoc]

variable (f : Nat → Nat → Nat × Nat) (y : Nat → Option Nat)

/-- The values that the lowest level of the tree passes on, and the flags of its nodes below node i of level k + 1. -/
def passedOn (i : Nat) : Option Nat := (treeValue f y 1 i).1
def lowestFlags (k i : Nat) : Nat := orAll ((List.range' (i * 2 ^ k) (2 ^ k)).map fun j => (treeValue f y 1 j).2)

theorem lowestFlags_succ (k i : Nat) : lowestFlags f y (k + 1) i = lowestFlags f y k (2 * i) ||| lowestFlags f y k (2 * i + 1) := by
  have split : List.range' (i * 2 ^ (k + 1)) (2 ^ (k + 1)) = List.range' (2 * i * 2 ^ k) (2 ^ k) ++ List.range' ((2 * i + 1) * 2 ^ k) (2 ^ k) := by
    rw [show (2 * i + 1) * 2 ^ k = 2 * i * 2 ^ k + 2 ^ k by ring, show i * 2 ^ (k + 1) = 2 * i * 2 ^ k by ring,
      show 2 ^ (k + 1) = 2 ^ k + 2 ^ k by ring, List.range'_append_1]
  rw [lowestFlags, split, List.map_append, orAll_append, lowestFlags, lowestFlags]

/-- A tree is its lowest level and the tree over what that passes on. -/
theorem treeValue_lowest (k i : Nat) :
    treeValue f y (k + 1) i = ((treeValue f (passedOn f y) k i).1, lowestFlags f y k i ||| (treeValue f (passedOn f y) k i).2) := by
  induction k generalizing i with
  | zero => simp [treeValue, lowestFlags, orAll, passedOn]
  | succ k ih =>
    rw [treeValue, ih, ih, lowestFlags_succ, treeValue]
    generalize treeValue f (passedOn f y) k (2 * i) = a
    generalize treeValue f (passedOn f y) k (2 * i + 1) = b
    obtain ⟨a, p⟩ := a
    obtain ⟨b, q⟩ := b
    cases a <;> cases b <;> simp only [joinPresent, Prod.mk.injEq, true_and] <;> ac_rfl

variable {op : RedOp} {t : ElemType} (md : FMode) {y}

theorem redLevel_range (ok : Reduces op t) (fits : ∀ i, Fits t (y i)) (m a : Nat) :
    redLevel op t md ((List.range' (2 * a) (2 * m)).map y) =
      ((List.range' a m).map (passedOn (nodeValue op t md) y), orAll ((List.range' a m).map fun j => (treeValue (nodeValue op t md) y 1 j).2)) := by
  induction m generalizing a with
  | zero => rfl
  | succ m ih =>
    rw [show 2 * (m + 1) = 2 * m + 1 + 1 by ring, List.range'_succ, List.range'_succ, show 2 * a + 1 + 1 = 2 * (a + 1) by ring, List.range'_succ,
      List.map_cons, List.map_cons, redLevel, ih, redPair_eq_joinPresent ok md (fits _) (fits _)]
    rfl

/-- The tree of R58 leaves its root and the flags raised below it. -/
theorem redTree_range (ok : Reduces op t) (k : Nat) (fits : ∀ i, Fits t (y i)) :
    redTree op t md k ((List.range (2 ^ k)).map y) =
      ([(treeValue (nodeValue op t md) y k 0).1], (treeValue (nodeValue op t md) y k 0).2) := by
  induction k generalizing y with
  | zero => rfl
  | succ k ih =>
    have up : ∀ i, Fits t (passedOn (nodeValue op t md) y i) := fun i => fits_joinPresent (fits _) (fits _)
    have level := redLevel_range md ok fits (2 ^ k) 0
    rw [redTree, List.range_eq_range', pow_succ', level, ← List.range_eq_range', ih up, treeValue_lowest, lowestFlags, Nat.zero_mul,
      List.range_eq_range']

/-! ### The running reduction -/

/-- One step of a scan: what has been reduced so far, joined with the next element. -/
def scanStep (f : Nat → Nat → Nat × Nat) (y : Nat → Option Nat) (z : Option Nat × Nat) (i : Nat) : Option Nat × Nat := joinPresent f z (y i, 0)

theorem joinPresent_flags (f : Nat → Nat → Nat × Nat) (a b : Option Nat) (p : Nat) :
    joinPresent f (a, p) (b, 0) = ((joinPresent f (a, 0) (b, 0)).1, p ||| (joinPresent f (a, 0) (b, 0)).2) := by
  cases a <;> cases b <;> simp [joinPresent]

theorem scanList_eq (ok : Reduces op t) (fits : ∀ i, Fits t (y i)) (is : List Nat) (acc : Option Nat) (p : Nat) (small : Fits t acc) :
    (is.foldl (scanStep (nodeValue op t md) y) (acc, p)).2 = p ||| (scanList op t md acc (is.map y)).2 ∧
    ∀ i < is.length, nth (scanList op t md acc (is.map y)).1 i =
      some (((is.take (i + 1)).foldl (scanStep (nodeValue op t md) y) (acc, p)).1.getD (redIdentity op t)) := by
  induction is generalizing acc p with
  | nil => exact ⟨by simp [scanList], fun i hi => absurd hi (Nat.not_lt_zero i)⟩
  | cons j js ih =>
    obtain ⟨flags, vals⟩ := ih (joinPresent (nodeValue op t md) (acc, 0) (y j, 0)).1 (p ||| (joinPresent (nodeValue op t md) (acc, 0) (y j, 0)).2)
      (fits_joinPresent small (fits j))
    simp only [List.map_cons, scanList, redPair_eq_joinPresent ok md small (fits j), List.foldl_cons, List.take_succ_cons]
    rw [show scanStep (nodeValue op t md) y (acc, p) j = _ from joinPresent_flags _ acc (y j) p]
    refine ⟨flags.trans (Nat.or_assoc _ _ _), fun i hi => ?_⟩
    cases i with
    | zero => rfl
    | succ i => exact vals i (Nat.lt_of_succ_lt_succ hi)

/-! ### Integer sums -/

theorem sgn_emod (w x : Nat) : sgn w x % 2 ^ w = (x : Int) % 2 ^ w := by
  have range : (2 : Int) ^ w = ((2 ^ w : Nat) : Int) := by push_cast; rfl
  rw [sgn, BitVec.toInt_eq_toNat_bmod, BitVec.toNat_ofNat, range, Int.bmod_emod, Int.natCast_mod, Int.emod_emod_of_dvd _ (dvd_refl _)]

theorem asInt_emod (t : ElemType) (x : Nat) : asInt t x % 2 ^ t.width = (x : Int) % 2 ^ t.width := by
  rw [asInt]; split
  · exact sgn_emod _ x
  · rfl

/-- A node that adds gives the sum modulo the range of the type. -/
theorem nodeValue_add_mod {t : ElemType} (int : t.inI = true) (x z : Nat) :
    (nodeValue .add t md x z).1 % 2 ^ t.width = (x + z) % 2 ^ t.width := by
  have pos : (0 : Int) < 2 ^ t.width := by positivity
  simp only [nodeValue, int, if_true, wrapTo]
  zify
  rw [Int.toNat_of_nonneg (Int.emod_nonneg _ pos.ne'), Int.emod_emod_of_dvd _ (dvd_refl _), Int.add_emod, asInt_emod, asInt_emod, ← Int.add_emod]

theorem joinPresent_add_mod {t : ElemType} (int : t.inI = true) (a b : Option Nat × Nat) :
    (joinPresent (nodeValue .add t md) a b).1.getD 0 % 2 ^ t.width = (a.1.getD 0 + b.1.getD 0) % 2 ^ t.width := by
  obtain ⟨a, _⟩ := a
  obtain ⟨b, _⟩ := b
  cases a <;> cases b <;> simp only [joinPresent, Option.getD_some, Option.getD_none, Nat.add_zero, Nat.zero_add]
  exact nodeValue_add_mod md int _ _

/-- Node i of level k of an adding tree holds the sum of the 2^k values below it. -/
theorem treeValue_add_mod {t : ElemType} (int : t.inI = true) (y : Nat → Option Nat) (k i : Nat) :
    (treeValue (nodeValue .add t md) y k i).1.getD 0 % 2 ^ t.width =
      ((List.range' (i * 2 ^ k) (2 ^ k)).map fun j => (y j).getD 0).sum % 2 ^ t.width := by
  induction k generalizing i with
  | zero => simp [treeValue]
  | succ k ih =>
    have split : List.range' (i * 2 ^ (k + 1)) (2 ^ (k + 1)) = List.range' (2 * i * 2 ^ k) (2 ^ k) ++ List.range' ((2 * i + 1) * 2 ^ k) (2 ^ k) := by
      rw [show (2 * i + 1) * 2 ^ k = 2 * i * 2 ^ k + 2 ^ k by ring, show i * 2 ^ (k + 1) = 2 * i * 2 ^ k by ring,
        show 2 ^ (k + 1) = 2 ^ k + 2 ^ k by ring, List.range'_append_1]
    rw [treeValue, joinPresent_add_mod md int, Nat.add_mod, ih, ih, ← Nat.add_mod, split, List.map_append, List.sum_append]

theorem sum_map_filter (p : Nat → Bool) (g : Nat → Nat) (l : List Nat) :
    ((l.filter p).map g).sum = (l.map fun i => if p i then g i else 0).sum := by
  induction l with
  | nil => rfl
  | cons x xs ih => by_cases h : p x <;> simp [h, ih]

/-! ### The instructions -/

/-- Every type divides the register into a power of two of elements. -/
theorem two_pow_log2_numElems (t : ElemType) : 2 ^ Nat.log2 (1024 / t.width) = 1024 / t.width := by
  cases t <;> decide

theorem presentElems_eq {op : RedOp} {t : ElemType} (ok : Reduces op t) (h : Hdr) (a : VReg) (c : PReg) (s : State) :
    presentElems h t a c s = (List.range (1024 / t.width)).map (presentAt h t a c s) := by
  have int : ElemType.isInt t = t.inI := by rcases ok with k | ⟨k, _⟩ <;> cases t <;> simp_all [ElemType.isInt, ElemType.inI, ElemType.inFS]
  simp only [presentElems, flushElem, int]
  rfl

theorem fits_presentAt (h : Hdr) (t : ElemType) (a : VReg) (c : PReg) (s : State) (i : Nat) : Fits t (presentAt h t a c s i) := by
  intro x e int
  simp only [presentAt, int, if_true] at e
  split at e
  · injection e with e; rw [← e]; exact Nat.mod_lt _ (by positivity)
  · cases e

theorem redIdentity_eq {op : RedOp} {t : ElemType} (ok : Reduces op t) : redIdentity op t = nothingReduced op t := by
  cases t
  case s4 => simp [Reduces, ElemType.inI, ElemType.inFS] at ok
  case t2 => simp [Reduces, ElemType.inI, ElemType.inFS] at ok
  all_goals cases op <;> rfl

/-- An element of a reduced type extended to a general register (R139). -/
theorem extended_eq {op : RedOp} {t : ElemType} (ok : Reduces op t) (v : Nat) :
    (if ElemType.isSigned t then BitVec.ofInt 64 (readI t v) else BitVec.ofNat 64 v) =
      if t.inS then BitVec.ofInt 64 (sgn t.width v) else BitVec.ofNat 64 v := by
  have s : ElemType.isSigned t = t.inS ∧ t ≠ .t2 := by
    rcases ok with k | ⟨k, _⟩ <;> cases t <;> simp_all [ElemType.isSigned, ElemType.inS, ElemType.inI, ElemType.inFS]
  obtain ⟨sg, t2⟩ := s
  rw [sg]
  split
  · rename_i k
    rw [readI, sg, if_pos k, toS_eq_sgn]
    exact fun h => t2 h
  · rfl

theorem vred_retires {h : Hdr} {op : RedOp} {t : ElemType} {d : GReg} {a : VReg} {c : PReg} {s : State} (ok : Reduces op t)
    (k : VIssues h t.width [.g d, .v a] s) :
    let r := treeValue (nodeValue op t (fmode s)) (presentAt h t a c s) (Nat.log2 (1024 / t.width)) 0
    let v := r.1.getD (nothingReduced op t)
    exec (.vred h op t d a c) s =
      .next (retire (raiseFlags (wrG s d (if t.inS then BitVec.ofInt 64 (sgn t.width v) else BitVec.ofNat 64 v)) r.2)) := by
  intro r v
  have tree := redTree_range (fmode s) ok (Nat.log2 (1024 / t.width)) (fits_presentAt h t a c s)
  rw [two_pow_log2_numElems, ← presentElems_eq ok] at tree
  rw [exec_vred, execVred, vector_act s _ k, numElems, tree, redIdentity_eq ok]
  simp only [extended_eq ok]
  rfl

theorem guardBits_raiseFlags (h : Hdr) (s : State) (fl : Nat) : guardBits h (raiseFlags s fl) = guardBits h s := by
  simp only [guardBits, rdP, src, raiseFlags, me_updMe]
  cases (me s).grp <;> rfl

/-- Flags raised, then a register written element by element, and a retirement. -/
theorem vput_raiseFlags (s : State) (w : Nat) (h : Hdr) (d : VReg) (f : Nat → Nat) (fl : Nat) :
    let u := vput w h d f (raiseFlags s fl)
    ∃ x, SameElsewhere s u ∧ EachElem w (guardBits h s) (getV (me s).regs d) x f ∧
      me u = { me s with
        regs := { putV (me s).regs d x with fpcsr := (me s).regs.fpcsr ||| BitVec.ofNat 64 (fl * 16) }
        raised := (me s).raised ||| BitVec.ofNat 64 (fl * 16)
        pc := nextSlot s, turn := .issued, stage := .open, sub := 0 } := by
  intro u
  obtain ⟨x, ⟨same, ctx⟩, elems⟩ := vput_retires (raiseFlags s fl) w h d f
  rw [guardBits_raiseFlags, show getV (me (raiseFlags s fl)).regs d = getV (me s).regs d by simp [raiseFlags, getV]] at elems
  exact ⟨x, (setMe_same s _).trans same, elems, ctx.trans (by simp [raiseFlags, nextSlot, putV])⟩

theorem vscan_retires {h : Hdr} {op : RedOp} {t : ElemType} {d a : VReg} {c : PReg} {s : State} (ok : Reduces op t)
    (k : VIssues h t.width [.v d, .v a] s) :
    let run (n : Nat) := (List.range n).foldl (scanStep (nodeValue op t (fmode s)) (presentAt h t a c s)) (none, 0)
    ∃ f : Nat → Nat, (∀ i < 1024 / t.width, f i = (run (i + 1)).1.getD (nothingReduced op t)) ∧
      exec (.vscan h op t d a c) s = .next (vput t.width h d f (raiseFlags s (run (1024 / t.width)).2)) := by
  intro run
  obtain ⟨flags, vals⟩ := scanList_eq (fmode s) ok (fits_presentAt h t a c s) (List.range (1024 / t.width)) none 0 (fun x e => by cases e)
  rw [Nat.zero_or, ← presentElems_eq ok] at flags
  refine ⟨fun i => (nth (scanList op t (fmode s) none (presentElems h t a c s)).1 i).getD 0, fun i hi => ?_, ?_⟩
  · have val := vals i (by rwa [List.length_range])
    rw [← presentElems_eq ok, List.take_range, min_eq_left (by omega), redIdentity_eq ok] at val
    show (nth _ i).getD 0 = _
    rw [val]; rfl
  · rw [exec_vscan, execVscan, vector_act s _ k]
    show Host.Outcome.next (vput _ h d _ (raiseFlags s _)) = .next (vput _ h d _ (raiseFlags s (run _).2))
    rw [show (run (1024 / t.width)).2 = _ from flags]

/-- Byte i of the second operand of VDOT4, and a byte as .u or .su reads it. -/
def dotByte (s : State) (b : VSrc) (i : Nat) : Nat := match b with | .reg r => elem 8 (rdV s r) i | .imm k => k.toNat % 256
def dotRead (u : Bool) (x : Nat) : Int := if u then x else sgn 8 x
/-- An addend and four products of bytes. -/
def dotSum (uns su : Bool) (z : Int) (x y : Nat → Nat) (j : Nat) : Int :=
  z + dotRead uns (x j) * dotRead (uns || su) (y j) + dotRead uns (x (j + 1)) * dotRead (uns || su) (y (j + 1))
    + dotRead uns (x (j + 2)) * dotRead (uns || su) (y (j + 2)) + dotRead uns (x (j + 3)) * dotRead (uns || su) (y (j + 3))

theorem vdot4_retires {h : Hdr} {uns su : Bool} {d a : VReg} {b : VSrc} {c : VReg} {s : State}
    (k : VIssues h 32 ([.v d, .v a, .v c] ++ vsrcRn b) s) :
    exec (.vdot4 h uns su d a b c) s = .next (vput 32 h d (fun i =>
      wrapTo 32 (dotSum uns su (sgn 32 (elem 32 (rdV s c) i)) (elem 8 (rdV s a)) (dotByte s b) (4 * i))) s) := by
  rw [exec_vdot4, execVdot4, vector_act s _ k]
  cases b <;> simp only [List.range, List.range.loop, List.foldl_cons, List.foldl_nil, Nat.add_zero, toS_eq_sgn] <;> rfl

/-- Settles O19: the tree by its levels, the scan by its steps. -/
theorem reductionResults : Obligations.ReductionResults := by
  unfold Obligations.ReductionResults
  refine ⟨fun h op t d a c s w k => ?red, fun h t a c s int => ?sum, fun h op t d a c s w k => ?scan, fun h uns su d a b c s k => ?dot⟩
  case red =>
    obtain ⟨same, ctx⟩ := retire_raiseFlags_updRegs s (fun r => putG r d _) _
    exact ⟨_, vred_retires (reduces_of_vred w) k, same, ctx.trans (by rw [putG_frame])⟩
  case sum =>
    rw [treeValue_add_mod _ int, Nat.zero_mul, two_pow_log2_numElems, ← List.range_eq_range', sum_map_filter]
    congr 3
    funext i
    simp only [presentAt, int, if_true]
    split <;> rfl
  case scan =>
    obtain ⟨f, vals, e⟩ := vscan_retires (c := c) (reduces_of_vscan w) k
    obtain ⟨x, same, elems, ctx⟩ := vput_raiseFlags s t.width h d f _
    exact ⟨_, x, e, same, fun i hi => (elems i hi).trans (by rw [vals i hi]; rfl), ctx⟩
  case dot =>
    obtain ⟨x, r, elems⟩ := vput_retires s 32 h d fun i =>
      wrapTo 32 (dotSum uns su (sgn 32 (elem 32 (rdV s c) i)) (elem 8 (rdV s a)) (dotByte s b) (4 * i))
    refine ⟨_, x, vdot4_retires k, r, ?_⟩
    cases b <;> exact elems

end Sys2Proof.Machine
end

section
namespace Sys2Proof.Machine

/-! ## Patterns of a format and the numbers they stand for (R40, R41) -/

/-- What the formats of R40 have in common: room in both fields, and e4 as the one format without infinities. -/
structure Fmt.Ok (f : Fmt) : Prop where
  eb : 2 ≤ f.eb
  mb : 2 ≤ f.mb
  finite : f.inf = false → f = ⟨4, 3, false⟩

theorem fmtOf_ok (t : ElemType) : (fmtOf t).Ok := by cases t <;> exact ⟨by decide, by decide, by decide⟩

/-- The exponent and fraction fields. -/
abbrev exOf (f : Fmt) (x : Nat) : Nat := x / 2 ^ f.mb % 2 ^ f.eb
abbrev frOf (f : Fmt) (x : Nat) : Nat := x % 2 ^ f.mb

/-- The exponent of the unit of an exponent field, and the fraction with its hidden bit. -/
def unitExp (f : Fmt) (ex : Nat) : ℤ := Max.max 1 (ex : ℤ) - f.bias - f.mb
def mantissa (f : Fmt) (ex fr : Nat) : Nat := if ex = 0 then fr else 2 ^ f.mb + fr

/-- The number that bits below the sign stand for, with no bound on the exponent field. -/
noncomputable def magnitude (f : Fmt) (b : Nat) : ℝ := mantissa f (b / 2 ^ f.mb) (frOf f b) * 2 ^ unitExp f (b / 2 ^ f.mb)

/-- A magnitude with a sign. -/
noncomputable def signed (s : Bool) (a : ℝ) : ℝ := if s then -a else a

theorem bias_cast (f : Fmt) : (f.bias : ℤ) = 2 ^ (f.eb - 1) - 1 := by
  rw [Fmt.bias, Nat.cast_sub Nat.one_le_two_pow]; push_cast; rfl

theorem two_zpow_pos (k : ℤ) : (0 : ℝ) < 2 ^ k := zpow_pos two_pos k

/-- The bits below the sign. -/
def lowBits (f : Fmt) (x : Nat) : Nat := x % 2 ^ (f.eb + f.mb)

theorem lowBits_div (f : Fmt) (x : Nat) : lowBits f x / 2 ^ f.mb = exOf f x := by
  rw [lowBits, Nat.pow_add, Nat.mul_comm, Nat.mod_mul_right_div_self]
theorem lowBits_mod (f : Fmt) (x : Nat) : frOf f (lowBits f x) = frOf f x :=
  Nat.mod_mod_of_dvd _ (Nat.pow_dvd_pow 2 (Nat.le_add_left _ _))
theorem lowBits_lt (f : Fmt) (x : Nat) : lowBits f x < 2 ^ (f.eb + f.mb) := Nat.mod_lt _ (by positivity)
theorem lowBits_eq (f : Fmt) (x : Nat) : lowBits f x = exOf f x * 2 ^ f.mb + frOf f x := by
  rw [← lowBits_div, ← lowBits_mod, Nat.div_add_mod']

/-- A pattern whose exponent field is all ones and is no number. -/
def special (f : Fmt) (x : Nat) : Prop := exOf f x = 2 ^ f.eb - 1 ∧ (f.inf = true ∨ frOf f x = 2 ^ f.mb - 1)

theorem numOf_special {f : Fmt} {x : Nat} (h : special f x) : numOf f x = none := if_pos h
theorem numOf_number {f : Fmt} {x : Nat} (h : ¬ special f x) : numOf f x = some (signed (negPat f x) (magnitude f (lowBits f x))) := by
  rw [magnitude, lowBits_div, lowBits_mod, unitExp, bias_cast]
  refine (if_neg h).trans (congrArg some ?_)
  simp only [signed, mantissa]
  congr 2 <;> push_cast <;> rfl
theorem numOf_eq_some {f : Fmt} {x : Nat} {p : ℝ} (h : numOf f x = some p) :
    ¬ special f x ∧ p = signed (negPat f x) (magnitude f (lowBits f x)) := by
  by_cases k : special f x
  · rw [numOf_special k] at h; cases h
  · rw [numOf_number k] at h; exact ⟨k, (Option.some.inj h).symm⟩

theorem special_iff (f : Fmt) (x : Nat) : special f x ↔ nanPat f x ∨ infPat f x := by
  unfold special nanPat infPat
  cases f.inf <;> simp
  tauto

/-! ### A sign and the bits below it -/

theorem signF_eq (f : Fmt) (s : Bool) : signF f s = s.toNat * 2 ^ (f.eb + f.mb) := by cases s <;> simp [signF]

section
variable {f : Fmt} {b : Nat} (s : Bool) (h : b < 2 ^ (f.eb + f.mb))
include h

theorem lowBits_signF_add : lowBits f (signF f s + b) = b := by
  rw [lowBits, signF_eq, Nat.add_comm, Nat.add_mul_mod_self_right, Nat.mod_eq_of_lt h]
theorem negPat_signF_add : negPat f (signF f s + b) = s := by
  rw [negPat, Nat.testBit_eq_decide_div_mod_eq, Nat.add_comm f.mb, signF_eq, Nat.add_comm, Nat.add_mul_div_right _ _ (by positivity),
    Nat.div_eq_of_lt h]
  cases s <;> rfl
theorem exOf_signF_add : exOf f (signF f s + b) = b / 2 ^ f.mb := by rw [← lowBits_div, lowBits_signF_add s h]
theorem frOf_signF_add : frOf f (signF f s + b) = frOf f b := by rw [← lowBits_mod, lowBits_signF_add s h]
end

/-! ### Rising magnitudes -/

theorem magnitude_fields {f : Fmt} (ex : Nat) {fr : Nat} (h : fr < 2 ^ f.mb) :
    magnitude f (ex * 2 ^ f.mb + fr) = mantissa f ex fr * 2 ^ unitExp f ex := by
  have e : (ex * 2 ^ f.mb + fr) / 2 ^ f.mb = ex := by
    rw [Nat.add_comm, Nat.add_mul_div_right _ _ (by positivity), Nat.div_eq_of_lt h, Nat.zero_add]
  rw [magnitude, frOf, e, Nat.mul_comm, Nat.mul_add_mod, Nat.mod_eq_of_lt h]

/-- The next pattern stands for one unit more. -/
theorem magnitude_succ {f : Fmt} (b : Nat) : magnitude f (b + 1) = magnitude f b + 2 ^ unitExp f (b / 2 ^ f.mb) := by
  obtain ⟨ex, fr, h, rfl⟩ : ∃ ex fr, fr < 2 ^ f.mb ∧ b = ex * 2 ^ f.mb + fr :=
    ⟨b / 2 ^ f.mb, b % 2 ^ f.mb, Nat.mod_lt _ (by positivity), (Nat.div_add_mod' b _).symm⟩
  have e : (ex * 2 ^ f.mb + fr) / 2 ^ f.mb = ex := by
    rw [Nat.add_comm, Nat.add_mul_div_right _ _ (by positivity), Nat.div_eq_of_lt h, Nat.zero_add]
  rw [e, magnitude_fields ex h]
  rcases (Nat.succ_le_of_lt h).lt_or_eq with inside | edge
  · rw [Nat.add_assoc, magnitude_fields ex inside]
    simp only [mantissa]
    split <;> push_cast <;> ring
  · have carry : ex * 2 ^ f.mb + fr + 1 = (ex + 1) * 2 ^ f.mb + 0 := by rw [Nat.succ_mul]; omega
    have full : (fr : ℝ) = 2 ^ f.mb - 1 := by
      have := congrArg (Nat.cast : ℕ → ℝ) edge
      push_cast at this; linarith
    rw [carry, magnitude_fields _ (by positivity)]
    rcases Nat.eq_zero_or_pos ex with rfl | pos
    · simp only [mantissa, unitExp]; norm_num; rw [full]; ring
    · have unit : unitExp f (ex + 1) = unitExp f ex + 1 := by simp only [unitExp]; omega
      rw [unit, zpow_add_one₀ two_ne_zero]
      simp only [mantissa, pos.ne', Nat.succ_ne_zero, if_false]
      push_cast; rw [full]; ring

theorem magnitude_strictMono (f : Fmt) : StrictMono (magnitude f) :=
  strictMono_nat_of_lt_succ fun b => by rw [magnitude_succ]; exact lt_add_of_pos_right _ (two_zpow_pos _)

theorem magnitude_zero (f : Fmt) : magnitude f 0 = 0 := by simp [magnitude, mantissa]

/-! ### The largest number and what lies above it -/

variable {f : Fmt} (ok : f.Ok)
include ok

theorem two_pow_eb : 2 ^ f.eb = 2 * f.bias + 2 := by
  have := ok.eb
  obtain ⟨k, e⟩ : ∃ k, f.eb = k + 1 := ⟨f.eb - 1, by omega⟩
  rw [Fmt.bias, e, Nat.add_sub_cancel, pow_succ]
  have : 0 < 2 ^ k := by positivity
  omega

theorem bias_pos : 1 ≤ f.bias := by
  have : 2 ^ 1 ≤ 2 ^ (f.eb - 1) := Nat.pow_le_pow_right two_pos (by have := ok.eb; omega)
  rw [Fmt.bias]; omega

/-- The largest number of a format with infinities: the exponent before them and a full fraction. -/
theorem maxF_fields (h : f.inf = true) : maxF f false = 2 * f.bias * 2 ^ f.mb + (2 ^ f.mb - 1) := by
  have one : 1 ≤ 2 ^ f.mb := Nat.one_le_two_pow
  have e : (2 ^ f.eb - 1) * 2 ^ f.mb = 2 * f.bias * 2 ^ f.mb + 2 ^ f.mb := by
    rw [two_pow_eb ok, show 2 * f.bias + 2 - 1 = 2 * f.bias + 1 by omega]; ring
  simp only [maxF, signF, h, if_true, e]
  simp only [Bool.false_eq_true, if_false]
  omega

theorem maxF_lt : maxF f false + 1 < 2 ^ (f.eb + f.mb) := by
  cases h : f.inf with
  | false => rw [ok.finite h]; decide
  | true =>
    have one : 1 ≤ 2 ^ f.mb := Nat.one_le_two_pow
    have e : 2 ^ (f.eb + f.mb) = 2 * f.bias * 2 ^ f.mb + 2 * 2 ^ f.mb := by rw [Nat.pow_add, two_pow_eb ok]; ring
    rw [maxF_fields ok h, e]
    omega

theorem magnitude_maxF : magnitude f (maxF f false) = maxOf f := by
  cases h : f.inf with
  | false => rw [ok.finite h]; norm_num [magnitude, maxF, signF, mantissa, unitExp, maxOf, Fmt.bias]
  | true =>
    have one : 1 ≤ 2 ^ f.mb := Nat.one_le_two_pow
    have ex : 2 * f.bias ≠ 0 := by have := bias_pos ok; omega
    have unit : unitExp f (2 * f.bias) = f.bias - f.mb := by have := bias_pos ok; simp only [unitExp]; push_cast; omega
    rw [maxF_fields ok h, magnitude_fields _ (by omega), unit, mantissa, if_neg ex, maxOf, if_pos h, zpow_sub₀ two_ne_zero, zpow_neg,
      zpow_natCast, zpow_natCast, ← Fmt.bias]
    push_cast [one]
    field_simp
    ring

theorem magnitude_maxF_succ : magnitude f (maxF f false + 1) = maxOf f + topStep f := by
  rw [magnitude_succ, magnitude_maxF ok]
  congr 1
  cases h : f.inf with
  | false => rw [ok.finite h]; norm_num [maxF, signF, unitExp, topStep, Fmt.bias]
  | true =>
    have one : 1 ≤ 2 ^ f.mb := Nat.one_le_two_pow
    have ex : maxF f false / 2 ^ f.mb = 2 * f.bias := by
      rw [maxF_fields ok h, Nat.add_comm, Nat.add_mul_div_right _ _ (by positivity), Nat.div_eq_of_lt (by omega), Nat.zero_add]
    have unit : unitExp f (2 * f.bias) = f.bias - f.mb := by have := bias_pos ok; simp only [unitExp]; push_cast; omega
    rw [ex, unit, topStep, if_pos h, bias_cast]

/-- The last place of the largest number is odd, but in e4. -/
theorem maxF_odd : maxF f false % 2 = if f.inf then 1 else 0 := by
  cases h : f.inf with
  | false => rw [ok.finite h]; decide
  | true =>
    have even : 2 ^ f.mb % 2 = 0 := by
      rw [show f.mb = f.mb - 1 + 1 by have := ok.mb; omega, pow_succ]; exact Nat.mul_mod_left _ _
    have : 2 * f.bias * 2 ^ f.mb % 2 = 0 := by rw [Nat.mul_assoc]; exact Nat.mul_mod_right _ _
    have one : 1 ≤ 2 ^ f.mb := Nat.one_le_two_pow
    rw [maxF_fields ok h, if_pos rfl]
    omega

/-- The numbers of the format are the patterns whose bits below the sign do not pass those of the largest. -/
theorem special_iff_maxF_lt (x : Nat) : special f x ↔ maxF f false < lowBits f x := by
  have ex : exOf f x < 2 ^ f.eb := Nat.mod_lt _ (by positivity)
  have fr : frOf f x < 2 ^ f.mb := Nat.mod_lt _ (by positivity)
  rw [special, lowBits_eq]
  cases h : f.inf with
  | false =>
    obtain rfl := ok.finite h
    simp only [maxF, signF]
    norm_num at ex fr ⊢
    omega
  | true =>
    rw [maxF_fields ok h]
    simp only [two_pow_eb ok] at ex ⊢
    simp only [true_or, and_true]
    constructor
    · intro e
      have next : (2 * f.bias + 1) * 2 ^ f.mb = 2 * f.bias * 2 ^ f.mb + 2 ^ f.mb := by rw [Nat.add_mul, Nat.one_mul]
      rw [e, show 2 * f.bias + 2 - 1 = 2 * f.bias + 1 by omega, next]
      omega
    · intro le
      by_contra ne
      have : exOf f x * 2 ^ f.mb ≤ 2 * f.bias * 2 ^ f.mb := Nat.mul_le_mul_right _ (by omega)
      omega

/-! ## Rounding (R45, R46) -/

omit ok

/-- A positive number between the multiples n and n + 1 of a unit, of sign s, goes to the greater one (R45). -/
def GoesUp (rm : Nat) (s : Bool) (n : Nat) (lo mid a : ℝ) : Prop :=
  match rm with
  | 0 => mid < a ∨ a = mid ∧ n % 2 = 1
  | 1 => False
  | 2 => a ≠ lo ∧ s = false
  | _ => a ≠ lo ∧ s = true

/-- The number a, of sign s, rounded to r.1 units u; r.2 says whether that is inexact. -/
def RoundsInUnits (rm : Nat) (s : Bool) (u a : ℝ) (r : Nat × Bool) : Prop :=
  ∃ n : Nat, n * u ≤ a ∧ a < (n + 1) * u ∧ (r.2 = true ↔ a ≠ n * u) ∧
    (r.1 = n ∧ ¬ GoesUp rm s n (n * u) ((n + 1 / 2) * u) a ∨ r.1 = n + 1 ∧ GoesUp rm s n (n * u) ((n + 1 / 2) * u) a)

/-- The number x is the integer m; or it lies within 1 of it, and m is odd and so great that its last bit, below the bits that are
kept, only says that x is no integer (the sticky bit of a quotient or a root). -/
def Stands (x : ℝ) (m k : Nat) : Prop := x = m ∨ (m % 2 = 1 ∧ 2 ≤ k ∧ m - 1 < x ∧ x < m + 1)

/-- Where x lies between the multiples of 2^k is where m lies. -/
theorem Stands.place {x : ℝ} {m k : Nat} (st : Stands x m k) :
    ((m / 2 ^ k : ℕ) : ℝ) * 2 ^ k ≤ x ∧ x < ((m / 2 ^ k : ℕ) + 1) * 2 ^ k ∧ (x ≠ (m / 2 ^ k : ℕ) * 2 ^ k ↔ m % 2 ^ k ≠ 0) ∧
    (((m / 2 ^ k : ℕ) + 1 / 2) * 2 ^ k < x ↔ 2 ^ k < 2 * (m % 2 ^ k)) ∧ (x = ((m / 2 ^ k : ℕ) + 1 / 2) * 2 ^ k ↔ 2 * (m % 2 ^ k) = 2 ^ k) := by
  have split : (m : ℝ) = (m / 2 ^ k : ℕ) * 2 ^ k + (m % 2 ^ k : ℕ) := by exact_mod_cast (Nat.div_add_mod' m (2 ^ k)).symm
  have lt : m % 2 ^ k < 2 ^ k := Nat.mod_lt _ (by positivity)
  have odd : m % 2 = 1 → 2 ≤ k → m % 2 ^ k % 2 = 1 := fun o two => by
    rw [Nat.mod_mod_of_dvd _ (dvd_pow_self 2 (by omega))]; exact o
  generalize m / 2 ^ k = q at *
  generalize m % 2 ^ k = r at *
  have ltR : (r : ℝ) + 1 ≤ 2 ^ k := by exact_mod_cast lt
  rcases st with rfl | ⟨o, two, above, below⟩
  · rw [split]
    refine ⟨by simp, by linarith, by simp, ?_, ?_⟩
    · rw [← @Nat.cast_lt ℝ]; push_cast; constructor <;> intro h <;> linarith
    · rw [← @Nat.cast_inj ℝ]; push_cast; constructor <;> intro h <;> linarith
  · have r1 := odd o two
    obtain ⟨j, rfl⟩ : ∃ j, k = j + 2 := ⟨k - 2, by omega⟩
    have half : (2 : ℕ) ^ (j + 2) = 4 * 2 ^ j := by ring
    have halfR : (2 : ℝ) ^ (j + 2) = 4 * 2 ^ j := by ring
    have pos : (1 : ℝ) ≤ r := by exact_mod_cast (show 1 ≤ r by omega)
    rw [halfR] at split ltR ⊢
    rw [half] at lt ⊢
    have inside : (q : ℝ) * (4 * 2 ^ j) < x := by linarith
    refine ⟨inside.le, by linarith, ⟨fun _ => by omega, fun _ => inside.ne'⟩, ?_⟩
    rcases Nat.lt_or_ge r (2 * 2 ^ j) with low | high
    · have lowR : (r : ℝ) + 1 ≤ 2 * 2 ^ j := by exact_mod_cast low
      have under : x < ((q : ℝ) + 1 / 2) * (4 * 2 ^ j) := by linarith
      exact ⟨⟨fun h => absurd h under.asymm, fun h => by omega⟩, ⟨fun h => absurd h under.ne, fun h => by omega⟩⟩
    · have highR : (2 : ℝ) * 2 ^ j + 1 ≤ r := by exact_mod_cast (show 2 * 2 ^ j + 1 ≤ r by omega)
      have beyond : ((q : ℝ) + 1 / 2) * (4 * 2 ^ j) < x := by linarith
      exact ⟨⟨fun _ => by omega, fun _ => beyond⟩, ⟨fun h => absurd h beyond.ne', fun h => by omega⟩⟩

/-- How roundShift decides to go up. -/
def shiftUp (rm : Nat) (s : Bool) (q r unit : Nat) : Bool :=
  match rm with
  | 0 => decide (unit < 2 * r) || (decide (2 * r = unit) && q % 2 == 1)
  | 1 => false
  | 2 => r != 0 && !s
  | _ => r != 0 && s
theorem roundShift_eq (rm : Nat) (s : Bool) (m k : Nat) :
    roundShift rm s m k =
      (if shiftUp rm s (m / 2 ^ k) (m % 2 ^ k) (2 ^ k) then m / 2 ^ k + 1 else m / 2 ^ k, m % 2 ^ k != 0) := rfl

theorem roundShift_rounds {rm : Nat} {s : Bool} {x : ℝ} {m k : Nat} (st : Stands x m k) :
    RoundsInUnits rm s (2 ^ k) x (roundShift rm s m k) := by
  obtain ⟨lo, hi, inexact, beyond, mid⟩ := st.place
  have up : GoesUp rm s (m / 2 ^ k) ((m / 2 ^ k : ℕ) * 2 ^ k) (((m / 2 ^ k : ℕ) + 1 / 2) * 2 ^ k) x ↔
      shiftUp rm s (m / 2 ^ k) (m % 2 ^ k) (2 ^ k) = true := by
    rcases rm with _ | _ | _ | rm <;> simp only [GoesUp, shiftUp, beyond, mid, inexact] <;> simp
  refine ⟨m / 2 ^ k, lo, hi, by rw [inexact, roundShift_eq]; simp, ?_⟩
  rw [up, roundShift_eq]
  cases shiftUp rm s (m / 2 ^ k) (m % 2 ^ k) (2 ^ k) <;> simp

theorem RoundsInUnits.scale {rm : Nat} {s : Bool} {u a c : ℝ} {r : Nat × Bool} (h : RoundsInUnits rm s u a r) (pos : 0 < c) :
    RoundsInUnits rm s (u * c) (a * c) r := by
  obtain ⟨n, lo, hi, inexact, dir⟩ := h
  have same (y : ℝ) : a * c = y * (u * c) ↔ a = y * u := by rw [← mul_assoc, mul_left_inj' pos.ne']
  have less (y : ℝ) : y * (u * c) < a * c ↔ y * u < a := by rw [← mul_assoc, mul_lt_mul_iff_left₀ pos]
  have up : GoesUp rm s n (n * (u * c)) ((n + 1 / 2) * (u * c)) (a * c) ↔ GoesUp rm s n (n * u) ((n + 1 / 2) * u) a := by
    rcases rm with _ | _ | _ | rm <;> simp only [GoesUp, same, less, ne_eq]
  refine ⟨n, ?_, ?_, by rw [inexact, ne_eq, ne_eq, same], by rw [up]; exact dir⟩
  · rw [← mul_assoc]; exact mul_le_mul_of_nonneg_right lo pos.le
  · rw [← mul_assoc]; exact mul_lt_mul_of_pos_right hi pos

/-- m units 2^e rounded to a multiple of 2^q, as packF does it. -/
def roundAt (rm : Nat) (s : Bool) (m : Nat) (e q : ℤ) : Nat × Bool :=
  if q ≤ e then (m * 2 ^ (e - q).toNat, false) else roundShift rm s m (q - e).toNat

theorem roundAt_rounds {rm : Nat} {s : Bool} {x : ℝ} {m : Nat} {e q : ℤ} (st : Stands x m (q - e).toNat) :
    RoundsInUnits rm s (2 ^ q) (x * 2 ^ e) (roundAt rm s m e q) := by
  have pos := two_zpow_pos e
  unfold roundAt
  split
  · rename_i le
    obtain rfl : x = m := st.resolve_right fun h => by omega
    have whole : (m : ℝ) * 2 ^ e = ((m * 2 ^ (e - q).toNat : ℕ) : ℝ) * 2 ^ q := by
      push_cast
      rw [← zpow_natCast, Int.toNat_of_nonneg (by omega), mul_assoc, ← zpow_add₀ two_ne_zero, sub_add_cancel]
    have unit := two_zpow_pos q
    rw [whole]
    generalize m * 2 ^ (e - q).toNat = n
    refine ⟨n, le_rfl, by linarith, by simp, .inl ⟨rfl, ?_⟩⟩
    rcases rm with _ | _ | _ | rm <;> simp only [GoesUp, ne_eq, not_true_eq_false, false_and, not_false_eq_true]
    rintro (h | ⟨h, -⟩) <;> linarith
  · rename_i gt
    have unit : (2 : ℝ) ^ q = 2 ^ (q - e).toNat * 2 ^ e := by
      rw [← zpow_natCast, Int.toNat_of_nonneg (by omega), ← zpow_add₀ two_ne_zero, sub_add_cancel]
    rw [unit]
    exact (roundShift_rounds st).scale pos

end Sys2Proof.Machine
end

section
namespace Sys2Proof.Machine

/-! ### From units to patterns -/

/-- The bits below the sign for v units 2^q, as packF builds them. -/
def patternOf (f : Fmt) (v : Nat) (q : ℤ) : Nat :=
  let (v, q) := if v = 2 ^ (f.mb + 1) then (2 ^ f.mb, q + 1) else (v, q)
  if v < 2 ^ f.mb then v else (q + f.mb + f.bias).toNat * 2 ^ f.mb + (v - 2 ^ f.mb)

/-- Units 2^q that v of them can be given by a pattern: the smallest ones, or v has its hidden bit. -/
def UnitOk (f : Fmt) (v : Nat) (q : ℤ) : Prop := 1 - (f.bias : ℤ) - f.mb ≤ q ∧ (v < 2 ^ f.mb → q = 1 - (f.bias : ℤ) - f.mb)

theorem patternOf_small {f : Fmt} {v : Nat} (q : ℤ) (h : v < 2 ^ f.mb) : patternOf f v q = v := by
  have ne : v ≠ 2 ^ (f.mb + 1) := by rw [pow_succ]; omega
  simp only [patternOf, ne, if_false, h, if_true]
theorem patternOf_normal {f : Fmt} {v : Nat} (q : ℤ) (h : 2 ^ f.mb ≤ v) (lt : v < 2 ^ (f.mb + 1)) :
    patternOf f v q = (q + f.mb + f.bias).toNat * 2 ^ f.mb + (v - 2 ^ f.mb) := by
  simp only [patternOf, lt.ne, if_false, Nat.not_lt.mpr h]
theorem patternOf_carry (f : Fmt) (q : ℤ) : patternOf f (2 ^ (f.mb + 1)) q = (q + 1 + f.mb + f.bias).toNat * 2 ^ f.mb := by
  simp only [patternOf, if_true, Nat.lt_irrefl, if_false, Nat.sub_self, Nat.add_zero]

theorem patternOf_succ {f : Fmt} {v : Nat} {q : ℤ} (ok : UnitOk f v q) (lt : v < 2 ^ (f.mb + 1)) :
    patternOf f (v + 1) q = patternOf f v q + 1 := by
  obtain ⟨low, small⟩ := ok
  have pow : 2 ^ (f.mb + 1) = 2 * 2 ^ f.mb := by ring
  have pos : 0 < 2 ^ f.mb := by positivity
  rcases Nat.lt_or_ge v (2 ^ f.mb) with sub | normal
  · rw [patternOf_small q sub]
    rcases Nat.lt_or_ge (v + 1) (2 ^ f.mb) with sub' | edge
    · exact patternOf_small q sub'
    · have one : (q + f.mb + f.bias).toNat = 1 := by rw [small sub]; omega
      rw [patternOf_normal q edge (by omega), one]; omega
  · rw [patternOf_normal q normal lt]
    rcases Nat.lt_or_ge (v + 1) (2 ^ (f.mb + 1)) with inside | carry
    · rw [patternOf_normal q (by omega) inside]; omega
    · have next : (q + 1 + f.mb + f.bias).toNat = (q + f.mb + f.bias).toNat + 1 := by omega
      rw [show v + 1 = 2 ^ (f.mb + 1) by omega, patternOf_carry, next, Nat.succ_mul]; omega

theorem magnitude_patternOf {f : Fmt} {v : Nat} {q : ℤ} (ok : UnitOk f v q) (lt : v < 2 ^ (f.mb + 1)) :
    magnitude f (patternOf f v q) = v * 2 ^ q := by
  obtain ⟨low, small⟩ := ok
  rcases Nat.lt_or_ge v (2 ^ f.mb) with sub | normal
  · have fields := magnitude_fields (f := f) 0 sub
    rw [Nat.zero_mul, Nat.zero_add] at fields
    rw [patternOf_small q sub, fields, small sub]
    simp [mantissa, unitExp]
  · have pow : 2 ^ (f.mb + 1) = 2 * 2 ^ f.mb := by ring
    have nat : (((q + f.mb + f.bias).toNat : ℕ) : ℤ) = q + f.mb + f.bias := Int.toNat_of_nonneg (by omega)
    have unit : unitExp f (q + f.mb + f.bias).toNat = q := by simp only [unitExp, nat]; omega
    have ex : (q + f.mb + f.bias).toNat ≠ 0 := by omega
    rw [patternOf_normal q normal lt, magnitude_fields _ (by omega), unit, mantissa, if_neg ex, Nat.add_sub_cancel' normal]

theorem patternOf_mod_two {f : Fmt} (ok : f.Ok) {v : Nat} {q : ℤ} (lt : v < 2 ^ (f.mb + 1)) : patternOf f v q % 2 = v % 2 := by
  have even : 2 ^ f.mb % 2 = 0 := by
    rw [show f.mb = f.mb - 1 + 1 by have := ok.mb; omega, pow_succ]; exact Nat.mul_mod_left _ _
  rcases Nat.lt_or_ge v (2 ^ f.mb) with sub | normal
  · rw [patternOf_small q sub]
  · have : (q + f.mb + f.bias).toNat * 2 ^ f.mb % 2 = 0 := by rw [Nat.mul_mod, even]; simp
    rw [patternOf_normal q normal lt]; omega

/-- The number a, of sign s, rounded to the bits r.1 between those of its neighbours b and b + 1; r.2 says whether that is inexact. -/
def RoundsToBits (f : Fmt) (rm : Nat) (s : Bool) (a : ℝ) (r : Nat × Bool) : Prop :=
  ∃ b : Nat, magnitude f b ≤ a ∧ a < magnitude f (b + 1) ∧ (r.2 = true ↔ a ≠ magnitude f b) ∧
    (r.1 = b ∧ ¬ GoesUp rm s b (magnitude f b) ((magnitude f b + magnitude f (b + 1)) / 2) a ∨
      r.1 = b + 1 ∧ GoesUp rm s b (magnitude f b) ((magnitude f b + magnitude f (b + 1)) / 2) a)

theorem GoesUp.parity {rm : Nat} {s : Bool} {n n' : Nat} {lo mid a : ℝ} (same : n % 2 = n' % 2) : GoesUp rm s n lo mid a ↔ GoesUp rm s n' lo mid a := by
  rcases rm with _ | _ | _ | rm <;> simp only [GoesUp, same]

/-- Rounding in units of the place of a number is rounding to the next patterns. -/
theorem RoundsInUnits.toBits {f : Fmt} (ok : f.Ok) {rm : Nat} {s : Bool} {q : ℤ} {a : ℝ} {r : Nat × Bool} (h : RoundsInUnits rm s (2 ^ q) a r)
    (low : 1 - (f.bias : ℤ) - f.mb ≤ q) (top : a < 2 ^ (f.mb + 1) * 2 ^ q) (unit : a < 2 ^ f.mb * 2 ^ q → q = 1 - (f.bias : ℤ) - f.mb) :
    RoundsToBits f rm s a (patternOf f r.1 q, r.2) := by
  obtain ⟨n, lo, hi, inexact, dir⟩ := h
  have pos := two_zpow_pos q
  have lt : n < 2 ^ (f.mb + 1) := by
    have := lt_of_mul_lt_mul_right (lo.trans_lt top) pos.le
    exact_mod_cast this
  have uok : UnitOk f n q := by
    refine ⟨low, fun small => unit (hi.trans_le (mul_le_mul_of_nonneg_right ?_ pos.le))⟩
    exact_mod_cast small
  have m := magnitude_patternOf uok lt
  have m' : magnitude f (patternOf f n q + 1) = (n + 1) * 2 ^ q := by
    rw [← patternOf_succ uok lt]
    rcases Nat.lt_or_ge (n + 1) (2 ^ (f.mb + 1)) with inside | carry
    · rw [magnitude_patternOf ⟨low, fun small => uok.2 (by omega)⟩ inside]; push_cast; ring
    · have full : ((n : ℝ) + 1) = 2 ^ (f.mb + 1) := by exact_mod_cast (show n + 1 = 2 ^ (f.mb + 1) by omega)
      have nat : (((q + 1 + f.mb + f.bias).toNat : ℕ) : ℤ) = q + 1 + f.mb + f.bias := Int.toNat_of_nonneg (by omega)
      have unit : unitExp f (q + 1 + f.mb + f.bias).toNat = q + 1 := by simp only [unitExp, nat]; omega
      have ex : (q + 1 + f.mb + f.bias).toNat ≠ 0 := by omega
      rw [show n + 1 = 2 ^ (f.mb + 1) by omega, patternOf_carry, ← Nat.add_zero (_ * _), magnitude_fields _ (by positivity), unit, mantissa,
        if_neg ex, full, zpow_add_one₀ two_ne_zero]
      push_cast; ring
  have mid : (magnitude f (patternOf f n q) + magnitude f (patternOf f n q + 1)) / 2 = (n + 1 / 2) * 2 ^ q := by rw [m, m']; ring
  refine ⟨patternOf f n q, m.trans_le lo, hi.trans_eq m'.symm, by rw [m]; exact inexact, ?_⟩
  rw [mid, m, GoesUp.parity (patternOf_mod_two ok lt)]
  rcases dir with ⟨e, stay⟩ | ⟨e, up⟩
  · exact .inl ⟨by rw [e], stay⟩
  · exact .inr ⟨by rw [e, patternOf_succ uok lt], up⟩

end Sys2Proof.Machine
end

section
namespace Sys2Proof.Machine

/-! ### The rounded pattern is the one of R45 -/

theorem magnitude_nonneg (f : Fmt) (b : Nat) : 0 ≤ magnitude f b := by
  rw [magnitude]; exact mul_nonneg (Nat.cast_nonneg _) (two_zpow_pos _).le

theorem abs_signed (s : Bool) {a : ℝ} (h : 0 ≤ a) : |signed s a| = a := by cases s <;> simp [signed, abs_of_nonneg h]
theorem signed_inj (s : Bool) (a b : ℝ) : signed s a = signed s b ↔ a = b := by cases s <;> simp [signed]
theorem signed_lt_zero (s : Bool) {a : ℝ} (h : 0 < a) : signed s a < 0 ↔ s = true := by cases s <;> simp [signed, h, h.le]
theorem abs_signed_sub_signed {t s : Bool} {p a : ℝ} (hp : 0 ≤ p) (ha : 0 ≤ a) :
    |signed t p - signed s a| = if t = s then |p - a| else p + a := by
  have sum : |p + a| = p + a := abs_of_nonneg (by linarith)
  cases t <;> cases s <;> simp only [signed, if_true, if_false, Bool.false_eq_true, Bool.true_eq_false]
  · rw [sub_neg_eq_add, sum]
  · rw [show -p - a = -(p + a) by ring, abs_neg, sum]
  · rw [show -p - -a = -(p - a) by ring, abs_neg]

section
variable {f : Fmt} (ok : f.Ok) {rm : Nat} {s : Bool} {a : ℝ} {r : Nat × Bool} (pos : 0 < a) (h : RoundsToBits f rm s a r)
include ok pos h

/-- The rounded bits pass those of the largest number just where the number overflows. -/
theorem maxF_lt_iff_overflows : maxF f false < r.1 ↔ Overflows f rm (signed s a) := by
  obtain ⟨b, lo, hi, -, dir⟩ := h
  have mono := magnitude_strictMono f
  have max := magnitude_maxF ok
  have next := magnitude_maxF_succ ok
  have step : 0 < topStep f := by
    have := mono (Nat.lt_succ_self (maxF f false))
    rw [Nat.succ_eq_add_one, next, max] at this; linarith
  have abs := abs_signed s pos.le
  have M : 0 ≤ maxOf f := max ▸ magnitude_nonneg f _
  rcases lt_trichotomy b (maxF f false) with below | top | above
  · have small : a < maxOf f := hi.trans_le (max ▸ mono.monotone below)
    refine iff_of_false (by rcases dir with ⟨e, -⟩ | ⟨e, -⟩ <;> omega) ?_
    rcases rm with _ | _ | _ | rm <;> simp only [Overflows, abs]
    · split <;> linarith
    · linarith
    all_goals cases s <;> simp only [signed] <;> norm_num <;> constructor <;> linarith
  · subst top
    rw [max] at lo dir
    rw [next] at hi dir
    have mid : (maxOf f + (maxOf f + topStep f)) / 2 = maxOf f + topStep f / 2 := by ring
    rw [mid] at dir
    have up : maxF f false < r.1 ↔ GoesUp rm s (maxF f false) (maxOf f) (maxOf f + topStep f / 2) a := by
      rcases dir with ⟨e, stay⟩ | ⟨e, go⟩
      · exact iff_of_false (by omega) stay
      · exact iff_of_true (by omega) go
    rw [up]
    rcases rm with _ | _ | _ | rm <;> simp only [Overflows, GoesUp, abs]
    · rw [maxF_odd ok]
      cases f.inf <;> simp [le_iff_lt_or_eq, eq_comm]
    · exact iff_of_false not_false (by linarith)
    · cases s <;> simp only [signed] <;> norm_num
      · constructor
        · intro ne; exact .inl (lt_of_le_of_ne lo (Ne.symm ne))
        · rintro (lt | le) <;> linarith
      · constructor <;> linarith
    · cases s <;> simp only [signed] <;> norm_num
      · constructor <;> linarith
      · constructor
        · intro ne; exact .inl (lt_of_le_of_ne lo (Ne.symm ne))
        · rintro (lt | le) <;> linarith
  · have big : maxOf f + topStep f ≤ a := next ▸ (mono.monotone above).trans lo
    refine iff_of_true (by rcases dir with ⟨e, -⟩ | ⟨e, -⟩ <;> omega) ?_
    rcases rm with _ | _ | _ | rm <;> simp only [Overflows, abs]
    · split <;> linarith
    · exact big
    all_goals cases s <;> simp only [signed] <;> norm_num
    · exact .inl (by linarith)
    · exact .inr (by linarith)
    · exact .inr (by linarith)
    · exact .inl (by linarith)

omit ok in
theorem inexact_iff : r.2 = true ↔ signed s (magnitude f r.1) ≠ signed s a := by
  obtain ⟨b, lo, hi, inexact, dir⟩ := h
  rw [inexact, ne_eq, ne_eq, signed_inj]
  rcases dir with ⟨e, -⟩ | ⟨e, up⟩ <;> rw [e, eq_comm (a := a)]
  have ne : a ≠ magnitude f b := by
    have gap := magnitude_strictMono f (Nat.lt_succ_self b)
    rcases rm with _ | _ | _ | rm
    · rintro rfl; rcases up with lt | ⟨eq, -⟩ <;> linarith
    · exact up.elim
    · exact up.1
    · exact up.1
  exact iff_of_true (fun h => ne h.symm) (fun h => hi.ne h.symm)

end

end Sys2Proof.Machine
end

section
namespace Sys2Proof.Machine

/-- Every number of the format has a magnitude of one pattern, and so lies outside the gap between two neighbours. -/
theorem number_gap {f : Fmt} {y : Nat} {p : ℝ} (h : numOf f y = some p) (b : Nat) :
    ∃ t P, p = signed t P ∧ 0 ≤ P ∧ (P ≤ magnitude f b ∨ magnitude f (b + 1) ≤ P) := by
  obtain ⟨-, e⟩ := numOf_eq_some h
  refine ⟨_, _, e, magnitude_nonneg f _, ?_⟩
  have mono := (magnitude_strictMono f).monotone
  rcases Nat.lt_or_ge b (lowBits f y) with above | below
  · exact .inr (mono above)
  · exact .inl (mono below)

theorem even_signF {f : Fmt} (ok : f.Ok) (s : Bool) (b : Nat) : (signF f s + b) % 2 = b % 2 := by
  have : 2 ^ (f.eb + f.mb) = 2 * 2 ^ (f.eb + f.mb - 1) := by rw [← pow_succ']; congr 1; have := ok.mb; omega
  cases s <;> simp only [signF, if_true, Bool.false_eq_true, if_false] <;> omega

/-- Nearest: the neighbour that the midpoint leaves on the number's side; at the midpoint the even one. -/
theorem nearest_of_gap {lo hi a R P : ℝ} {s t : Bool} {b r : Nat} (nonneg : 0 ≤ lo) (pos : 0 < a) (le : lo ≤ a) (lt : a < hi)
    (dir : r % 2 = b % 2 ∧ R = lo ∧ ¬ GoesUp 0 s b lo ((lo + hi) / 2) a ∨
      r % 2 = (b + 1) % 2 ∧ R = hi ∧ GoesUp 0 s b lo ((lo + hi) / 2) a)
    (hP : 0 ≤ P) (gap : P ≤ lo ∨ hi ≤ P) :
    |signed s R - signed s a| ≤ |signed t P - signed s a| ∧
      (signed t P ≠ signed s R → |signed t P - signed s a| = |signed s R - signed s a| → r % 2 = 0) := by
  simp only [GoesUp, not_or, not_and, not_lt] at dir
  rw [abs_signed_sub_signed hP pos.le]
  have zero : P = 0 → R = 0 → signed t P = signed s R := by rintro rfl rfl; cases t <;> cases s <;> simp [signed]
  rcases dir with ⟨par, rfl, near, tie⟩ | ⟨par, rfl, up⟩
  · rw [abs_signed_sub_signed nonneg pos.le, if_pos rfl, abs_of_nonpos (by linarith : R - a ≤ 0)]
    have even : a = (R + hi) / 2 → r % 2 = 0 := fun e => by have := tie e; omega
    split
    · rename_i same
      subst same
      rcases gap with below | above
      · rw [abs_of_nonpos (by linarith : P - a ≤ 0)]
        exact ⟨by linarith, fun ne e => absurd (by rw [show P = R by linarith]) ne⟩
      · rw [abs_of_nonneg (by linarith : 0 ≤ P - a)]
        exact ⟨by linarith, fun _ e => even (by linarith)⟩
    · exact ⟨by linarith, fun ne e => absurd (zero (by linarith) (by linarith)) ne⟩
  · rw [abs_signed_sub_signed (by linarith : 0 ≤ R) pos.le, if_pos rfl, abs_of_nonneg (by linarith : 0 ≤ R - a)]
    have near : R - a ≤ a - lo := by rcases up with h | ⟨h, -⟩ <;> linarith
    have even : R - a = a - lo → r % 2 = 0 := fun e => by
      rcases up with h | ⟨-, odd⟩
      · exfalso; linarith
      · omega
    split
    · rename_i same
      subst same
      rcases gap with below | above
      · rw [abs_of_nonpos (by linarith : P - a ≤ 0)]
        exact ⟨by linarith, fun _ e => even (by linarith)⟩
      · rw [abs_of_nonneg (by linarith : 0 ≤ P - a)]
        exact ⟨by linarith, fun ne e => absurd (by rw [show P = R by linarith]) ne⟩
    · exact ⟨by linarith, fun ne e => even (by linarith)⟩

theorem signed_not (t : Bool) (p : ℝ) : signed (!t) p = -signed t p := by cases t <;> simp [signed]

/-- A number beside the gap that is not above a is not above the gap; one that is not below a is not below it. -/
theorem le_lo_of_gap {lo hi a P : ℝ} (t : Bool) (nonneg : 0 ≤ lo) (lt : a < hi) (hP : 0 ≤ P) (gap : P ≤ lo ∨ hi ≤ P) (le : signed t P ≤ a) :
    signed t P ≤ lo := by
  cases t <;> simp only [signed, if_true, Bool.false_eq_true, if_false] at le ⊢
  · exact gap.resolve_right fun above => by linarith
  · linarith
theorem hi_le_of_gap {lo hi a P : ℝ} (t : Bool) (pos : 0 < a) (hP : 0 ≤ P) (gap : P ≤ lo ∨ hi ≤ P) (lo_lt : lo < a) (le : a ≤ signed t P) :
    hi ≤ signed t P := by
  cases t <;> simp only [signed, if_true, Bool.false_eq_true, if_false] at le ⊢
  · exact gap.resolve_left fun below => by linarith
  · linarith

/-- The rounded bits, with their sign, are the number rounded within the numbers of the format. -/
theorem roundsTo_of_bits {f : Fmt} (ok : f.Ok) {rm : Nat} {s : Bool} {a : ℝ} {r : Nat × Bool} (pos : 0 < a) (h : RoundsToBits f rm s a r) :
    RoundsTo f rm (signed s a) (signed s (magnitude f r.1)) (signF f s + r.1) := by
  obtain ⟨b, lo, hi, -, dir⟩ := h
  intro y p num
  obtain ⟨t, P, rfl, hP, gap⟩ := number_gap num b
  have nonneg := magnitude_nonneg f b
  have nonneg' := magnitude_nonneg f r.1
  rcases rm with _ | _ | _ | rm
  · refine nearest_of_gap (b := b) nonneg pos lo hi ?_ hP gap
    rcases dir with ⟨e, stay⟩ | ⟨e, up⟩
    · exact .inl ⟨by rw [even_signF ok, e], by rw [e], stay⟩
    · exact .inr ⟨by rw [even_signF ok, e], by rw [e], up⟩
  · rcases dir with ⟨e, -⟩ | ⟨-, up⟩
    · simp only [e, abs_signed s nonneg, abs_signed s pos.le, abs_signed t hP]
      refine ⟨lo, ?_, fun le _ => gap.resolve_right fun above => by linarith⟩
      have := mul_nonneg nonneg pos.le
      cases s <;> simpa [signed] using this
    · exact up.elim
  · have mirror : -signed t P = signed (!t) P := (signed_not t P).symm
    cases s <;> simp only [signed, if_true, Bool.false_eq_true, if_false]
    · rcases dir with ⟨e, stay⟩ | ⟨e, up, -⟩ <;> rw [e]
      · obtain rfl : a = magnitude f b := by by_contra ne; exact stay ⟨ne, rfl⟩
        exact ⟨le_rfl, id⟩
      · exact ⟨hi.le, hi_le_of_gap t pos hP gap (lt_of_le_of_ne lo (Ne.symm up))⟩
    · rcases dir with ⟨e, -⟩ | ⟨-, -, absurd_⟩
      · rw [e]
        exact ⟨neg_le_neg lo, fun le => neg_le.mp (mirror.trans_le (le_lo_of_gap (!t) nonneg hi hP gap (mirror.symm.trans_le (neg_le.mp le))))⟩
      · exact absurd absurd_ (by decide)
  · have mirror : -signed t P = signed (!t) P := (signed_not t P).symm
    cases s <;> simp only [signed, if_true, Bool.false_eq_true, if_false]
    · rcases dir with ⟨e, -⟩ | ⟨-, -, absurd_⟩
      · rw [e]
        exact ⟨lo, le_lo_of_gap t nonneg hi hP gap⟩
      · exact absurd absurd_ (by decide)
    · rcases dir with ⟨e, stay⟩ | ⟨e, up, -⟩ <;> rw [e]
      · obtain rfl : a = magnitude f b := by by_contra ne; exact stay ⟨ne, rfl⟩
        exact ⟨le_rfl, id⟩
      · exact ⟨neg_le_neg hi.le, fun le => le_neg.mp ((hi_le_of_gap (!t) pos hP gap (lt_of_le_of_ne lo (Ne.symm up))
          ((le_neg.mp le).trans_eq mirror)).trans_eq mirror.symm)⟩

end Sys2Proof.Machine
end

section
namespace Sys2Proof.Machine

/-! ### Packing a number into a format -/

/-- The number x is the integer m; or it lies within 1 of it, m is odd, and m has three bits more than a result keeps, so that its last
bit only says that x is no integer (the sticky bit of a quotient or a root). -/
def StandsFor (f : Fmt) (x : ℝ) (m : Nat) : Prop := x = m ∨ (m % 2 = 1 ∧ 2 ^ (f.mb + 3) ≤ m ∧ m - 1 < x ∧ x < m + 1)

/-- The exponent of the leading bit, and that of the place to which packF rounds. -/
def leadOf (m : Nat) (e : ℤ) : ℤ := Nat.log2 m + e
def placeOfLead (f : Fmt) (lead : ℤ) : ℤ := Max.max lead (1 - (f.bias : ℤ)) - f.mb

section
variable {f : Fmt} {x : ℝ} {m : Nat} (st : StandsFor f x m) (nz : m ≠ 0)
include st nz

theorem StandsFor.log2_le : (2 : ℝ) ^ Nat.log2 m ≤ x := by
  have le : 2 ^ Nat.log2 m ≤ m := Nat.log2_self_le nz
  rcases st with rfl | ⟨odd, big, lo, -⟩
  · exact_mod_cast le
  · have ne : 2 ^ Nat.log2 m ≠ m := by
      intro e
      have : Nat.log2 m ≠ 0 := by rintro z; rw [z] at e; have : 8 ≤ 2 ^ (f.mb + 3) := Nat.pow_le_pow_right (n := 2) two_pos (Nat.le_add_left 3 _); omega
      obtain ⟨k, z⟩ := Nat.exists_eq_succ_of_ne_zero this
      rw [z, pow_succ] at e; omega
    have : ((2 ^ Nat.log2 m + 1 : ℕ) : ℝ) ≤ m := by exact_mod_cast (show 2 ^ Nat.log2 m + 1 ≤ m by omega)
    push_cast at this; linarith
omit nz in
theorem StandsFor.lt_log2 : x < (2 : ℝ) ^ (Nat.log2 m + 1) := by
  have lt : m + 1 ≤ 2 ^ (Nat.log2 m + 1) := Nat.lt_log2_self
  have : ((m + 1 : ℕ) : ℝ) ≤ 2 ^ (Nat.log2 m + 1) := by exact_mod_cast lt
  push_cast at this
  rcases st with rfl | ⟨-, -, -, hi⟩ <;> linarith
theorem StandsFor.pos : 0 < x := lt_of_lt_of_le (by positivity) (st.log2_le nz)

/-- The leading bit of the number. -/
theorem StandsFor.lead (e : ℤ) : (2 : ℝ) ^ leadOf m e ≤ x * 2 ^ e ∧ x * 2 ^ e < 2 ^ (leadOf m e + 1) := by
  have pos := two_zpow_pos e
  have l : (2 : ℝ) ^ leadOf m e = 2 ^ Nat.log2 m * 2 ^ e := by rw [leadOf, zpow_add₀ two_ne_zero, zpow_natCast]
  have l' : (2 : ℝ) ^ (leadOf m e + 1) = 2 ^ (Nat.log2 m + 1) * 2 ^ e := by rw [zpow_add_one₀ two_ne_zero, l]; ring
  rw [l, l']
  exact ⟨mul_le_mul_of_nonneg_right (st.log2_le nz) pos.le, mul_lt_mul_of_pos_right st.lt_log2 pos⟩

/-- Rounding to a place that leaves no more than the bits of a result. -/
theorem StandsFor.rounds {rm : Nat} {s : Bool} {e q : ℤ} (low : leadOf m e - f.mb ≤ q) :
    RoundsInUnits rm s (2 ^ q) (x * 2 ^ e) (roundAt rm s m e q) := by
  refine roundAt_rounds (st.imp_right fun ⟨odd, big, lo, hi⟩ => ⟨odd, ?_, lo, hi⟩)
  have : f.mb + 3 ≤ Nat.log2 m := (Nat.le_log2 nz).mpr big
  rw [leadOf] at low
  omega

/-- The bits that packF finds. -/
theorem StandsFor.toBits (ok : f.Ok) {rm : Nat} {s : Bool} {e : ℤ} :
    RoundsToBits f rm s (x * 2 ^ e) (patternOf f (roundAt rm s m e (placeOfLead f (leadOf m e))).1 (placeOfLead f (leadOf m e)),
      (roundAt rm s m e (placeOfLead f (leadOf m e))).2) := by
  obtain ⟨lo, hi⟩ := st.lead nz e
  have pow (k : Nat) (q : ℤ) : (2 : ℝ) ^ k * 2 ^ q = 2 ^ (k + q) := by rw [zpow_add₀ two_ne_zero, zpow_natCast]
  refine (st.rounds nz (by rw [placeOfLead]; omega)).toBits ok (by rw [placeOfLead]; omega) ?_ ?_
  · rw [pow]
    exact hi.trans_le (zpow_le_zpow_right₀ one_le_two (by rw [placeOfLead]; push_cast; omega))
  · rw [pow]
    intro small
    have := (zpow_lt_zpow_iff_right₀ (one_lt_two (α := ℝ))).mp (lo.trans_lt small)
    rw [placeOfLead] at this ⊢
    omega

end

/-- Tininess after rounding with no bound on the exponent, as packF tests it (R46). -/
def tinyAt (f : Fmt) (rm : Nat) (s : Bool) (m : Nat) (e : ℤ) : Bool :=
  decide (leadOf m e < 1 - (f.bias : ℤ)) && !(decide (leadOf m e = 1 - (f.bias : ℤ) - 1) &&
    decide (2 ^ (f.mb + 1) ≤ (roundAt rm s m e (leadOf m e - f.mb)).1))

/-- Tiny numbers by their size alone: all at least a unit h below the least normal number u, none from u up, and between by the rounding. -/
def TinyBelow (rm : Nat) (u h z : ℝ) : Prop :=
  match rm with
  | 0 => |z| < u - h / 2
  | 1 => |z| < u
  | 2 => -u < z ∧ z ≤ u - h
  | _ => -u + h ≤ z ∧ z < u
theorem tiny_eq (f : Fmt) (rm : Nat) (z : ℝ) : Tiny f rm z = TinyBelow rm (2 ^ (1 - (f.bias : ℤ))) (2 ^ (-(f.bias : ℤ) - f.mb)) z := by
  rcases rm with _ | _ | _ | rm <;> simp only [Tiny, TinyBelow, bias_cast]

section
variable {rm : Nat} {s : Bool} {u h a : ℝ} (pos : 0 < a) (unit : 0 < h)
include pos unit

theorem tinyBelow_of_le (le : a ≤ u - h) : TinyBelow rm u h (signed s a) := by
  have abs := abs_signed s pos.le
  rcases rm with _ | _ | _ | rm <;> simp only [TinyBelow, abs]
  · linarith
  · linarith
  all_goals cases s <;> simp only [signed, if_true, Bool.false_eq_true, if_false] <;> constructor <;> linarith
theorem not_tinyBelow_of_ge (ge : u ≤ a) : ¬ TinyBelow rm u h (signed s a) := by
  have abs := abs_signed s pos.le
  rcases rm with _ | _ | _ | rm <;> simp only [TinyBelow, abs]
  · linarith
  · linarith
  all_goals cases s <;> simp only [signed, if_true, Bool.false_eq_true, if_false] <;> rintro ⟨p, q⟩ <;> linarith
omit unit in
theorem tinyBelow_iff_not_goesUp {n : Nat} (odd : n % 2 = 1) (lo : u - h ≤ a) (hi : a < u) (le : h ≤ u) :
    TinyBelow rm u h (signed s a) ↔ ¬ GoesUp rm s n (u - h) (u - h / 2) a := by
  have abs := abs_signed s pos.le
  rcases rm with _ | _ | _ | rm <;> simp only [TinyBelow, GoesUp, abs, odd, and_true, not_or, not_lt, not_false_eq_true, iff_true]
  · exact ⟨fun lt => ⟨lt.le, lt.ne⟩, fun ⟨le, ne⟩ => lt_of_le_of_ne le ne⟩
  · exact hi
  all_goals cases s <;> simp only [signed, if_true, Bool.false_eq_true, if_false, and_true, and_false, not_false_eq_true, iff_true, not_not, ne_eq, Bool.true_eq_false]
  · exact ⟨fun ⟨_, le⟩ => le_antisymm le lo, fun e => ⟨by linarith, e.le⟩⟩
  · constructor <;> linarith
  · constructor <;> linarith
  · exact ⟨fun ⟨le, _⟩ => by linarith, fun e => ⟨by linarith, by linarith⟩⟩

end

theorem tinyAt_iff {f : Fmt} {x : ℝ} {m : Nat} (st : StandsFor f x m) (nz : m ≠ 0) {rm : Nat} {s : Bool} {e : ℤ} :
    tinyAt f rm s m e = true ↔ Tiny f rm (signed s (x * 2 ^ e)) := by
  obtain ⟨lo, hi⟩ := st.lead nz e
  have pos : 0 < x * 2 ^ e := (two_zpow_pos _).trans_le lo
  have two (i j : ℤ) (le : i ≤ j) : (2 : ℝ) ^ i ≤ 2 ^ j := zpow_le_zpow_right₀ one_le_two le
  have unit := two_zpow_pos (-(f.bias : ℤ) - f.mb)
  have full : (2 : ℝ) ^ (1 - (f.bias : ℤ)) = 2 ^ (f.mb + 1) * 2 ^ (-(f.bias : ℤ) - f.mb) := by
    rw [← zpow_natCast, ← zpow_add₀ two_ne_zero]; congr 1; push_cast; ring
  have half : (2 : ℝ) ^ (1 - (f.bias : ℤ) - 1) + 2 ^ (-(f.bias : ℤ) - f.mb) ≤ 2 ^ (1 - (f.bias : ℤ)) := by
    have le := two (-(f.bias : ℤ) - f.mb) (1 - (f.bias : ℤ) - 1) (by omega)
    have twice : (2 : ℝ) ^ (1 - (f.bias : ℤ)) = 2 * 2 ^ (1 - (f.bias : ℤ) - 1) := by
      rw [← zpow_one_add₀ two_ne_zero]; congr 1; ring
    linarith
  rw [tiny_eq]
  rcases lt_trichotomy (leadOf m e) (1 - (f.bias : ℤ) - 1) with below | edge | above
  · have le := two (leadOf m e + 1) (1 - (f.bias : ℤ) - 1) (by omega)
    exact iff_of_true (by simp only [tinyAt, below.ne]; simp; omega) (tinyBelow_of_le pos unit (by linarith))
  · obtain ⟨n, nlo, nhi, -, dir⟩ := st.rounds (rm := rm) (s := s) (e := e) nz le_rfl
    have place : leadOf m e - f.mb = -(f.bias : ℤ) - f.mb := by omega
    have tiny : tinyAt f rm s m e = true ↔ ¬ 2 ^ (f.mb + 1) ≤ (roundAt rm s m e (-(f.bias : ℤ) - f.mb)).1 := by
      simp only [tinyAt, edge]; rw [← place, edge]; simp
    rw [place] at nlo nhi dir
    rw [tiny]
    have top : x * 2 ^ e < 2 ^ (1 - (f.bias : ℤ)) := hi.trans_le (two _ _ (by omega))
    have lt : n < 2 ^ (f.mb + 1) := by
      have := lt_of_mul_lt_mul_right (nlo.trans_lt (full ▸ top)) unit.le
      exact_mod_cast this
    rcases Nat.lt_or_ge (n + 1) (2 ^ (f.mb + 1)) with inside | last
    · have le : ((n : ℝ) + 1 + 1) * 2 ^ (-(f.bias : ℤ) - f.mb) ≤ 2 ^ (f.mb + 1) * 2 ^ (-(f.bias : ℤ) - f.mb) :=
        mul_le_mul_of_nonneg_right (by exact_mod_cast inside) unit.le
      refine iff_of_true (by rcases dir with ⟨e, -⟩ | ⟨e, -⟩ <;> omega) (tinyBelow_of_le pos unit ?_)
      rw [full]; linarith
    · have whole : (n : ℝ) + 1 = 2 ^ (f.mb + 1) := by exact_mod_cast (show n + 1 = 2 ^ (f.mb + 1) by omega)
      have odd : n % 2 = 1 := by rw [pow_succ] at lt last; omega
      have under : (n : ℝ) * 2 ^ (-(f.bias : ℤ) - f.mb) = 2 ^ (1 - (f.bias : ℤ)) - 2 ^ (-(f.bias : ℤ) - f.mb) := by rw [full, ← whole]; ring
      have mid : ((n : ℝ) + 1 / 2) * 2 ^ (-(f.bias : ℤ) - f.mb) = 2 ^ (1 - (f.bias : ℤ)) - 2 ^ (-(f.bias : ℤ) - f.mb) / 2 := by
        rw [full, ← whole]; ring
      rw [under, mid] at dir
      rw [under] at nlo
      rw [tinyBelow_iff_not_goesUp pos odd nlo top (by linarith [two_zpow_pos (1 - (f.bias : ℤ) - 1)])]
      rcases dir with ⟨e, stay⟩ | ⟨e, up⟩
      · exact iff_of_true (by omega) stay
      · exact iff_of_false (by omega) (not_not.mpr up)
  · have le := two (1 - (f.bias : ℤ)) (leadOf m e) (by omega)
    exact iff_of_false (by simp only [tinyAt]; simp; omega) (not_tinyBelow_of_ge pos unit (by linarith))

/-- An overflow goes to an infinity, not to the largest number (R45, R49). -/
def overflowsAway (rm : Nat) (sat s : Bool) : Bool := !sat && (rm == 0 || (rm == 2 && !s) || (rm == 3 && s))

/-- What packF does with the bits and the flags that it has found. -/
def delivered (f : Fmt) (rm : Nat) (sat s tiny : Bool) (r : Nat × Bool) : Nat × Nat :=
  if maxF f false < r.1 then (if overflowsAway rm sat s then infF f s else maxF f s, OF ||| NX)
  else (signF f s + r.1, (if r.2 then NX else 0) ||| (if tiny && r.2 then UF else 0))

theorem packF_zero (f : Fmt) (md : FMode) (sat s : Bool) (e : ℤ) : packF f md sat s 0 e = (signF f s, 0) := rfl

theorem packF_eq (f : Fmt) (rm : Nat) (sat s : Bool) {m : Nat} (nz : m ≠ 0) (e : ℤ) :
    packF f ⟨rm, false⟩ sat s m e = delivered f rm sat s (tinyAt f rm s m e)
      (patternOf f (roundAt rm s m e (placeOfLead f (leadOf m e))).1 (placeOfLead f (leadOf m e)), (roundAt rm s m e (placeOfLead f (leadOf m e))).2) := by
  rw [packF, if_neg nz]
  rfl

theorem maxF_signed (f : Fmt) (s : Bool) : maxF f s = signF f s + maxF f false := by cases s <;> simp [maxF, signF]

theorem numOf_signF_add {f : Fmt} (ok : f.Ok) (s : Bool) {b : Nat} (le : b ≤ maxF f false) :
    numOf f (signF f s + b) = some (signed s (magnitude f b)) := by
  have lt : b < 2 ^ (f.eb + f.mb) := by have := maxF_lt ok; omega
  rw [numOf_number, lowBits_signF_add s lt, negPat_signF_add s lt]
  rw [special_iff_maxF_lt ok, lowBits_signF_add s lt]; omega

theorem infF_lt (f : Fmt) : (2 ^ f.eb - 1) * 2 ^ f.mb < 2 ^ (f.eb + f.mb) := by
  have pos : 0 < 2 ^ f.eb := by positivity
  rw [Nat.pow_add]; exact Nat.mul_lt_mul_of_pos_right (by omega) (by positivity)
theorem negPat_infF (f : Fmt) (s : Bool) : negPat f (infF f s) = s := negPat_signF_add s (infF_lt f)
theorem infPat_infF {f : Fmt} (inf : f.inf = true) (s : Bool) : infPat f (infF f s) :=
  ⟨inf, (exOf_signF_add s (infF_lt f)).trans (Nat.mul_div_cancel _ (by positivity)),
    (frOf_signF_add s (infF_lt f)).trans (Nat.mul_mod_left _ _)⟩

theorem overflowsAway_iff (rm : Nat) (sat s : Bool) {a : ℝ} (pos : 0 < a) :
    overflowsAway rm sat s = true ↔ sat = false ∧ (rm = 0 ∨ (rm = 2 ∧ 0 < signed s a) ∨ (rm = 3 ∧ signed s a < 0)) := by
  have up : 0 < signed s a ↔ s = false := by cases s <;> simp [signed, pos, pos.le]
  rw [up, signed_lt_zero s pos]
  simp [overflowsAway, or_assoc]

/-- The flags of a result that does not overflow. -/
theorem flags_inexact_tiny (i t : Bool) :
    let fl := (if i then NX else 0) ||| (if t && i then UF else 0)
    fl < 4 ∧ (fl.testBit 0 ↔ i = true) ∧ (fl.testBit 1 ↔ i = true ∧ t = true) := by
  cases i <;> cases t <;> decide

/-- Packed bits and flags are the number rounded, and have its sign. -/
theorem delivers_of_bits {f : Fmt} (ok : f.Ok) {rm : Nat} {sat s tiny : Bool} (inf : f.inf = true ∨ sat = true) {a : ℝ} {r : Nat × Bool}
    (pos : 0 < a) (h : RoundsToBits f rm s a r) (t : tiny = true ↔ Tiny f rm (signed s a)) :
    Delivers f rm sat (signed s a) (delivered f rm sat s tiny r) := by
  have past := maxF_lt_iff_overflows ok pos h
  have neg := signed_lt_zero s pos
  have top : maxF f false < 2 ^ (f.eb + f.mb) := by have := maxF_lt ok; omega
  unfold delivered
  refine ⟨fun o => ?_, fun no => ?_, fun _ => ?_⟩
  · rw [if_pos (past.mpr o)]
    refine ⟨rfl, ?_⟩
    simp only [← overflowsAway_iff rm sat s pos]
    split
    · rename_i away
      exact infPat_infF (inf.resolve_right fun sat' => by simp [overflowsAway, sat'] at away) s
    · rw [maxF_signed, numOf_signF_add ok s le_rfl, magnitude_maxF ok]
      cases s <;> simp [signed, pos, pos.le]
  · have le : ¬ maxF f false < r.1 := fun lt => no (past.mp lt)
    obtain ⟨small, nx, uf⟩ := flags_inexact_tiny r.2 tiny
    have inexact := inexact_iff pos h
    rw [if_neg le]
    refine ⟨_, numOf_signF_add ok s (Nat.not_lt.mp le), roundsTo_of_bits ok pos h, small, nx.trans inexact, uf.trans ?_⟩
    rw [t, inexact]
  · rw [neg]
    split
    · split
      · rw [negPat_infF]
      · rw [maxF_signed, negPat_signF_add s top]
    · rename_i le
      rw [negPat_signF_add s (by omega)]

/-- Packing gives the number rounded. -/
theorem packF_delivers {f : Fmt} (ok : f.Ok) (rm : Nat) {sat : Bool} (s : Bool) (inf : f.inf = true ∨ sat = true) {x : ℝ} {m : Nat}
    (st : StandsFor f x m) (nz : m ≠ 0) (e : ℤ) :
    Delivers f rm sat (signed s (x * 2 ^ e)) (packF f ⟨rm, false⟩ sat s m e) := by
  rw [packF_eq f rm sat s nz e]
  exact delivers_of_bits ok inf (mul_pos (st.pos nz) (two_zpow_pos e)) (st.toBits nz ok) (tinyAt_iff st nz)

end Sys2Proof.Machine
end

section
namespace Sys2Proof.Machine

/-! ## Operands (R41) -/

theorem negPat_eq (f : Fmt) (x : Nat) : (x / 2 ^ (f.mb + f.eb) % 2 == 1) = negPat f x := by
  rw [negPat, Nat.testBit_eq_decide_div_mod_eq]; rfl

/-- The quiet bit of a NaN. -/
theorem quiet_bit {f : Fmt} (ok : f.Ok) (x : Nat) : x / 2 ^ (f.mb - 1) % 2 = 0 ↔ frOf f x < 2 ^ (f.mb - 1) := by
  have e : 2 ^ f.mb = 2 ^ (f.mb - 1) * 2 := by rw [← pow_succ]; congr 1; have := ok.mb; omega
  rw [frOf, e, ← Nat.mod_mul_right_div_self, Nat.div_eq_zero_iff]
  have : (2 : ℕ) ^ (f.mb - 1) ≠ 0 := by positivity
  tauto

theorem readF_nan {f : Fmt} (ok : f.Ok) {x : Nat} (h : nanPat f x) : ∃ g, readF f x = .nan g ∧ (g = true ↔ signallingPat f x) := by
  have nan := h
  obtain ⟨ex, fr⟩ := h
  cases inf : f.inf with
  | true =>
    simp only [inf, if_true] at fr
    refine ⟨decide (frOf f x < 2 ^ (f.mb - 1)), by simp [readF, inf, ex, fr], ?_⟩
    rw [signallingPat, quiet_bit ok]
    simp [inf, nan]
  | false =>
    simp only [inf, Bool.false_eq_true, if_false] at fr
    exact ⟨false, by simp [readF, inf, ex, fr], by simp [signallingPat, inf]⟩

theorem readF_inf {f : Fmt} {x : Nat} (h : infPat f x) : readF f x = .inf (negPat f x) := by
  obtain ⟨inf, ex, fr⟩ := h
  simp [readF, inf, ex, fr, negPat_eq]

theorem readF_number {f : Fmt} {x : Nat} (h : ¬ special f x) :
    readF f x = .fin (negPat f x) (mantissa f (exOf f x) (frOf f x)) (unitExp f (exOf f x)) := by
  rw [special] at h
  have one : (f.inf && exOf f x == 2 ^ f.eb - 1) = false := by
    cases k : f.inf <;> simp_all
  have two : (!f.inf && exOf f x == 2 ^ f.eb - 1 && frOf f x == 2 ^ f.mb - 1) = false := by
    cases k : f.inf <;> simp_all
  rw [readF]
  simp only [one, two, negPat_eq, Bool.false_eq_true, if_false]
  by_cases z : exOf f x = 0
  · simp [z, mantissa, unitExp]
  · have hidden : Max.max 1 (exOf f x : ℤ) = exOf f x := by omega
    simp only [z, mantissa, unitExp, hidden, if_false]

/-- A number is read as its sign, a fraction and a power of two. -/
theorem readF_of_numOf {f : Fmt} {x : Nat} {v : ℝ} (h : numOf f x = some v) :
    ∃ m e, readF f x = .fin (negPat f x) m e ∧ v = signed (negPat f x) (m * 2 ^ e) := by
  obtain ⟨num, rfl⟩ := numOf_eq_some h
  exact ⟨_, _, readF_number num, by rw [magnitude, lowBits_div, lowBits_mod]⟩

/-- A pattern is a NaN, an infinity or a number. -/
theorem pattern_cases (f : Fmt) (x : Nat) : nanPat f x ∨ infPat f x ∨ ∃ v, numOf f x = some v := by
  by_cases h : special f x
  · rw [special_iff] at h; tauto
  · exact .inr (.inr ⟨_, numOf_number h⟩)
theorem not_nan_of_numOf {f : Fmt} {x : Nat} {v : ℝ} (h : numOf f x = some v) : ¬ nanPat f x := fun n =>
  (numOf_eq_some h).1 ((special_iff f x).mpr (.inl n))
theorem not_inf_of_numOf {f : Fmt} {x : Nat} {v : ℝ} (h : numOf f x = some v) : ¬ infPat f x := fun n =>
  (numOf_eq_some h).1 ((special_iff f x).mpr (.inr n))
theorem not_nan_of_infPat {f : Fmt} {x : Nat} (h : infPat f x) : ¬ nanPat f x := by
  rintro ⟨-, fr⟩; rw [if_pos h.1] at fr; exact fr h.2.2

end Sys2Proof.Machine
end

section
namespace Sys2Proof.Machine

/-! ## Results that are numbers -/

theorem signed_zero (s : Bool) : signed s 0 = 0 := by cases s <;> simp [signed]
theorem signed_eq_zero {s : Bool} {a : ℝ} : signed s a = 0 ↔ a = 0 := by cases s <;> simp [signed]
theorem signed_mul (s t : Bool) (a b : ℝ) : signed s a * signed t b = signed (s != t) (a * b) := by cases s <;> cases t <;> simp [signed]
theorem signed_div (s t : Bool) (a b : ℝ) : signed s a / signed t b = signed (s != t) (a / b) := by
  cases s <;> cases t <;> simp [signed, neg_div, div_neg]
theorem fin_eq_zero {s : Bool} {m : Nat} {e : ℤ} : signed s ((m : ℝ) * 2 ^ e) = 0 ↔ m = 0 := by
  rw [signed_eq_zero, mul_eq_zero, Nat.cast_eq_zero, or_iff_left (two_zpow_pos e).ne']

theorem units_eq_zero {m : Nat} {e : ℤ} (h : (m : ℝ) * 2 ^ e = 0) : m = 0 := (fin_eq_zero (s := false)).mp h

theorem signF_number {f : Fmt} (ok : f.Ok) (s : Bool) : numOf f (signF f s) = some 0 ∧ negPat f (signF f s) = s := by
  have n := numOf_signF_add ok s (Nat.zero_le _)
  have p := negPat_signF_add (f := f) s (b := 0) (by positivity)
  rw [Nat.add_zero, magnitude_zero, signed_zero] at n
  exact ⟨n, p⟩

theorem not_overflows_zero {f : Fmt} (ok : f.Ok) (rm : Nat) : ¬ Overflows f rm 0 := by
  have mono := magnitude_strictMono f
  have next := magnitude_maxF_succ ok
  have max := magnitude_maxF ok
  have M : 0 ≤ maxOf f := max ▸ magnitude_nonneg f _
  have step : 0 < topStep f := by
    have := mono (Nat.lt_succ_self (maxF f false))
    rw [Nat.succ_eq_add_one, next, max] at this; linarith
  rcases rm with _ | _ | _ | rm <;> simp only [Overflows, abs_zero, not_or, not_lt, not_le]
  · split <;> linarith
  · linarith
  all_goals constructor <;> linarith

theorem flushF_off (f : Fmt) (a : Nat) : flushF f false a = a := rfl

theorem delivers_zero {f : Fmt} (ok : f.Ok) (rm : Nat) (sat s : Bool) : Delivers f rm sat 0 (signF f s, 0) := by
  refine ⟨fun o => absurd o (not_overflows_zero ok rm), fun _ => ⟨0, (signF_number ok s).1, fun y p _ => ?_, Nat.zero_lt_succ _, by simp, by simp⟩,
    fun h => absurd rfl h⟩
  rcases rm with _ | _ | _ | rm
  · exact ⟨by simp, fun ne e => absurd (by simpa using e) ne⟩
  · exact ⟨by simp, by simp, fun le _ => by simpa using le⟩
  · exact ⟨le_rfl, id⟩
  · exact ⟨le_rfl, id⟩

section
variable {f : Fmt} (ok : f.Ok) (rm : Nat)
include ok

/-- Packing an exact number, zero too. -/
theorem packF_exact {sat : Bool} (s : Bool) (inf : f.inf = true ∨ sat = true) (m : Nat) (e : ℤ) :
    Delivers f rm sat (signed s (m * 2 ^ e)) (packF f ⟨rm, false⟩ sat s m e) := by
  rcases Nat.eq_zero_or_pos m with rfl | pos
  · rw [packF_zero, Nat.cast_zero, zero_mul, signed_zero]
    exact delivers_zero ok rm sat s
  · exact packF_delivers ok rm s inf (.inl rfl) pos.ne' e

variable {a b : Nat} {x y : ℝ} (hx : numOf f a = some x) (hy : numOf f b = some y) (inf : f.inf = true)
include hx hy inf

theorem mulF_number : Delivers f rm false (x * y) (mulF f ⟨rm, false⟩ a b) ∧
    (x * y = 0 → negPat f (mulF f ⟨rm, false⟩ a b).1 = (negPat f a != negPat f b)) := by
  obtain ⟨m, e, ra, rfl⟩ := readF_of_numOf hx
  obtain ⟨n, g, rb, rfl⟩ := readF_of_numOf hy
  have val : signed (negPat f a) (m * 2 ^ e) * signed (negPat f b) (n * 2 ^ g) =
      signed (negPat f a != negPat f b) ((m * n : ℕ) * 2 ^ (e + g)) := by
    rw [signed_mul, zpow_add₀ two_ne_zero]; congr 1; push_cast; ring
  have is : mulF f ⟨rm, false⟩ a b = packF f ⟨rm, false⟩ false (negPat f a != negPat f b) (m * n) (e + g) := by
    simp only [mulF, flushF_off, ra, rb]
  rw [is, val]
  refine ⟨packF_exact ok rm _ (.inl inf) _ _, fun z => ?_⟩
  rw [fin_eq_zero.mp z, packF_zero]
  exact (signF_number ok _).2

end

/-! ### Sums (R126) -/

/-- The finite case of fmaF: a product ±pm 2^pe and an addend ±k 2^h. -/
def sumF (f : Fmt) (md : FMode) (ps : Bool) (pm : Nat) (pe : ℤ) (us : Bool) (k : Nat) (h : ℤ) : Nat × Nat :=
  if pm = 0 && k = 0 then (signF f (if ps = us then ps else md.rm == 3), 0)
  else
    let lo := if pm = 0 then h else if k = 0 then pe else Min.min pe h
    let A : Int := (pm : Int) * 2 ^ (pe - lo).toNat * (if ps then -1 else 1)
    let B : Int := (k : Int) * 2 ^ (h - lo).toNat * (if us then -1 else 1)
    let S := A + B
    if S = 0 then (signF f (md.rm == 3), 0) else packF f md false (decide (S < 0)) S.natAbs lo

/-- A term of the sum in units of the lower place. -/
theorem aligned_term (s : Bool) (m : Nat) {e lo : ℤ} (h : m ≠ 0 → lo ≤ e) :
    (((m : ℤ) * 2 ^ (e - lo).toNat * (if s then -1 else 1) : ℤ) : ℝ) * 2 ^ lo = signed s (m * 2 ^ e) := by
  rcases Nat.eq_zero_or_pos m with rfl | pos
  · simp [signed_zero]
  · have shift : (2 : ℝ) ^ (e - lo).toNat * 2 ^ lo = 2 ^ e := by
      rw [← zpow_natCast, Int.toNat_of_nonneg (by have := h pos.ne'; omega), ← zpow_add₀ two_ne_zero, sub_add_cancel]
    rw [← shift]
    cases s <;> simp [signed] <;> ring

/-- An integer number of units as its sign and magnitude. -/
theorem signed_natAbs (S : ℤ) (u : ℝ) : signed (decide (S < 0)) (S.natAbs * u) = S * u := by
  rcases lt_or_ge S 0 with neg | nonneg
  · have : ((S.natAbs : ℕ) : ℝ) = -S := by rw [← Int.cast_natCast, Int.ofNat_natAbs_of_nonpos neg.le]; push_cast; rfl
    simp [signed, neg, this]
  · have : ((S.natAbs : ℕ) : ℝ) = S := by rw [← Int.cast_natCast, Int.natAbs_of_nonneg nonneg]
    simp [signed, nonneg.not_gt, this]

theorem sumF_delivers {f : Fmt} (ok : f.Ok) (inf : f.inf = true) (rm : Nat) (ps : Bool) (pm : Nat) (pe : ℤ) (us : Bool) (k : Nat) (h : ℤ) :
    let v := signed ps (pm * 2 ^ pe) + signed us (k * 2 ^ h)
    let r := sumF f ⟨rm, false⟩ ps pm pe us k h
    Delivers f rm false v r ∧ (v = 0 → negPat f r.1 = zeroSign rm ps us) := by
  intro v r
  by_cases zero : pm = 0 ∧ k = 0
  · obtain ⟨rfl, rfl⟩ := zero
    have : v = 0 := by simp [v, signed_zero]
    rw [this]
    exact ⟨delivers_zero ok rm _ _, fun _ => (signF_number ok _).2⟩
  · have nz : (decide (pm = 0) && decide (k = 0)) = false := by simpa using zero
    set lo := if pm = 0 then h else if k = 0 then pe else Min.min pe h with lo_
    have pa : pm ≠ 0 → lo ≤ pe := fun p => by rw [lo_, if_neg p]; split <;> omega
    have ka : k ≠ 0 → lo ≤ h := fun p => by rw [lo_, if_neg p]; split <;> omega
    have A := aligned_term ps pm pa
    have B := aligned_term us k ka
    set a : ℤ := (pm : ℤ) * 2 ^ (pe - lo).toNat * (if ps then -1 else 1)
    set b : ℤ := (k : ℤ) * 2 ^ (h - lo).toNat * (if us then -1 else 1)
    have val : v = ((a + b : ℤ) : ℝ) * 2 ^ lo := by push_cast; rw [add_mul, A, B]
    have is : r = if a + b = 0 then (signF f (rm == 3), 0) else packF f ⟨rm, false⟩ false (decide (a + b < 0)) (a + b).natAbs lo := by
      show sumF _ _ _ _ _ _ _ _ = _
      rw [sumF, if_neg (by rw [nz]; decide)]
    by_cases S : a + b = 0
    · have v0 : v = 0 := by rw [val, S]; simp
      have apart : ps ≠ us := by
        rintro rfl
        have sum : signed ps ((pm : ℝ) * 2 ^ pe + k * 2 ^ h) = 0 := by
          rw [← v0]; cases ps <;> simp [v, signed]; ring
        have P : (0 : ℝ) ≤ pm * 2 ^ pe := by positivity
        have Q : (0 : ℝ) ≤ k * 2 ^ h := by positivity
        have := signed_eq_zero.mp sum
        exact zero ⟨units_eq_zero (e := pe) (by linarith), units_eq_zero (e := h) (by linarith)⟩
      rw [is, if_pos S, v0, zeroSign, if_neg apart]
      exact ⟨delivers_zero ok rm _ _, fun _ => (signF_number ok _).2⟩
    · rw [is, if_neg S]
      have nonzero : v ≠ 0 := by
        rw [val]; exact mul_ne_zero (by exact_mod_cast S) (two_zpow_pos lo).ne'
      refine ⟨?_, fun z => absurd z nonzero⟩
      rw [val, ← signed_natAbs]
      exact packF_exact ok rm _ (.inl inf) _ _

section
variable {f : Fmt} (ok : f.Ok) (inf : f.inf = true) (rm : Nat) {a b c : Nat} {x y z : ℝ}
include ok inf

theorem fmaF_number (ng nc : Bool) (hx : numOf f a = some x) (hy : numOf f b = some y) (hz : numOf f c = some z) :
    let v := (if ng then -(x * y) else x * y) + (if nc then -z else z)
    let r := fmaF f ⟨rm, false⟩ ng nc a b c
    Delivers f rm false v r ∧ (v = 0 → negPat f r.1 = zeroSign rm ((negPat f a != negPat f b) != ng) (negPat f c != nc)) := by
  intro v r
  obtain ⟨m, e, ra, rfl⟩ := readF_of_numOf hx
  obtain ⟨n, g, rb, rfl⟩ := readF_of_numOf hy
  obtain ⟨k, h, rc, rfl⟩ := readF_of_numOf hz
  have product : (if ng then -(signed (negPat f a) (m * 2 ^ e) * signed (negPat f b) (n * 2 ^ g)) else
      signed (negPat f a) (m * 2 ^ e) * signed (negPat f b) (n * 2 ^ g)) =
      signed ((negPat f a != negPat f b) != ng) ((m * n : ℕ) * 2 ^ (e + g)) := by
    have : (m : ℝ) * 2 ^ e * (n * 2 ^ g) = (m * n : ℕ) * 2 ^ (e + g) := by rw [zpow_add₀ two_ne_zero]; push_cast; ring
    rw [signed_mul, this]
    cases ng <;> cases negPat f a <;> cases negPat f b <;> simp [signed]
  have addend : (if nc then -signed (negPat f c) (k * 2 ^ h) else signed (negPat f c) (k * 2 ^ h)) =
      signed (negPat f c != nc) (k * 2 ^ h) := by
    cases nc <;> cases negPat f c <;> simp [signed]
  have is : r = sumF f ⟨rm, false⟩ ((negPat f a != negPat f b) != ng) (m * n) (e + g) (negPat f c != nc) k h := by
    simp only [r, fmaF, flushF_off, ra, rb, rc, sigNv, Nat.or_self, Nat.zero_or]
    rfl
  rw [is, show v = _ from congrArg₂ (· + ·) product addend]
  exact sumF_delivers ok inf rm _ _ _ _ _ _

omit inf in
theorem oneF_le : oneF f ≤ maxF f false := by
  cases h : f.inf with
  | false => rw [ok.finite h]; decide
  | true =>
    rw [maxF_fields ok h, oneF]
    have : f.bias * 2 ^ f.mb ≤ 2 * f.bias * 2 ^ f.mb := Nat.mul_le_mul_right _ (by omega)
    omega

omit inf in
theorem oneF_number : numOf f (oneF f) = some 1 ∧ negPat f (oneF f) = false ∧ exOf f (oneF f) = f.bias := by
  have lt : oneF f < 2 ^ (f.eb + f.mb) := by have := maxF_lt ok; have := oneF_le ok; omega
  have one : magnitude f (oneF f) = 1 := by
    have b := bias_pos ok
    have fields := magnitude_fields (f := f) (fr := 0) f.bias (by positivity)
    have unit : unitExp f f.bias = -f.mb := by simp only [unitExp]; omega
    rw [Nat.add_zero] at fields
    rw [oneF, fields, unit, mantissa, if_neg (by omega), Nat.add_zero, Nat.cast_pow, zpow_neg, zpow_natCast]
    exact mul_inv_cancel₀ (by positivity)
  have num := numOf_signF_add ok false (oneF_le ok)
  have neg := negPat_signF_add false lt
  have ex := exOf_signF_add false lt
  rw [one] at num
  rw [oneF, Nat.mul_div_cancel _ (by positivity), ← oneF] at ex
  rw [show signF f false = 0 from rfl, Nat.zero_add] at num neg ex
  exact ⟨num, neg, ex⟩

theorem addF_number (hx : numOf f a = some x) (hy : numOf f b = some y) :
    Delivers f rm false (x + y) (addF f ⟨rm, false⟩ a b) ∧
      (x + y = 0 → negPat f (addF f ⟨rm, false⟩ a b).1 = zeroSign rm (negPat f a) (negPat f b)) := by
  obtain ⟨one, neg, -⟩ := oneF_number ok
  rw [addF]
  simpa [neg] using fmaF_number ok inf rm false false hx one hy

theorem subF_number (hx : numOf f a = some x) (hy : numOf f b = some y) :
    Delivers f rm false (x - y) (subF f ⟨rm, false⟩ a b) ∧
      (x - y = 0 → negPat f (subF f ⟨rm, false⟩ a b).1 = zeroSign rm (negPat f a) (!negPat f b)) := by
  obtain ⟨one, neg, -⟩ := oneF_number ok
  rw [subF]
  simpa [neg, ← sub_eq_add_neg] using fmaF_number ok inf rm false true hx one hy

/-! ### Quotients and roots, by a sticky bit (R126) -/

omit ok inf in
/-- The integer part of w and a bit that says whether there is more of it stand for 2w. -/
theorem standsFor_sticky {w : ℝ} {q st : Nat} (lo : q ≤ w) (hi : w < q + 1) (big : 2 ^ (f.mb + 2) ≤ q) (s : st = 0 ∧ w = q ∨ st = 1 ∧ w ≠ q) :
    StandsFor f (2 * w) (2 * q + st) := by
  rcases s with ⟨rfl, rfl⟩ | ⟨rfl, ne⟩
  · exact .inl (by push_cast; ring)
  · refine .inr ⟨by omega, by rw [pow_succ]; omega, ?_, ?_⟩
    · push_cast; linarith [lt_of_le_of_ne lo (Ne.symm ne)]
    · push_cast; linarith

omit ok inf in
/-- A quotient of integers, its integer part and whether there is more. -/
theorem quotient_part (p : Nat) {n : Nat} (pos : 0 < n) :
    ((p / n : ℕ) : ℝ) ≤ p / n ∧ (p / n : ℝ) < (p / n : ℕ) + 1 ∧
    ((if p % n = 0 then 0 else 1) = 0 ∧ (p / n : ℝ) = (p / n : ℕ) ∨ (if p % n = 0 then 0 else 1) = 1 ∧ (p / n : ℝ) ≠ (p / n : ℕ)) := by
  have posR : (0 : ℝ) < n := by exact_mod_cast pos
  have split : (p : ℝ) = n * (p / n : ℕ) + (p % n : ℕ) := by exact_mod_cast (Nat.div_add_mod p n).symm
  have lt : ((p % n : ℕ) : ℝ) < n := by exact_mod_cast Nat.mod_lt p pos
  have nonneg : (0 : ℝ) ≤ (p % n : ℕ) := Nat.cast_nonneg _
  have quot : (p / n : ℝ) = (p / n : ℕ) + (p % n : ℕ) / n := by rw [split]; field_simp
  have frac : ((p % n : ℕ) : ℝ) / n < 1 := (div_lt_one posR).mpr lt
  refine ⟨by rw [quot]; linarith [div_nonneg nonneg posR.le], by rw [quot]; linarith, ?_⟩
  by_cases z : p % n = 0
  · exact .inl ⟨if_pos z, by rw [quot, z]; simp⟩
  · refine .inr ⟨if_neg z, fun e => z ?_⟩
    rw [quot, add_eq_left, div_eq_zero_iff, or_iff_left posR.ne'] at e
    exact_mod_cast e

theorem divF_number (hx : numOf f a = some x) (hy : numOf f b = some y) (nz : y ≠ 0) :
    Delivers f rm false (x / y) (divF f ⟨rm, false⟩ a b) ∧ (x = 0 → negPat f (divF f ⟨rm, false⟩ a b).1 = (negPat f a != negPat f b)) := by
  obtain ⟨m, e, ra, rfl⟩ := readF_of_numOf hx
  obtain ⟨n, g, rb, rfl⟩ := readF_of_numOf hy
  have n0 : n ≠ 0 := fun z => nz (fin_eq_zero.mpr z)
  rcases Nat.eq_zero_or_pos m with rfl | pos
  · have is : divF f ⟨rm, false⟩ a b = (signF f (negPat f a != negPat f b), 0) := by
      simp [divF, flushF_off, ra, rb, n0, sigNv]
    rw [is, Nat.cast_zero, zero_mul, signed_zero, zero_div]
    exact ⟨delivers_zero ok rm _ _, fun _ => (signF_number ok _).2⟩
  · refine ⟨?_, fun z => absurd (fin_eq_zero.mp z) pos.ne'⟩
    set k := f.mb + 3 + Nat.log2 n
    set q := m * 2 ^ k / n
    set st := if m * 2 ^ k % n = 0 then 0 else 1
    have is : divF f ⟨rm, false⟩ a b = packF f ⟨rm, false⟩ false (negPat f a != negPat f b) (2 * q + st) (e - g - k - 1) := by
      simp only [divF, flushF_off, ra, rb, n0, pos.ne', if_false]
      rfl
    obtain ⟨lo, hi, sticky⟩ := quotient_part (m * 2 ^ k) (Nat.pos_of_ne_zero n0)
    have big : 2 ^ (f.mb + 2) ≤ q := by
      rw [Nat.le_div_iff_mul_le (Nat.pos_of_ne_zero n0)]
      calc 2 ^ (f.mb + 2) * n ≤ 2 ^ (f.mb + 2) * 2 ^ (Nat.log2 n + 1) := Nat.mul_le_mul_left _ Nat.lt_log2_self.le
        _ = 2 ^ k := by rw [← pow_add]; congr 1; omega
        _ ≤ m * 2 ^ k := Nat.le_mul_of_pos_left _ pos
    have val : signed (negPat f a) (m * 2 ^ e) / signed (negPat f b) (n * 2 ^ g) =
        signed (negPat f a != negPat f b) (2 * ((m * 2 ^ k : ℕ) / n) * 2 ^ (e - g - k - 1)) := by
      rw [signed_div, zpow_sub₀ two_ne_zero, zpow_sub₀ two_ne_zero, zpow_sub₀ two_ne_zero, zpow_natCast, zpow_one]
      have := (two_zpow_pos g).ne'
      congr 1; push_cast; field_simp
    rw [is, val]
    exact packF_delivers ok rm _ (.inl inf) (standsFor_sticky lo hi big sticky)
      (by have : 0 < 2 ^ (f.mb + 2) := by positivity
          omega) _

end

end Sys2Proof.Machine
end

section
namespace Sys2Proof.Machine

/-! ### Roots -/

/-- Bit by bit, the integer root of n: its square does not pass n, the next one's does. -/
theorem isqrt_spec {n : Nat} (k r : Nat) (lo : r * r ≤ n) (hi : n < (r + 2 ^ k) * (r + 2 ^ k)) :
    isqrt n k r * isqrt n k r ≤ n ∧ n < (isqrt n k r + 1) * (isqrt n k r + 1) := by
  induction k generalizing r with
  | zero => exact ⟨lo, hi⟩
  | succ k ih =>
    rw [isqrt]
    split
    · rename_i le
      refine ih _ le ?_
      rwa [show r + 2 ^ k + 2 ^ k = r + 2 ^ (k + 1) by rw [pow_succ]; ring]
    · rename_i gt
      exact ih r lo (Nat.not_le.mp gt)

/-- An integer root and a bit that says whether it is exact stand for the real root, doubled. -/
theorem standsFor_root {f : Fmt} {w : ℝ} {r st : Nat} (nonneg : 0 ≤ w) (lo : (r * r : ℝ) ≤ w * w) (hi : w * w < (r + 1) * (r + 1))
    (big : 2 ^ (f.mb + 2) ≤ r) (s : st = 0 ∧ w * w = r * r ∨ st = 1 ∧ w * w ≠ r * r) : StandsFor f (2 * w) (2 * r + st) := by
  have r0 : (0 : ℝ) ≤ r := Nat.cast_nonneg r
  refine standsFor_sticky ((mul_self_le_mul_self_iff r0 nonneg).mpr lo) ((mul_self_lt_mul_self_iff nonneg (by linarith)).mpr hi) big ?_
  rwa [ne_eq, mul_self_inj nonneg r0] at s

/-- The exponent made even. -/
def evenExp (m : Nat) (e : ℤ) : Nat × ℤ := if e % 2 = 0 then (m, e) else (2 * m, e - 1)
theorem evenExp_spec {m : Nat} (pos : 0 < m) (e : ℤ) :
    ∃ j : ℤ, (evenExp m e).2 = 2 * j ∧ 0 < (evenExp m e).1 ∧ ((evenExp m e).1 : ℝ) * 2 ^ (evenExp m e).2 = m * 2 ^ e := by
  unfold evenExp
  split
  · exact ⟨e / 2, by simp only []; omega, pos, rfl⟩
  · refine ⟨(e - 1) / 2, by simp only []; omega, by simp only []; omega, ?_⟩
    push_cast
    rw [zpow_sub_one₀ two_ne_zero]; ring

/-- The square root of an even power of two. -/
theorem sqrt_even (m : ℝ) (j : ℤ) : Real.sqrt (m * 2 ^ (2 * j)) = Real.sqrt m * 2 ^ j := by
  have : (2 : ℝ) ^ (2 * j) = 2 ^ j * 2 ^ j := by rw [← zpow_add₀ two_ne_zero]; congr 1; ring
  rw [this, Real.sqrt_mul' m (by positivity), Real.sqrt_mul_self (two_zpow_pos j).le]

section
variable {f : Fmt} (ok : f.Ok) (inf : f.inf = true) (rm : Nat) {a : Nat} {x : ℝ} (hx : numOf f a = some x)
include ok inf hx

omit ok inf in
/-- A positive number is read with its fraction, its sign down. -/
theorem readF_pos (pos : 0 < x) : ∃ m e, 0 < m ∧ readF f a = .fin false m e ∧ x = m * 2 ^ e := by
  obtain ⟨m, e, ra, rfl⟩ := readF_of_numOf hx
  have m0 : m ≠ 0 := fun z => pos.ne' (fin_eq_zero.mpr z)
  have sg : negPat f a = false := by
    by_contra neg
    have : (0 : ℝ) ≤ m * 2 ^ e := by positivity
    simp only [Bool.not_eq_false] at neg
    simp only [neg, signed, if_true] at pos
    linarith
  rw [sg] at ra ⊢
  exact ⟨m, e, Nat.pos_of_ne_zero m0, ra, rfl⟩

theorem sqrtF_pos (pos : 0 < x) : Delivers f rm false (Real.sqrt x) (sqrtF f ⟨rm, false⟩ a) := by
  obtain ⟨m, e, m0, ra, rfl⟩ := readF_pos hx pos
  obtain ⟨j, even, m'0, same⟩ := evenExp_spec m0 e
  have is : sqrtF f ⟨rm, false⟩ a =
      (let (m, e) := evenExp m e
       let n := m * 2 ^ (2 * (f.mb + 4))
       let r := isqrt n (f.mb + 4 + Nat.log2 m / 2 + 2) 0
       packF f ⟨rm, false⟩ false false (2 * r + (if r * r = n then 0 else 1)) (e / 2 - (f.mb + 4 : ℕ) - 1)) := by
    simp only [sqrtF, flushF_off, ra, m0.ne', if_false]
    rfl
  rw [is, ← same]
  generalize evenExp m e = p at even m'0 ⊢
  obtain ⟨m', e'⟩ := p
  simp only at even m'0 ⊢
  subst even
  set k := f.mb + 4
  set n := m' * 2 ^ (2 * k)
  have high : n < (0 + 2 ^ (k + Nat.log2 m' / 2 + 2)) * (0 + 2 ^ (k + Nat.log2 m' / 2 + 2)) := by
    have lt : m' < 2 ^ (Nat.log2 m' + 1) := Nat.lt_log2_self
    calc n < 2 ^ (Nat.log2 m' + 1) * 2 ^ (2 * k) := Nat.mul_lt_mul_of_pos_right lt (by positivity)
      _ ≤ _ := by rw [Nat.zero_add, ← pow_add, ← pow_add]; exact Nat.pow_le_pow_right two_pos (by omega)
  obtain ⟨lo, hi⟩ := isqrt_spec (k + Nat.log2 m' / 2 + 2) 0 (Nat.zero_le n) high
  generalize isqrt n (k + Nat.log2 m' / 2 + 2) 0 = r at lo hi ⊢
  have big : 2 ^ k ≤ r := by
    have : 2 ^ k * 2 ^ k ≤ n := by rw [← pow_add, ← two_mul]; exact Nat.le_mul_of_pos_left _ m'0
    have := Nat.mul_self_lt_mul_self_iff.mp (this.trans_lt hi)
    omega
  have square : Real.sqrt n * Real.sqrt n = n := Real.mul_self_sqrt (Nat.cast_nonneg n)
  have st : StandsFor f (2 * Real.sqrt n) (2 * r + if r * r = n then 0 else 1) := by
    refine standsFor_root (Real.sqrt_nonneg _) (by rw [square]; exact_mod_cast lo) (by rw [square]; exact_mod_cast hi)
      ((Nat.pow_le_pow_right two_pos (by omega)).trans big) ?_
    rw [square]
    split
    · rename_i e; exact .inl ⟨rfl, by exact_mod_cast e.symm⟩
    · rename_i e; exact .inr ⟨rfl, fun h => e (by exact_mod_cast h.symm)⟩
  have val : Real.sqrt (m' * 2 ^ (2 * j)) = signed false (2 * Real.sqrt n * 2 ^ (2 * j / 2 - (k : ℕ) - 1)) := by
    have whole : (n : ℝ) = m' * 2 ^ (2 * (k : ℤ)) := by
      rw [show 2 * (k : ℤ) = ((2 * k : ℕ) : ℤ) by push_cast; rfl, zpow_natCast]; exact_mod_cast rfl
    have root : Real.sqrt n = Real.sqrt m' * 2 ^ (k : ℤ) := by rw [whole, sqrt_even]
    rw [sqrt_even, root, Int.mul_ediv_cancel_left _ two_ne_zero, zpow_sub₀ two_ne_zero, zpow_sub₀ two_ne_zero, zpow_one]
    have := (two_zpow_pos k).ne'
    simp only [signed, Bool.false_eq_true, if_false]
    field_simp
  rw [val]
  exact packF_delivers ok rm false (.inl inf) st (by have : 0 < 2 ^ k := by positivity
                                                     omega) _

/-- The root of a number that is not negative; of a zero, itself. -/
theorem sqrtF_number (nonneg : 0 ≤ x) : Delivers f rm false (Real.sqrt x) (sqrtF f ⟨rm, false⟩ a) := by
  rcases nonneg.eq_or_lt with rfl | pos
  · obtain ⟨m, e, ra, v⟩ := readF_of_numOf hx
    obtain rfl := fin_eq_zero.mp v.symm
    have is : sqrtF f ⟨rm, false⟩ a = (signF f (negPat f a), 0) := by simp [sqrtF, flushF_off, ra]
    rw [is, Real.sqrt_zero]
    exact delivers_zero ok rm _ _
  · exact sqrtF_pos ok inf rm hx pos

/-- One over the root of a positive number. -/
theorem rsqF_pos (pos : 0 < x) : Delivers f rm false (1 / Real.sqrt x) (rsqF f ⟨rm, false⟩ a) := by
  obtain ⟨m, e, m0, ra, rfl⟩ := readF_pos hx pos
  obtain ⟨j, even, m'0, same⟩ := evenExp_spec m0 e
  have is : rsqF f ⟨rm, false⟩ a =
      (let (m, e) := evenExp m e
       let k := f.mb + 6 + Nat.log2 m
       let r := isqrt (2 ^ (2 * k) / m) (k + 1) 0
       packF f ⟨rm, false⟩ false false (2 * r + (if r * r * m = 2 ^ (2 * k) then 0 else 1)) (-(e / 2) - k - 1)) := by
    simp only [rsqF, flushF_off, ra, m0.ne', if_false]
    rfl
  rw [is, ← same]
  generalize evenExp m e = p at even m'0 ⊢
  obtain ⟨m', e'⟩ := p
  simp only at even m'0 ⊢
  subst even
  set k := f.mb + 6 + Nat.log2 m'
  have high : 2 ^ (2 * k) / m' < (0 + 2 ^ (k + 1)) * (0 + 2 ^ (k + 1)) := by
    calc 2 ^ (2 * k) / m' ≤ 2 ^ (2 * k) := Nat.div_le_self _ _
      _ < _ := by rw [Nat.zero_add, ← pow_add]; exact Nat.pow_lt_pow_right one_lt_two (by omega)
  obtain ⟨lo, hi⟩ := isqrt_spec (k + 1) 0 (Nat.zero_le _) high
  generalize isqrt (2 ^ (2 * k) / m') (k + 1) 0 = r at lo hi ⊢
  have m'R : (0 : ℝ) < m' := by exact_mod_cast m'0
  have square : (2 ^ k / Real.sqrt m') * (2 ^ k / Real.sqrt m') = (2 ^ (2 * k) : ℝ) / m' := by
    rw [div_mul_div_comm, Real.mul_self_sqrt m'R.le, ← pow_add, two_mul]
  have big : 2 ^ (f.mb + 2) ≤ r := by
    have : 2 ^ (f.mb + 2) * 2 ^ (f.mb + 2) ≤ 2 ^ (2 * k) / m' := by
      rw [Nat.le_div_iff_mul_le m'0]
      calc 2 ^ (f.mb + 2) * 2 ^ (f.mb + 2) * m' ≤ 2 ^ (f.mb + 2) * 2 ^ (f.mb + 2) * 2 ^ (Nat.log2 m' + 1) :=
            Nat.mul_le_mul_left _ Nat.lt_log2_self.le
        _ ≤ _ := by rw [← pow_add, ← pow_add]; exact Nat.pow_le_pow_right two_pos (by omega)
    have := Nat.mul_self_lt_mul_self_iff.mp (this.trans_lt hi)
    omega
  have below : (r * r : ℝ) ≤ 2 ^ (2 * k) / m' := by
    rw [le_div_iff₀ m'R]
    exact_mod_cast (Nat.le_div_iff_mul_le m'0).mp lo
  have above : (2 ^ (2 * k) / m' : ℝ) < (r + 1) * (r + 1) := by
    rw [div_lt_iff₀ m'R]
    exact_mod_cast (Nat.div_lt_iff_lt_mul m'0).mp hi
  have st : StandsFor f (2 * (2 ^ k / Real.sqrt m')) (2 * r + if r * r * m' = 2 ^ (2 * k) then 0 else 1) := by
    refine standsFor_root (by positivity) (by rwa [square]) (by rwa [square]) big ?_
    rw [square, div_eq_iff m'R.ne', ne_eq, div_eq_iff m'R.ne']
    split
    · rename_i e; exact .inl ⟨rfl, by exact_mod_cast e.symm⟩
    · rename_i e; exact .inr ⟨rfl, fun h => e (by exact_mod_cast h.symm)⟩
  have val : 1 / Real.sqrt (m' * 2 ^ (2 * j)) = signed false (2 * (2 ^ k / Real.sqrt m') * 2 ^ (-(2 * j / 2) - (k : ℤ) - 1)) := by
    rw [sqrt_even, Int.mul_ediv_cancel_left _ two_ne_zero, zpow_sub₀ two_ne_zero, zpow_sub₀ two_ne_zero, zpow_one, zpow_neg, zpow_natCast]
    have := (two_zpow_pos j).ne'
    have := (Real.sqrt_pos.mpr m'R).ne'
    simp only [signed, Bool.false_eq_true, if_false]
    field_simp
  rw [val]
  exact packF_delivers ok rm false (.inl inf) st (by have : 0 < 2 ^ (f.mb + 2) := by positivity
                                                     omega) _

end

end Sys2Proof.Machine
end

section
namespace Sys2Proof.Machine

/-! ### Comparisons, the lesser and the greater, signs (R43, R126, R129) -/

/-- The three outcomes of a comparison of numbers. -/
theorem cmpV_number (s t : Bool) (m n : Nat) (e g : ℤ) :
    let c := cmpV (.fin s m e) (.fin t n g)
    (c < 0 ↔ signed s (m * 2 ^ e) < signed t (n * 2 ^ g)) ∧ (c = 0 ↔ signed s (m * 2 ^ e) = signed t (n * 2 ^ g)) := by
  have A := aligned_term s m (e := e) (lo := Min.min e g) fun _ => min_le_left _ _
  have B := aligned_term t n (e := g) (lo := Min.min e g) fun _ => min_le_right _ _
  have pos := two_zpow_pos (Min.min e g)
  rw [← A, ← B, mul_lt_mul_iff_left₀ pos, mul_left_inj' pos.ne', Int.cast_lt, Int.cast_inj]
  simp only [cmpV]
  generalize (m : ℤ) * 2 ^ (e - Min.min e g).toNat * (if s then -1 else 1) = A
  generalize (n : ℤ) * 2 ^ (g - Min.min e g).toNat * (if t then -1 else 1) = B
  split
  · omega
  · split <;> omega

/-- The condition and the choice on operands as they are read. -/
def condV (c : Cond) (x y : FVal) : Bool × Nat :=
  let un := isNan x || isNan y
  let o := cmpV x y
  let sg := sigNv x ||| sigNv y
  let ord := if un then NV else 0
  match c with
  | .eq => (!un && decide (o = 0), sg)
  | .ne => (un || decide (o ≠ 0), sg)
  | .lt => (!un && decide (o < 0), sg ||| ord)
  | .le => (!un && decide (o ≤ 0), sg ||| ord)
  | .gt => (!un && decide (0 < o), sg ||| ord)
  | .ge => (!un && decide (0 ≤ o), sg ||| ord)
  | _ => (false, 0)
theorem condF_eq (f : Fmt) (fz : Bool) (c : Cond) (a b : Nat) :
    condF f fz c a b = condV c (readF f (flushF f fz a)) (readF f (flushF f fz b)) := by cases c <;> rfl
theorem condF_off (f : Fmt) (c : Cond) (a b : Nat) : condF f false c a b = condV c (readF f a) (readF f b) := condF_eq f false c a b

def chooseV (f : Fmt) (mx : Bool) (a b : Nat) : Nat × Nat :=
  let fl := sigNv (readF f a) ||| sigNv (readF f b)
  match isNan (readF f a), isNan (readF f b) with
  | true, true => (nanF f, fl)
  | true, false => (b, fl)
  | false, true => (a, fl)
  | false, false =>
      (if (decide (cmpV (readF f a) (readF f b) < 0) || (decide (cmpV (readF f a) (readF f b) = 0) && negPat f a && !negPat f b)) != mx
        then a else b, fl)
theorem minmaxF_eq (f : Fmt) (fz mx : Bool) (a b : Nat) : minmaxF f fz mx a b = chooseV f mx (flushF f fz a) (flushF f fz b) := by
  simp only [minmaxF, negPat_eq]
  rfl
theorem minmaxF_off (f : Fmt) (mx : Bool) (a b : Nat) : minmaxF f false mx a b = chooseV f mx a b := minmaxF_eq f false mx a b

section
variable {f : Fmt} {a b : Nat} {x y : ℝ} (hx : numOf f a = some x) (hy : numOf f b = some y)
include hx hy

theorem cmpV_readF : (cmpV (readF f a) (readF f b) < 0 ↔ x < y) ∧ (cmpV (readF f a) (readF f b) = 0 ↔ x = y) := by
  obtain ⟨m, e, ra, rfl⟩ := readF_of_numOf hx
  obtain ⟨n, g, rb, rfl⟩ := readF_of_numOf hy
  rw [ra, rb]
  exact cmpV_number _ _ _ _ _ _

omit hy in
theorem quiet_of_number : isNan (readF f a) = false ∧ sigNv (readF f a) = 0 := by
  obtain ⟨m, e, ra, -⟩ := readF_of_numOf hx
  rw [ra]; exact ⟨rfl, rfl⟩

/-- The operand that VMIN and VMAX choose. -/
theorem minmaxF_number (mx : Bool) : ∃ l : Bool, (l = true ↔ x < y ∨ x = y ∧ negPat f a = true ∧ negPat f b = false) ∧
    minmaxF f false mx a b = (if l != mx then a else b, 0) := by
  obtain ⟨lt, eq⟩ := cmpV_readF hx hy
  obtain ⟨na, sa⟩ := quiet_of_number hx
  obtain ⟨nb, sb⟩ := quiet_of_number hy
  refine ⟨decide (cmpV (readF f a) (readF f b) < 0) || (decide (cmpV (readF f a) (readF f b) = 0) && negPat f a && !negPat f b), ?_, ?_⟩
  · simp only [Bool.or_eq_true, Bool.and_eq_true, decide_eq_true_eq, lt, eq, Bool.not_eq_true', and_assoc]
  · simp only [minmaxF_off, chooseV, na, nb, sa, sb, Nat.or_self]

theorem minmaxF_numOf : numOf f (minmaxF f false false a b).1 = some (Min.min x y) ∧ numOf f (minmaxF f false true a b).1 = some (Max.max x y) := by
  obtain ⟨l, hl, e⟩ := minmaxF_number hx hy false
  obtain ⟨k, hk, e'⟩ := minmaxF_number hx hy true
  rw [e, e']
  have le : l = true → x ≤ y := fun h => by rcases hl.mp h with lt | ⟨eq, -⟩ <;> linarith
  have ge : l = false → y ≤ x := fun h => by
    by_contra lt; exact Bool.eq_false_iff.mp h (hl.mpr (.inl (not_le.mp lt)))
  obtain rfl : k = l := Bool.eq_iff_iff.mpr (hk.trans hl.symm)
  cases k
  · simp [hx, hy, ge rfl]
  · simp [hx, hy, le rfl]

theorem minmaxF_zeros (zx : x = 0) (zy : y = 0) : negPat f (minmaxF f false false a b).1 = (negPat f a || negPat f b) ∧
    negPat f (minmaxF f false true a b).1 = (negPat f a && negPat f b) := by
  obtain ⟨l, hl, e⟩ := minmaxF_number hx hy false
  obtain ⟨k, hk, e'⟩ := minmaxF_number hx hy true
  rw [e, e']
  subst zx zy
  simp only [lt_irrefl, true_and, false_or] at hl hk
  obtain rfl : k = l := Bool.eq_iff_iff.mpr (hk.trans hl.symm)
  cases k <;> revert hl <;> cases na : negPat f a <;> cases nb : negPat f b <;> simp [na, nb]

theorem condF_number {k : Cond} (sg : k.signed = true) : ((condF f false k a b).1 = true ↔ numCond k x y) := by
  obtain ⟨lt, eq⟩ := cmpV_readF hx hy
  obtain ⟨na, sa⟩ := quiet_of_number hx
  obtain ⟨nb, sb⟩ := quiet_of_number hy
  have gt : 0 < cmpV (readF f a) (readF f b) ↔ y < x := by
    rw [← not_iff_not, not_lt, not_lt, le_iff_lt_or_eq, lt, eq, le_iff_lt_or_eq]
  cases k <;> simp only [Cond.signed, Bool.false_eq_true] at sg <;>
    simp only [condF_off, condV, na, nb, Bool.or_self, Bool.not_false, Bool.true_and, Bool.false_or, decide_eq_true_eq, numCond, ne_eq]
  · exact eq
  · exact not_congr eq
  · exact lt
  · rw [← not_lt, gt, not_lt]
  · exact gt
  · rw [← not_lt, lt, not_lt]

end

theorem sign_bit_down (f : Fmt) (a : Nat) : (a / 2 ^ (f.mb + f.eb) % 2 == 0) = !negPat f a := by
  rw [← negPat_eq]; rcases Nat.mod_two_eq_zero_or_one (a / 2 ^ (f.mb + f.eb)) with e | e <;> rw [e] <;> rfl

theorem absF_of_not_nan {f : Fmt} {a : Nat} (h : isNan (readF f a) = false) : absF f a = (signF f false + lowBits f a, 0) := by
  simp [absF, h, signF, lowBits, Nat.add_comm f.eb]
theorem negF_of_not_nan {f : Fmt} {a : Nat} (h : isNan (readF f a) = false) : negF f a = (signF f (!negPat f a) + lowBits f a, 0) := by
  simp only [negF, h, Bool.false_eq_true, if_false, sign_bit_down, lowBits, Nat.add_comm f.eb]
  rw [Nat.add_comm]

theorem absF_negF_number {f : Fmt} (ok : f.Ok) {a : Nat} {x : ℝ} (hx : numOf f a = some x) :
    numOf f (absF f a).1 = some |x| ∧ numOf f (negF f a).1 = some (-x) ∧ negPat f (negF f a).1 = !negPat f a := by
  obtain ⟨quiet, -⟩ := quiet_of_number hx
  obtain ⟨num, rfl⟩ := numOf_eq_some hx
  have le := Nat.not_lt.mp ((special_iff_maxF_lt ok a).not.mp num)
  rw [absF_of_not_nan quiet, negF_of_not_nan quiet, numOf_signF_add ok _ le, numOf_signF_add ok _ le, abs_signed _ (magnitude_nonneg f _)]
  exact ⟨rfl, by rw [signed_not], negPat_signF_add _ (lowBits_lt f a)⟩

end Sys2Proof.Machine
end

section
namespace Sys2Proof.Machine

/-! ## The statement, clause by clause -/

/-- The formats d, f, bf and h. -/
def wideTypes : List ElemType := [.d, .f, .bf, .h]
theorem wide_inf {t : ElemType} (h : t ∈ wideTypes) : (fmtOf t).inf = true := by
  revert t; decide
theorem wide_mb {t : ElemType} (h : t ∈ wideTypes) : (fmtOf t).mb ≠ 2 := by
  revert t; decide

/-! ### Numbers -/

section
variable {f : Fmt} (ok : f.Ok) (inf : f.inf = true) (rm : Nat) {a b : Nat} {x y : ℝ} (hx : numOf f a = some x) (hy : numOf f b = some y)
include ok inf hy

theorem rcpF_number (nz : y ≠ 0) : Delivers f rm false (1 / y) (rcpF f ⟨rm, false⟩ b) :=
  (divF_number ok inf rm (oneF_number ok).1 hy nz).1

omit inf in
include hx in
/-- A zero operand of a quotient or a root. -/
theorem zero_operand (zy : y = 0) :
    (x ≠ 0 → divF f ⟨rm, false⟩ a b = (infF f (negPat f a != negPat f b), DZ)) ∧ rcpF f ⟨rm, false⟩ b = (infF f (negPat f b), DZ) ∧
    rsqF f ⟨rm, false⟩ b = (infF f (negPat f b), DZ) ∧ sqrtF f ⟨rm, false⟩ b = (signF f (negPat f b), 0) := by
  obtain ⟨m, e, ra, rfl⟩ := readF_of_numOf hx
  obtain ⟨n, g, rb, rfl⟩ := readF_of_numOf hy
  obtain rfl := fin_eq_zero.mp zy
  obtain ⟨one, neg, -⟩ := oneF_number ok
  obtain ⟨k, h, r1, v1⟩ := readF_of_numOf one
  have k0 : k ≠ 0 := by rintro rfl; simp [signed_zero] at v1
  refine ⟨fun nz => ?_, ?_, by simp [rsqF, flushF_off, rb], by simp [sqrtF, flushF_off, rb]⟩
  · have m0 : m ≠ 0 := fun z => nz (fin_eq_zero.mpr z)
    simp [divF, flushF_off, ra, rb, m0, sigNv]
  · simp [rcpF, divF, flushF_off, rb, r1, k0, neg, sigNv]

end

/-- What a floating result is, for operands that are numbers (R45, R46, R126). -/
theorem floatingNumbers (t : ElemType) (ht : t ∈ wideTypes) (rm : Nat) (a b c : Nat) (x y z : ℝ) :
    let f := fmtOf t
    let md : FMode := ⟨rm, false⟩
    numOf f a = some x → numOf f b = some y → numOf f c = some z →
    (∀ r v p q, (r, v, p, q) ∈ [(addF f md a b, x + y, negPat f a, negPat f b), (subF f md a b, x - y, negPat f a, !negPat f b),
        (fmaF f md false false a b c, x * y + z, negPat f a != negPat f b, negPat f c),
        (fmaF f md false true a b c, x * y - z, negPat f a != negPat f b, !negPat f c),
        (fmaF f md true false a b c, -(x * y) + z, negPat f a == negPat f b, negPat f c)] →
      Delivers f rm false v r ∧ (v = 0 → negPat f r.1 = zeroSign rm p q)) ∧
    Delivers f rm false (x * y) (mulF f md a b) ∧ (x * y = 0 → negPat f (mulF f md a b).1 = (negPat f a != negPat f b)) ∧
    (y ≠ 0 → Delivers f rm false (x / y) (divF f md a b) ∧ (x = 0 → negPat f (divF f md a b).1 = (negPat f a != negPat f b)) ∧
      Delivers f rm false (1 / y) (rcpF f md b)) ∧
    (y = 0 → (x ≠ 0 → divF f md a b = (infF f (negPat f a != negPat f b), DZ)) ∧ rcpF f md b = (infF f (negPat f b), DZ) ∧
      rsqF f md b = (infF f (negPat f b), DZ) ∧ sqrtF f md b = (signF f (negPat f b), 0)) ∧
    (0 ≤ x → Delivers f rm false (Real.sqrt x) (sqrtF f md a)) ∧ (0 < x → Delivers f rm false (1 / Real.sqrt x) (rsqF f md a)) ∧
    numOf f (minmaxF f false false a b).1 = some (Min.min x y) ∧ numOf f (minmaxF f false true a b).1 = some (Max.max x y) ∧
    (x = 0 → y = 0 → negPat f (minmaxF f false false a b).1 = (negPat f a || negPat f b) ∧
      negPat f (minmaxF f false true a b).1 = (negPat f a && negPat f b)) ∧
    numOf f (absF f a).1 = some |x| ∧ numOf f (negF f a).1 = some (-x) ∧ negPat f (negF f a).1 = !negPat f a ∧
    ∀ k : Cond, k.signed = true → ((condF f false k a b).1 = true ↔ numCond k x y) := by
  intro f md hx hy hz
  have ok : f.Ok := fmtOf_ok t
  have inf : f.inf = true := wide_inf ht
  obtain ⟨mul, mulZero⟩ := mulF_number ok rm hx hy inf
  obtain ⟨min, max⟩ := minmaxF_numOf hx hy
  obtain ⟨abs, neg, flip⟩ := absF_negF_number ok hx
  refine ⟨fun r v p q mem => ?_, mul, mulZero, fun nz => ?_, zero_operand ok rm hx hy, sqrtF_number ok inf rm hx, rsqF_pos ok inf rm hx,
    min, max, minmaxF_zeros hx hy, abs, neg, flip, fun k sg => condF_number hx hy sg⟩
  · simp only [List.mem_cons, Prod.mk.injEq, List.not_mem_nil, or_false] at mem
    rcases mem with ⟨rfl, rfl, rfl, rfl⟩ | ⟨rfl, rfl, rfl, rfl⟩ | ⟨rfl, rfl, rfl, rfl⟩ | ⟨rfl, rfl, rfl, rfl⟩ | ⟨rfl, rfl, rfl, rfl⟩
    · exact addF_number ok inf rm hx hy
    · exact subF_number ok inf rm hx hy
    · simpa using fmaF_number ok inf rm false false hx hy hz
    · simpa [sub_eq_add_neg] using fmaF_number ok inf rm false true hx hy hz
    · have same : (negPat f a == negPat f b) = ((negPat f a != negPat f b) != true) := by cases negPat f a <;> cases negPat f b <;> rfl
      rw [same]
      simpa only [if_true, if_false, Bool.false_eq_true, Bool.bne_false] using fmaF_number ok inf rm true false hx hy hz
  · obtain ⟨quot, sign⟩ := divF_number ok inf rm hx hy nz
    exact ⟨quot, sign, rcpF_number ok inf rm hy nz⟩

end Sys2Proof.Machine
end

section
namespace Sys2Proof.Machine

/-! ### NaNs and infinities (R41, R42) -/

/-- The flag of an operand that is a signalling NaN. -/
theorem sigNv_readF {f : Fmt} (ok : f.Ok) (a : Nat) : (signallingPat f a → sigNv (readF f a) = NV) ∧ (¬ signallingPat f a → sigNv (readF f a) = 0) := by
  rcases pattern_cases f a with n | i | ⟨v, h⟩
  · obtain ⟨g, r, sg⟩ := readF_nan ok n
    rw [r, ← sg]; cases g <;> decide
  · rw [readF_inf i]; exact ⟨fun s => absurd s.2.1 (not_nan_of_infPat i), fun _ => rfl⟩
  · rw [(quiet_of_number h).2]; exact ⟨fun s => absurd s.2.1 (not_nan_of_numOf h), fun _ => rfl⟩

theorem isNan_readF {f : Fmt} (ok : f.Ok) (a : Nat) : isNan (readF f a) = true ↔ nanPat f a := by
  rcases pattern_cases f a with n | i | ⟨v, h⟩
  · obtain ⟨g, r, -⟩ := readF_nan ok n
    rw [r]; exact iff_of_true rfl n
  · rw [readF_inf i]; exact iff_of_false Bool.false_ne_true (not_nan_of_infPat i)
  · rw [(quiet_of_number h).1]; exact iff_of_false (by decide) (not_nan_of_numOf h)

/-- A pattern that is no NaN and no infinity is a number, with a fraction. -/
theorem readF_finite {f : Fmt} {a : Nat} (n : ¬ nanPat f a) (i : ¬ infPat f a) :
    ∃ m e, readF f a = .fin (negPat f a) m e ∧ numOf f a = some (signed (negPat f a) (m * 2 ^ e)) ∧ (numOf f a = some 0 ↔ m = 0) := by
  obtain ⟨v, h⟩ := ((pattern_cases f a).resolve_left n).resolve_left i
  obtain ⟨m, e, r, rfl⟩ := readF_of_numOf h
  exact ⟨m, e, r, h, by rw [h, Option.some.injEq, fin_eq_zero]⟩
theorem numOf_of_nan {f : Fmt} {a : Nat} (n : nanPat f a) : numOf f a = none := numOf_special ((special_iff f a).mpr (.inl n))
theorem numOf_of_inf {f : Fmt} {a : Nat} (n : infPat f a) : numOf f a = none := numOf_special ((special_iff f a).mpr (.inr n))

/-- No NaN, and no NV. -/
def Clean (f : Fmt) (r : Nat × Nat) : Prop := ¬ nanPat f r.1 ∧ r.2 < 16

theorem Delivers.clean {f : Fmt} {rm : Nat} {sat : Bool} {z : ℝ} {r : Nat × Nat} (d : Delivers f rm sat z r) : Clean f r := by
  obtain ⟨big, small, -⟩ := d
  by_cases o : Overflows f rm z
  · obtain ⟨fl, val⟩ := big o
    refine ⟨?_, by rw [fl]; decide⟩
    split at val
    · exact not_nan_of_infPat val
    · exact not_nan_of_numOf val
  · obtain ⟨q, num, -, fl, -⟩ := small o
    exact ⟨not_nan_of_numOf num, by omega⟩

theorem clean_infF {f : Fmt} (inf : f.inf = true) (s : Bool) {fl : Nat} (h : fl < 16) : Clean f (infF f s, fl) :=
  ⟨not_nan_of_infPat (infPat_infF inf s), h⟩
theorem clean_signF {f : Fmt} (ok : f.Ok) (s : Bool) : Clean f (signF f s, 0) := ⟨not_nan_of_numOf (signF_number ok s).1, Nat.zero_lt_succ _⟩

theorem nanRule {f : Fmt} {sig nan invalid : Prop} {r : Nat × Nat} {fl : Nat} (flags : (sig → fl = NV) ∧ (¬ sig → fl = 0)) (sub : sig → nan)
    (ofNan : nan → ¬ invalid → r = (nanF f, fl)) (ofInvalid : invalid → r = (nanF f, NV)) (clean : ¬ nan → ¬ invalid → Clean f r) :
    NanRule f sig nan invalid r := by
  refine ⟨fun h => ?_, fun n s i => by rw [ofNan n i, flags.2 s], clean⟩
  by_cases i : invalid
  · exact ofInvalid i
  · have s := h.resolve_right i
    rw [ofNan (sub s) i, flags.1 s]

/-- The flags of two and of three operands. -/
theorem sigNv_two {f : Fmt} (ok : f.Ok) (a b : Nat) :
    (signallingPat f a ∨ signallingPat f b → sigNv (readF f a) ||| sigNv (readF f b) = NV) ∧
    (¬ (signallingPat f a ∨ signallingPat f b) → sigNv (readF f a) ||| sigNv (readF f b) = 0) := by
  obtain ⟨sa, qa⟩ := sigNv_readF ok a
  obtain ⟨sb, qb⟩ := sigNv_readF ok b
  by_cases ha : signallingPat f a <;> by_cases hb : signallingPat f b <;> simp [*]
theorem sigNv_three {f : Fmt} (ok : f.Ok) (a b c : Nat) :
    ((signallingPat f a ∨ signallingPat f b) ∨ signallingPat f c → sigNv (readF f a) ||| sigNv (readF f b) ||| sigNv (readF f c) = NV) ∧
    (¬ ((signallingPat f a ∨ signallingPat f b) ∨ signallingPat f c) → sigNv (readF f a) ||| sigNv (readF f b) ||| sigNv (readF f c) = 0) := by
  obtain ⟨sab, qab⟩ := sigNv_two ok a b
  obtain ⟨sc, qc⟩ := sigNv_readF ok c
  by_cases hab : signallingPat f a ∨ signallingPat f b
  · rw [sab hab]
    refine ⟨fun _ => ?_, fun h => absurd (.inl hab) h⟩
    by_cases hc : signallingPat f c
    · rw [sc hc]; rfl
    · rw [qc hc]; rfl
  · rw [qab hab]
    exact ⟨fun h => by rw [sc (h.resolve_left hab)]; rfl, fun h => by rw [qc fun hc => h (.inr hc)]; rfl⟩
theorem signalling_nan {f : Fmt} {a : Nat} (s : signallingPat f a) : nanPat f a := s.2.1
theorem signalling_two {f : Fmt} {a b : Nat} : signallingPat f a ∨ signallingPat f b → nanPat f a ∨ nanPat f b :=
  Or.imp signalling_nan signalling_nan

/-! #### Products and quotients -/

theorem infPat.ne_zero {f : Fmt} {a : Nat} (i : infPat f a) : numOf f a ≠ some 0 := by rw [numOf_of_inf i]; exact Option.some_ne_none 0 |>.symm

/-- A zero reads as a zero fraction, and no other number does. -/
theorem readF_zero {f : Fmt} {a : Nat} (z : numOf f a = some 0) : ∃ e, readF f a = .fin (negPat f a) 0 e := by
  obtain ⟨m, e, r, -, zero⟩ := readF_finite (not_nan_of_numOf z) (not_inf_of_numOf z)
  exact ⟨e, by rw [r, zero.mp z]⟩
theorem readF_nonzero {f : Fmt} {a : Nat} (n : ¬ nanPat f a) (i : ¬ infPat f a) (z : numOf f a ≠ some 0) :
    ∃ m e, readF f a = .fin (negPat f a) (m + 1) e := by
  obtain ⟨m, e, r, -, zero⟩ := readF_finite n i
  obtain ⟨k, rfl⟩ := Nat.exists_eq_succ_of_ne_zero fun h => z (zero.mpr h)
  exact ⟨k, e, r⟩

section
variable {f : Fmt} (ok : f.Ok) (inf : f.inf = true) (rm : Nat) (a b : Nat)

include ok in
theorem mulF_nan (h : nanPat f a ∨ nanPat f b) : mulF f ⟨rm, false⟩ a b = (nanF f, sigNv (readF f a) ||| sigNv (readF f b)) := by
  rcases h with n | n <;> obtain ⟨g, r, -⟩ := readF_nan ok n
  · simp only [mulF, flushF_off, r]
  · simp only [mulF, flushF_off, r]; cases readF f a <;> rfl

/-- An infinity times what is neither a NaN nor a zero. -/
theorem mulF_inf (i : infPat f a) (n : ¬ nanPat f b) (z : numOf f b ≠ some 0) :
    mulF f ⟨rm, false⟩ a b = (infF f (negPat f a != negPat f b), 0) ∧ mulF f ⟨rm, false⟩ b a = (infF f (negPat f a != negPat f b), 0) := by
  have ra := readF_inf i
  have comm : (negPat f b != negPat f a) = (negPat f a != negPat f b) := bne_comm
  by_cases j : infPat f b
  · have rb := readF_inf j
    simp [mulF, flushF_off, ra, rb, comm, sigNv]
  · obtain ⟨m, e, rb⟩ := readF_nonzero n j z
    simp [mulF, flushF_off, ra, rb, comm, sigNv]

/-- An infinity times a zero. -/
theorem mulF_zeroInf (i : infPat f a) (z : numOf f b = some 0) : mulF f ⟨rm, false⟩ a b = (nanF f, NV) ∧ mulF f ⟨rm, false⟩ b a = (nanF f, NV) := by
  have ra := readF_inf i
  obtain ⟨e, rb⟩ := readF_zero z
  simp [mulF, flushF_off, ra, rb, sigNv]

include ok inf

theorem mulF_nanRule : NanRule f (signallingPat f a ∨ signallingPat f b) (nanPat f a ∨ nanPat f b)
    ((infPat f a ∧ numOf f b = some 0) ∨ (numOf f a = some 0 ∧ infPat f b)) (mulF f ⟨rm, false⟩ a b) := by
  refine nanRule (sigNv_two ok a b) signalling_two (fun n _ => mulF_nan ok rm a b n) ?_ fun n i => ?_
  · rintro (⟨i, z⟩ | ⟨z, i⟩)
    · exact (mulF_zeroInf rm a b i z).1
    · exact (mulF_zeroInf rm b a i z).2
  push Not at n i
  by_cases ia : infPat f a
  · rw [(mulF_inf rm a b ia n.2 (i.1 ia)).1]; exact clean_infF inf _ (by decide)
  by_cases ib : infPat f b
  · rw [(mulF_inf rm b a ib n.1 fun z => i.2 z ib).2]; exact clean_infF inf _ (by decide)
  obtain ⟨_, _, _, ha, _⟩ := readF_finite n.1 ia
  obtain ⟨_, _, _, hb, _⟩ := readF_finite n.2 ib
  exact (mulF_number ok rm ha hb inf).1.clean

omit inf in
theorem divF_nan (h : nanPat f a ∨ nanPat f b) : divF f ⟨rm, false⟩ a b = (nanF f, sigNv (readF f a) ||| sigNv (readF f b)) := by
  rcases h with n | n <;> obtain ⟨g, r, -⟩ := readF_nan ok n
  · simp only [divF, flushF_off, r]
  · simp only [divF, flushF_off, r]; cases readF f a <;> rfl

omit ok inf in
theorem divF_inf (i : infPat f a) (n : ¬ nanPat f b) (j : ¬ infPat f b) :
    divF f ⟨rm, false⟩ a b = (infF f (negPat f a != negPat f b), 0) ∧ divF f ⟨rm, false⟩ b a = (signF f (negPat f a != negPat f b), 0) := by
  have comm : (negPat f b != negPat f a) = (negPat f a != negPat f b) := bne_comm
  obtain ⟨m, e, rb, -⟩ := readF_finite n j
  simp [divF, flushF_off, readF_inf i, rb, comm, sigNv]

omit ok inf in
theorem divF_invalid (h : (infPat f a ∧ infPat f b) ∨ (numOf f a = some 0 ∧ numOf f b = some 0)) : divF f ⟨rm, false⟩ a b = (nanF f, NV) := by
  rcases h with ⟨i, j⟩ | ⟨y, z⟩
  · simp [divF, flushF_off, readF_inf i, readF_inf j, sigNv]
  · obtain ⟨e, ra⟩ := readF_zero y
    obtain ⟨g, rb⟩ := readF_zero z
    simp [divF, flushF_off, ra, rb, sigNv]

theorem divF_nanRule : NanRule f (signallingPat f a ∨ signallingPat f b) (nanPat f a ∨ nanPat f b)
    ((infPat f a ∧ infPat f b) ∨ (numOf f a = some 0 ∧ numOf f b = some 0)) (divF f ⟨rm, false⟩ a b) := by
  refine nanRule (sigNv_two ok a b) signalling_two (fun n _ => divF_nan ok rm a b n) (divF_invalid rm a b) fun n i => ?_
  push Not at n i
  by_cases ia : infPat f a
  · rw [(divF_inf rm a b ia n.2 (i.1 ia)).1]; exact clean_infF inf _ (by decide)
  by_cases ib : infPat f b
  · rw [(divF_inf rm b a ib n.1 ia).2]; exact clean_signF ok _
  obtain ⟨_, _, _, ha, _⟩ := readF_finite n.1 ia
  obtain ⟨_, _, _, hb, _⟩ := readF_finite n.2 ib
  by_cases zb : numOf f b = some 0
  · obtain ⟨byZero, -⟩ := zero_operand ok rm ha zb rfl
    rw [byZero fun z => i.2 (by rw [ha, z]) zb]
    exact clean_infF inf _ (by decide)
  · exact (divF_number ok inf rm ha hb fun z => zb (by rw [hb, z])).1.clean

theorem rcpF_nanRule : NanRule f (signallingPat f a) (nanPat f a) False (rcpF f ⟨rm, false⟩ a) := by
  obtain ⟨one, -⟩ := oneF_number ok
  have n := not_nan_of_numOf one
  have rule := divF_nanRule ok inf rm (oneF f) a
  have one0 : (1 : ℝ) ≠ 0 := one_ne_zero
  rw [rcpF]
  simpa [one, n, not_inf_of_numOf one, mt signalling_nan n, one0] using rule

omit inf in
theorem rcpF_inf (i : infPat f a) : rcpF f ⟨rm, false⟩ a = (signF f (negPat f a), 0) := by
  obtain ⟨one, neg, -⟩ := oneF_number ok
  rw [rcpF, (divF_inf rm a _ i (not_nan_of_numOf one) (not_inf_of_numOf one)).2, neg, Bool.bne_false]

end

end Sys2Proof.Machine
end

section
namespace Sys2Proof.Machine

/-! #### Roots and signs -/

/-- The operands of an invalid root (IEEE 754): the sign is set on what is neither a NaN nor a zero. -/
abbrev badRoot (f : Fmt) (a : Nat) : Prop := negPat f a = true ∧ ¬ nanPat f a ∧ numOf f a ≠ some 0

section
variable {f : Fmt} (ok : f.Ok) (inf : f.inf = true) (rm : Nat) (a : Nat)

theorem root_nan (ok : f.Ok) (n : nanPat f a) :
    sqrtF f ⟨rm, false⟩ a = (nanF f, sigNv (readF f a)) ∧ rsqF f ⟨rm, false⟩ a = (nanF f, sigNv (readF f a)) := by
  obtain ⟨g, r, -⟩ := readF_nan ok n
  simp only [sqrtF, rsqF, flushF_off, r]
  cases g <;> exact ⟨rfl, rfl⟩

theorem root_invalid (h : badRoot f a) : sqrtF f ⟨rm, false⟩ a = (nanF f, NV) ∧ rsqF f ⟨rm, false⟩ a = (nanF f, NV) := by
  obtain ⟨neg, n, z⟩ := h
  by_cases i : infPat f a
  · simp [sqrtF, rsqF, flushF_off, readF_inf i, neg]
  · obtain ⟨m, e, r⟩ := readF_nonzero n i z
    simp [sqrtF, rsqF, flushF_off, r, neg]

theorem root_inf (i : infPat f a) (s : negPat f a = false) : sqrtF f ⟨rm, false⟩ a = (infF f false, 0) ∧ rsqF f ⟨rm, false⟩ a = (0, 0) := by
  simp [sqrtF, rsqF, flushF_off, readF_inf i, s]

/-- A number whose root is not invalid is not below zero. -/
theorem nonneg_of_not_badRoot {x : ℝ} (hx : numOf f a = some x) (h : ¬ badRoot f a) : 0 ≤ x := by
  by_cases z : x = 0
  · exact z.ge
  · have s : negPat f a = false := by
      by_contra s
      exact h ⟨by simpa using s, not_nan_of_numOf hx, by rw [hx]; simpa using z⟩
    obtain ⟨-, rfl⟩ := numOf_eq_some hx
    rw [s]; exact magnitude_nonneg f _

include ok inf

theorem root_clean (n : ¬ nanPat f a) (h : ¬ badRoot f a) : Clean f (sqrtF f ⟨rm, false⟩ a) ∧ Clean f (rsqF f ⟨rm, false⟩ a) := by
  by_cases i : infPat f a
  · have s : negPat f a = false := by
      by_contra s; exact h ⟨by simpa using s, n, infPat.ne_zero i⟩
    obtain ⟨root, rec⟩ := root_inf rm a i s
    rw [root, rec]
    exact ⟨clean_infF inf _ (by decide), clean_signF ok false⟩
  · obtain ⟨_, _, _, ha, _⟩ := readF_finite n i
    have nonneg := nonneg_of_not_badRoot a ha h
    refine ⟨(sqrtF_number ok inf rm ha nonneg).clean, ?_⟩
    rcases nonneg.eq_or_lt with z | pos
    · obtain ⟨-, -, rsq, -⟩ := zero_operand ok rm ha (ha.trans (congrArg some z.symm)) rfl
      rw [rsq]; exact clean_infF inf _ (by decide)
    · exact (rsqF_pos ok inf rm ha pos).clean

theorem root_nanRule : NanRule f (signallingPat f a) (nanPat f a) (badRoot f a) (sqrtF f ⟨rm, false⟩ a) ∧
    NanRule f (signallingPat f a) (nanPat f a) (badRoot f a) (rsqF f ⟨rm, false⟩ a) :=
  ⟨nanRule (sigNv_readF ok a) signalling_nan (fun n _ => (root_nan rm a ok n).1) (fun i => (root_invalid rm a i).1)
      fun n i => (root_clean ok inf rm a n i).1,
    nanRule (sigNv_readF ok a) signalling_nan (fun n _ => (root_nan rm a ok n).2) (fun i => (root_invalid rm a i).2)
      fun n i => (root_clean ok inf rm a n i).2⟩

omit ok inf in
/-- Only the low bits of a pattern say whether it is a NaN. -/
theorem not_nan_signF_lowBits (s : Bool) (n : ¬ nanPat f a) : ¬ nanPat f (signF f s + lowBits f a) := by
  have lt := lowBits_lt f a
  have ex : exOf f (signF f s + lowBits f a) = exOf f a := by rw [exOf_signF_add s lt, lowBits_div]
  have fr : frOf f (signF f s + lowBits f a) = frOf f a := by rw [frOf_signF_add s lt, lowBits_mod]
  exact fun h => n ⟨ex.symm.trans h.1, by simpa only [frOf, fr] using h.2⟩

omit inf in
theorem sign_nanRule : NanRule f (signallingPat f a) (nanPat f a) False (absF f a) ∧ NanRule f (signallingPat f a) (nanPat f a) False (negF f a) := by
  have nan := isNan_readF ok a
  refine ⟨nanRule (sigNv_readF ok a) signalling_nan (fun n _ => ?_) False.elim fun n _ => ?_,
    nanRule (sigNv_readF ok a) signalling_nan (fun n _ => ?_) False.elim fun n _ => ?_⟩
  · exact if_pos (nan.mpr n)
  · rw [absF_of_not_nan (by simpa using mt nan.mp n)]; exact ⟨not_nan_signF_lowBits a false n, Nat.zero_lt_succ _⟩
  · exact if_pos (nan.mpr n)
  · rw [negF_of_not_nan (by simpa using mt nan.mp n)]; exact ⟨not_nan_signF_lowBits a _ n, Nat.zero_lt_succ _⟩

end

/-! #### Fused forms -/

/-- The product is invalid; it is an infinity; and it is one that the addend takes away. -/
abbrev zeroInf (f : Fmt) (a b : Nat) : Prop := (infPat f a ∧ numOf f b = some 0) ∨ (numOf f a = some 0 ∧ infPat f b)
abbrev bigProduct (f : Fmt) (a b : Nat) : Prop := (infPat f a ∨ infPat f b) ∧ ¬ (nanPat f a ∨ nanPat f b) ∧ ¬ zeroInf f a b
abbrev productSign (f : Fmt) (ng : Bool) (a b : Nat) : Bool := (negPat f a != negPat f b) != ng

/-- An infinity of sign p plus z, negated where nc holds. -/
def infPlus (f : Fmt) (nc p : Bool) : FVal → Nat × Nat
  | .nan g => (nanF f, sigNv (.nan g))
  | .inf u => if (u != nc) = p then (infF f p, 0) else (nanF f, NV)
  | .fin _ _ _ => (infF f p, 0)

section
variable {f : Fmt} (ok : f.Ok) (inf : f.inf = true) (rm : Nat) (ng nc : Bool) (a b c : Nat)

theorem sigNv_or_NV (x : FVal) : sigNv x ||| NV = NV := by
  rcases x with (_ | _) | _ | _ <;> exact Nat.zero_or NV

theorem fmaF_zeroInf (h : zeroInf f a b) : fmaF f ⟨rm, false⟩ ng nc a b c = (nanF f, NV) := by
  have nv : 0 ||| 0 ||| sigNv (readF f c) ||| NV = NV := by rw [Nat.or_zero, Nat.zero_or, sigNv_or_NV]
  rcases h with ⟨i, z⟩ | ⟨z, i⟩ <;> obtain ⟨e, r⟩ := readF_zero z <;> simp only [fmaF, flushF_off, readF_inf i, r] <;> exact Prod.ext rfl nv

/-- A product that is an infinity. -/
theorem fmaF_big (h : bigProduct f a b) : fmaF f ⟨rm, false⟩ ng nc a b c = infPlus f nc (productSign f ng a b) (readF f c) := by
  obtain ⟨i, n, z⟩ := h
  push Not at n z
  by_cases ia : infPat f a
  · by_cases ib : infPat f b
    · cases hz : readF f c <;> simp [fmaF, infPlus, flushF_off, readF_inf ia, readF_inf ib, hz, sigNv]
    · obtain ⟨m, e, rb⟩ := readF_nonzero n.2 ib (z.1 ia)
      cases hz : readF f c <;> simp [fmaF, infPlus, flushF_off, readF_inf ia, rb, hz, sigNv]
  · have ib := i.resolve_left ia
    obtain ⟨m, e, ra⟩ := readF_nonzero n.1 ia fun h => z.2 h ib
    cases hz : readF f c <;> simp [fmaF, infPlus, flushF_off, readF_inf ib, ra, hz, sigNv]

/-- A finite product, with an infinite addend. -/
theorem fmaF_addend_inf (na : ¬ nanPat f a) (nb : ¬ nanPat f b) (ia : ¬ infPat f a) (ib : ¬ infPat f b) (ic : infPat f c) :
    fmaF f ⟨rm, false⟩ ng nc a b c = (infF f (negPat f c != nc), 0) := by
  obtain ⟨_, _, ra, _⟩ := readF_finite na ia
  obtain ⟨_, _, rb, _⟩ := readF_finite nb ib
  simp [fmaF, flushF_off, ra, rb, readF_inf ic, sigNv]

include ok

theorem fmaF_nan (n : (nanPat f a ∨ nanPat f b) ∨ nanPat f c) (z : ¬ zeroInf f a b) :
    fmaF f ⟨rm, false⟩ ng nc a b c = (nanF f, sigNv (readF f a) ||| sigNv (readF f b) ||| sigNv (readF f c)) := by
  by_cases nab : nanPat f a ∨ nanPat f b
  · rcases nab with n | n <;> obtain ⟨g, r, -⟩ := readF_nan ok n
    · simp only [fmaF, flushF_off, r]
    · rcases hx : readF f a with g | s | ⟨s, m, e⟩ <;> simp only [fmaF, flushF_off, r, hx]
  · obtain ⟨g, rc, -⟩ := readF_nan ok (n.resolve_left nab)
    by_cases big : infPat f a ∨ infPat f b
    · rw [fmaF_big rm ng nc a b c ⟨big, nab, z⟩, rc]
      rw [(sigNv_two ok a b).2 (mt signalling_two nab), Nat.zero_or]; rfl
    · push Not at nab big
      obtain ⟨_, _, ra, _⟩ := readF_finite nab.1 big.1
      obtain ⟨_, _, rb, _⟩ := readF_finite nab.2 big.2
      simp only [fmaF, flushF_off, ra, rb, rc]

/-- The operands of an invalid fused form. -/
abbrev badFma (f : Fmt) (ng nc : Bool) (a b c : Nat) : Prop :=
  zeroInf f a b ∨ (bigProduct f a b ∧ infPat f c ∧ productSign f ng a b ≠ (negPat f c != nc))

omit ok in
theorem fmaF_bad (h : badFma f ng nc a b c) : fmaF f ⟨rm, false⟩ ng nc a b c = (nanF f, NV) := by
  rcases h with z | ⟨big, ic, ne⟩
  · exact fmaF_zeroInf rm ng nc a b c z
  · rw [fmaF_big rm ng nc a b c big, readF_inf ic]; exact if_neg ne.symm

omit ok in
theorem fmaF_infinite (nc' : ¬ nanPat f c) (h : ¬ badFma f ng nc a b c) (n : ¬ (nanPat f a ∨ nanPat f b)) :
    (bigProduct f a b → fmaF f ⟨rm, false⟩ ng nc a b c = (infF f (productSign f ng a b), 0)) ∧
    (¬ bigProduct f a b → infPat f c → fmaF f ⟨rm, false⟩ ng nc a b c = (infF f (negPat f c != nc), 0)) := by
  refine ⟨fun big => ?_, fun small ic => ?_⟩
  · rw [fmaF_big rm ng nc a b c big]
    by_cases ic : infPat f c
    · rw [readF_inf ic]
      refine if_pos ?_
      by_contra ne
      exact h (.inr ⟨big, ic, Ne.symm ne⟩)
    · obtain ⟨m, e, rc, -⟩ := readF_finite nc' ic
      rw [rc]; rfl
  · have fin : ¬ (infPat f a ∨ infPat f b) := fun i => small ⟨i, n, fun z => h (.inl z)⟩
    push Not at n fin
    exact fmaF_addend_inf rm ng nc a b c n.1 n.2 fin.1 fin.2 ic

include inf in
theorem fmaF_nanRule : NanRule f ((signallingPat f a ∨ signallingPat f b) ∨ signallingPat f c) ((nanPat f a ∨ nanPat f b) ∨ nanPat f c)
    (badFma f ng nc a b c) (fmaF f ⟨rm, false⟩ ng nc a b c) := by
  refine nanRule (sigNv_three ok a b c) (Or.imp signalling_two signalling_nan) (fun n i => fmaF_nan ok rm ng nc a b c n fun z => i (.inl z))
    (fmaF_bad rm ng nc a b c) fun n i => ?_
  obtain ⟨nab, nnc⟩ := not_or.mp n
  obtain ⟨ofBig, ofSmall⟩ := fmaF_infinite rm ng nc a b c nnc i nab
  by_cases big : bigProduct f a b
  · rw [ofBig big]; exact clean_infF inf _ (by decide)
  by_cases ic : infPat f c
  · rw [ofSmall big ic]; exact clean_infF inf _ (by decide)
  have fin : ¬ (infPat f a ∨ infPat f b) := fun j => big ⟨j, nab, fun z => i (.inl z)⟩
  push Not at nab fin
  obtain ⟨_, _, _, ha, _⟩ := readF_finite nab.1 fin.1
  obtain ⟨_, _, _, hb, _⟩ := readF_finite nab.2 fin.2
  obtain ⟨_, _, _, hc, _⟩ := readF_finite nnc ic
  exact (fmaF_number ok inf rm ng nc ha hb hc).1.clean

/-! #### Sums: fused forms with 1 -/

theorem oneF_plain : ¬ nanPat f (oneF f) ∧ ¬ infPat f (oneF f) ∧ numOf f (oneF f) ≠ some 0 ∧ negPat f (oneF f) = false := by
  obtain ⟨one, neg, -⟩ := oneF_number ok
  exact ⟨not_nan_of_numOf one, not_inf_of_numOf one, by rw [one]; simp, neg⟩

theorem not_zeroInf_one : ¬ zeroInf f a (oneF f) := by
  obtain ⟨-, fin, nz, -⟩ := oneF_plain ok
  rintro (⟨-, z⟩ | ⟨-, i⟩)
  · exact nz z
  · exact fin i
theorem bigProduct_one : bigProduct f a (oneF f) ↔ infPat f a := by
  obtain ⟨n, fin, -, -⟩ := oneF_plain ok
  refine ⟨fun h => h.1.resolve_right fin, fun i => ⟨.inl i, ?_, not_zeroInf_one ok a⟩⟩
  rintro (h | h)
  · exact not_nan_of_infPat i h
  · exact n h
theorem productSign_one : productSign f false a (oneF f) = negPat f a := by
  rw [productSign, (oneF_plain ok).2.2.2, Bool.bne_false, Bool.bne_false]
theorem badFma_one : badFma f false nc a (oneF f) b ↔ infPat f a ∧ infPat f b ∧ negPat f a ≠ (negPat f b != nc) := by
  rw [badFma, bigProduct_one ok, productSign_one ok]
  exact or_iff_right (not_zeroInf_one ok a)

include inf in
theorem sum_nanRule : NanRule f (signallingPat f a ∨ signallingPat f b) (nanPat f a ∨ nanPat f b)
    (infPat f a ∧ infPat f b ∧ negPat f a ≠ (negPat f b != nc)) (fmaF f ⟨rm, false⟩ false nc a (oneF f) b) := by
  have n := (oneF_plain ok).1
  have rule := fmaF_nanRule ok inf rm false nc a (oneF f) b
  rwa [badFma_one ok, or_iff_left n, or_iff_left (mt signalling_nan n)] at rule

/-- An infinite operand of a sum gives its own infinity, unless the other takes it away. -/
theorem sum_inf (nb : ¬ nanPat f b) (i : infPat f a) (h : ¬ (infPat f b ∧ negPat f a ≠ (negPat f b != nc))) :
    fmaF f ⟨rm, false⟩ false nc a (oneF f) b = (infF f (negPat f a), 0) := by
  have bad : ¬ badFma f false nc a (oneF f) b := fun k => h ((badFma_one ok nc a b).mp k).2
  have nab : ¬ (nanPat f a ∨ nanPat f (oneF f)) := not_or.mpr ⟨not_nan_of_infPat i, (oneF_plain ok).1⟩
  rw [(fmaF_infinite rm false nc a _ b nb bad nab).1 ((bigProduct_one ok a).mpr i), productSign_one ok]
theorem sum_addend_inf (na : ¬ nanPat f a) (i : infPat f b) (h : ¬ (infPat f a ∧ negPat f a ≠ (negPat f b != nc))) :
    fmaF f ⟨rm, false⟩ false nc a (oneF f) b = (infF f (negPat f b != nc), 0) := by
  by_cases ia : infPat f a
  · have same : negPat f a = (negPat f b != nc) := by by_contra ne; exact h ⟨ia, ne⟩
    rw [sum_inf ok rm nc a b (not_nan_of_infPat i) ia fun k => k.2 same, same]
  · have bad : ¬ badFma f false nc a (oneF f) b := fun k => ia ((badFma_one ok nc a b).mp k).1
    have nab : ¬ (nanPat f a ∨ nanPat f (oneF f)) := not_or.mpr ⟨na, (oneF_plain ok).1⟩
    exact (fmaF_infinite rm false nc a _ b (not_nan_of_infPat i) bad nab).2 (mt (bigProduct_one ok a).mp ia) i

include inf in
theorem addF_nanRule : NanRule f (signallingPat f a ∨ signallingPat f b) (nanPat f a ∨ nanPat f b)
    (infPat f a ∧ infPat f b ∧ negPat f a ≠ negPat f b) (addF f ⟨rm, false⟩ a b) := by
  simpa only [addF, Bool.bne_false] using sum_nanRule ok inf rm false a b
include inf in
theorem subF_nanRule : NanRule f (signallingPat f a ∨ signallingPat f b) (nanPat f a ∨ nanPat f b)
    (infPat f a ∧ infPat f b ∧ negPat f a = negPat f b) (subF f ⟨rm, false⟩ a b) := by
  have opp : ∀ p q : Bool, p ≠ (q != true) ↔ p = q := by decide
  simpa only [subF, opp] using sum_nanRule ok inf rm true a b

theorem addF_inf (i : infPat f a) (n : ¬ nanPat f b) (h : ¬ (infPat f b ∧ negPat f a ≠ negPat f b)) :
    addF f ⟨rm, false⟩ a b = (infF f (negPat f a), 0) ∧ addF f ⟨rm, false⟩ b a = (infF f (negPat f a), 0) := by
  refine ⟨sum_inf ok rm false a b n i (by simpa only [Bool.bne_false] using h), ?_⟩
  rw [addF, sum_addend_inf ok rm false b a n i (by simpa only [Bool.bne_false, ne_comm] using h), Bool.bne_false]
theorem subF_inf (i : infPat f a) (n : ¬ nanPat f b) (h : ¬ (infPat f b ∧ negPat f a = negPat f b)) :
    subF f ⟨rm, false⟩ a b = (infF f (negPat f a), 0) ∧ subF f ⟨rm, false⟩ b a = (infF f (!negPat f a), 0) := by
  have opp : ∀ p q : Bool, p ≠ (q != true) ↔ p = q := by decide
  refine ⟨sum_inf ok rm true a b n i (by simpa only [opp] using h), ?_⟩
  rw [subF, sum_addend_inf ok rm true b a n i (by simpa only [opp, eq_comm] using h), Bool.bne_true]

end
end Sys2Proof.Machine
end

section
namespace Sys2Proof.Machine

/-! #### Minimum, maximum and comparisons -/

/-- How an infinity compares. -/
theorem cmpV_inf_fin (s t : Bool) (m : Nat) (e : ℤ) :
    cmpV (.inf s) (.fin t m e) = (if s then -1 else 1) ∧ cmpV (.fin t m e) (.inf s) = if s then 1 else -1 := ⟨rfl, rfl⟩

section
variable {f : Fmt} (ok : f.Ok) (mx : Bool) (a b : Nat)

theorem chooseV_flag : (chooseV f mx a b).2 = sigNv (readF f a) ||| sigNv (readF f b) := by
  unfold chooseV; cases isNan (readF f a) <;> cases isNan (readF f b) <;> rfl

include ok

theorem isNan_eq_false (n : ¬ nanPat f a) : isNan (readF f a) = false := Bool.eq_false_iff.mpr (mt (isNan_readF ok a).mp n)

theorem minmaxF_flag : (signallingPat f a ∨ signallingPat f b → (minmaxF f false mx a b).2 = NV) ∧
    (¬ (signallingPat f a ∨ signallingPat f b) → (minmaxF f false mx a b).2 = 0) := by
  rw [minmaxF_off, chooseV_flag]; exact sigNv_two ok a b

theorem minmaxF_one_nan (na : nanPat f a) (nb : ¬ nanPat f b) :
    (minmaxF f false mx a b).1 = b ∧ (minmaxF f false mx b a).1 = b := by
  simp [minmaxF_off, chooseV, (isNan_readF ok a).mpr na, isNan_eq_false ok b nb]
theorem minmaxF_two_nans (na : nanPat f a) (nb : nanPat f b) : (minmaxF f false mx a b).1 = nanF f := by
  simp [minmaxF_off, chooseV, (isNan_readF ok a).mpr na, (isNan_readF ok b).mpr nb]

omit ok in
theorem minmaxF_inf (i : infPat f a) (n : ¬ nanPat f b) (j : ¬ infPat f b) :
    (minmaxF f false mx a b).1 = (if negPat f a = mx then b else a) ∧ (minmaxF f false mx b a).1 = if negPat f a = mx then b else a := by
  obtain ⟨m, e, rb, -⟩ := readF_finite n j
  simp only [minmaxF_off, chooseV, readF_inf i, rb, isNan, cmpV_inf_fin]
  cases negPat f a <;> cases mx <;> exact ⟨rfl, rfl⟩
omit ok in
theorem minmaxF_infs (i : infPat f a) (j : infPat f b) : infPat f (minmaxF f false mx a b).1 ∧
    negPat f (minmaxF f false mx a b).1 = if mx then negPat f a && negPat f b else negPat f a || negPat f b := by
  simp only [minmaxF_off, chooseV, readF_inf i, readF_inf j, isNan, cmpV]
  cases sa : negPat f a <;> cases sb : negPat f b <;> cases mx <;> simp [i, j, sa, sb]

end

section
variable {f : Fmt} (ok : f.Ok) (k : Cond) (sg : k.signed = true) (a b : Nat)

theorem condV_value {x y : FVal} (nx : isNan x = false) (ny : isNan y = false) (sg : k.signed = true) :
    ((condV k x y).1 = true ↔ numCond k (cmpV x y) 0) ∧ (condV k x y).2 = sigNv x ||| sigNv y := by
  revert sg; cases k <;> simp [condV, nx, ny, Cond.signed, numCond]
theorem condV_nan {x y : FVal} (un : (isNan x || isNan y) = true) (sg : k.signed = true) :
    ((condV k x y).1 = true ↔ k = .ne) ∧
    (condV k x y).2 = if k = .eq ∨ k = .ne then sigNv x ||| sigNv y else sigNv x ||| sigNv y ||| NV := by
  revert sg; cases k <;> simp [condV, un, Cond.signed]

include ok sg

theorem condF_nan (n : nanPat f a ∨ nanPat f b) : ((condF f false k a b).1 = true ↔ k = .ne) ∧
    (condF f false k a b).2 = if k = .eq ∨ k = .ne then sigNv (readF f a) ||| sigNv (readF f b) else NV := by
  have un : (isNan (readF f a) || isNan (readF f b)) = true := by
    rw [Bool.or_eq_true, isNan_readF ok, isNan_readF ok]; exact n
  have nv : sigNv (readF f a) ||| sigNv (readF f b) ||| NV = NV := by rw [Nat.or_assoc, sigNv_or_NV, sigNv_or_NV]
  rw [condF_off, ← nv]
  exact condV_nan k un sg

theorem condF_flag (unordered : Prop) (h : unordered ↔ (nanPat f a ∨ nanPat f b) ∧ k ≠ .eq ∧ k ≠ .ne) :
    ((signallingPat f a ∨ signallingPat f b) ∨ unordered → (condF f false k a b).2 = NV) ∧
    (¬ ((signallingPat f a ∨ signallingPat f b) ∨ unordered) → (condF f false k a b).2 = 0) := by
  obtain ⟨s, q⟩ := sigNv_two ok a b
  by_cases n : nanPat f a ∨ nanPat f b
  · obtain ⟨-, fl⟩ := condF_nan ok k sg a b n
    rw [fl, h]
    by_cases e : k = .eq ∨ k = .ne
    · rw [if_pos e]
      have : ¬ (k ≠ .eq ∧ k ≠ .ne) := by tauto
      exact ⟨fun h => s (h.resolve_right fun u => this u.2), fun h => q fun s => h (.inl s)⟩
    · rw [if_neg e]
      exact ⟨fun _ => rfl, fun h => absurd (.inr ⟨n, by tauto⟩) h⟩
  · rw [condF_off, (condV_value k (isNan_eq_false ok a (not_or.mp n).1) (isNan_eq_false ok b (not_or.mp n).2) sg).2]
    have : ¬ unordered := fun u => n (h.mp u).1
    exact ⟨fun h => s (h.resolve_right this), fun h => q fun s => h (.inl s)⟩

theorem condF_inf (i : infPat f a) (n : ¬ nanPat f b) (j : ¬ infPat f b) :
    ((condF f false k a b).1 = true ↔ if negPat f a then k ∈ [.lt, .le, .ne] else k ∈ [.gt, .ge, .ne]) ∧
    ((condF f false k b a).1 = true ↔ if negPat f a then k ∈ [.gt, .ge, .ne] else k ∈ [.lt, .le, .ne]) := by
  obtain ⟨m, e, rb, -⟩ := readF_finite n j
  rw [condF_off, condF_off, (condV_value k (isNan_eq_false ok a (not_nan_of_infPat i)) (isNan_eq_false ok b n) sg).1,
    (condV_value k (isNan_eq_false ok b n) (isNan_eq_false ok a (not_nan_of_infPat i)) sg).1, readF_inf i, rb]
  simp only [cmpV_inf_fin]
  cases negPat f a <;> revert sg <;> cases k <;> simp [numCond, Cond.signed]

theorem condF_infs (i : infPat f a) (j : infPat f b) : ((condF f false k a b).1 = true ↔
    if negPat f a = negPat f b then k ∈ [.eq, .le, .ge] else if negPat f a then k ∈ [.lt, .le, .ne] else k ∈ [.gt, .ge, .ne]) := by
  rw [condF_off, (condV_value k (isNan_eq_false ok a (not_nan_of_infPat i)) (isNan_eq_false ok b (not_nan_of_infPat j)) sg).1,
    readF_inf i, readF_inf j]
  simp only [cmpV]
  cases negPat f a <;> cases negPat f b <;> revert sg <;> cases k <;> simp [numCond, Cond.signed]

end

/-- What an infinite operand gives. -/
theorem infiniteOperand {f : Fmt} (ok : f.Ok) (rm : Nat) (a b : Nat) (i : infPat f a) (n : ¬ nanPat f b) :
    let md : FMode := ⟨rm, false⟩
    (¬ (infPat f b ∧ negPat f a ≠ negPat f b) → addF f md a b = (infF f (negPat f a), 0) ∧ addF f md b a = (infF f (negPat f a), 0)) ∧
    (¬ (infPat f b ∧ negPat f a = negPat f b) → subF f md a b = (infF f (negPat f a), 0) ∧ subF f md b a = (infF f (!negPat f a), 0)) ∧
    (numOf f b ≠ some 0 → mulF f md a b = (infF f (negPat f a != negPat f b), 0) ∧
      mulF f md b a = (infF f (negPat f a != negPat f b), 0)) ∧
    (¬ infPat f b → divF f md a b = (infF f (negPat f a != negPat f b), 0) ∧
      divF f md b a = (signF f (negPat f a != negPat f b), 0)) ∧
    rcpF f md a = (signF f (negPat f a), 0) ∧
    (negPat f a = false → sqrtF f md a = (infF f false, 0) ∧ rsqF f md a = (0, 0)) :=
  ⟨addF_inf ok rm a b i n, subF_inf ok rm a b i n, mulF_inf rm a b i n, divF_inf rm a b i n, rcpF_inf ok rm a i, root_inf rm a i⟩

/-- What minimum and maximum give of NaNs and infinities, and what comparisons do. -/
theorem orderedSpecials {f : Fmt} (ok : f.Ok) (a b : Nat) :
    let sig := signallingPat f a ∨ signallingPat f b
    let nan := nanPat f a ∨ nanPat f b
    (∀ mx, (sig → (minmaxF f false mx a b).2 = NV) ∧ (¬ sig → (minmaxF f false mx a b).2 = 0) ∧
      (nanPat f a → ¬ nanPat f b → (minmaxF f false mx a b).1 = b ∧ (minmaxF f false mx b a).1 = b) ∧
      (nanPat f a → nanPat f b → (minmaxF f false mx a b).1 = nanF f) ∧
      (infPat f a → ¬ nanPat f b → ¬ infPat f b → (minmaxF f false mx a b).1 = (if negPat f a = mx then b else a) ∧
        (minmaxF f false mx b a).1 = if negPat f a = mx then b else a) ∧
      (infPat f a → infPat f b → infPat f (minmaxF f false mx a b).1 ∧
        negPat f (minmaxF f false mx a b).1 = if mx then negPat f a && negPat f b else negPat f a || negPat f b)) ∧
    (∀ k : Cond, k.signed = true → (nan → ((condF f false k a b).1 = true ↔ k = .ne)) ∧
      (sig ∨ (nan ∧ k ≠ .eq ∧ k ≠ .ne) → (condF f false k a b).2 = NV) ∧
      (¬ (sig ∨ (nan ∧ k ≠ .eq ∧ k ≠ .ne)) → (condF f false k a b).2 = 0) ∧
      (infPat f a → ¬ nanPat f b → ¬ infPat f b →
        ((condF f false k a b).1 = true ↔ if negPat f a then k ∈ [.lt, .le, .ne] else k ∈ [.gt, .ge, .ne]) ∧
        ((condF f false k b a).1 = true ↔ if negPat f a then k ∈ [.gt, .ge, .ne] else k ∈ [.lt, .le, .ne])) ∧
      (infPat f a → infPat f b → ((condF f false k a b).1 = true ↔
        if negPat f a = negPat f b then k ∈ [.eq, .le, .ge] else if negPat f a then k ∈ [.lt, .le, .ne] else k ∈ [.gt, .ge, .ne]))) := by
  refine ⟨fun mx => ?_, fun k sg => ?_⟩
  · obtain ⟨s, q⟩ := minmaxF_flag ok mx a b
    exact ⟨s, q, minmaxF_one_nan ok mx a b, minmaxF_two_nans ok mx a b, minmaxF_inf mx a b, minmaxF_infs mx a b⟩
  · obtain ⟨s, q⟩ := condF_flag ok k sg a b _ Iff.rfl
    exact ⟨fun n => (condF_nan ok k sg a b n).1, s, q, condF_inf ok k sg a b, condF_infs ok k sg a b⟩

theorem floatingSpecials (t : ElemType) (ht : t ∈ wideTypes) (rm : Nat) (a b c : Nat) :
    let f := fmtOf t
    let md : FMode := ⟨rm, false⟩
    let sig := signallingPat f a ∨ signallingPat f b
    let nan := nanPat f a ∨ nanPat f b
    NanRule f sig nan (infPat f a ∧ infPat f b ∧ negPat f a ≠ negPat f b) (addF f md a b) ∧
    NanRule f sig nan (infPat f a ∧ infPat f b ∧ negPat f a = negPat f b) (subF f md a b) ∧
    NanRule f sig nan (zeroInf f a b) (mulF f md a b) ∧
    NanRule f sig nan ((infPat f a ∧ infPat f b) ∨ (numOf f a = some 0 ∧ numOf f b = some 0)) (divF f md a b) ∧
    NanRule f (signallingPat f a) (nanPat f a) (badRoot f a) (sqrtF f md a) ∧
    NanRule f (signallingPat f a) (nanPat f a) (badRoot f a) (rsqF f md a) ∧
    NanRule f (signallingPat f a) (nanPat f a) False (rcpF f md a) ∧
    NanRule f (signallingPat f a) (nanPat f a) False (absF f a) ∧ NanRule f (signallingPat f a) (nanPat f a) False (negF f a) ∧
    (∀ ng nc, (ng && nc) = false →
      NanRule f (sig ∨ signallingPat f c) (nan ∨ nanPat f c) (badFma f ng nc a b c) (fmaF f md ng nc a b c) ∧
      (¬ nan → ¬ nanPat f c → ¬ badFma f ng nc a b c →
        (bigProduct f a b → fmaF f md ng nc a b c = (infF f (productSign f ng a b), 0)) ∧
        (¬ bigProduct f a b → infPat f c → fmaF f md ng nc a b c = (infF f (negPat f c != nc), 0)))) := by
  have ok := fmtOf_ok t
  have inf := wide_inf ht
  obtain ⟨sqrt, rsq⟩ := root_nanRule ok inf rm a
  obtain ⟨abs, neg⟩ := sign_nanRule ok a
  exact ⟨addF_nanRule ok inf rm a b, subF_nanRule ok inf rm a b, mulF_nanRule ok inf rm a b, divF_nanRule ok inf rm a b, sqrt, rsq,
    rcpF_nanRule ok inf rm a, abs, neg, fun ng nc _ =>
      ⟨fmaF_nanRule ok inf rm ng nc a b c, fun n n' bad => fmaF_infinite rm ng nc a b c n' bad n⟩⟩

end Sys2Proof.Machine
end

section
namespace Sys2Proof.Machine

/-! ### Flushing (R47) -/

/-- The mantissa after the carry of a rounding to the place q. -/
def carried (f : Fmt) (v : Nat) (q : ℤ) : Nat := (if v = 2 ^ (f.mb + 1) then (2 ^ f.mb, q + 1) else (v, q)).1
theorem carried_top (f : Fmt) (q : ℤ) : carried f (2 ^ (f.mb + 1)) q = 2 ^ f.mb := by rw [carried, if_pos rfl]
theorem carried_of_ne {f : Fmt} {v : Nat} (ne : v ≠ 2 ^ (f.mb + 1)) (q : ℤ) : carried f v q = v := by rw [carried, if_neg ne]

theorem patternOf_of_carried_lt {f : Fmt} {v : Nat} {q : ℤ} (h : carried f v q < 2 ^ f.mb) : patternOf f v q = carried f v q := by
  have ne : v ≠ 2 ^ (f.mb + 1) := by rintro rfl; rw [carried_top] at h; omega
  rw [carried_of_ne ne] at h ⊢
  exact patternOf_small q h
theorem le_patternOf_of_le_carried {f : Fmt} {v : Nat} {q : ℤ} (low : 1 - (f.bias : ℤ) - f.mb ≤ q) (h : 2 ^ f.mb ≤ carried f v q) :
    2 ^ f.mb ≤ patternOf f v q := by
  have field (k : ℤ) (le : 1 ≤ k) : 2 ^ f.mb ≤ k.toNat * 2 ^ f.mb := Nat.le_mul_of_pos_left _ (by omega)
  by_cases c : v = 2 ^ (f.mb + 1)
  · rw [c, patternOf_carry]; exact field _ (by omega)
  · rw [carried_of_ne c] at h
    simp only [patternOf, if_neg c, Nat.not_lt.mpr h, if_false]
    exact Nat.le_add_right_of_le (field _ (by omega))

section
variable {f : Fmt} (ok : f.Ok)
include ok

omit ok in
/-- What FZ does with a packed result: it puts the zero in the place of a subnormal. -/
theorem fzOut_signF (s : Bool) (fl : Nat) {b : Nat} (lt : b < 2 ^ (f.eb + f.mb)) :
    fzOut f (signF f s + b, fl) = if b ≠ 0 ∧ b < 2 ^ f.mb then (signF f s, UF ||| NX) else (signF f s + b, fl) := by
  have ex := exOf_signF_add s lt
  have fr := frOf_signF_add s lt
  have sg := negPat_signF_add s lt
  have sub : (exOf f (signF f s + b) = 0 ∧ frOf f (signF f s + b) ≠ 0) ↔ b ≠ 0 ∧ b < 2 ^ f.mb := by
    rw [ex, fr, Nat.div_eq_zero_iff_lt (by positivity), and_comm]
    exact and_congr_left fun small => by rw [frOf, Nat.mod_eq_of_lt small]
  simp only [fzOut, sg]
  exact if_congr sub rfl rfl

theorem normal_maxF : 2 ^ f.mb ≤ maxF f false := by
  have := oneF_le ok
  exact (Nat.le_mul_of_pos_left _ (bias_pos ok)).trans this

theorem fzOut_maxF (s : Bool) (fl : Nat) : fzOut f (maxF f s, fl) = (maxF f s, fl) := by
  have := normal_maxF ok
  rw [maxF_signed, fzOut_signF s fl (by have := maxF_lt ok; omega), if_neg (by omega)]
theorem fzOut_infF (s : Bool) (fl : Nat) : fzOut f (infF f s, fl) = (infF f s, fl) := by
  have : 2 ^ f.mb ≤ (2 ^ f.eb - 1) * 2 ^ f.mb := Nat.le_mul_of_pos_left _ (by have := two_pow_eb ok; omega)
  rw [infF, fzOut_signF s fl (infF_lt f), if_neg (by omega)]
omit ok in
theorem fzOut_zero (s : Bool) (fl : Nat) : fzOut f (signF f s, fl) = (signF f s, fl) := by
  have := fzOut_signF (f := f) s fl (b := 0) (by positivity)
  simpa using this
theorem fzOut_nanF (inf : f.inf = true) (fl : Nat) : fzOut f (nanF f, fl) = (nanF f, fl) := by
  have big : 2 ^ f.mb ≤ (2 ^ f.eb - 1) * 2 ^ f.mb := Nat.le_mul_of_pos_left _ (by have := two_pow_eb ok; omega)
  have lt : (2 ^ f.eb - 1) * 2 ^ f.mb + 2 ^ (f.mb - 1) < 2 ^ (f.eb + f.mb) := by
    have half : 2 ^ (f.mb - 1) < 2 ^ f.mb := Nat.pow_lt_pow_right one_lt_two (by have := ok.mb; omega)
    have : (2 ^ f.eb - 1) * 2 ^ f.mb + 2 ^ f.mb = 2 ^ (f.eb + f.mb) := by
      rw [Nat.pow_add, Nat.sub_mul, Nat.one_mul, Nat.sub_add_cancel (Nat.le_mul_of_pos_left _ (by positivity))]
    exact (Nat.add_lt_add_left half _).trans_eq this
  have := fzOut_signF false fl lt
  rw [if_neg fun sub => absurd sub.2 (Nat.not_lt.mpr (Nat.le_add_right_of_le big))] at this
  simpa [nanF, inf, signF] using this

/-- What packF does under FZ with the bits that it has found, and with the mantissa v that they come from. -/
def deliveredFz (f : Fmt) (rm : Nat) (sat s tiny : Bool) (v : Nat) (r : Nat × Bool) : Nat × Nat :=
  if maxF f false < r.1 then (if overflowsAway rm sat s then infF f s else maxF f s, OF ||| NX)
  else if v != 0 && decide (v < 2 ^ f.mb) then (signF f s, UF ||| NX)
  else (signF f s + r.1, (if r.2 then NX else 0) ||| (if tiny && r.2 then UF else 0))

omit ok in
theorem packF_fz_eq (rm : Nat) (sat s : Bool) {m : Nat} (nz : m ≠ 0) (e : ℤ) :
    packF f ⟨rm, true⟩ sat s m e =
      deliveredFz f rm sat s (tinyAt f rm s m e) (carried f (roundAt rm s m e (placeOfLead f (leadOf m e))).1 (placeOfLead f (leadOf m e)))
        (patternOf f (roundAt rm s m e (placeOfLead f (leadOf m e))).1 (placeOfLead f (leadOf m e)), (roundAt rm s m e (placeOfLead f (leadOf m e))).2) := by
  rw [packF, if_neg nz]
  rfl

theorem deliveredFz_eq (rm : Nat) (sat s tiny : Bool) {v : Nat} {r : Nat × Bool} (sub : v < 2 ^ f.mb → r.1 = v) (normal : 2 ^ f.mb ≤ v → 2 ^ f.mb ≤ r.1) :
    deliveredFz f rm sat s tiny v r = fzOut f (delivered f rm sat s tiny r) := by
  unfold deliveredFz delivered
  by_cases o : maxF f false < r.1
  · rw [if_pos o, if_pos o]
    split
    · exact (fzOut_infF ok s _).symm
    · exact (fzOut_maxF ok s _).symm
  · rw [if_neg o, if_neg o, fzOut_signF s _ (by have := maxF_lt ok; omega)]
    refine if_congr ?_ rfl rfl
    simp only [Bool.and_eq_true, bne_iff_ne, decide_eq_true_eq]
    rcases Nat.lt_or_ge v (2 ^ f.mb) with lt | ge
    · rw [sub lt]
    · have := normal ge; omega

/-- Packing under FZ. -/
theorem packF_fz (rm : Nat) (sat s : Bool) (m : Nat) (e : ℤ) :
    packF f ⟨rm, true⟩ sat s m e = fzOut f (packF f ⟨rm, false⟩ sat s m e) := by
  rcases eq_or_ne m 0 with rfl | nz
  · rw [packF_zero, packF_zero, fzOut_zero]
  rw [packF_fz_eq rm sat s nz, packF_eq f rm sat s nz]
  exact deliveredFz_eq ok rm sat s _ patternOf_of_carried_lt (le_patternOf_of_le_carried (by rw [placeOfLead]; omega))

end

/-! #### Operations under FZ -/

theorem flushF_on {t : ElemType} (ht : t ∈ wideTypes) (a : Nat) : flushF (fmtOf t) true a = fzIn (fmtOf t) a := by
  have sign : a / 2 ^ ((fmtOf t).mb + (fmtOf t).eb) % 2 * 2 ^ ((fmtOf t).mb + (fmtOf t).eb) = signF (fmtOf t) (negPat (fmtOf t) a) := by
    rw [← negPat_eq, signF_eq, Nat.add_comm]
    rcases Nat.mod_two_eq_zero_or_one (a / 2 ^ ((fmtOf t).eb + (fmtOf t).mb)) with e | e <;> rw [e] <;> rfl
  simp [flushF, fzIn, wide_inf ht, wide_mb ht, sign]

section
variable {f : Fmt} (ok : f.Ok) (inf : f.inf = true) (on : ∀ a, flushF f true a = fzIn f a) (rm : Nat) (a b c : Nat)
include ok inf on

/-- Each case of an operation delivers the default NaN, an infinity, a zero, or a packed number: FZ keeps the first three, and packF_fz
says what it does with the last. -/
theorem mulF_fz : mulF f ⟨rm, true⟩ a b = fzOut f (mulF f ⟨rm, false⟩ (fzIn f a) (fzIn f b)) := by
  simp only [mulF, on, flushF_off]
  generalize readF f (fzIn f a) = x, readF f (fzIn f b) = y
  rcases x with g | s | ⟨s, _ | m, e⟩ <;> rcases y with h | t | ⟨t, _ | n, k⟩ <;>
    simp only [packF_fz ok, fzOut_nanF ok inf, fzOut_infF ok]

theorem divF_fz : divF f ⟨rm, true⟩ a b = fzOut f (divF f ⟨rm, false⟩ (fzIn f a) (fzIn f b)) := by
  simp only [divF, on, flushF_off]
  generalize readF f (fzIn f a) = x, readF f (fzIn f b) = y
  rcases x with g | s | ⟨s, m, e⟩ <;> rcases y with h | t | ⟨t, n, k⟩ <;>
    simp only [packF_fz ok, fzOut_nanF ok inf, fzOut_infF ok, fzOut_zero, apply_ite (fzOut f)]

theorem sqrtF_fz : sqrtF f ⟨rm, true⟩ a = fzOut f (sqrtF f ⟨rm, false⟩ (fzIn f a)) := by
  simp only [sqrtF, on, flushF_off]
  generalize readF f (fzIn f a) = x
  rcases x with g | s | ⟨s, m, e⟩ <;>
    simp only [packF_fz ok, fzOut_nanF ok inf, fzOut_infF ok, fzOut_zero, apply_ite (fzOut f)]
theorem rsqF_fz : rsqF f ⟨rm, true⟩ a = fzOut f (rsqF f ⟨rm, false⟩ (fzIn f a)) := by
  have zero : fzOut f (0, 0) = (0, 0) := fzOut_zero false 0
  simp only [rsqF, on, flushF_off]
  generalize readF f (fzIn f a) = x
  rcases x with g | s | ⟨s, m, e⟩ <;>
    simp only [packF_fz ok, fzOut_nanF ok inf, fzOut_infF ok, zero, apply_ite (fzOut f)]

omit inf on in
/-- 1 is no subnormal. -/
theorem fzIn_oneF : fzIn f (oneF f) = oneF f := by
  obtain ⟨-, -, ex⟩ := oneF_number ok
  exact if_neg fun zero => Nat.one_le_iff_ne_zero.mp (bias_pos ok) (ex.symm.trans zero)

theorem rcpF_fz : rcpF f ⟨rm, true⟩ a = fzOut f (rcpF f ⟨rm, false⟩ (fzIn f a)) := by
  rw [rcpF, divF_fz ok inf on, fzIn_oneF ok]; rfl

theorem fmaF_fz (ng nc : Bool) : fmaF f ⟨rm, true⟩ ng nc a b c = fzOut f (fmaF f ⟨rm, false⟩ ng nc (fzIn f a) (fzIn f b) (fzIn f c)) := by
  simp only [fmaF, on, flushF_off]
  generalize readF f (fzIn f a) = x, readF f (fzIn f b) = y, readF f (fzIn f c) = z
  rcases x with g | s | ⟨s, _ | m, e⟩ <;> rcases y with h | t | ⟨t, _ | n, k⟩ <;> rcases z with i | u | ⟨u, o, l⟩ <;>
    simp only [packF_fz ok, fzOut_nanF ok inf, fzOut_infF ok, fzOut_zero, apply_ite (fzOut f), sigNv, Nat.or_self, Nat.zero_or]

theorem addF_fz : addF f ⟨rm, true⟩ a b = fzOut f (addF f ⟨rm, false⟩ (fzIn f a) (fzIn f b)) := by
  rw [addF, fmaF_fz ok inf on, fzIn_oneF ok]; rfl
theorem subF_fz : subF f ⟨rm, true⟩ a b = fzOut f (subF f ⟨rm, false⟩ (fzIn f a) (fzIn f b)) := by
  rw [subF, fmaF_fz ok inf on, fzIn_oneF ok]; rfl

omit ok inf in
theorem minmaxF_fz (mx : Bool) : minmaxF f true mx a b = minmaxF f false mx (fzIn f a) (fzIn f b) := by
  rw [minmaxF_eq, on, on, minmaxF_off]
omit ok inf in
theorem condF_fz (k : Cond) : condF f true k a b = condF f false k (fzIn f a) (fzIn f b) := by
  rw [condF_eq, on, on, condF_off]

end

/-- R47: what FZ does. -/
theorem floatingFlush (t : ElemType) (ht : t ∈ wideTypes) (rm : Nat) (a b c : Nat) :
    let f := fmtOf t
    (∀ op ∈ [addF f, subF f, mulF f, divF f], op ⟨rm, true⟩ a b = fzOut f (op ⟨rm, false⟩ (fzIn f a) (fzIn f b))) ∧
    (∀ op ∈ [sqrtF f, rcpF f, rsqF f], op ⟨rm, true⟩ a = fzOut f (op ⟨rm, false⟩ (fzIn f a))) ∧
    (∀ ng nc, fmaF f ⟨rm, true⟩ ng nc a b c = fzOut f (fmaF f ⟨rm, false⟩ ng nc (fzIn f a) (fzIn f b) (fzIn f c))) ∧
    (∀ mx, minmaxF f true mx a b = minmaxF f false mx (fzIn f a) (fzIn f b)) ∧
    (∀ k, condF f true k a b = condF f false k (fzIn f a) (fzIn f b)) := by
  have ok := fmtOf_ok t
  have inf := wide_inf ht
  have on := flushF_on ht
  refine ⟨?_, ?_, fmaF_fz ok inf on rm a b c, minmaxF_fz on a b, condF_fz on a b⟩ <;>
    simp only [List.forall_mem_cons, List.not_mem_nil, false_imp_iff, implies_true, and_true]
  · exact ⟨addF_fz ok inf on rm a b, subF_fz ok inf on rm a b, mulF_fz ok inf on rm a b, divF_fz ok inf on rm a b⟩
  · exact ⟨sqrtF_fz ok inf on rm a, rcpF_fz ok inf on rm a, rsqF_fz ok inf on rm a⟩

end Sys2Proof.Machine
end

section
namespace Sys2Proof.Machine

/-! ### Rounding to an integer (R45, R48) -/

/-- An integer with a sign. -/
def signedInt (s : Bool) (n : Nat) : ℤ := if s then -(n : ℤ) else n

/-- A magnitude between n and n + 1 as floor and ceiling see it. -/
theorem floor_signed {a : ℝ} {n : Nat} (s : Bool) (lo : n ≤ a) (hi : a < n + 1) :
    ⌊signed s a⌋ = signedInt s (if s ∧ a ≠ n then n + 1 else n) ∧ ⌈signed s a⌉ = signedInt s (if !s ∧ a ≠ n then n + 1 else n) := by
  have fl : ⌊a⌋ = n := Int.floor_eq_iff.mpr ⟨by exact_mod_cast lo, by exact_mod_cast hi⟩
  have ce : ⌈a⌉ = ((if a ≠ n then n + 1 else n : ℕ) : ℤ) := by
    split
    · rename_i ne
      have gt := lt_of_le_of_ne lo (Ne.symm ne)
      exact Int.ceil_eq_iff.mpr ⟨by push_cast; linarith, by push_cast; linarith⟩
    · rename_i e
      rw [not_not.mp e]; exact Int.ceil_natCast n
  cases s <;> simp [signed, signedInt, Int.floor_neg, Int.ceil_neg, fl, ce]

theorem cast_signedInt (s : Bool) (n : Nat) : (signedInt s n : ℝ) = signed s n := by cases s <;> simp [signedInt, signed]

theorem GoesUp.inexact {rm : Nat} {s : Bool} {n : Nat} {a : ℝ} (up : GoesUp rm s n n (n + 1 / 2) a) : a ≠ n := by
  rcases rm with _ | _ | _ | rm
  · rcases up with gt | ⟨e, -⟩ <;> rintro rfl <;> linarith
  · exact up.elim
  · exact up.1
  · exact up.1

section
variable {s : Bool} {a : ℝ} {n : Nat} (lo : n ≤ a) (hi : a < n + 1)
include lo hi

theorem roundInt_nearest : (GoesUp 0 s n n (n + 1 / 2) a → roundInt 0 (signed s a) = signedInt s (n + 1)) ∧
    (¬ GoesUp 0 s n n (n + 1 / 2) a → roundInt 0 (signed s a) = signedInt s n) := by
  obtain ⟨fl, -⟩ := floor_signed s lo hi
  simp only [roundInt, fl, GoesUp]
  cases s with
  | false =>
    simp only [signed, signedInt, Bool.false_eq_true, false_and, if_false, Int.cast_natCast]
    refine ⟨fun up => if_neg ?_, fun stay => if_pos ?_⟩
    · rintro (lt | ⟨e, even⟩) <;> rcases up with gt | ⟨e', odd⟩
      · linarith
      · linarith
      · linarith
      · omega
    · by_contra no
      push Not at no stay
      have ge := stay.1
      have e : a = n + 1 / 2 := by linarith [no.1]
      have := stay.2 e
      have := no.2 (by linarith)
      omega
  | true =>
    by_cases e : a = n
    · simp [signed, signedInt, e]
    · simp only [signed, signedInt, true_and, if_true, ne_eq, e, not_false_eq_true]
      push_cast
      refine ⟨fun up => if_pos ?_, fun stay => (if_neg ?_).trans (by ring)⟩
      · rcases up with gt | ⟨e', odd⟩
        · left; linarith
        · right; exact ⟨by linarith, by omega⟩
      · push Not at stay
        rintro (lt | ⟨e', even⟩)
        · linarith [stay.1]
        · have := stay.2 (by linarith); omega

theorem roundInt_directed (rm : Nat) (nonneg : 0 ≤ a) :
    (GoesUp (rm + 1) s n n (n + 1 / 2) a → roundInt (rm + 1) (signed s a) = signedInt s (n + 1)) ∧
    (¬ GoesUp (rm + 1) s n n (n + 1 / 2) a → roundInt (rm + 1) (signed s a) = signedInt s n) := by
  obtain ⟨fl, ce⟩ := floor_signed s lo hi
  rcases rm with _ | _ | rm
  · refine ⟨False.elim, fun _ => ?_⟩
    simp only [roundInt, fl, ce]
    cases s with
    | false => simp [signed, nonneg.not_gt]
    | true =>
      by_cases z : a = 0
      · have n0 : n = 0 := by have : (n : ℝ) ≤ 0 := z ▸ lo; exact_mod_cast this.antisymm (Nat.cast_nonneg n)
        simp [signed, z, n0]
      · simp [signed, lt_of_le_of_ne nonneg (Ne.symm z)]
  · simp only [roundInt, ce, GoesUp]
    cases s <;> by_cases e : a = n <;> simp [e]
  · simp only [roundInt, fl, GoesUp]
    cases s <;> by_cases e : a = n <;> simp [e]

end

theorem roundInt_signed {rm : Nat} {s : Bool} {a : ℝ} {r : Nat × Bool} (nonneg : 0 ≤ a) (h : RoundsInUnits rm s 1 a r) :
    roundInt rm (signed s a) = signedInt s r.1 ∧ (r.2 = true ↔ (signedInt s r.1 : ℝ) ≠ signed s a) := by
  obtain ⟨n, lo, hi, inexact, dir⟩ := h
  simp only [mul_one] at lo hi inexact dir
  have round : (GoesUp rm s n n (n + 1 / 2) a → roundInt rm (signed s a) = signedInt s (n + 1)) ∧
      (¬ GoesUp rm s n n (n + 1 / 2) a → roundInt rm (signed s a) = signedInt s n) := by
    cases rm with
    | zero => exact roundInt_nearest lo hi
    | succ rm => exact roundInt_directed lo hi rm nonneg
  rw [inexact, cast_signedInt, ne_eq, ne_eq, signed_inj]
  rcases dir with ⟨e, stay⟩ | ⟨e, up⟩ <;> rw [e]
  · exact ⟨round.2 stay, not_congr eq_comm⟩
  · exact ⟨round.1 up, iff_of_true up.inexact (by push_cast; exact hi.ne')⟩

/-! ### Integer types (R37, R38) -/

theorem readI_eq_intVal {t : ElemType} (ht : Machine.ElemType.isInt t = true) {x : Nat} (lt : x < 2 ^ t.width) : readI t x = intVal t x := by
  revert ht
  cases t <;> simp_all [readI, intVal, asInt, ElemType.inS, Machine.ElemType.isInt, ElemType.isSigned, toS_eq_sgn, ElemType.width, Nat.mod_eq_of_lt]

theorem clampI_eq_intClamp {t : ElemType} (ht : Machine.ElemType.isInt t = true) (z : ℤ) : clampI t z = intClamp t z := by
  revert ht
  cases t <;> simp [clampI, intClamp, clampTo, minI, maxI, ElemType.inS, Machine.ElemType.isInt, ElemType.isSigned, ElemType.width, min_comm]

theorem minI_le_maxI (t : ElemType) : minI t ≤ maxI t := by cases t <;> decide
/-- No integer type reaches 2^64. -/
theorem intLimits (t : ElemType) : -(2 ^ 64) ≤ minI t ∧ maxI t ≤ 2 ^ 64 := by cases t <;> decide

theorem clampI_below {t : ElemType} {z : ℤ} (h : z ≤ minI t) : clampI t z = minI t := by
  have := minI_le_maxI t; rw [clampI]; omega
theorem clampI_above {t : ElemType} {z : ℤ} (h : maxI t ≤ z) : clampI t z = maxI t := by
  have := minI_le_maxI t; rw [clampI]; omega
theorem clampI_inside {t : ElemType} {z : ℤ} (lo : minI t ≤ z) (hi : z ≤ maxI t) : clampI t z = z := by
  rw [clampI]; omega

end Sys2Proof.Machine
end

section
namespace Sys2Proof.Machine

/-! ### Conversions (R48, R49) -/

/-- A value brought to a floating format: one of d, f, bf and h; and e4 or e5. -/
def wideV (md : FMode) (t : ElemType) : FVal → Nat × Nat
  | .nan sg => (nanF (fmtOf t), if sg then NV else 0)
  | .inf sg => (infF (fmtOf t) sg, 0)
  | .fin sg m e => packF (fmtOf t) md false sg m e
def fp8V (inf : Bool) (t : ElemType) : FVal → Nat × Nat
  | .nan sg => (nanF (fmtOf t), if sg then NV else 0)
  | .inf sg => if inf then (infF (fmtOf t) sg, 0) else (maxF (fmtOf t) sg, OF ||| NX)
  | .fin sg m e => packF (fmtOf t) rne (!inf) sg m e
/-- A value brought to an integer type. -/
def intV (rm : Nat) (t : ElemType) : FVal → Nat × Nat
  | .nan _ => (0, NV)
  | .inf sg => (ofS t.width (if sg then minI t else maxI t), NV)
  | .fin sg m e =>
    let r := if 0 ≤ e then (m * 2 ^ e.toNat, false) else roundShift rm sg m (-e).toNat
    let z : Int := if sg then -(r.1 : Int) else r.1
    if z < minI t then (ofS t.width (minI t), NV)
    else if maxI t < z then (ofS t.width (maxI t), NV)
    else (ofS t.width z, if r.2 then NX else 0)

def fp8Types : List ElemType := [.e4, .e5]

section
variable {s t : ElemType} (md : FMode) (inf : Bool) (x : Nat)

theorem convert_wide (ht : t ∈ wideTypes) : convert md inf s t x =
    if Machine.ElemType.isInt s then packF (fmtOf t) { md with fz := false } false (decide (readI s x < 0)) (readI s x).natAbs 0
    else wideV md t (readF (fmtOf s) (flushF (fmtOf s) md.fz x)) := by
  have fp8 : (t == .e4 || t == .e5) = false := by revert t; decide
  have int : Machine.ElemType.isInt t = false := by revert t; decide
  simp only [convert, fp8, int, Bool.false_eq_true, if_false]
  cases readF (fmtOf s) (flushF (fmtOf s) md.fz x) <;> rfl
theorem convert_fp8 (ht : t ∈ fp8Types) : convert md inf s t x =
    if Machine.ElemType.isInt s then packF (fmtOf t) rne (!inf) (decide (readI s x < 0)) (readI s x).natAbs 0
    else fp8V inf t (readF (fmtOf s) (flushF (fmtOf s) md.fz x)) := by
  have fp8 : (t == .e4 || t == .e5) = true := by revert t; decide
  have int : Machine.ElemType.isInt t = false := by revert t; decide
  simp only [convert, fp8, int, Bool.false_eq_true, if_false, if_true, packFp8]
  cases readF (fmtOf s) (flushF (fmtOf s) md.fz x) <;> rfl
theorem convert_int (ht : Machine.ElemType.isInt t = true) : convert md inf s t x =
    if Machine.ElemType.isInt s then (ofS t.width (if s.width < t.width then readI s x else clampI t (readI s x)), 0)
    else intV md.rm t (readF (fmtOf s) (flushF (fmtOf s) md.fz x)) := by
  simp only [convert, ht, if_true]
  cases readF (fmtOf s) (flushF (fmtOf s) md.fz x) <;> rfl

end

/-! #### What a value becomes -/

theorem wideV_fz {t : ElemType} (ht : t ∈ wideTypes) (rm : Nat) (v : FVal) : wideV ⟨rm, true⟩ t v = fzOut (fmtOf t) (wideV ⟨rm, false⟩ t v) := by
  have ok := fmtOf_ok t
  cases v with
  | nan g => exact (fzOut_nanF ok (wide_inf ht) _).symm
  | inf s => exact (fzOut_infF ok s 0).symm
  | fin s m e => exact packF_fz ok rm false s m e

section
variable {f : Fmt} {a : Nat} {x : ℝ} (hx : numOf f a = some x)
include hx

theorem wideV_number {t : ElemType} (ht : t ∈ wideTypes) (rm : Nat) : Delivers (fmtOf t) rm false x (wideV ⟨rm, false⟩ t (readF f a)) := by
  obtain ⟨m, e, r, rfl⟩ := readF_of_numOf hx
  rw [r]; exact packF_exact (fmtOf_ok t) rm _ (.inl (wide_inf ht)) m e
theorem fp8V_number (t : ElemType) (inf : Bool) (fit : (fmtOf t).inf = true ∨ inf = false) :
    Delivers (fmtOf t) 0 (!inf) x (fp8V inf t (readF f a)) := by
  obtain ⟨m, e, r, rfl⟩ := readF_of_numOf hx
  rw [r]; exact packF_exact (fmtOf_ok t) 0 _ (fit.imp_right fun h => by rw [h]; rfl) m e

/-- A zero keeps its sign. -/
theorem floatV_zero (zero : x = 0) (rm : Nat) (inf : Bool) (t : ElemType) :
    wideV ⟨rm, false⟩ t (readF f a) = (signF (fmtOf t) (negPat f a), 0) ∧ fp8V inf t (readF f a) = (signF (fmtOf t) (negPat f a), 0) := by
  obtain ⟨e, r⟩ := readF_zero (hx.trans (congrArg some zero))
  rw [r]; exact ⟨rfl, rfl⟩

theorem intV_number {t : ElemType} (ht : Machine.ElemType.isInt t = true) (rm : Nat) :
    intV rm t (readF f a) = (wrapTo t.width (intClamp t (roundInt rm x)),
      if intClamp t (roundInt rm x) ≠ roundInt rm x then NV else if roundInt rm x = x then 0 else NX) := by
  obtain ⟨m, e, r, rfl⟩ := readF_of_numOf hx
  have at0 : (if 0 ≤ e then (m * 2 ^ e.toNat, false) else roundShift rm (negPat f a) m (-e).toNat) = roundAt rm (negPat f a) m e 0 := by
    rw [roundAt, sub_zero, zero_sub]
  have rounds := roundAt_rounds (rm := rm) (s := negPat f a) (e := e) (q := 0) (.inl rfl : Stands (m : ℝ) m _)
  rw [zpow_zero] at rounds
  obtain ⟨int, inexact⟩ := roundInt_signed (mul_nonneg (Nat.cast_nonneg m) (two_zpow_pos e).le) rounds
  rw [r, ← clampI_eq_intClamp ht]
  simp only [intV, at0]
  rw [← int] at inexact
  rw [signedInt] at int
  rw [← int]
  generalize roundInt rm (signed (negPat f a) (m * 2 ^ e)) = z at *
  by_cases lo : z < minI t
  · rw [if_pos lo, clampI_below lo.le, if_pos lo.ne']; rfl
  by_cases hi : maxI t < z
  · rw [if_neg lo, if_pos hi, clampI_above hi.le, if_pos hi.ne]; rfl
  · rw [if_neg lo, if_neg hi, clampI_inside (not_lt.mp lo) (not_lt.mp hi), if_neg (not_not.mpr rfl)]
    refine Prod.ext rfl ?_
    by_cases ex : (z : ℝ) = signed (negPat f a) (m * 2 ^ e)
    · rw [if_pos ex, if_neg fun h => inexact.mp h ex]
    · rw [if_neg ex, if_pos (inexact.mpr ex)]

end

theorem intV_inf {f : Fmt} {a : Nat} (i : infPat f a) {t : ElemType} (ht : Machine.ElemType.isInt t = true) (rm : Nat) :
    intV rm t (readF f a) = (wrapTo t.width (intClamp t (if negPat f a then -(2 ^ 64) else 2 ^ 64)), NV) := by
  obtain ⟨lo, hi⟩ := intLimits t
  rw [readF_inf i, intV, ← clampI_eq_intClamp ht]
  cases negPat f a
  · rw [if_neg Bool.false_ne_true, if_neg Bool.false_ne_true, clampI_above hi]; rfl
  · rw [if_pos rfl, if_pos rfl, clampI_below lo]; rfl

/-- Every NaN becomes the default NaN, or the integer 0. -/
theorem floatV_nan {f : Fmt} (ok : f.Ok) {a : Nat} (n : nanPat f a) (md : FMode) (inf : Bool) (t : ElemType) :
    wideV md t (readF f a) = (nanF (fmtOf t), sigNv (readF f a)) ∧ fp8V inf t (readF f a) = (nanF (fmtOf t), sigNv (readF f a)) ∧
    intV md.rm t (readF f a) = (0, NV) := by
  obtain ⟨g, r, -⟩ := readF_nan ok n
  rw [r]; cases g <;> exact ⟨rfl, rfl, rfl⟩

/-- The types that a float is converted from. -/
def floatTypes : List ElemType := [.d, .f, .bf, .h, .e5, .e4]
theorem floatTypes_not_int {s : ElemType} (hs : s ∈ floatTypes) : ¬ Machine.ElemType.isInt s = true := by
  revert s; decide
theorem mem_floatTypes {t : ElemType} : t ∈ floatTypes ↔ t ∈ wideTypes ∨ t ∈ fp8Types := by cases t <;> decide

/-- R49: FZ does not touch an operand of 8 bits. -/
theorem flushF_fp8 {s : ElemType} (hs : s ∈ [ElemType.e5, .e4]) (fz : Bool) (a : Nat) : flushF (fmtOf s) fz a = a := by
  simp only [List.mem_cons, List.not_mem_nil, or_false] at hs
  rcases hs with rfl | rfl <;> cases fz <;> rfl

section
variable {s : ElemType} (hs : s ∈ floatTypes) (rm : Nat) (inf : Bool) (a : Nat)
include hs

theorem convert_float_wide {t : ElemType} (ht : t ∈ wideTypes) (fz : Bool) :
    convert ⟨rm, fz⟩ inf s t a = wideV ⟨rm, fz⟩ t (readF (fmtOf s) (flushF (fmtOf s) fz a)) := by
  rw [convert_wide _ _ _ ht, if_neg (floatTypes_not_int hs)]
theorem convert_float_fp8 {t : ElemType} (ht : t ∈ fp8Types) (fz : Bool) :
    convert ⟨rm, fz⟩ inf s t a = fp8V inf t (readF (fmtOf s) (flushF (fmtOf s) fz a)) := by
  rw [convert_fp8 _ _ _ ht, if_neg (floatTypes_not_int hs)]
theorem convert_float_int {t : ElemType} (ht : Machine.ElemType.isInt t = true) (fz : Bool) :
    convert ⟨rm, fz⟩ inf s t a = intV rm t (readF (fmtOf s) (flushF (fmtOf s) fz a)) := by
  rw [convert_int _ _ _ ht, if_neg (floatTypes_not_int hs)]

/-- FZ reads a as b. -/
theorem convert_flush (b : Nat) (on : flushF (fmtOf s) true a = b) :
    (∀ u ∈ wideTypes, convert ⟨rm, true⟩ inf s u a = fzOut (fmtOf u) (convert ⟨rm, false⟩ inf s u b)) ∧
    ∀ u, u ∈ fp8Types ∨ Machine.ElemType.isInt u = true → convert ⟨rm, true⟩ inf s u a = convert ⟨rm, false⟩ inf s u b := by
  refine ⟨fun u hu => ?_, ?_⟩
  · rw [convert_float_wide hs rm inf a hu, convert_float_wide hs rm inf b hu, on, wideV_fz hu]; rfl
  · rintro u (hu | hu)
    · rw [convert_float_fp8 hs rm inf a hu, convert_float_fp8 hs rm inf b hu, on]; rfl
    · rw [convert_float_int hs rm inf a hu, convert_float_int hs rm inf b hu, on]; rfl

end

/-- R48, R49: conversions of floats. -/
theorem floatConversions (s : ElemType) (hs : s ∈ floatTypes) (rm : Nat) (a : Nat) :
    let cv (t : ElemType) := convert ⟨rm, false⟩ false s t a
    (s ∈ [ElemType.e5, .e4] → ∀ inf, (∀ t ∈ wideTypes, convert ⟨rm, true⟩ inf s t a = fzOut (fmtOf t) (convert ⟨rm, false⟩ inf s t a)) ∧
      ∀ t, t ∈ fp8Types ∨ Machine.ElemType.isInt t = true → convert ⟨rm, true⟩ inf s t a = convert ⟨rm, false⟩ inf s t a) ∧
    (∀ x : ℝ, numOf (fmtOf s) a = some x →
      (∀ t ∈ wideTypes, Delivers (fmtOf t) rm false x (cv t)) ∧
      (∀ t ∈ fp8Types, Delivers (fmtOf t) 0 true x (cv t)) ∧ Delivers (fmtOf .e5) 0 false x (convert ⟨rm, false⟩ true s .e5 a) ∧
      (x = 0 → ∀ t ∈ floatTypes, cv t = (signF (fmtOf t) (negPat (fmtOf s) a), 0)) ∧
      (∀ t : ElemType, Machine.ElemType.isInt t = true → cv t = (wrapTo t.width (intClamp t (roundInt rm x)),
        if intClamp t (roundInt rm x) ≠ roundInt rm x then NV else if roundInt rm x = x then 0 else NX))) ∧
    (nanPat (fmtOf s) a → (∀ t : ElemType, Machine.ElemType.isInt t = true → cv t = (0, NV)) ∧
      ∀ t ∈ floatTypes, (signallingPat (fmtOf s) a → cv t = (nanF (fmtOf t), NV)) ∧
        (¬ signallingPat (fmtOf s) a → cv t = (nanF (fmtOf t), 0))) ∧
    (infPat (fmtOf s) a → let n := negPat (fmtOf s) a
      (∀ t : ElemType, Machine.ElemType.isInt t = true → cv t = (wrapTo t.width (intClamp t (if n then -(2 ^ 64) else 2 ^ 64)), NV)) ∧
      (∀ t ∈ wideTypes, cv t = (infF (fmtOf t) n, 0)) ∧ (∀ t ∈ [ElemType.e5, .e4], cv t = (maxF (fmtOf t) n, OF ||| NX)) ∧
      convert ⟨rm, false⟩ true s .e5 a = (infF (fmtOf .e5) n, 0)) := by
  intro cv
  have e5 : ElemType.e5 ∈ fp8Types := by decide
  have wide (t) (ht : t ∈ wideTypes) : cv t = wideV ⟨rm, false⟩ t (readF (fmtOf s) a) := convert_float_wide hs rm false a ht false
  have fp8 (t) (ht : t ∈ fp8Types) : cv t = fp8V false t (readF (fmtOf s) a) := convert_float_fp8 hs rm false a ht false
  have keep : convert ⟨rm, false⟩ true s .e5 a = fp8V true .e5 (readF (fmtOf s) a) := convert_float_fp8 hs rm true a e5 false
  have int (t) (ht : Machine.ElemType.isInt t = true) : cv t = intV rm t (readF (fmtOf s) a) := convert_float_int hs rm false a ht false
  refine ⟨fun h inf => convert_flush hs rm inf a a (flushF_fp8 h true a), fun x hx => ⟨fun t ht => ?_, fun t ht => ?_, ?_, fun zero t ht => ?_,
    fun t ht => ?_⟩, fun n => ⟨fun t ht => ?_, fun t ht => ?_⟩, fun i => ⟨fun t ht => ?_, fun t ht => ?_, fun t ht => ?_, ?_⟩⟩
  · rw [wide t ht]; exact wideV_number hx ht rm
  · rw [fp8 t ht]; exact fp8V_number hx t false (.inr rfl)
  · rw [keep]; exact fp8V_number hx .e5 true (.inl rfl)
  · obtain ⟨w, p⟩ := floatV_zero hx zero rm false t
    rcases mem_floatTypes.mp ht with ht | ht
    · rw [wide t ht, w]
    · rw [fp8 t ht, p]
  · rw [int t ht]; exact intV_number hx ht rm
  · rw [int t ht]; exact (floatV_nan (fmtOf_ok s) n ⟨rm, false⟩ false t).2.2
  · obtain ⟨sig, quiet⟩ := sigNv_readF (fmtOf_ok s) a
    obtain ⟨w, p, -⟩ := floatV_nan (fmtOf_ok s) n ⟨rm, false⟩ false t
    have both : cv t = (nanF (fmtOf t), sigNv (readF (fmtOf s) a)) := by
      rcases mem_floatTypes.mp ht with ht | ht
      · rw [wide t ht, w]
      · rw [fp8 t ht, p]
    exact ⟨fun h => by rw [both, sig h], fun h => by rw [both, quiet h]⟩
  · rw [int t ht]; exact intV_inf i ht rm
  · rw [wide t ht, readF_inf i]; rfl
  · rw [fp8 t (by simpa [fp8Types, or_comm] using ht), readF_inf i]; rfl
  · rw [keep, readF_inf i]; rfl

/-- Packing an integer. -/
theorem packF_int {f : Fmt} (ok : f.Ok) (rm : Nat) (sat : Bool) (fit : f.inf = true ∨ sat = true) (z : ℤ) :
    Delivers f rm sat z (packF f ⟨rm, false⟩ sat (decide (z < 0)) z.natAbs 0) := by
  have val : signed (decide (z < 0)) (z.natAbs * 2 ^ (0 : ℤ)) = z := by rw [signed_natAbs, zpow_zero, mul_one]
  rw [← val]
  simpa only [val] using packF_exact ok rm (decide (z < 0)) fit z.natAbs 0

/-- R37, R38, R48: conversions of integers. -/
theorem intConversions (s : ElemType) (hs : Machine.ElemType.isInt s = true) (rm : Nat) (fz : Bool) (a : Nat) (lt : a < 2 ^ s.width) :
    let cv (t : ElemType) := convert ⟨rm, fz⟩ false s t a
    (∀ t ∈ wideTypes, Delivers (fmtOf t) rm false (intVal s a) (cv t)) ∧
    (∀ t ∈ [ElemType.e5, .e4], Delivers (fmtOf t) 0 true (intVal s a) (cv t)) ∧
    Delivers (fmtOf .e5) 0 false (intVal s a) (convert ⟨rm, fz⟩ true s .e5 a) ∧
    (intVal s a = 0 → ∀ t ∈ floatTypes, cv t = (0, 0)) ∧
    ∀ t : ElemType, Machine.ElemType.isInt t = true → cv t = (wrapTo t.width (if s.width < t.width then intVal s a else intClamp t (intVal s a)), 0) := by
  intro cv
  have wide (t) (ht : t ∈ wideTypes) : cv t = packF (fmtOf t) ⟨rm, false⟩ false (decide (intVal s a < 0)) (intVal s a).natAbs 0 := by
    rw [← readI_eq_intVal hs lt]; exact (convert_wide _ _ _ ht).trans (if_pos hs)
  have fp8 (t) (ht : t ∈ [ElemType.e5, .e4]) (inf : Bool) :
      convert ⟨rm, fz⟩ inf s t a = packF (fmtOf t) rne (!inf) (decide (intVal s a < 0)) (intVal s a).natAbs 0 := by
    rw [← readI_eq_intVal hs lt]; exact (convert_fp8 _ _ _ (by simpa [fp8Types, or_comm] using ht)).trans (if_pos hs)
  refine ⟨fun t ht => ?_, fun t ht => ?_, ?_, fun zero t ht => ?_, fun t ht => ?_⟩
  · rw [wide t ht]; exact packF_int (fmtOf_ok t) rm false (.inl (wide_inf ht)) _
  · rw [show cv t = _ from fp8 t ht false]; exact packF_int (fmtOf_ok t) 0 true (.inr rfl) _
  · rw [fp8 .e5 (by decide) true]; exact packF_int (fmtOf_ok .e5) 0 false (.inl rfl) _
  · rcases mem_floatTypes.mp ht with ht | ht
    · rw [wide t ht, zero]; rfl
    · rw [show cv t = _ from fp8 t (by simpa [fp8Types, or_comm] using ht) false, zero]; rfl
  · rw [← readI_eq_intVal hs lt, ← clampI_eq_intClamp ht]; exact (convert_int _ _ _ ht).trans (if_pos hs)

/-- Settles O15: packF delivers the number that its mantissa stands for, rounded once; each operation hands it an exact result, or a
quotient or a root with a sticky bit; NaNs, infinities and FZ are cases of each operation. -/
theorem floatingValues : Obligations.FloatingValues := by
  refine ⟨fun t ht rm _ a b c x y z => floatingNumbers t ht rm a b c x y z, fun t ht rm _ a b c => ?_, fun t ht rm _ a b c => ?_,
    fun s hs rm _ a => floatConversions s hs rm a, fun s hs rm _ fz a lt => intConversions s hs rm fz a lt⟩
  · obtain ⟨add, sub, mul, div, sqrt, rsq, rcp, abs, neg, fma⟩ := floatingSpecials t ht rm a b c
    obtain ⟨minmax, cond⟩ := orderedSpecials (fmtOf_ok t) a b
    exact ⟨add, sub, mul, div, sqrt, rsq, rcp, abs, neg, fma, infiniteOperand (fmtOf_ok t) rm a b, minmax, cond⟩
  · obtain ⟨two, one, fma, minmax, cond⟩ := floatingFlush t ht rm a b c
    exact ⟨two, one, fma, minmax, cond, fun inf => convert_flush (mem_floatTypes.mpr (.inl ht)) rm inf a _ (flushF_on ht a)⟩

end Sys2Proof.Machine
end

section
namespace Sys2Proof.Machine

/-! ### Results fit their format (R40) -/

/-- The bits of a result. -/
def FitsFormat (f : Fmt) (r : Nat × Nat) : Prop := r.1 < 2 ^ f.width

section
variable {f : Fmt} (ok : f.Ok)

theorem fitsFormat_flags (r : Nat × Nat) (fl : Nat) : FitsFormat f (r.1, fl) ↔ FitsFormat f r := Iff.rfl
theorem width_pow (f : Fmt) : 2 ^ f.width = 2 * 2 ^ (f.eb + f.mb) := by
  rw [Fmt.width, Nat.add_assoc, Nat.pow_add, pow_one]
theorem fitsFormat_signF_add (s : Bool) {b : Nat} (fl : Nat) (lt : b < 2 ^ (f.eb + f.mb)) : FitsFormat f (signF f s + b, fl) := by
  rw [FitsFormat, width_pow]
  cases s <;> simp only [signF, if_true, Bool.false_eq_true, if_false] <;> omega
theorem fitsFormat_signF (s : Bool) (fl : Nat) : FitsFormat f (signF f s, fl) := fitsFormat_signF_add s fl (Nat.two_pow_pos _)
theorem fitsFormat_infF (s : Bool) (fl : Nat) : FitsFormat f (infF f s, fl) := fitsFormat_signF_add s fl (infF_lt f)

include ok

theorem fitsFormat_maxF (s : Bool) (fl : Nat) : FitsFormat f (maxF f s, fl) := by
  rw [maxF_signed]; exact fitsFormat_signF_add s fl (by have := maxF_lt ok; omega)
theorem fitsFormat_nanF (inf : f.inf = true) (fl : Nat) : FitsFormat f (nanF f, fl) := by
  have half : 2 ^ (f.mb - 1) < 2 ^ f.mb := Nat.pow_lt_pow_right one_lt_two (by have := ok.mb; omega)
  have full : (2 ^ f.eb - 1) * 2 ^ f.mb + 2 ^ f.mb = 2 ^ (f.eb + f.mb) := by
    rw [Nat.pow_add, Nat.sub_mul, Nat.one_mul, Nat.sub_add_cancel (Nat.le_mul_of_pos_left _ (by positivity))]
  have := fitsFormat_signF_add false fl ((Nat.add_lt_add_left half _).trans_eq full)
  simpa [nanF, inf, signF] using this

theorem packF_fitsFormat (rm : Nat) (s : Bool) (m : Nat) (e : ℤ) : FitsFormat f (packF f ⟨rm, false⟩ false s m e) := by
  rcases eq_or_ne m 0 with rfl | nz
  · exact fitsFormat_signF s 0
  rw [packF_eq f rm false s nz, delivered]
  split
  · split
    · exact fitsFormat_infF s _
    · exact fitsFormat_maxF ok s _
  · exact fitsFormat_signF_add s _ (by have := maxF_lt ok; omega)

/-- Each case of a fused form delivers the default NaN, an infinity, a zero, or a packed number. -/
theorem fmaF_fitsFormat (inf : f.inf = true) (rm : Nat) (ng nc : Bool) (a b c : Nat) : FitsFormat f (fmaF f ⟨rm, false⟩ ng nc a b c) := by
  simp only [fmaF, flushF_off]
  generalize readF f a = x, readF f b = y, readF f c = z
  have nan := fitsFormat_nanF ok inf
  rcases x with g | s | ⟨s, _ | m, e⟩ <;> rcases y with h | t | ⟨t, _ | n, k⟩ <;> rcases z with i | u | ⟨u, o, l⟩ <;>
    simp only [nan, fitsFormat_infF, fitsFormat_signF, packF_fitsFormat ok, fitsFormat_flags, apply_ite (FitsFormat f), ite_self]

omit ok in
theorem chooseV_fitsFormat {mx : Bool} {a b : Nat} (nan : nanF f < 2 ^ f.width) (ha : a < 2 ^ f.width) (hb : b < 2 ^ f.width) :
    FitsFormat f (chooseV f mx a b) := by
  unfold chooseV
  cases isNan (readF f a) <;> cases isNan (readF f b)
  · simp only [FitsFormat, apply_ite (· < 2 ^ f.width), ha, hb, ite_self]
  · exact ha
  · exact hb
  · exact nan

end

/-! ### Atomics (R59, R176, R177) -/

/-- A floating atomic on one number of a format. -/
def barnOp (o : FOp) (f : Fmt) (a b : Nat) : Nat :=
  match o with
  | .fadd => (addF f rne a b).1
  | .fmin => (minmaxF f false false a b).1
  | .fmax => (minmaxF f false true a b).1

theorem barnOp_lt {f : Fmt} (ok : f.Ok) (inf : f.inf = true) (o : FOp) {a b : Nat} (ha : a < 2 ^ f.width) (hb : b < 2 ^ f.width) :
    barnOp o f a b < 2 ^ f.width := by
  cases o with
  | fadd => exact fmaF_fitsFormat ok inf 0 false false a (oneF f) b
  | fmin => rw [barnOp, minmaxF_off]; exact chooseV_fitsFormat (fitsFormat_nanF ok inf 0) ha hb
  | fmax => rw [barnOp, minmaxF_off]; exact chooseV_fitsFormat (fitsFormat_nanF ok inf 0) ha hb

/-- The floating sizes of an atomic, with the type of a part and the number of parts (R44). -/
def barnParts : List (FSize × ElemType × Nat) := [(.bf, .bf, 1), (.f, .f, 1), (.d, .d, 1), (.bf2, .bf, 2), (.f2, .f, 2)]

/-- Part j of a value, of w bits each. -/
def partOf (w j v : Nat) : Nat := v / 2 ^ (w * j) % 2 ^ w

theorem partOf_lt (w j v : Nat) : partOf w j v < 2 ^ w := Nat.mod_lt _ (Nat.two_pow_pos w)
theorem partOf_zero (w v : Nat) : partOf w 0 v = v % 2 ^ w := by rw [partOf, Nat.mul_zero, pow_zero, Nat.div_one]
theorem partOf_pair {w lo hi : Nat} (hlo : lo < 2 ^ w) (hhi : hi < 2 ^ w) : partOf w 0 (lo + 2 ^ w * hi) = lo ∧ partOf w 1 (lo + 2 ^ w * hi) = hi := by
  rw [partOf_zero, Nat.add_mul_mod_self_left, Nat.mod_eq_of_lt hlo, partOf, Nat.mul_one, Nat.add_mul_div_left _ _ (Nat.two_pow_pos w),
    Nat.div_eq_of_lt hlo, Nat.zero_add, Nat.mod_eq_of_lt hhi]
  exact ⟨rfl, rfl⟩

/-- A pair is operated on part by part. -/
theorem pair_value {f : Fmt} (ok : f.Ok) (inf : f.inf = true) (o : FOp) {old : Nat} (lt : old < 2 ^ (2 * f.width)) (x j : Nat) (hj : j < 2) :
    partOf f.width j (barnOp o f (old % 2 ^ f.width) (x % 2 ^ (2 * f.width) % 2 ^ f.width) +
      2 ^ f.width * barnOp o f (old / 2 ^ f.width) (x % 2 ^ (2 * f.width) / 2 ^ f.width)) =
    barnOp o f (partOf f.width j old) (partOf f.width j x) := by
  have two : 2 ^ (2 * f.width) = 2 ^ f.width * 2 ^ f.width := by rw [two_mul, Nat.pow_add]
  have pos := Nat.two_pow_pos f.width
  have lowX : x % 2 ^ (2 * f.width) % 2 ^ f.width = partOf f.width 0 x := by rw [partOf_zero, two, Nat.mod_mul_left_mod]
  have highX : x % 2 ^ (2 * f.width) / 2 ^ f.width = partOf f.width 1 x := by rw [partOf, Nat.mul_one, two, Nat.mod_mul_right_div_self]
  have lowOld : old % 2 ^ f.width = partOf f.width 0 old := (partOf_zero _ _).symm
  have highOld : old / 2 ^ f.width = partOf f.width 1 old := by
    rw [partOf, Nat.mul_one, Nat.mod_eq_of_lt (Nat.div_lt_of_lt_mul (two ▸ lt))]
  rw [lowX, highX, lowOld, highOld]
  obtain ⟨lo, hi⟩ := partOf_pair (barnOp_lt ok inf o (partOf_lt f.width 0 old) (partOf_lt f.width 0 x))
    (barnOp_lt ok inf o (partOf_lt f.width 1 old) (partOf_lt f.width 1 x))
  rcases j with _ | _ | j
  · exact lo
  · exact hi
  · omega

/-- A single number is operated on as it is. -/
theorem single_value {f : Fmt} (ok : f.Ok) (inf : f.inf = true) (o : FOp) {old : Nat} (lt : old < 2 ^ f.width) (x j : Nat) (hj : j < 1) :
    partOf f.width j (barnOp o f old (x % 2 ^ f.width)) = barnOp o f (partOf f.width j old) (partOf f.width j x) := by
  obtain rfl : j = 0 := by omega
  rw [partOf_zero, partOf_zero, partOf_zero, Nat.mod_eq_of_lt lt, Nat.mod_eq_of_lt (barnOp_lt ok inf o lt (Nat.mod_lt _ (Nat.two_pow_pos _)))]

/-- Each part of what a floating atomic leaves is the operation on the parts. -/
theorem atomVal_part (p : FSize × ElemType × Nat) (hp : p ∈ barnParts) (o : FOp) (old x e j : Nat) (lt : old < 2 ^ (8 * fsBytes p.1)) (hj : j < p.2.2) :
    partOf p.2.1.width j (atomVal (.flt o p.1) (fsBytes p.1) old x e) =
      barnOp o (fmtOf p.2.1) (partOf p.2.1.width j old) (partOf p.2.1.width j x) := by
  have ok := fmtOf_ok p.2.1
  simp only [barnParts, List.mem_cons, List.not_mem_nil, or_false] at hp
  rcases hp with rfl | rfl | rfl | rfl | rfl
  · refine Eq.trans ?_ (single_value ok rfl o lt x j hj)
    cases o <;> rfl
  · refine Eq.trans ?_ (single_value ok rfl o lt x j hj)
    cases o <;> rfl
  · refine Eq.trans ?_ (single_value ok rfl o lt x j hj)
    cases o <;> rfl
  · refine Eq.trans ?_ (pair_value ok rfl o lt x j hj)
    cases o <;> rfl
  · refine Eq.trans ?_ (pair_value ok rfl o lt x j hj)
    cases o <;> rfl

theorem NanRule.default {f : Fmt} {sig nan invalid : Prop} {r : Nat × Nat} (h : NanRule f sig nan invalid r) (n : nan) : r.1 = nanF f := by
  obtain ⟨bad, quiet, -⟩ := h
  by_cases b : sig ∨ invalid
  · rw [bad b]
  · rw [quiet n (not_or.mp b).1 (not_or.mp b).2]

/-- What a floating atomic computes on a part. -/
theorem barnOp_values {f : Fmt} (ok : f.Ok) (inf : f.inf = true) (a b : Nat) :
    (∀ x y : ℝ, numOf f a = some x → numOf f b = some y → (∃ fl, Delivers f 0 false (x + y) (barnOp .fadd f a b, fl)) ∧
      numOf f (barnOp .fmin f a b) = some (Min.min x y) ∧ numOf f (barnOp .fmax f a b) = some (Max.max x y)) ∧
    (nanPat f a ∨ nanPat f b → barnOp .fadd f a b = nanF f) ∧
    (nanPat f a → ¬ nanPat f b → barnOp .fmin f a b = b ∧ barnOp .fmax f a b = b) ∧
    (nanPat f b → ¬ nanPat f a → barnOp .fmin f a b = a ∧ barnOp .fmax f a b = a) := by
  refine ⟨fun x y hx hy => ⟨⟨_, (addF_number ok inf 0 hx hy).1⟩, minmaxF_numOf hx hy⟩, (addF_nanRule ok inf 0 a b).default,
    fun n m => ⟨(minmaxF_one_nan ok false a b n m).1, (minmaxF_one_nan ok true a b n m).1⟩,
    fun n m => ⟨(minmaxF_one_nan ok false b a n m).2, (minmaxF_one_nan ok true b a n m).2⟩⟩

/-- An integer atomic on w bits. -/
theorem aopVal_values (w old y : Nat) :
    sgn w (aopVal .min w old y) = Min.min (sgn w old) (sgn w y) ∧ sgn w (aopVal .max w old y) = Max.max (sgn w old) (sgn w y) := by
  simp only [aopVal, toS_eq_sgn, apply_ite (sgn w), min_def, max_comm (sgn w old), max_def, and_self]

theorem barnParts_inf {p : FSize × ElemType × Nat} (hp : p ∈ barnParts) : (fmtOf p.2.1).inf = true := by
  revert p; decide

/-- Settles O29: a floating atomic works on each part of its width by the arithmetic of FloatingValues, and a part's result fits the part;
an integer one is its definition on w bits. -/
theorem atomicValues : Obligations.AtomicValues := by
  constructor
  · intro p hp old x e j f n part value lt hj
    have is (o : FOp) : value o = barnOp o f (part old) (part x) := atomVal_part p hp o old x e j lt hj
    rw [is, is, is]
    exact barnOp_values (fmtOf_ok p.2.1) (barnParts_inf hp) (part old) (part x)
  · intro n _ old _ x e w y
    obtain ⟨min, max⟩ := aopVal_values w old y
    exact ⟨Nat.add_mod_mod old x (2 ^ w), rfl, rfl, rfl, rfl, min, max, rfl, rfl, rfl⟩

end Sys2Proof.Machine
end

section
namespace Sys2Proof.Machine

/-! ## Loads from own croft memory (R147, R149, R151) -/

/-! ### The parts of such a load -/

section
variable {s : State} {n off pos v b : Nat} (na : Bool)

theorem loadParts_reads (r : OwnReads s n off v) : loadParts s na (.own off) n pos = [.now pos n v] := by
  rcases r with ⟨none_, clean, rfl⟩ | ⟨-, covers⟩
  · simp only [loadParts, none_, clean]
  · simp only [loadParts, covers]
theorem loadParts_blocked (r : OwnBlocked s n off) : loadParts s na (.own off) n pos = [.blocked] := by
  rw [OwnBlocked] at r
  simp only [loadParts, r]
theorem loadParts_poison (r : OwnPoison s n off b) : loadParts s na (.own off) n pos = [.poison (ownBase + b)] := by
  obtain ⟨none_, bad⟩ := r
  simp only [loadParts, none_, bad]

theorem loadBytes_lt (m : Sparse Byte) (a n : Nat) : loadBytes m a n < 2 ^ (8 * n) := by
  induction n generalizing a with
  | zero => exact Nat.one_pos
  | succ n ih =>
    have byte : (sread 0 m a).toNat < 2 ^ 8 := (sread 0 m a).isLt
    have rest := ih (a + 1)
    rw [loadBytes, Nat.mul_succ, Nat.pow_add]
    omega
theorem ownReads_lt (r : OwnReads s n off v) : v < 2 ^ (8 * n) := by
  rcases r with ⟨-, -, rfl⟩ | ⟨lt, -⟩
  · exact loadBytes_lt _ off n
  · exact lt

/-- Own bytes have one reading. -/
theorem ownReads_unique {w : Nat} (r : OwnReads s n off v) (r' : OwnReads s n off w) : v = w := by
  rcases r with ⟨none_, -, rfl⟩ | ⟨-, covers⟩ <;> rcases r' with ⟨none_', -, rfl⟩ | ⟨-, covers'⟩
  · rfl
  · rw [none_] at covers'; cases covers'
  · rw [none_'] at covers; cases covers
  · rw [covers] at covers'; cases covers'; rfl
theorem not_ownReads_of_poison (p : OwnPoison s n off b) : ¬ OwnReads s n off v := by
  obtain ⟨none_, bad⟩ := p
  rintro (⟨-, clean, -⟩ | ⟨-, covers⟩)
  · rw [clean] at bad; cases bad
  · rw [none_] at covers; cases covers

end

/-- The address of a poisoned part; what a part that is here adds to the result; an element of device memory. -/
def poisonOf : Part → Option Nat
  | .poison a => some a
  | _ => none
def addNow (b : Nat) : Part → Nat
  | .now pos n v => b ||| (v % 2 ^ (8 * n) * 2 ^ (8 * pos))
  | _ => b
def elVirtual (e : Place × Nat × Nat) : Bool := match e.1 with | .virt _ => true | _ => false

/-- A load by its parts. -/
theorem doLoad_eq (na : Bool) (fin : Done) (els : List (Place × Nat × Nat)) (s : State) : doLoad na fin els s =
    let parts := els.flatMap fun e => loadParts s na e.1 e.2.1 e.2.2
    if parts.contains .blocked then waitTurn s
    else match parts.findSome? poisonOf with
      | some a => raiseOp cUE 0 a s
      | none =>
        let buf := parts.foldl addNow 0
        let pend := parts.filter partPending
        let u := if els.any elVirtual then drawStale s (mySetId s) else s
        if pend.isEmpty then retire (updRegs u (applyDone fin buf))
        else awaitMe { Await.plain pend.length buf fin .keep with fills := pend.filterMap partFill } (pend.foldl sendPart u) := rfl

/-- What the elements els gather: element j's value v j, of n bytes, at byte pos j. -/
def gathered (n : Nat) (pos v : Nat → Nat) (els : List Nat) : Nat :=
  els.foldl (fun b j => b ||| (v j % 2 ^ (8 * n) * 2 ^ (8 * pos j))) 0

section
variable {s : State} {n : Nat} {els : List Nat} {off : Nat → Nat} (na : Bool) (fin : Done) (pos : Nat → Nat)

/-- The elements of own croft memory, each with its bytes in the result, and their parts. -/
abbrev ownEls (n : Nat) (off pos : Nat → Nat) (els : List Nat) : List (Place × Nat × Nat) := els.map fun j => (.own (off j), n, pos j)
theorem ownEls_parts (s : State) (n : Nat) (off pos : Nat → Nat) (els : List Nat) :
    (ownEls n off pos els).flatMap (fun e => loadParts s na e.1 e.2.1 e.2.2) = els.flatMap fun j => loadParts s na (.own (off j)) n (pos j) := by
  rw [ownEls, List.flatMap_map]

theorem reads_parts {v : Nat → Nat} (r : ∀ j ∈ els, OwnReads s n (off j) (v j)) :
    (els.flatMap fun j => loadParts s na (.own (off j)) n (pos j)) = els.map fun j => .now (pos j) n (v j) := by
  rw [List.map_eq_flatMap]
  exact List.flatMap_congr fun j m => loadParts_reads na (r j m)
/-- Parts that are here neither wait nor fault. -/
theorem now_parts (n : Nat) (pos v : Nat → Nat) (els : List Nat) :
    Part.blocked ∉ (els.map fun j => Part.now (pos j) n (v j)) ∧ (els.map fun j => Part.now (pos j) n (v j)).findSome? poisonOf = none ∧
    (els.map fun j => Part.now (pos j) n (v j)).filter partPending = [] := by
  refine ⟨by simp, by simp [List.findSome?_eq_none_iff, poisonOf], by simp [List.filter_eq_nil_iff, partPending]⟩

theorem doLoad_reads {v : Nat → Nat} (r : ∀ j ∈ els, OwnReads s n (off j) (v j)) :
    doLoad na fin (ownEls n off pos els) s = retire (updRegs s (applyDone fin (gathered n pos v els))) := by
  obtain ⟨going, clean, now⟩ := now_parts n pos v els
  have real : (ownEls n off pos els).any elVirtual = false := by simp [ownEls, elVirtual]
  rw [doLoad_eq, ownEls_parts, reads_parts na pos r]
  simp only [List.contains_eq_mem, going, clean, now, real, List.foldl_map, decide_false, Bool.false_eq_true, if_false, List.isEmpty_nil, if_true]
  rfl

theorem doLoad_blocked (r : ∃ j ∈ els, OwnBlocked s n (off j)) : doLoad na fin (ownEls n off pos els) s = waitTurn s := by
  obtain ⟨j, m, blocked⟩ := r
  rw [doLoad_eq, ownEls_parts]
  exact if_pos (List.contains_iff_mem.mpr (List.mem_flatMap.mpr ⟨j, m, by rw [loadParts_blocked na blocked]; exact List.mem_singleton_self _⟩))

theorem doLoad_poison {pre post : List Nat} {j b : Nat} (e : els = pre ++ j :: post) (r : ∀ k ∈ pre ++ post, ∃ v, OwnReads s n (off k) v)
    (p : OwnPoison s n (off j) b) : doLoad na fin (ownEls n off pos els) s = raiseOp cUE 0 (ownBase + b) s := by
  choose! v reads using r
  have before := reads_parts na pos fun k m => reads k (List.mem_append_left _ m)
  have after := reads_parts na pos fun k m => reads k (List.mem_append_right _ m)
  obtain ⟨going, clean, -⟩ := now_parts n pos v pre
  obtain ⟨going', -, -⟩ := now_parts n pos v post
  have parts : (els.flatMap fun j => loadParts s na (.own (off j)) n (pos j)) =
      (pre.map fun j => .now (pos j) n (v j)) ++ .poison (ownBase + b) :: post.map fun j => .now (pos j) n (v j) := by
    rw [e, List.flatMap_append, List.flatMap_cons, before, after, loadParts_poison na p]; rfl
  have going : Part.blocked ∉ (pre.map fun j => Part.now (pos j) n (v j)) ++ .poison (ownBase + b) :: post.map fun j => Part.now (pos j) n (v j) := by
    simp [going, going']
  have first : ((pre.map fun j => Part.now (pos j) n (v j)) ++ .poison (ownBase + b) :: post.map fun j => Part.now (pos j) n (v j)).findSome? poisonOf =
      some (ownBase + b) := by
    rw [List.findSome?_append, clean]; rfl
  rw [doLoad_eq, ownEls_parts, parts]
  simp only [List.contains_eq_mem, going, first, decide_false, Bool.false_eq_true, if_false]

end

/-! ### The checks of a load of own croft memory (R148) -/

theorem checkEl_own {s : State} {nd : Need} {sp : Space} {a n off : Nat} (at_ : placeOf sp a = some (.own off)) (fits : off + n ≤ 0x10000) :
    checkEl s nd sp a n = .ok (.own off) := by
  simp [checkEl, at_, placeOk, fits]
theorem checkEls_own {s : State} {nd : Need} {sp : Space} {n : Nat} {els : List Nat} {addr off : Nat → Nat}
    (ok : ∀ j ∈ els, placeOf sp (addr j) = some (.own (off j)) ∧ off j + n ≤ 0x10000) :
    checkEls s nd sp (els.map fun j => (addr j, n)) = .ok (els.map fun j => .own (off j)) := by
  induction els with
  | nil => rfl
  | cons j els ih =>
    obtain ⟨at_, fits⟩ := ok j List.mem_cons_self
    have rest := ih fun k m => ok k (List.mem_cons_of_mem _ m)
    simp only [List.map_cons, checkEls, checkEl_own at_ fits, rest]

/-- A form that gathers its own elements into fin is a load of them. -/
theorem ownLoad_of_doLoad {s : State} {i : Instr} {na : Bool} {fin : Done} {n : Nat} {els : List Nat} {off pos : Nat → Nat}
    {done : (Nat → Nat) → State → Prop} (form : exec i s = .next (doLoad na fin (ownEls n off pos els) s))
    (finishes : ∀ v, (∀ j ∈ els, OwnReads s n (off j) (v j)) → done v (retire (updRegs s (applyDone fin (gathered n pos v els))))) :
    OwnLoad s i n els off done := by
  refine ⟨fun v r => ⟨_, form.trans (congrArg _ (doLoad_reads na fin pos r)), finishes v r⟩, fun _ blocked => ?_, fun pre j post b e r p => ?_⟩
  · rw [form, doLoad_blocked na fin pos blocked]
  · rw [form, doLoad_poison na fin pos e r p]; rfl

/-! ### The scalar forms (R156, R157) -/

theorem gathered_one {n : Nat} {v : Nat → Nat} {s : State} {off j : Nat} (r : OwnReads s n off (v j)) : gathered n (fun _ => 0) v [j] = v j := by
  rw [gathered, List.foldl_cons, List.foldl_nil, Nat.zero_or, Nat.mul_zero, pow_zero, Nat.mul_one, Nat.mod_eq_of_lt (ownReads_lt r)]

/-- A scalar form whose check passes loads its bytes. -/
theorem scalar_doLoad {s : State} {i : Instr} {nd : Need} {sp : Space} {a n off : Nat} {na : Bool} {fin : Done}
    (acts : exec i s = .next (withPlaces nd sp [(a, n)] (fun ps s => doLoad na fin (ps.map fun p => (p, n, 0)) s) s))
    (at_ : placeOf sp a = some (.own off)) (fits : off + n ≤ 0x10000) :
    exec i s = .next (doLoad na fin (ownEls n (fun _ => off) (fun _ => 0) [0]) s) := by
  have checks : checkEls s nd sp [(a, n)] = .ok [.own off] :=
    checkEls_own (els := [0]) (addr := fun _ => a) (off := fun _ => off) fun _ _ => ⟨at_, fits⟩
  rw [acts, withPlaces_ok _ checks]
  rfl

theorem putGn_val (r : Regs) (d : GReg) (x : Nat) : putGn r d.val x = putG r d (BitVec.ofNat 64 x) := by
  rw [putGn, dif_pos d.isLt]
/-- The second register of a pair. -/
theorem putGn_succ (r : Regs) {d : GReg} (pair : even d = true) (x : Nat) : putGn r (d.val + 1) x = putG r (d + 1) (BitVec.ofNat 64 x) := by
  have next : (d + 1).val = d.val + 1 := by
    have lt : d.val % 2 = 0 := by simpa [even] using pair
    rw [Fin.val_add_one_of_lt']
    omega
  rw [← next, putGn_val]

/-- What LD makes of its bytes (R156). -/
theorem applyDone_ld {size : Fin 7} {d : GReg} {n x : Nat} (lt : x < 2 ^ (8 * n)) (r : Regs) :
    applyDone (.g d.val n (4 ≤ size.val)) x r =
      putG r d (if size.val < 4 then BitVec.ofNat 64 x else BitVec.ofInt 64 (sgn (8 * n) x)) := by
  rw [applyDone, putGn_val, Nat.mod_eq_of_lt lt, sgn, toInt_ofNat_eq_toS]
  by_cases unsigned : size.val < 4
  · simp [unsigned, Nat.not_le.mpr unsigned]
  · rw [if_pos (decide_eq_true (Nat.not_lt.mp unsigned)), if_neg unsigned, BitVec.ofNat_toNat, BitVec.setWidth_eq]

theorem ld_own {h : Hdr} {o : LdO} {s : State} {off : Nat} (c : Issues h (.g o.d :: addrRn o.a) s)
    (at_ : placeOf o.a.space (ea s o.a).toNat = some (.own off)) (fits : off + ldBytes o.size.val ≤ 0x10000) :
    OwnLoad s (.ld h o) (ldBytes o.size.val) [0] (fun _ => off) fun v t => Retired s t (putG (me s).regs o.d
      (if o.size.val < 4 then BitVec.ofNat 64 (v 0) else BitVec.ofInt 64 (sgn (8 * ldBytes o.size.val) (v 0)))) := by
  have form := scalar_doLoad ((exec_ld h o s).trans (scalar_act s _ c)) at_ fits
  refine ownLoad_of_doLoad form fun v r => ?_
  have read := r 0 (List.mem_singleton_self 0)
  rw [gathered_one read, ← applyDone_ld (ownReads_lt read)]
  exact retired_updRegs s _

theorem ldq_own {h : Hdr} {o : LdqO} {s : State} {off : Nat} (pair : even o.d = true) (c : Issues h ([.g o.d, .g (o.d + 1)] ++ addrRn o.a) s)
    (at_ : placeOf o.a.space (ea s o.a).toNat = some (.own off)) (fits : off + 16 ≤ 0x10000) :
    OwnLoad s (.ldq h o) 16 [0] (fun _ => off) fun v t => Retired s t (putG (putG (me s).regs o.d
      (BitVec.ofNat 64 (v 0))) (o.d + 1) (BitVec.ofNat 64 (v 0 / 2 ^ 64))) := by
  have form := scalar_doLoad ((exec_ldq h o s).trans (scalar_act s _ c)) at_ fits
  refine ownLoad_of_doLoad form fun v r => ?_
  have read := r 0 (List.mem_singleton_self 0)
  have halves (r : Regs) (x : Nat) : applyDone (.pair o.d.val) x r =
      putG (putG r o.d (BitVec.ofNat 64 x)) (o.d + 1) (BitVec.ofNat 64 (x / 2 ^ 64)) := by
    have low (y : Nat) : BitVec.ofNat 64 (y % 2 ^ 64) = BitVec.ofNat 64 y := BitVec.eq_of_toNat_eq (by simp)
    rw [applyDone, putGn_succ _ pair, putGn_val, low, low]
  rw [gathered_one read, ← halves]
  exact retired_updRegs s _

/-! ### The vector forms (R158 to R161) -/

/-- Values in lanes of w bits, value v i in lane i. -/
def lanes (w : Nat) (v : Nat → Nat) (is : List Nat) : Nat := is.foldl (fun m i => m ||| (v i % 2 ^ w * 2 ^ (w * i))) 0

theorem testBit_lane {w b : Nat} (hb : b < w) (x i j : Nat) : (x % 2 ^ w * 2 ^ (w * j)).testBit (w * i + b) = (decide (j = i) && x.testBit b) := by
  rw [Nat.testBit_mul_two_pow, Nat.testBit_mod_two_pow]
  rcases lt_trichotomy j i with lt | rfl | gt
  · have : w * (j + 1) ≤ w * i := Nat.mul_le_mul_left w lt
    have past : ¬ w * i + b - w * j < w := by rw [Nat.mul_succ] at this; omega
    simp [lt.ne, past]
  · simp [hb]
  · have : w * (i + 1) ≤ w * j := Nat.mul_le_mul_left w gt
    have before : ¬ w * j ≤ w * i + b := by rw [Nat.mul_succ] at this; omega
    simp [gt.ne', before]
theorem testBit_lanes {w b : Nat} (hb : b < w) (v : Nat → Nat) (is : List Nat) (i : Nat) :
    (lanes w v is).testBit (w * i + b) = true ↔ i ∈ is ∧ (v i).testBit b = true := by
  rw [lanes, testBit_foldl_or]
  simp only [Nat.zero_testBit, Bool.false_eq_true, false_or, testBit_lane hb, Bool.and_eq_true, decide_eq_true_eq]
  exact ⟨by rintro ⟨j, m, rfl, bit⟩; exact ⟨m, bit⟩, fun ⟨m, bit⟩ => ⟨i, m, rfl, bit⟩⟩

theorem elMask_eq (w : Nat) (is : List Nat) : elMask w is = BitVec.ofNat 1024 (lanes w (fun _ => 2 ^ w - 1) is) := by
  have full : (2 ^ w - 1) % 2 ^ w = 2 ^ w - 1 := Nat.mod_eq_of_lt (Nat.sub_lt (Nat.two_pow_pos w) Nat.one_pos)
  rw [elMask, lanes]
  simp only [full]

/-- An element by its bits. -/
theorem elem_of_bits {w : Nat} {x : VWord} {i y : Nat} (bits : ∀ b < w, x.getLsbD (w * i + b) = y.testBit b) : elem w x i = y % 2 ^ w := by
  refine Nat.eq_of_testBit_eq fun b => ?_
  rw [elem, Nat.testBit_mod_two_pow, Nat.testBit_mod_two_pow, Nat.testBit_div_two_pow, Nat.add_comm]
  by_cases hb : b < w
  · rw [← bits b hb]; rfl
  · simp [hb]
theorem getLsbD_eq_elem {w b : Nat} (hb : b < w) (x : VWord) (i : Nat) : x.getLsbD (w * i + b) = (elem w x i).testBit b := by
  rw [elem, Nat.testBit_mod_two_pow, Nat.testBit_div_two_pow, Nat.add_comm]
  simp only [hb, decide_true, Bool.true_and]
  rfl

section
variable {w i : Nat} (is : List Nat) (inside : w * i + w ≤ 1024)
include inside

theorem elem_lanes {v : Nat → Nat} (mem : i ∈ is) : elem w (BitVec.ofNat 1024 (lanes w v is)) i = v i % 2 ^ w := by
  refine elem_of_bits fun b hb => ?_
  rw [BitVec.getLsbD_ofNat, Bool.eq_iff_iff, Bool.and_eq_true, testBit_lanes hb]
  have : w * i + b < 1024 := by omega
  simp [this, mem]

/-- A masked write changes the elements of the mask alone. -/
theorem elem_masked (old x : VWord) : elem w ((old &&& ~~~ elMask w is) ||| (x &&& elMask w is)) i = if i ∈ is then elem w x i else elem w old i := by
  have bit (b : Nat) (hb : b < w) : (elMask w is).getLsbD (w * i + b) = decide (i ∈ is) := by
    have lt : w * i + b < 1024 := by omega
    have ones : (2 ^ w - 1).testBit b = true := by rw [Nat.testBit_two_pow_sub_one]; exact decide_eq_true hb
    rw [elMask_eq, BitVec.getLsbD_ofNat, Bool.eq_iff_iff, Bool.and_eq_true, testBit_lanes hb]
    simp [lt, ones]
  have whole (y : VWord) : elem w y i % 2 ^ w = elem w y i := Nat.mod_mod _ _
  by_cases m : i ∈ is
  · rw [if_pos m, ← whole x]
    refine elem_of_bits fun b hb => ?_
    have lt : w * i + b < 1024 := by omega
    rw [BitVec.getLsbD_or, BitVec.getLsbD_and, BitVec.getLsbD_and, BitVec.getLsbD_not, bit b hb, ← getLsbD_eq_elem hb]
    simp [m, lt]
  · rw [if_neg m, ← whole old]
    refine elem_of_bits fun b hb => ?_
    have lt : w * i + b < 1024 := by omega
    rw [BitVec.getLsbD_or, BitVec.getLsbD_and, BitVec.getLsbD_and, BitVec.getLsbD_not, bit b hb, ← getLsbD_eq_elem hb]
    simp [m, lt]

end

/-- The bytes of a lane. -/
theorem gathered_lanes {w : Nat} (bytes : 8 ∣ w) (v : Nat → Nat) (els : List Nat) :
    gathered (w / 8) (fun i => i * (w / 8)) v els = lanes w v els := by
  obtain ⟨k, rfl⟩ := bytes
  have lane (i : Nat) : 8 * (i * k) = 8 * k * i := by ring
  simp only [gathered, lanes, Nat.mul_div_cancel_left k (by decide : 0 < 8), lane]

theorem putVn_val (r : Regs) (d : VReg) (x : Nat) (mask : VWord) :
    putVn r d.val x mask = putV r d ((getV r d &&& ~~~mask) ||| (BitVec.ofNat 1024 x &&& mask)) := by
  rw [putVn, dif_pos d.isLt]

theorem mem_activeEls {h : Hdr} {w : Nat} {s : State} {i : Nat} : i ∈ activeEls h w s ↔ i < 1024 / w ∧ active (guardBits h s) w i = true := by
  rw [activeEls, List.mem_filter, List.mem_range]
theorem lane_inside {w i : Nat} (lt : i < 1024 / w) : w * i + w ≤ 1024 := by
  rw [← Nat.mul_succ]
  exact (Nat.mul_le_mul_left w lt).trans (Nat.mul_div_le 1024 w)

/-- A register whose active elements took those of x. -/
theorem eachElem_masked {h : Hdr} {w : Nat} {s : State} {old x : VWord} {v : Nat → Nat}
    (value : ∀ i ∈ activeEls h w s, elem w x i = v i % 2 ^ w) :
    EachElem w (guardBits h s) old ((old &&& ~~~ elMask w (activeEls h w s)) ||| (x &&& elMask w (activeEls h w s))) v := by
  intro i lt
  rw [elem_masked _ (lane_inside lt)]
  by_cases on : active (guardBits h s) w i = true
  · have m := mem_activeEls.mpr ⟨lt, on⟩
    rw [if_pos m, if_pos on, value i m]
  · rw [if_neg fun m => on (mem_activeEls.mp m).2, if_neg on]

/-- What a vector form leaves: a register whose active elements are those of its bytes. -/
abbrev VecLoaded (h : Hdr) (w : Nat) (s : State) (d : VReg) (v : Nat → Nat) (t : State) : Prop :=
  ∃ x, Retired s t (putV (me s).regs d x) ∧ EachElem w (guardBits h s) (getV (me s).regs d) x v

theorem vecLoaded_of_value {h : Hdr} {w : Nat} {s : State} {d : VReg} {v : Nat → Nat} {fin : Done} {buf : Nat} {x : VWord}
    (writes : ∀ r, applyDone fin buf r = putV r d ((getV r d &&& ~~~ elMask w (activeEls h w s)) ||| (x &&& elMask w (activeEls h w s))))
    (value : ∀ i ∈ activeEls h w s, elem w x i = v i % 2 ^ w) :
    VecLoaded h w s d v (retire (updRegs s (applyDone fin buf))) := by
  refine ⟨_, ?_, eachElem_masked value⟩
  rw [← writes]
  exact retired_updRegs s _

/-- An element repeated over a register. -/
theorem applyDone_repeat {w : Nat} (pos : 0 < w) (d : VReg) (mask : VWord) {x : Nat} (lt : x < 2 ^ w) (r : Regs) :
    applyDone (.v d.val mask w) x r =
      putV r d ((getV r d &&& ~~~mask) ||| (BitVec.ofNat 1024 (joinElems w (List.replicate (1024 / w) x)) &&& mask)) := by
  rw [applyDone, putVn_val, Nat.mod_eq_of_lt lt]
  exact pos.ne'

section
variable {h : Hdr} {w : Nat} {s : State} {i : Instr} {na : Bool} {sp : Space} {d : VReg} {addr off : Nat → Nat}
variable (ok : ∀ j ∈ activeEls h w s, placeOf sp (addr j) = some (.own (off j)) ∧ off j + w / 8 ≤ 0x10000)
include ok

/-- A vector form whose checks pass: it loads every element, or the first of a stride of 0. -/
theorem vecLoad_doLoad (rep : Bool) :
    vecLoad na sp w d.val rep ((activeEls h w s).map fun j => (j, addr j)) s =
      if rep then doLoad na (.v d.val (elMask w (activeEls h w s)) w) (ownEls (w / 8) off (fun _ => 0) ((activeEls h w s).take 1)) s
      else doLoad na (.v d.val (elMask w (activeEls h w s)) 0) (ownEls (w / 8) off (fun j => j * (w / 8)) (activeEls h w s)) s := by
  have ids : ((activeEls h w s).map fun j => (j, addr j)).map Prod.fst = activeEls h w s := by
    rw [List.map_map]; exact List.map_id _
  rw [vecLoad, List.map_map]
  refine (withPlaces_ok _ (checkEls_own ok)).trans ?_
  dsimp only
  rw [ids, List.zip_map', List.map_map, ← List.map_take, List.map_map]
  rfl

/-- A vector form that gathers its elements from their own addresses. -/
theorem vecLoad_own (bytes : 8 ∣ w)
    (form : exec i s = .next (vecLoad na sp w d.val false ((activeEls h w s).map fun j => (j, addr j)) s)) :
    OwnLoad s i (w / 8) (activeEls h w s) off (VecLoaded h w s d) := by
  rw [vecLoad_doLoad ok, if_neg Bool.false_ne_true] at form
  refine ownLoad_of_doLoad form fun v r =>
    vecLoaded_of_value (x := BitVec.ofNat 1024 (lanes w v (activeEls h w s))) (fun regs => ?_) fun j m => ?_
  · rw [gathered_lanes bytes, applyDone, putVn_val]
  · exact elem_lanes _ (lane_inside (mem_activeEls.mp m).1) m

/-- A vector form whose stride is 0 reads its bytes once. -/
theorem vecLoad_rep (bytes : 8 ∣ w) (pos : 0 < w) (nonempty : activeEls h w s ≠ []) (same : ∀ j ∈ activeEls h w s, ∀ k ∈ activeEls h w s, off j = off k)
    (form : exec i s = .next (vecLoad na sp w d.val true ((activeEls h w s).map fun j => (j, addr j)) s)) :
    OwnLoad s i (w / 8) (activeEls h w s) off (VecLoaded h w s d) := by
  obtain ⟨first, more, els⟩ := List.exists_cons_of_ne_nil nonempty
  have mem : first ∈ activeEls h w s := by rw [els]; exact List.mem_cons_self
  have take : (activeEls h w s).take 1 = [first] := by rw [els]; rfl
  rw [vecLoad_doLoad ok, if_pos rfl, take] at form
  have width : 8 * (w / 8) = w := Nat.mul_div_cancel' bytes
  obtain ⟨finishes, waits, faults⟩ : OwnLoad s i (w / 8) [first] off fun v => VecLoaded h w s d fun _ => v first := by
    refine ownLoad_of_doLoad form fun v r => vecLoaded_of_value
      (x := BitVec.ofNat 1024 (joinElems w (List.replicate (1024 / w) (v first)))) (fun regs => ?_) fun j m => ?_
    · have read := r first (List.mem_singleton_self _)
      rw [gathered_one read, applyDone_repeat pos d _ (width ▸ ownReads_lt read)]
    · have lt := (mem_activeEls.mp m).1
      rw [elem_ofNat_joinElems (by simpa using Nat.mul_div_le 1024 w) (by simpa using lt), List.getElem_replicate]
  refine ⟨fun v r => ?_, fun _ blocked => waits ?_ ?_, fun pre j post b e r p => ?_⟩
  · obtain ⟨t, runs, x, ret, each⟩ := finishes v fun j m => by rw [List.mem_singleton.mp m]; exact r first mem
    refine ⟨t, runs, x, ret, fun j lt => (each j lt).trans ?_⟩
    by_cases on : active (guardBits h s) w j = true
    · have m := mem_activeEls.mpr ⟨lt, on⟩
      rw [if_pos on, if_pos on, ownReads_unique (r j m) (same first mem j m ▸ r first mem)]
    · rw [if_neg on, if_neg on]
  · obtain ⟨j, m, b⟩ := blocked
    exact fun k mk => .inl (by rw [List.mem_singleton.mp mk, same first mem j m]; exact b)
  · obtain ⟨j, m, b⟩ := blocked
    exact ⟨first, List.mem_singleton_self _, by rw [same first mem j m]; exact b⟩
  · have m : j ∈ activeEls h w s := by rw [e]; exact List.mem_append_right _ List.mem_cons_self
    exact faults [] first [] b rfl (fun k mk => absurd mk List.not_mem_nil) (same first mem j m ▸ p)

end

theorem vsizeWidth_bytes (z : VSize) : 8 ∣ vsizeWidth z ∧ 0 < vsizeWidth z := by cases z <;> decide

theorem ldv_own {h : Hdr} {o : LdvO} {s : State} {off : Nat → Nat} (c : VIssues h (vsizeWidth o.size) (.v o.d :: addrRn o.a) s)
    (ok : ∀ i ∈ activeEls h (vsizeWidth o.size) s, placeOf o.a.space (ldvAddr s o.a (vsizeWidth o.size) i) = some (.own (off i)) ∧
      off i + vsizeWidth o.size / 8 ≤ 0x10000) :
    OwnLoad s (.ldv h o) (vsizeWidth o.size / 8) (activeEls h (vsizeWidth o.size) s) off (VecLoaded h (vsizeWidth o.size) s o.d) := by
  simp only [ldvAddr_eq] at ok
  refine vecLoad_own ok (vsizeWidth_bytes o.size).1 ?_ (na := o.na)
  rw [exec_ldv, execLdv]
  exact vector_act s _ c

theorem gath_own {h : Hdr} {o : GsO} {s : State} {off : Nat → Nat} (c : VIssues h (vsizeWidth o.size) [.v o.d, .g o.base, .v o.x] s)
    (ok : ∀ i ∈ activeEls h (vsizeWidth o.size) s, placeOf o.space (gatherAddr s o (vsizeWidth o.size) i) = some (.own (off i)) ∧
      off i + vsizeWidth o.size / 8 ≤ 0x10000) :
    OwnLoad s (.gath h o) (vsizeWidth o.size / 8) (activeEls h (vsizeWidth o.size) s) off (VecLoaded h (vsizeWidth o.size) s o.d) := by
  refine vecLoad_own ok (vsizeWidth_bytes o.size).1 ?_ (na := o.na)
  rw [exec_gath, execGath]
  refine (vector_act s _ c).trans (congrArg _ ?_)
  rw [offsetEls_eq]
  rfl

/-- The addresses of a stride of 0 are one address (R159). -/
theorem strideAddr_zero {s : State} {a : Addr} (zero : rdG s a.index <<< a.xs.val = 0) (i j : Nat) : strideAddr s a i = strideAddr s a j := by
  rw [strideAddr, strideAddr, zero]
  simp

theorem ldvs_own {h : Hdr} {o : VsO} {s : State} {off : Nat → Nat} (c : VIssues h (vsizeWidth o.size) (.v o.d :: addrRn o.a) s)
    (ok : ∀ i ∈ activeEls h (vsizeWidth o.size) s, placeOf o.a.space (strideAddr s o.a i) = some (.own (off i)) ∧
      off i + vsizeWidth o.size / 8 ≤ 0x10000) :
    OwnLoad s (.ldvs h o) (vsizeWidth o.size / 8) (activeEls h (vsizeWidth o.size) s) off (VecLoaded h (vsizeWidth o.size) s o.d) := by
  obtain ⟨bytes, pos⟩ := vsizeWidth_bytes o.size
  have form : exec (.ldvs h o) s = .next (vecLoad o.na o.a.space (vsizeWidth o.size) o.d.val (rdG s o.a.index <<< o.a.xs.val == 0)
      ((activeEls h (vsizeWidth o.size) s).map fun i => (i, strideAddr s o.a i)) s) := by
    rw [exec_ldvs, execLdvs]
    exact vector_act s _ c
  cases zero : rdG s o.a.index <<< o.a.xs.val == 0
  · rw [zero] at form
    exact vecLoad_own ok bytes form
  · rw [zero] at form
    refine vecLoad_rep ok bytes pos (activeEls_ne_nil c) (fun j mj k mk => ?_) form
    have one := (ok j mj).1.symm.trans ((strideAddr_zero (beq_iff_eq.mp zero) j k ▸ (ok k mk).1 :))
    simpa using one

/-- Settles O21: a load of own croft memory is what its parts are, bytes that are here, a store to wait for, or a poisoned block; each
form places the bytes of its elements. -/
theorem ownLoads : Obligations.OwnLoads :=
  ⟨fun _ _ _ _ c at_ fits => ld_own c at_ fits, fun _ _ _ _ pair c at_ fits => ldq_own pair c at_ fits,
    fun _ _ _ _ c ok => ldv_own c ok, fun _ _ _ _ _ c ok => ldvs_own c ok, fun _ _ _ _ _ c ok => gath_own c ok⟩

end Sys2Proof.Machine
end

section
namespace Sys2Proof.Machine

/-! ## Earmarks of own blocks where a class count is full (R14, R150, R168) -/

/-- A store fits nowhere while a class count stands above 255, even one that is counted in no class. -/
theorem postsFit_full {s : State} (full : 255 < (me s).o1) (ps : List (List Piece)) : postsFit s ps = false := by
  rw [← Bool.not_eq_true, postsFit, List.all_eq_true]
  intro fits
  have one := of_decide_eq_true (fits 1 (by decide))
  simp only [countOf, if_true] at one
  omega

/-- SETMARK of own croft memory waits in the rotation while a class count stands above 255. -/
theorem setmark_own_full {h : Hdr} {o : GAddr} {s : State} {off : Nat} (c : Issues h (.g o.d :: addrRn o.a) s)
    (at_ : placeOf o.a.space (ea s o.a).toNat = some (.own off)) (fits : off < 0x10000) (fresh : (me s).sub = 0)
    (mark : markBad s (some ((rdG s o.d).setWidth 16)) = false) (full : 255 < (me s).o1) :
    exec (.setmark h o) s = .next (waitTurn s) := by
  have checks : checkEls s needW o.a.space [((ea s o.a).toNat, 1)] = .ok [.own off] :=
    checkEls_own (els := [0]) (addr := fun _ => (ea s o.a).toNat) (off := fun _ => off) fun _ _ => ⟨at_, fits⟩
  rw [exec_setmark, execSetmark]
  refine (scalar_act s _ c).trans (congrArg _ ((withPlaces_ok _ checks).trans ?_))
  simp only [doStore, mark, fresh, List.drop_zero, List.map_cons, List.map_nil, postsFit_full full]
  simp

/-- The state at power good, but for 256 outstanding stores of class 1 of a context whose budget is full. -/
def fullState : State := updMe State.reset fun k => { k with o1 := 256, budget := 0x2040 }
theorem me_fullState : me fullState = { Context.empty with o1 := 256, budget := 0x2040 } := me_updMe _ _
theorem rdG_zero (s : State) : rdG s 0 = 0 := getG_zero _

/-- SETMARK of the first block of own croft memory, with an earmark of 0. -/
def firstMark : GAddr := ⟨0, ⟨0, 0, 0, 0, .own⟩⟩
theorem firstMark_issues : Issues ⟨0, false, 0⟩ (.g firstMark.d :: addrRn firstMark.a) fullState where
  budget := by rw [me_fullState]; decide
  gate := by simp [gateClear, srcCount, me_fullState, Context.empty, countOf]
  guard := by simp [guardTrue, rdP, getP]
theorem firstMark_place : placeOf firstMark.a.space (ea fullState firstMark.a).toNat = some (.own 0) := by
  have zero : ea fullState firstMark.a = 0 := by
    simp only [ea, firstMark, rdG_zero]; decide
  rw [zero]; decide
theorem firstMark_mark : markBad fullState (some ((rdG fullState firstMark.d).setWidth 16)) = false := by
  rw [show firstMark.d = 0 from rfl, rdG_zero, markBad, show poisoned ((0 : W64).setWidth 16) = false by decide, Bool.and_false]

/-- Refutes O26: in a state whose count of class 1 is 256, which no hypothesis of the statement excludes, SETMARK of own croft memory does
not finish in its turn, though no store of the context to its own tenant is on its way: the model waits until every count is at most 255. -/
theorem not_earmarksHintsFences : ¬ Obligations.EarmarksHintsFences := by
  rintro ⟨own, -⟩
  have fresh : (me fullState).sub = 0 := by rw [me_fullState]; rfl
  have full : 255 < (me fullState).o1 := by rw [me_fullState]; decide
  have behind : NoneBehind fullState := by
    intro q m
    rw [me_fullState] at m
    exact absurd m List.not_mem_nil
  obtain ⟨finishes, -, -⟩ := own _ firstMark fullState 0 firstMark_issues firstMark_place (by decide)
  obtain ⟨t, runs, stored⟩ := (finishes fresh firstMark_mark).1 behind
  rw [setmark_own_full firstMark_issues firstMark_place (by decide) fresh firstMark_mark full] at runs
  obtain rfl : waitTurn fullState = t := by injection runs
  have turn := congrArg Context.turn stored.ctx
  rw [me_waitTurn, me_retire] at turn
  exact Turn.noConfusion turn

end Sys2Proof.Machine
end

section
namespace Sys2Proof

/-! ## A word and what it decodes to (R73 to R83) -/

/-- The word of a well-formed instruction fits a slot and decodes to it. -/
def Recovers (i : Instr) : Prop := wf i = true → ∀ w, encode i = some w → w < 2 ^ 96 ∧ decode w = some i

/-- A field of a packed word, read at its place. -/
theorem field_packN : ∀ {ws vs : List Nat}, Fits ws vs → ∀ i : Nat,
    packN ws vs / 2 ^ (ws.take i).sum % 2 ^ ws.getD i 0 = vs.getD i 0
  | [], [], _, i => by simp [packN]
  | w :: ws, v :: vs, .cons h _, 0 => by simp [packN, Nat.mod_eq_of_lt h]
  | w :: ws, v :: vs, .cons h t, i + 1 => by
      have p : 0 < 2 ^ w := by positivity
      simp only [packN, List.take_succ_cons, List.sum_cons, pow_add, List.getD_cons_succ]
      rw [← Nat.div_div_eq_div_mul, Nat.add_mul_div_left _ _ p, Nat.div_eq_of_lt h, Nat.zero_add, field_packN t i]

/-! ### Each code reads back as what it encodes (R15, R84, R85 and each entry) -/

@[simp] theorem gOf_gC (r : GReg) : gOf (gC r) = some r := by simp [gOf, gC]
@[simp] theorem vOf_vC (r : VReg) : vOf (vC r) = some r := by simp [vOf, vC]
@[simp] theorem pOf_pC (r : PReg) : pOf (pC r) = some r := by simp [pOf, pC]
@[simp] theorem bOf_bC (r : BReg) : bOf (bC r) = some r := by simp [bOf, bC]
@[simp] theorem finOf_val {n : Nat} (x : Fin n) : finOf n x.val = some x := by simp [finOf]
@[simp] theorem need_true {α : Type} (x : Option α) : need true x = x := rfl
theorem gC_ne_imm (r : GReg) : gC r ≠ 0x7F := by unfold gC; omega
theorem vC_ne_imm (r : VReg) : vC r ≠ 0x7F := by unfold vC; omega
@[simp] theorem srcOf_src (b : Src) : srcOf (srcB b) (srcI b) = some b := by
  cases b with
  | reg r => simp [srcOf, srcB, srcI, gC_ne_imm]
  | imm i => simp [srcOf, srcB, srcI]
@[simp] theorem vsrcOf_vsrc (b : VSrc) : vsrcOf (vsrcB b) (vsrcI b) = some b := by
  cases b with
  | reg r => simp [vsrcOf, vsrcB, vsrcI, vC_ne_imm]
  | imm i => simp [vsrcOf, vsrcB, vsrcI]
@[simp] theorem tyOf_code (t : ElemType) : tyOf t.code = some t := by cases t <;> rfl
@[simp] theorem condOf_code (c : Cond) : condOf c.code = some c := by cases c <;> rfl
@[simp] theorem scopeOf_code (s : Scope) : scopeOf s.code = some s := by cases s <;> rfl
@[simp] theorem spaceOf_code (s : Space) : spaceOf s.code = some s := by cases s <;> rfl
@[simp] theorem vsizeOf_code (s : VSize) : vsizeOf s.code = some s := by cases s <;> rfl
@[simp] theorem redOf_code (o : RedOp) : redOf o.code = some o := by cases o <;> rfl
@[simp] theorem aopOf_code (o : AOp) : aopOf o.code = some o := by cases o <;> rfl
@[simp] theorem fopOf_code (o : FOp) : fopOf o.code = some o := by cases o <;> rfl
@[simp] theorem asizeOf_code (z : ASize) : asizeOf z.code = some z := by cases z <;> rfl
@[simp] theorem fsizeOf_code (z : FSize) : fsizeOf z.code.1 z.code.2 = some z := by cases z <;> rfl
@[simp] theorem fenceOf_code (k : FenceKind) : fenceOf k.code = some k := by cases k <;> rfl
@[simp] theorem ordOf_code (o : Ord) : ordOf o.code.1 o.code.2 = some o := by cases o <;> simp [Ord.code, ordOf]
@[simp] theorem hdrOf_fields (h : Hdr) : hdrOf h.gate.val h.gn.toNat h.gp.val = some h := by
  obtain ⟨gp, gn, gate⟩ := h
  cases gn <;> simp [hdrOf]

/-! ### Each format's word (R73, R78 to R82) -/

/-- Above the 71 bits of a body and the 9 of SCOPE, GATE, GN and GP stand fn and op. -/
theorem fn_op_of_fits {W ws vs : List Nat} {h : Hdr} {sc fn op : Nat} (f : Fits W (vs ++ hdrN h sc fn op))
    (body : W = ws ++ hdrW) (len : vs.length = ws.length) (sum : ws.sum = 71) :
    packN W (vs ++ hdrN h sc fn op) / 2 ^ 80 % 2 ^ 8 = fn ∧ packN W (vs ++ hdrN h sc fn op) / 2 ^ 88 % 2 ^ 8 = op := by
  subst body
  have isFn := field_packN f (ws.length + 4)
  have isOp := field_packN f (ws.length + 5)
  simp only [List.take_length_add_append, List.sum_append, sum] at isFn isOp
  rw [List.getD_append_right _ _ _ _ (by omega), List.getD_append_right _ _ _ _ (by omega)] at isFn isOp
  simp only [len, Nat.add_sub_cancel_left] at isFn isOp
  exact ⟨isFn, isOp⟩

theorem decRaw_formatA {op fn d a b c ty md imm : Nat} {h : Hdr} (f : formatOf op fn = .a)
    (l : (fn < 256 ∧ op < 256) ∧ d < 128 ∧ a < 128 ∧ b < 128 ∧ c < 128 ∧ ty < 64 ∧ md < 32 ∧ imm < 4294967296) :
    decRaw (packN widthsA ([imm, md, ty, c, b, a, d] ++ hdrN h 0 fn op)) = decA op fn h d a b c ty md imm := by
  obtain ⟨isFn, isOp⟩ := fn_op_of_fits (encA_fits (h := h) l) rfl rfl rfl
  rw [decRaw, isFn, isOp, f, unpackN_packN (encA_fits l)]
  simp [hdrN]

theorem decRaw_formatM {op fn sc data base index xs size sp mk na disp : Nat} {h : Hdr} (f : formatOf op fn = .m)
    (l : (sc < 8 ∧ fn < 256 ∧ op < 256) ∧ data < 128 ∧ base < 128 ∧ index < 128 ∧ xs < 4 ∧ size < 16 ∧ sp < 8 ∧ mk < 2 ∧
      na < 2 ∧ disp < 549755813888) :
    decRaw (packN widthsM ([disp, na, mk, sp, size, xs, index, base, data] ++ hdrN h sc fn op)) =
      decM op fn h sc data base index xs size sp mk na disp := by
  obtain ⟨isFn, isOp⟩ := fn_op_of_fits (encM_fits (h := h) l) rfl rfl rfl
  rw [decRaw, isFn, isOp, f, unpackN_packN (encM_fits l)]
  simp [hdrN]

theorem decRaw_formatJ {fn a b cond disp : Nat} {h : Hdr}
    (l : fn < 256 ∧ a < 128 ∧ b < 128 ∧ cond < 16 ∧ disp < 1125899906842624) :
    decRaw (packN widthsJ ([disp, 0, cond, b, a] ++ hdrN h 0 fn 0x18)) = decJ fn h a b cond disp := by
  obtain ⟨isFn, isOp⟩ := fn_op_of_fits (encJ_fits (h := h) l) rfl rfl rfl
  rw [decRaw, isFn, isOp, unpackN_packN (encJ_fits l)]
  simp [hdrN, formatOf]

theorem encH_fits {d s bin pri floor wf yf flags m k n : Nat} {h : Hdr}
    (l : d < 128 ∧ s < 128 ∧ bin < 8 ∧ pri < 4 ∧ floor < 4 ∧ wf < 8 ∧ yf < 4 ∧ flags < 8 ∧ m < 512 ∧ k < 512 ∧ n < 256) :
    Fits widthsH ([0, n, k, m, flags, yf, wf, floor, pri, bin, s, d] ++ hdrN h 0 0 0x50) :=
  fits_append (by simp [Fits, l]) (fits_hdr (by decide))

theorem decRaw_formatH {d s bin pri floor wf yf flags m k n : Nat} {h : Hdr}
    (l : d < 128 ∧ s < 128 ∧ bin < 8 ∧ pri < 4 ∧ floor < 4 ∧ wf < 8 ∧ yf < 4 ∧ flags < 8 ∧ m < 512 ∧ k < 512 ∧ n < 256) :
    decRaw (packN widthsH ([0, n, k, m, flags, yf, wf, floor, pri, bin, s, d] ++ hdrN h 0 0 0x50)) =
      decH h d s bin pri floor wf yf flags m k n := by
  obtain ⟨isFn, isOp⟩ := fn_op_of_fits (encH_fits (h := h) l) rfl rfl rfl
  rw [decRaw, isFn, isOp, unpackN_packN (encH_fits l)]
  simp [hdrN, formatOf]

theorem decRaw_formatS {op fn sc d a b id sub imm : Nat} {h : Hdr} (f : formatOf op fn = .s)
    (l : (sc < 8 ∧ fn < 256 ∧ op < 256) ∧ d < 128 ∧ a < 128 ∧ b < 128 ∧ id < 1024 ∧ sub < 256 ∧ imm < 4294967296) :
    decRaw (packN widthsS ([imm, sub, id, b, a, d] ++ hdrN h sc fn op)) = decS op fn h sc d a b id sub imm := by
  obtain ⟨isFn, isOp⟩ := fn_op_of_fits (encS_fits (h := h) l) rfl rfl rfl
  rw [decRaw, isFn, isOp, f, unpackN_packN (encS_fits l)]
  simp [hdrN]

/-- A word that is no NOP's decodes by its format, within the operand limits. -/
theorem decode_of_decRaw {i : Instr} {w : Nat} (r : decRaw w = some i) (k : wf i = true) : decode w = some i := by
  have nz : w ≠ 0 := by
    rintro rfl
    exact nomatch (show decRaw 0 = none by decide).symm.trans r
  simp [decode, nz, r, k]

variable {i : Instr}

theorem recovers_formatA {op fn d a b c ty md imm : Nat} {h : Hdr} (e : encode i = encA op fn h d a b c ty md imm)
    (f : formatOf op fn = .a)
    (l : (fn < 256 ∧ op < 256) ∧ d < 128 ∧ a < 128 ∧ b < 128 ∧ c < 128 ∧ ty < 64 ∧ md < 32 ∧ imm < 4294967296)
    (r : decA op fn h d a b c ty md imm = some i) : Recovers i := by
  intro k w x
  obtain rfl := Option.some.inj (e.symm.trans x)
  exact ⟨packN_lt (encA_fits l), decode_of_decRaw ((decRaw_formatA f l).trans r) k⟩

theorem recovers_formatM {op fn sc data base index xs size sp mk na disp : Nat} {h : Hdr}
    (e : encode i = encM op fn h sc data base index xs size sp mk na disp) (f : formatOf op fn = .m)
    (l : (sc < 8 ∧ fn < 256 ∧ op < 256) ∧ data < 128 ∧ base < 128 ∧ index < 128 ∧ xs < 4 ∧ size < 16 ∧ sp < 8 ∧ mk < 2 ∧
      na < 2 ∧ disp < 549755813888)
    (r : wf i = true → decM op fn h sc data base index xs size sp mk na disp = some i) : Recovers i := by
  intro k w x
  obtain rfl := Option.some.inj (e.symm.trans x)
  exact ⟨packN_lt (encM_fits l), decode_of_decRaw ((decRaw_formatM f l).trans (r k)) k⟩

theorem recovers_formatJ {fn a b cond disp : Nat} {h : Hdr} (e : encode i = encJ fn h a b cond disp)
    (l : fn < 256 ∧ a < 128 ∧ b < 128 ∧ cond < 16 ∧ disp < 1125899906842624)
    (r : decJ fn h a b cond disp = some i) : Recovers i := by
  intro k w x
  obtain rfl := Option.some.inj (e.symm.trans x)
  exact ⟨packN_lt (encJ_fits l), decode_of_decRaw ((decRaw_formatJ l).trans r) k⟩

theorem recovers_formatS {op fn sc d a b id sub imm : Nat} {h : Hdr} (e : encode i = encS op fn h sc d a b id sub imm)
    (f : formatOf op fn = .s)
    (l : (sc < 8 ∧ fn < 256 ∧ op < 256) ∧ d < 128 ∧ a < 128 ∧ b < 128 ∧ id < 1024 ∧ sub < 256 ∧ imm < 4294967296)
    (r : decS op fn h sc d a b id sub imm = some i) : Recovers i := by
  intro k w x
  obtain rfl := Option.some.inj (e.symm.trans x)
  exact ⟨packN_lt (encS_fits l), decode_of_decRaw ((decRaw_formatS f l).trans r) k⟩

end Sys2Proof
end

section
namespace Sys2Proof

/-! ### Bits and bounds of the fields of a body -/

@[simp] theorem tyOf_zero : tyOf 0 = some .s8 := rfl
@[simp] theorem tyOf_three : tyOf 3 = some .s64 := rfl
@[simp] theorem toNat_beq_one (a : Bool) : (a.toNat == 1) = a := by cases a <;> rfl
@[simp] theorem AOp.code_lt_nine (o : AOp) : o.code < 9 := by cases o <;> decide
@[simp] theorem toNat_mod_two_beq_one (a : Bool) : (a.toNat % 2 == 1) = a := by cases a <;> rfl
@[simp] theorem twice_toNat_beq_zero (a : Bool) : (2 * a.toNat == 0) = !a := by cases a <;> rfl
@[simp] theorem twice_toNat_beq_two (a : Bool) : (2 * a.toNat == 2) = a := by cases a <;> rfl
@[simp] theorem two_bits_high (a b : Bool) : ((a.toNat + 2 * b.toNat) / 2 == 1) = b := by cases a <;> cases b <;> rfl
@[simp] theorem two_bits_lt (a b : Bool) : a.toNat + 2 * b.toNat < 4 := by cases a <;> cases b <;> decide
@[simp] theorem tag_lt_byte (x : BitVec 8) : x.toNat < 256 := x.isLt
@[simp] theorem budget_lt_field (x : BitVec 14) : x.toNat < 16384 := x.isLt
@[simp] theorem two_bits_lt8 (a b : Bool) : a.toNat + 2 * b.toNat < 8 := by cases a <;> cases b <;> decide

@[simp] theorem addrOf_fields (a : Addr) : addrOf (gC a.base) (gC a.index) a.xs.val a.disp.toNat a.space.code = some a := by
  simp [addrOf]

variable {h : Hdr}

/-! ### Families of one format -/

theorem recovers_alu {k : Hdr → Alu → Instr} {fn : Nat} {o : Alu} (e : encode (k h o) = encAlu fn h o) (f : aluOf fn = some k)
    (l : fn < 0x15) : Recovers (k h o) :=
  recovers_formatA e rfl (by simp; omega) (by simp [decA, f, Nat.ne_of_lt l])

theorem recovers_bit {k : Hdr → BitU → Instr} {fn : Nat} {o : BitU} (e : encode (k h o) = encBit fn h o) (f : bitOf fn = some k)
    (l : fn < 5) : Recovers (k h o) := by
  refine recovers_formatA e rfl (by simp; omega) ?_
  interval_cases fn <;> simp [decA, f]

theorem recovers_vbin {k : Hdr → VBin → Instr} {fn : Nat} {o : VBin} (e : encode (k h o) = encVBin 0x20 fn h o)
    (f : vbinOf fn = some k) (l : fn < 256) : Recovers (k h o) :=
  recovers_formatA e rfl (by simp [l]) (by simp [decA, f])

theorem recovers_vtri {k : Hdr → VTri → Instr} {fn : Nat} {o : VTri} (e : encode (k h o) = encVTri fn h o)
    (n : vbinOf fn = none) (f : vtriOf fn = some k) (l : fn < 256) : Recovers (k h o) :=
  recovers_formatA e rfl (by simp [l]) (by simp [decA, n, f])

theorem recovers_vun {k : Hdr → VUn → Instr} {fn : Nat} {o : VUn} (e : encode (k h o) = encVUn 0x20 fn h o)
    (n : vbinOf fn = none) (n' : vtriOf fn = none) (f : vunOf fn = some k) (l : fn < 256) : Recovers (k h o) :=
  recovers_formatA e rfl (by simp [l]) (by simp [decA, n, n', f])

theorem recovers_vbit {k : Hdr → VBin → Instr} {fn : Nat} {o : VBin} (e : encode (k h o) = encVBin 0x21 fn h o)
    (f : vbitOf fn = some k) (l : fn < 256) : Recovers (k h o) :=
  recovers_formatA e rfl (by simp [l]) (by simp [decA, f])

theorem recovers_vdot4 (u su : Bool) (d a : VReg) (b : VSrc) (c : VReg) : Recovers (.vdot4 h u su d a b c) := by
  refine recovers_formatA rfl rfl (by simp) ?_
  cases u <;> simp [decA, tyOf]

theorem recovers_vcvt (o : VCvtO) : Recovers (.vcvt h o) := by
  have fields : Fits [6, 2, 1, 1, 5, 17] [o.s.code, 0, o.inf.toNat, 0, o.part.val, 0] := by simp [Fits]
  exact recovers_formatA rfl rfl (by simpa using packN_lt fields) (by simp [decA, unpackN_packN fields])

/-! ### Stores: the index field holds the index or, with MK, the earmark register (R168) -/

/-- The index field of an address with the earmark register em. -/
def indexField (a : Addr) (em : Option GReg) : Nat := match em with | some r => gC r | none => gC a.index
/-- The MK field. -/
def markField (em : Option GReg) : Nat := match em with | some _ => 1 | none => 0

@[simp] theorem indexField_lt (a : Addr) (em : Option GReg) : indexField a em < 128 := by cases em <;> simp [indexField]
@[simp] theorem markField_lt (em : Option GReg) : markField em < 2 := by cases em <;> simp [markField]
@[simp] theorem markField_le (em : Option GReg) : markField em ≤ 1 := Nat.le_of_lt_succ (markField_lt em)

theorem encAddr_eq (op fn : Nat) (data : Nat) (a : Addr) (em : Option GReg) (size na : Nat) : encAddr op fn h data a em size na =
    encM op fn h 0 data (gC a.base) (indexField a em) a.xs.val size a.space.code (markField em) na a.disp.toNat := rfl

/-- The address and the earmark of a store are those of its fields. -/
theorem fields_of_store {a : Addr} {em : Option GReg} (ok : emOk a em = true) :
    addrOf (gC a.base) (if markField em = 1 then 0 else indexField a em) a.xs.val a.disp.toNat a.space.code = some a ∧
      emOf (markField em) (indexField a em) = some em := by
  cases em with
  | none => simp [emOf, markField, indexField]
  | some r =>
    have zero : gC a.index = 0 := by
      obtain ⟨index, -⟩ : a.index = 0 ∧ a.xs = 0 := by simpa [emOk] using ok
      rw [index]; rfl
    exact ⟨by simpa [zero, markField] using addrOf_fields a, by simp [emOf, markField, indexField]⟩

/-! ### Atomics: ord, PK and aop stand above disp32 (R83, R175) -/

@[simp] theorem unpackN_atomic {disp ord pk aop : Nat} (l : disp < 4294967296 ∧ ord < 4 ∧ pk < 2 ∧ aop < 16) :
    unpackN [32, 2, 1, 4] (packN [32, 2, 1, 4] [disp, ord, pk, aop]) = [disp, ord, pk, aop] := unpackN_packN (atomic_fits l)

theorem recovers_vamo (o : VamoO) : Recovers (.vamo h o) := by
  obtain ⟨op, nr, ord, d, base, x, xs, disp⟩ := o
  cases op with
  | int op wide =>
    have e : encode (.vamo h ⟨.int op wide, nr, ord, d, base, x, xs, disp⟩) =
      encAtom 0x3B 0 h ord (vC d) (gC base) (vC x) xs.val (10 + wide.toNat) nr.toNat op.code 0 disp.toNat := rfl
    refine recovers_formatM e rfl (by cases wide <;> simp) fun _ => ?_
    cases wide <;> simp [decM]
  | flt op z =>
    have e : encode (.vamo h ⟨.flt op z, nr, ord, d, base, x, xs, disp⟩) =
      encAtom 0x3B 0 h ord (vC d) (gC base) (vC x) xs.val z.code.1 nr.toNat (9 + op.code) z.code.2 disp.toNat := rfl
    have aop : 9 + op.code < 16 := by cases op <;> decide
    exact recovers_formatM e rfl (by simp [aop]) fun _ => by simp [decM, aop]

theorem recovers_stc (o : StcO) : Recovers (.stc h o) := by
  obtain ⟨data, base, x, disp, space⟩ := o
  cases data with
  | g r => exact recovers_formatM (data := gC r) (size := 3) rfl rfl (by simp) fun _ => by simp [decM]
  | pair r => exact recovers_formatM (data := gC r) (size := 7) rfl rfl (by simp) fun _ => by simp [decM]
  | v r => exact recovers_formatM (data := vC r) (size := 8) rfl rfl (by simp) fun _ => by simp [decM]

theorem recovers_stcm (o : StcmO) : Recovers (.stcm h o) := by
  obtain ⟨data, base, x, disp⟩ := o
  cases data with
  | g r => exact recovers_formatM (data := gC r) (size := 3) rfl rfl (by simp) fun _ => by simp [decM]
  | v r => exact recovers_formatM (data := vC r) (size := 8) rfl rfl (by simp) fun _ => by simp [decM]

theorem recovers_bara (s : Scope) (id : Fin 16) (bin : Option BReg) (b : Src) : Recovers (.bara h s id bin b) := by
  cases bin with
  | none => exact recovers_formatS rfl rfl (by simp; omega) (by simp [decS])
  | some k =>
    have sub : 8 + k.val < 16 := by omega
    exact recovers_formatS rfl rfl (by simp; omega) (by simp [decS, sub])

theorem recovers_chbindUnbind (hold ready : Bool) (a : GReg) : Recovers (.chbindUnbind h hold ready a) :=
  recovers_formatS rfl rfl (by simp) (by cases hold <;> cases ready <;> simp [decS])

theorem recovers_st (o : StO) : Recovers (.st h o) := by
  refine recovers_formatM (encAddr_eq ..) rfl (by simp; omega) fun ok => ?_
  obtain ⟨addr, em⟩ := fields_of_store ok
  simp [decM, addr, em]

theorem recovers_stq (o : StqO) : Recovers (.stq h o) := by
  refine recovers_formatM (encAddr_eq ..) rfl (by simp) fun ok => ?_
  obtain ⟨addr, em⟩ := fields_of_store (Bool.and_eq_true_iff.mp ok).2
  simp [decM, addr, em]

theorem recovers_stv (o : StvO) : Recovers (.stv h o) := by
  refine recovers_formatM (encAddr_eq ..) rfl (by simp) fun ok => ?_
  obtain ⟨addr, em⟩ := fields_of_store ok
  simp [decM, addr, em]

theorem hire_flags (a b c : Bool) : let f := a.toNat + 2 * b.toNat + 4 * c.toNat
    f < 8 ∧ (f % 2 == 1) = a ∧ (f / 2 % 2 == 1) = b ∧ (f / 4 % 2 == 1) = c := by
  cases a <;> cases b <;> cases c <;> decide

theorem recovers_hire (o : HireO) : Recovers (.hire h o) := by
  intro k w x
  obtain rfl := Option.some.inj x
  obtain ⟨lt, ord, chain, land⟩ := hire_flags o.ord o.chain o.land
  have l : gC o.d < 128 ∧ gC o.s < 128 ∧ o.bin.val < 8 ∧ o.pri.val < 4 ∧ o.floor.val < 4 ∧ o.wf.val < 8 ∧ o.yf.val < 4 ∧
      o.ord.toNat + 2 * o.chain.toNat + 4 * o.land.toNat < 8 ∧ o.m.val < 512 ∧ o.k.val < 512 ∧ o.n.val < 256 := by
    simp [lt]; omega
  exact ⟨packN_lt (encH_fits l), decode_of_decRaw ((decRaw_formatH l).trans (by simp [decH, ord, chain, land])) k⟩

/-! ### All instructions -/

/-- The word of every well-formed instruction fits a slot and decodes to it. -/
theorem decode_encode (i : Instr) : Recovers i := by
  cases i with
  | nop => exact fun _ _ x => Option.some.inj x ▸ ⟨by decide, rfl⟩
  | add | sub | mul | mulh | mulhn | div | divn | rem | remn | and | or | xor | andn | shl | shr | sha | rol | min | max | minn | maxn =>
    exact recovers_alu rfl rfl (by decide)
  | clz | ctz | popc | brev | bswap => exact recovers_bit rfl rfl (by decide)
  | vadd | vsub | vmul | vdiv | vmin | vmax | vmulh | vadds | vsubs => exact recovers_vbin rfl rfl (by decide)
  | vfma | vfms | vfnma => exact recovers_vtri rfl rfl rfl (by decide)
  | vsqrt | vrcp | vrsq | vabs | vneg => exact recovers_vun rfl rfl rfl rfl (by decide)
  | vand | vor | vxor | vandn | vshl | vshr | vsha => exact recovers_vbit rfl rfl (by decide)
  | vdot4 => exact recovers_vdot4 _ _ _ _ _ _
  | vcvt => exact recovers_vcvt _
  | abs | cmpp | setc | bfx | bfxn | bfi | sel | mov | li | lih | mfb | mtb | mfp | mtp | vcmp | vsel | pand | por | pxor | pnot | vcnt
  | vfirst | vpermb | vperm | vbcast | vext | vins | vidx | vmov | vslide | vred | vscan | vxaccClr | vxaccAdd | vxaccRd =>
    exact recovers_formatA rfl rfl (by simp) (by simp [decA])
  | mfs | mts | vshuf => exact recovers_formatA rfl rfl (by simp; omega) (by simp [decA])
  | br | bc | bcmp | loop | call | jmp | jmpl | ret => exact recovers_formatJ rfl (by simp) (by simp [decJ])
  | st => exact recovers_st _
  | stq => exact recovers_stq _
  | stv => exact recovers_stv _
  | vamo => exact recovers_vamo _
  | stc => exact recovers_stc _
  | stcm => exact recovers_stcm _
  | lea | ldq | ldv | ldvs | stvs | gath | scat | ldfe | stfe | festat | setmark | getmark | pref | invl | amo | amof | cas | cas2 | shpush
  | wkick => exact recovers_formatM rfl rfl (by simp) fun _ => by simp [decM]
  | ld => exact recovers_formatM rfl rfl (by simp; omega) fun _ => by simp [decM]
  | hire => exact recovers_hire _
  | chbindUnbind => exact recovers_chbindUnbind _ _ _
  | bara => exact recovers_bara _ _ _ _
  | brk | trap | fence | waitb | cradd | crtake | crtry | crstat | crinitUnbind | chsend | chnext | chhold | chready | chbind
  | hstat | hdrop | freeb | spawn | reap | exit | susp | resume | yield | shoot | fairctlResume | fairctlDrop
  | fairctlStat => exact recovers_formatS rfl rfl (by simp) (by simp [decS])
  | drain | bar | barw | crinit | glean | mcall | swapctlWindow | swapctlTheta | swapctlEnable | swapctlRead =>
    exact recovers_formatS rfl rfl (by simp; omega) (by simp [decS])
  | _ => exact fun _ _ x => nomatch (show (none : Option Nat) = some _ from x)

end Sys2Proof
end

section
namespace Sys2Proof

/-! ## Micro-words (R283) -/

/-- TYPE of a micro-word. -/
def microTyField : Option ElemType → Nat
  | none => 0
  | some t => t.code

theorem encodeMicroAs_eq (op : Nat) (m : Micro) : encodeMicroAs op m = packN widthsMu
    [m.imm.toNat, 0, m.rb.val, m.ra.val, m.rd.val, m.tgt.toNat, m.cond.val, microTyField m.ty, op] := rfl

/-- A type that a well-formed micro-operation has is read back: code 0 is no type. -/
theorem microTyOf_field {arith : Bool} {ty : Option ElemType} (ok : microTy arith ty = true) : microTyOf (microTyField ty) = some ty := by
  cases ty with
  | none => rfl
  | some t =>
    have lines : arith = true ∧ (t = .bf ∨ t = .f ∨ t = .d ∨ t = .s64) := by simpa [microTy, or_assoc] using ok
    obtain ⟨-, rfl | rfl | rfl | rfl⟩ := lines <;> rfl

theorem encodeMicroAs_fits {op : Nat} (l : op < 64) (m : Micro) : Fits widthsMu
    [m.imm.toNat, 0, m.rb.val, m.ra.val, m.rd.val, m.tgt.toNat, m.cond.val, microTyField m.ty, op] := by
  have ty : microTyField m.ty < 64 := by cases m.ty <;> simp [microTyField]
  have imm : m.imm.toNat < 2 ^ 64 := m.imm.isLt
  simp [Fits, widthsMu, l, ty]
  omega

/-- The micro-word of an operation fits 128 bits and decodes to it. -/
theorem micro_recovers {op : Nat} {m : Micro} {k : Micro → Instr} {arith br : Bool} (f : microOf op = some k) (l : op < 64)
    (ok : wf (k m) = m.ok arith br) (g : wf (k m) = true) :
    encodeMicroAs op m < 2 ^ 128 ∧ decodeMicro (encodeMicroAs op m) = some (k m) := by
  have fits := encodeMicroAs_fits l m
  have ty : microTy arith m.ty = true := (Bool.and_eq_true_iff.mp (ok.symm.trans g)).1
  rw [encodeMicroAs_eq]
  refine ⟨packN_lt fits, ?_⟩
  rw [decodeMicro, unpackN_packN fits]
  simp [f, microTyOf_field ty, g]

theorem decodeMicro_encodeMicro {i : Instr} (g : wf i = true) {w : Nat} (e : encodeMicro i = some w) :
    w < 2 ^ 128 ∧ decodeMicro w = some i := by
  cases i with
  | millEnd | millBr | millLi | millAdd | lfill | lcopy | lfma | lscal | lred | ltz | lzmk | stw =>
    exact Option.some.inj e ▸ micro_recovers rfl (by decide) rfl g
  | _ => exact nomatch (show (none : Option Nat) = some _ from e)

/-! ## Command packets (R309, R310) -/

/-- A packet whose header agrees with its kind, length and flags is read as it stands. -/
theorem decodePacket_words {k : Packet → Instr} {opc len : Nat} {sig : Bool} {p : Packet} (f : packetOf opc = some k)
    (ok : p.ok opc len sig = true) (pos : len ≠ 0) (lens : packetLen opc = none ∨ packetLen opc = some len)
    (loop : opc = 6 → p.f 0 32 16 ≠ 0) (g : wf (k p) = true) : decodePacket p.words = .ok (k p) := by
  obtain ⟨nr, wait, kf, ws⟩ := p
  cases ws with
  | nil => simp [Packet.ok] at ok
  | cons w ws =>
    simp only [Packet.ok, Bool.and_eq_true, beq_iff_eq] at ok
    obtain ⟨⟨words, -⟩, ⟨⟨⟨⟨isOpc, isLen⟩, rfl⟩, rfl⟩, -⟩, isKf⟩ := ok
    have kf' : BitVec.ofNat 8 (w.toNat / 2 ^ 24) = kf := BitVec.eq_of_toNat_eq (by simpa using isKf)
    simp only [decodePacket, isOpc, isLen, f, kf', g, words, pos]
    rcases lens with lens | lens
    · simpa [lens, Packet.f] using loop
    · simpa [lens, Packet.f] using loop

/-- The words of a packet are read as it. -/
theorem decodePacket_encodePacket {i : Instr} (g : wf i = true) {ws : List W64} (e : encodePacket i = some ws) :
    decodePacket ws = .ok i := by
  cases i with
  | packetNop p =>
    obtain ⟨pos, ok⟩ : 1 ≤ p.words.length ∧ p.ok 0 p.words.length false = true := by simpa [wf] using g
    obtain rfl := Option.some.inj e
    exact decodePacket_words rfl ok (Nat.ne_of_gt pos) (.inl rfl) (fun six => absurd six (by decide)) g
  | loopPacket p =>
    obtain ⟨ok, pos⟩ : p.ok 6 1 false = true ∧ 1 ≤ p.f 0 32 16 := by simpa [wf] using g
    obtain rfl := Option.some.inj e
    exact decodePacket_words rfl ok (by decide) (.inr rfl) (fun _ => Nat.ne_of_gt pos) g
  | launch p | copyPacket p | millPacket p | waitmem p | ib p | ffence p | signal p =>
    have limits := g
    simp only [wf, Bool.and_eq_true, and_assoc] at limits
    obtain ⟨ok, -⟩ := limits
    obtain rfl := Option.some.inj e
    exact decodePacket_words rfl ok (by decide) (.inr rfl) (fun six => absurd six (by decide)) g
  | _ => exact nomatch (show (none : Option (List W64)) = some _ from e)

/-! ## Management requests (R312) -/

/-- A request's words, and the fields of the first: operation, function, queue or vector, and zeros between and above. -/
theorem request_fields {op f x : Nat} {a b c : W64} {r : Vector W64 8} (e : some (requestWords op f x a b c) = some r) (o : op < 256)
    (l : f ≤ 64) (q : x < 4096) : ∃ w : W64, r.toList = [w, a, b, c, 0, 0, 0, 0] ∧ w.toNat % 256 = op ∧ w.toNat / 256 % 128 = f ∧
      w.toNat / 4294967296 % 4096 = x ∧ w.toNat / 32768 % 131072 = 0 ∧ w.toNat / 17592186044416 = 0 ∧
      (x = 0 → w.toNat / 32768 = 0) ∧ (x < 256 → w.toNat / 4294967296 % 256 = x ∧ w.toNat / 1099511627776 = 0) := by
  obtain rfl := Option.some.inj e
  have n : (BitVec.ofNat 64 (op + f * 2 ^ 8 + x * 2 ^ 32)).toNat = op + f * 2 ^ 8 + x * 2 ^ 32 := by
    rw [BitVec.toNat_ofNat]
    exact Nat.mod_eq_of_lt (by omega)
  refine ⟨_, rfl, ?_⟩
  omega

theorem decodeRequest_encodeRequest {i : Instr} (g : wf i = true) {r : Vector W64 8} (e : encodeRequest i = some r) :
    decodeRequest r = some i := by
  cases i with
  | qconfig f q base size vec =>
    obtain ⟨⟨l, x⟩, ring⟩ : (f ≤ 64 ∧ q < 4096) ∧ ringOk base size vec = true := by simpa [wf] using g
    obtain ⟨w, words, isOp, isF, isX, z, z', -⟩ := request_fields e (by decide) l x
    simp [decodeRequest, words, isOp, isF, isX, z, z', l, ring]
  | mrconfig f base size vec =>
    obtain ⟨l, ring⟩ : f ≤ 64 ∧ ringOk base size vec = true := by simpa [wf] using g
    obtain ⟨w, words, isOp, isF, -, -, -, z, -⟩ := request_fields e (by decide) l (by decide)
    simp [decodeRequest, words, isOp, isF, z, l, ring]
  | qenable f q | qdisable f q | qpreempt f q | qrestore f q =>
    obtain ⟨l, x⟩ : f ≤ 64 ∧ q < 4096 := by simpa [wf] using g
    obtain ⟨w, words, isOp, isF, isX, z, z', -⟩ := request_fields e (by decide) l x
    simp [decodeRequest, words, isOp, isF, isX, z, z', l]
  | irqroute f vec addr data =>
    obtain ⟨⟨l, v⟩, d⟩ : (f ≤ 64 ∧ vec < 256) ∧ data.toNat < 8589934592 := by simpa [wf] using g
    obtain ⟨w, words, isOp, isF, -, z, -, -, isV⟩ := request_fields e (by decide) l (Nat.lt_trans v (by decide))
    obtain ⟨isVec, top⟩ := isV v
    simp [decodeRequest, words, isOp, isF, isVec, z, top, l, d]
  | fbind f set =>
    obtain ⟨l, n⟩ : f ≤ 64 ∧ set.toNat < 16777216 := by simpa [wf] using g
    obtain ⟨w, words, isOp, isF, -, -, -, z, -⟩ := request_fields e (by decide) l (by decide)
    simp [decodeRequest, words, isOp, isF, z, l, n]
  | ashoot f va len =>
    have l : f ≤ 64 := by simpa [wf] using g
    obtain ⟨w, words, isOp, isF, -, -, -, z, -⟩ := request_fields e (by decide) l (by decide)
    simp [decodeRequest, words, isOp, isF, z, l]
  | _ => exact nomatch (show (none : Option (Vector W64 8)) = some _ from e)

/-! ## Lomwen words (R319) -/

theorem lm_fits (d a b : Fin 32) {f3 : Nat} (l : f3 < 8) : Fits widthsLm [0x0B, d.val, f3, a.val, b.val, 0] := by
  simp [Fits, widthsLm, l]

theorem decodeLm_encodeLm {i : Instr} {w : Nat} (e : encodeLm i = some w) : w < 2 ^ 32 ∧ decodeLm w = some i := by
  cases i with
  | lmRfetch o | lmBext o | lmDisp o =>
    obtain rfl := Option.some.inj e
    exact ⟨packN_lt (lm_fits o.d o.a o.b (by decide)), by
      rw [decodeLm, unpackN_packN (lm_fits o.d o.a o.b (by decide))]; simp⟩
  | lmSwait d a =>
    obtain rfl := Option.some.inj e
    have fits := lm_fits d a 0 (f3 := 2) (by decide)
    exact ⟨packN_lt fits, by rw [decodeLm, unpackN_packN (by simpa using fits)]; simp [finOf]⟩
  | _ => exact nomatch (show (none : Option Nat) = some _ from e)

end Sys2Proof

namespace Sys2Proof.Machine

/-! ## Which steps have a word -/

theorem isSome_vamo (h : Hdr) (o : VamoO) : (encode (.vamo h o)).isSome = true := by
  obtain ⟨op, nr, ord, d, base, x, xs, disp⟩ := o
  cases op <;> rfl
theorem isSome_stc (h : Hdr) (o : StcO) : (encode (.stc h o)).isSome = true := by
  obtain ⟨data, base, x, disp, space⟩ := o
  cases data <;> rfl
theorem isSome_stcm (h : Hdr) (o : StcmO) : (encode (.stcm h o)).isSome = true := by
  obtain ⟨data, base, x, disp⟩ := o
  cases data <;> rfl

/-- The instructions with a slot's word are NOP and those with a header. -/
theorem isSome_encode (i : Instr) : ((encode i).isSome == (headerOf i).isSome) = true ∨ i = .nop := by
  cases i with
  | nop => exact .inr rfl
  | vamo h o => exact .inl (by rw [isSome_vamo]; rfl)
  | stc h o => exact .inl (by rw [isSome_stc]; rfl)
  | stcm h o => exact .inl (by rw [isSome_stcm]; rfl)
  | _ => exact .inl rfl

theorem slot_word {i : Instr} (c : (headerOf i).isSome ∨ i = .nop) : ∃ w, encode i = some w := by
  rcases isSome_encode i with same | rfl
  · rcases c with c | rfl
    · exact Option.isSome_iff_exists.mp ((beq_iff_eq.mp same).trans c)
    · exact ⟨0, rfl⟩
  · exact ⟨0, rfl⟩

/-- Every step has a word of one of the five kinds, but a read of lmdone and the events. -/
theorem word_or_event (i : Instr) : (encode i).isSome ∨ (encodeMicro i).isSome ∨ (encodePacket i).isSome ∨ (encodeRequest i).isSome ∨
    (encodeLm i).isSome ∨ isEvent i = true ∨ ∃ d, i = .lmdoneRead d := by
  have kinds : (∃ d, i = .lmdoneRead d) ∨ ((encode i).isSome || ((encodeMicro i).isSome || ((encodePacket i).isSome ||
      ((encodeRequest i).isSome || ((encodeLm i).isSome || isEvent i))))) = true := by
    cases i with
    | lmdoneRead d => exact .inl ⟨d, rfl⟩
    | vamo h o => exact .inr (by rw [isSome_vamo]; rfl)
    | stc h o => exact .inr (by rw [isSome_stc]; rfl)
    | stcm h o => exact .inr (by rw [isSome_stcm]; rfl)
    | _ => exact .inr rfl
  simp only [Bool.or_eq_true] at kinds
  tauto

/-- Settles O58: each format's word unpacks to the fields it was packed from, and each field to the operand it encodes. -/
theorem encodeDecode : Obligations.EncodeDecode := by
  intro i g
  exact ⟨slot_word, word_or_event i, decode_encode i g, fun _ e => decodeMicro_encodeMicro g e,
    fun _ e => decodePacket_encodePacket g e, fun _ e => decodeRequest_encodeRequest g e, fun _ e => decodeLm_encodeLm e⟩

end Sys2Proof.Machine
end

section
namespace Sys2Proof.Machine

/-! ## NOP, TRAP and BRK (R87, R216) -/

/-- A fault of the slot being issued, from which the context goes on at `resume` when it is released. -/
def freezeTo (s : State) (turn : Turn) (code resume aux addr : Nat) : State :=
  updMe (freezeAt s s.cur.1 s.cur.2 code (thisSlot s) resume aux addr) fun k => { k with turn := turn }

theorem trapMe_eq (code : W32) (s : State) : trapMe code s = freezeTo s .issued cTRAP (nextSlot s) code.toNat 0 := rfl

/-- It is the report of the fault, from the state in which the record is frozen. -/
theorem freezeTo_eq (s : State) (turn : Turn) (code resume aux addr : Nat) :
    let frozen := updMe s fun k => { k with
      mode := .frozen, pc := resume, stage := .open, sub := 0, await := none, fetched := none, wins := none }
    freezeTo s turn code resume aux addr = updMe (report frozen (mySetId s) (agCroft s.cur.1) (stewardOfRoute s)
      (mkReport code s.cur.2 s.cur.1 0 (myTen s) (thisSlot s) (me s).runseq aux addr)) fun k => { k with turn := turn } :=
  congrArg (updMe · fun k => { k with turn := turn }) (faultReport_updMe s (fun k => { k with
    mode := .frozen, pc := resume, stage := .open, sub := 0, await := none, fetched := none, wins := none }) code (thisSlot s) aux addr)

theorem froze_freezeTo (s : State) (turn : Turn) (code resume aux addr : Nat) :
    Froze s (freezeTo s turn code resume aux addr) turn resume := by
  rw [freezeTo_eq]
  let frozen := updMe s fun k => { k with
    mode := .frozen, pc := resume, stage := .open, sub := 0, await := none, fetched := none, wins := none }
  let u := report frozen (mySetId s) (agCroft s.cur.1) (stewardOfRoute s)
    (mkReport code s.cur.2 s.cur.1 0 (myTen s) (thisSlot s) (me s).runseq aux addr)
  have crofts : u.crofts = frozen.crofts := report_crofts ..
  have cur : u.cur = s.cur := report_cur ..
  have same : SameElsewhere s frozen := setMe_same s _
  have turned : SameElsewhere u (updMe u fun k => { k with turn := turn }) := setMe_same u _
  have croft (c : Nat) : croftAt u c = croftAt frozen c := by rw [croftAt, croftAt, crofts]
  have ctx (c i : Nat) : ctxAt u c i = ctxAt frozen c i := ctxAt_report ..
  constructor
  · rw [me_updMe]
    show { me u with turn := turn } = _
    rw [me, cur, ctx]
    exact congrArg (fun k : Context => { k with turn := turn }) (me_updMe s _)
  · intro c h
    exact (turned.crofts c (by rw [cur]; exact h)).trans ((croft c).trans (same.crofts c h))
  · intro i h
    have := turned.ctxs i (by rw [cur]; exact h)
    rw [cur] at this
    exact this.trans ((ctx _ _).trans (same.ctxs i h))
  · exact report_mem ..
  · exact fun n => report_croftMem ..
  · exact cur

theorem reported_freezeTo (s : State) (turn : Turn) (code resume aux addr : Nat) :
    Reported s (freezeTo s turn code resume aux addr) code aux addr := by
  rw [freezeTo_eq]
  refine ⟨sends_report (updMe s _) _ _ (stewardOfRoute s) _ _ fun d c route other => ?_, report_tenants (updMe s _) _ _ _ _⟩
  have route : routeOf s (mySetId s) = some (d, c) := route
  simpa [stewardOfRoute, route, not_and] using other

/-- TRAP and a BRK that breaks: the context frozen, to go on at the next slot, and its packet sent. -/
theorem trapMe_froze (code : W32) (s : State) :
    Froze s (trapMe code s) .issued (nextSlot s) ∧ Reported s (trapMe code s) cTRAP code.toNat 0 := by
  rw [trapMe_eq]
  exact ⟨froze_freezeTo .., reported_freezeTo ..⟩

/-- Settles O13: TRAP is a fault that resumes at the next slot; NOP, and BRK where breaks are off, retire. -/
theorem nopTrapBreak : Obligations.NopTrapBreak := by
  refine ⟨fun s => ⟨_, rfl, retired_retire s⟩, fun h code s c => ⟨?_, fun on => ?_, fun off => ?_⟩⟩
  · exact ⟨_, (exec_trap h code s).trans (scalar_act s _ c), trapMe_froze code s⟩
  · refine ⟨_, (exec_brk h code s).trans (scalar_act s _ c), ?_⟩
    rw [if_pos on]
    exact trapMe_froze code s
  · refine ⟨_, (exec_brk h code s).trans (scalar_act s _ c), ?_⟩
    rw [if_neg (by simp [off])]
    exact retired_retire s

end Sys2Proof.Machine
end

section
namespace Sys2Proof.Machine

/-! ## Words of the manual (R78 to R87, R283, R309, R312, R319) -/

/-- Settles O57: each word is decoded, or fails the check of the field named for it. -/
theorem decodedWords : Obligations.DecodedWords := by
  refine ⟨?slots, ?micro, ?lomwen, ?packets, ?request, ?badRequest⟩
  case slots => decide
  case micro => decide
  case lomwen => decide
  case packets => decide
  case request => decide
  case badRequest => decide

end Sys2Proof.Machine
end

section
namespace Sys2Proof.Machine

/-! ## Instructions that end their run in the same turn (R221, R223) -/

/-- What of a context the end of its run reads. -/
structure RunPart where
  mode : Mode
  regs : Regs
  pc : Nat
  grp : Option Group
  runseq : W64
  sub : Nat

def runPart (k : Context) : RunPart := ⟨k.mode, k.regs, k.pc, k.grp, k.runseq, k.sub⟩

/-- The run of the acting context stands as it did, and so does device memory. -/
structure KeepsRun (s t : State) : Prop where
  run : runPart (me t) = runPart (me s)
  mem : t.mem = s.mem
  cur : t.cur = s.cur

variable {s t u : State}

theorem KeepsRun.refl (s : State) : KeepsRun s s := ⟨rfl, rfl, rfl⟩
theorem KeepsRun.trans (a : KeepsRun s t) (b : KeepsRun t u) : KeepsRun s u :=
  ⟨b.run.trans a.run, b.mem.trans a.mem, b.cur.trans a.cur⟩

theorem KeepsRun.sub (k : KeepsRun s t) : (me t).sub = (me s).sub := congrArg RunPart.sub k.run

/-- A change of anything but crofts and memory keeps the run. -/
theorem keepsRun_of_crofts (crofts : t.crofts = s.crofts) (mem : t.mem = s.mem) (cur : t.cur = s.cur) : KeepsRun s t :=
  ⟨by rw [me, me, ctxAt, ctxAt, croftAt, croftAt, crofts, cur], mem, cur⟩

/-- So does a change of a context that leaves these parts of it where it is the acting one. -/
theorem keepsRun_updCtx {c i : Nat} {f : Context → Context}
    (keeps : (c, i) = s.cur → runPart (f (me s)) = runPart (me s)) : KeepsRun s (updCtx s c i f) := by
  refine ⟨?_, rfl, rfl⟩
  by_cases here : (c, i) = s.cur
  · obtain ⟨rfl, rfl⟩ := Prod.mk.inj here
    rw [show me (updCtx s s.cur.1 s.cur.2 f) = f (me s) from ctxAt_setCtx_self ..]
    exact keeps here
  · have other : s.cur.1 ≠ c ∨ s.cur.2 ≠ i := by
      by_contra both
      rw [not_or, not_not, not_not] at both
      exact here (Prod.ext both.1.symm both.2.symm)
    exact congrArg runPart (ctxAt_setCtx_ne s _ other)

theorem KeepsRun.nextSlot (k : KeepsRun s t) : nextSlot t = nextSlot s := by
  have grp : (me t).grp = (me s).grp := congrArg RunPart.grp k.run
  have pc : (me t).pc = (me s).pc := congrArg RunPart.pc k.run
  simp only [Machine.nextSlot, grp, pc]

theorem KeepsRun.rdG (k : KeepsRun s t) (a : GReg) : rdG t a = rdG s a := by
  have grp : (me t).grp = (me s).grp := congrArg RunPart.grp k.run
  have regs : (me t).regs = (me s).regs := congrArg RunPart.regs k.run
  simp only [Machine.rdG, src, grp, regs]

/-- The end of a run at the state that the instruction leaves. -/
theorem nextRun_of (mode : (me t).mode = (me s).mode) (next : Machine.nextSlot t = Machine.nextSlot s)
    (seq : (me t).runseq = (me s).runseq) (mem : t.mem = s.mem) (cur : t.cur = s.cur) :
    NextRun s (retireRunNext t) (me t).regs := by
  have ctx : me (retireRunNext t) =
      runStartOf { me t with pc := Machine.nextSlot t, turn := .issued, stage := .open, sub := 0 } := by
    rw [retireRunNext, beginRun, me_updMe, me_retire]
  exact ⟨by rw [ctx]; exact mode, by rw [ctx]; rfl, by rw [ctx]; rfl, by rw [ctx]; exact next, by rw [ctx]; exact next,
    by rw [ctx]; exact congrArg (· + 1) seq, mem, cur⟩

/-- Where the run stands as it did, its end is the next run: with its registers, or with one of them written. -/
theorem nextRun_retire (k : KeepsRun s t) : NextRun s (retireRunNext t) (me s).regs := by
  have next := nextRun_of (congrArg RunPart.mode k.run) k.nextSlot (congrArg RunPart.runseq k.run) k.mem k.cur
  rwa [show (me t).regs = (me s).regs from congrArg RunPart.regs k.run] at next

theorem nextRun_wrG (k : KeepsRun s t) (d : GReg) (x : W64) : NextRun s (retireRunNext (wrG t d x)) (putG (me s).regs d x) := by
  have ctx : me (wrG t d x) = { me t with regs := putG (me t).regs d x } := me_updRegs ..
  have next : NextRun s (retireRunNext (wrG t d x)) (me (wrG t d x)).regs :=
    nextRun_of (by rw [ctx]; exact congrArg RunPart.mode k.run) ((nextSlot_updRegs ..).trans k.nextSlot)
      (by rw [ctx]; exact congrArg RunPart.runseq k.run) k.mem k.cur
  rwa [ctx, show (me t).regs = (me s).regs from congrArg RunPart.regs k.run] at next

/-! ### The seal (R223) -/

theorem keepsRun_seal (q : Quiet s) : KeepsRun s (sealOf s) := by
  have mem := congrArg State.mem (sealRun_rest s q.held)
  refine ⟨?_, mem, sealRun_cur s q.held⟩
  rw [sealOf, me_sealRun s q.held]; rfl

/-- A privileged instruction of a quiet context passes its seal point in its turn. -/
theorem privileged_seal {h : Hdr} {rs : List Rn} {k : State → State} (p : (me s).priv = true) (q : Quiet s) (c : Issues h rs s) :
    privileged h rs (sealThen false k) s = .next (k (sealOf s)) := by
  rw [privileged_act s _ p c, sealThen_quiet s false k q]; rfl

end Sys2Proof.Machine
end

section
namespace Sys2Proof.Machine

variable {s : State}

/-! ### What a seal with nothing held leaves (R223) -/

theorem sealOf_fairs (q : Quiet s) : (sealOf s).fairs = s.fairs := by
  have rest := congrArg State.fairs (sealRun_rest s q.held)
  exact rest
theorem sealOf_dies (q : Quiet s) : (sealOf s).dies = s.dies := by
  have rest := congrArg State.dies (sealRun_rest s q.held)
  exact rest
theorem sealOf_mgmt (q : Quiet s) : (sealOf s).mgmt = s.mgmt := by
  have rest := congrArg State.mgmt (sealRun_rest s q.held)
  exact rest
theorem sealOf_sets (q : Quiet s) : (sealOf s).sets = s.sets := by
  have rest := congrArg State.sets (sealRun_rest s q.held)
  exact rest
theorem sealOf_tenants (q : Quiet s) : (sealOf s).tenants = s.tenants := by
  have rest := congrArg State.tenants (sealRun_rest s q.held)
  exact rest
theorem sealOf_chans (q : Quiet s) : (sealOf s).chans = s.chans := by
  have rest := congrArg State.chans (sealRun_rest s q.held)
  exact rest
theorem sealOf_banks (q : Quiet s) : (sealOf s).banks = s.banks := by
  have rest := congrArg State.banks (sealRun_rest s q.held)
  exact rest
theorem sealOf_net (q : Quiet s) : (sealOf s).net = s.net := by
  have rest := congrArg State.net (sealRun_rest s q.held)
  exact rest
theorem rdG_sealOf (q : Quiet s) (a : GReg) : rdG (sealOf s) a = rdG s a := (keepsRun_seal q).rdG a
theorem sub_sealOf (q : Quiet s) : (me (sealOf s)).sub = 0 := (keepsRun_seal q).sub.trans q.sub

/-! ## Privileged instructions (R88, R214, R215) -/

theorem privileged_unprivileged {h : Hdr} {rs : List Rn} {k : State → State} (p : (me s).priv = false) :
    privileged h rs k s = .next (raiseDec cPRIV s) := by
  rw [privileged, p]; exact issue_priv s k

/-- Every privileged instruction faults PRIV in an unprivileged context. -/
theorem exec_unprivileged (h : Hdr) (d a b : GReg) (f : Bool) (n : Fin 8) (z : Fin 16777216) (p : (me s).priv = false) :
    ∀ i ∈ [Instr.shoot h d a b, .fairctlResume h d a f, .fairctlDrop h d a f, .fairctlStat h d f, .swapctlWindow h d b n,
      .swapctlTheta h d b n, .swapctlEnable h d b n, .swapctlRead h d n, .crinit h a b z, .crinitUnbind h a],
      exec i s = .next (raiseDec cPRIV s) := by
  simp only [List.forall_mem_cons, List.not_mem_nil, false_imp_iff, implies_true, and_true]
  exact ⟨privileged_unprivileged p, privileged_unprivileged p, privileged_unprivileged p, privileged_unprivileged p,
    privileged_unprivileged p, privileged_unprivileged p, privileged_unprivileged p, privileged_unprivileged p,
    by rw [exec_crinit]; exact privileged_unprivileged p, privileged_unprivileged p⟩

/-! ### SWAPCTL -/

@[simp] theorem dieAt_updDie_self (s : State) (d : Nat) (f : Die → Die) : dieAt (updDie s d f) d = f (dieAt s d) := sread_sset_self ..

/-- A SWAPCTL form that writes a field of a die: the next run begins, g[d] is left, and of the die f is written. -/
theorem swapctl_writes {h : Hdr} {d b : GReg} {n : Nat} {f : State → Die → Die} (c : Issues h [.g d, .g b] s) (p : (me s).priv = true)
    (q : Quiet s) (reads : f (sealOf s) = f s) :
    ∃ t, swapctl h d b (fun s => updDie s n (f s)) s = .next t ∧ NextRun s t (me s).regs ∧ dieAt t n = f s (dieAt s n) := by
  have set : KeepsRun (sealOf s) (updDie (sealOf s) n (f (sealOf s))) := keepsRun_of_crofts rfl rfl rfl
  refine ⟨_, privileged_seal p q c, nextRun_retire ((keepsRun_seal q).trans set), ?_⟩
  show dieAt (updDie (sealOf s) n (f (sealOf s))) n = _
  rw [dieAt_updDie_self, reads, dieAt, dieAt, sealOf_dies q]

/-- What SWAPCTL reads of a die: the window in bits 24 to 0, the enable in bit 31, theta above. -/
def swapWord (k : Die) : W64 := BitVec.ofNat 64 (k.window % 2 ^ 25 + k.enable.toNat * 2 ^ 31 + k.theta % 2 ^ 32 * 2 ^ 32)

theorem swapWord_fields (k : Die) : (swapWord k).toNat % 2 ^ 25 = k.window % 2 ^ 25 ∧ (swapWord k).getLsbD 31 = k.enable ∧
    (swapWord k).toNat / 2 ^ 32 = k.theta % 2 ^ 32 := by
  have bit := bit_le1 k.enable
  have n : (swapWord k).toNat = k.window % 2 ^ 25 + k.enable.toNat * 2 ^ 31 + k.theta % 2 ^ 32 * 2 ^ 32 := by
    rw [swapWord, BitVec.toNat_ofNat]
    exact Nat.mod_eq_of_lt (by omega)
  refine ⟨by omega, ?_, by omega⟩
  have enable : (swapWord k).toNat / 2 ^ 31 % 2 = k.enable.toNat := by omega
  rw [BitVec.getLsbD, Nat.testBit_eq_decide_div_mod_eq, enable]
  cases k.enable <;> rfl

theorem swapctlRead_reads {h : Hdr} {d : GReg} {n : Fin 8} (c : Issues h [.g d] s) (p : (me s).priv = true) (q : Quiet s) :
    ∃ t, exec (.swapctlRead h d n) s = .next t ∧ NextRun s t (putG (me s).regs d (swapWord (dieAt s n.val))) := by
  refine ⟨_, (exec_swapctlRead h d n s).trans (privileged_seal p q c), ?_⟩
  have die : dieAt (sealOf s) n.val = dieAt s n.val := by rw [dieAt, dieAt, sealOf_dies q]
  rw [die]
  exact nextRun_wrG (keepsRun_seal q) ..

/-! ### FAIRCTL .stat -/

theorem fairctlStat_counts {h : Hdr} {d : GReg} {f : Bool} (c : Issues h [.g d] s) (p : (me s).priv = true) (q : Quiet s) :
    let k := fairAt s f.toNat
    ∃ t, exec (.fairctlStat h d f) s = .next t ∧ NextRun s t (putG (me s).regs d (BitVec.ofNat 64
      (((hiresOf k).filter fun x => x.state == 1).length
        + (if s.mgmt.floors.getLsbD f.toNat then (freeThreshers k).length else 0) * 2 ^ 16
        + ((hiresOf k).filter fun x => x.rick).length * 2 ^ 24))) := by
  intro k
  refine ⟨_, (exec_fairctlStat h d f s).trans (privileged_seal p q c), ?_⟩
  have fair : fairAt (sealOf s) f.toNat = k := by rw [fairAt, sealOf_fairs q]; rfl
  have up : floorUp (sealOf s) f.toNat = s.mgmt.floors.getLsbD f.toNat := by rw [floorUp, sealOf_mgmt q]
  simp only [fair, up, apply_ite List.length]
  exact nextRun_wrG (keepsRun_seal q) ..

end Sys2Proof.Machine
end

section
namespace Sys2Proof.Machine

/-! ## Hires by their ids (R199) -/

section
variable {α : Type}

/-- What a search for key k finds after that key is set: the value set, if it passes. -/
theorem find_sset_self (m : Sparse α) (k : Nat) (v : α) (p : α → Bool) :
    (sset m k v).find? (fun e => e.1 == k && p e.2) = if p v then some (k, v) else none := by
  have absent (l : Sparse α) (other : ∀ e ∈ l, e.1 ≠ k) : l.find? (fun e => e.1 == k && p e.2) = none :=
    List.find?_eq_none.mpr fun e m => by simp [other e m]
  have keys := sdel_keys m k
  rw [sset]
  generalize sdel m k = l at keys ⊢
  induction l with
  | nil => cases h : p v <;> simp [sput, h]
  | cons e l ih =>
    have ne : e.1 ≠ k := keys e List.mem_cons_self
    have rest := fun x m => keys x (List.mem_cons_of_mem _ m)
    rw [sput]
    split
    · cases h : p v
      · simp [h, ne, absent l rest]
      · simp [h]
    · rw [List.find?_cons_of_neg (by simp [ne])]
      exact ih rest

/-- A search for another key finds what it did. -/
theorem find_sset_ne (m : Sparse α) {k j : Nat} (v : α) (p : α → Bool) (ne : j ≠ k) :
    (sset m k v).find? (fun e => e.1 == j && p e.2) = m.find? (fun e => e.1 == j && p e.2) := by
  have put (l : Sparse α) : (sput l k v).find? (fun e => e.1 == j && p e.2) = l.find? (fun e => e.1 == j && p e.2) := by
    induction l with
    | nil => simp [sput, Ne.symm ne]
    | cons e l ih =>
      rw [sput]
      split
      · rw [List.find?_cons_of_neg (by simp [Ne.symm ne])]
      · simp only [List.find?_cons, ih]
  have del : (sdel m k).find? (fun e => e.1 == j && p e.2) = m.find? (fun e => e.1 == j && p e.2) := by
    induction m with
    | nil => rfl
    | cons e l ih =>
      rw [sdel]
      split
      · rename_i here
        rw [ih, List.find?_cons_of_neg (by simp [here, Ne.symm ne])]
      · simp only [List.find?_cons, ih]
  rw [sset, put, del]
end

variable {s t : State}

theorem hireAt_eq (s : State) (id : Nat) :
    hireAt s id = ((fairAt s (id % 2)).hires.find? fun e => e.1 == hireEntry id && e.2.id == id).map Prod.snd := by
  rw [hireAt]
  cases (fairAt s (id % 2)).hires.find? fun e => e.1 == hireEntry id && e.2.id == id <;> rfl

theorem hireAt_congr (fairs : t.fairs = s.fairs) (id : Nat) : hireAt t id = hireAt s id := by
  rw [hireAt, hireAt, fairAt, fairAt, fairs]

/-- A hire found by its id has it. -/
theorem id_of_hireAt {id : Nat} {h : Hire} (e : hireAt s id = some h) : h.id = id := by
  rw [hireAt_eq, Option.map_eq_some_iff] at e
  obtain ⟨x, found, rfl⟩ := e
  have := List.find?_some found
  simp only [Bool.and_eq_true, beq_iff_eq] at this
  exact this.2

@[simp] theorem fairAt_updFair_self (s : State) (f : Nat) (k : Fair → Fair) : fairAt (updFair s f k) f = k (fairAt s f) := sread_sset_self ..
theorem fairAt_updFair_ne (s : State) {f g : Nat} (k : Fair → Fair) (ne : g ≠ f) : fairAt (updFair s f k) g = fairAt s g :=
  sread_sset_ne _ _ _ ne

/-- A change of a fair that leaves its hires. -/
theorem hireAt_updFair (s : State) (f : Nat) {k : Fair → Fair} (keeps : ∀ x, (k x).hires = x.hires) (id : Nat) :
    hireAt (updFair s f k) id = hireAt s id := by
  rw [hireAt, hireAt]
  by_cases here : id % 2 = f
  · subst here; rw [fairAt_updFair_self, keeps]
  · rw [fairAt_updFair_ne _ _ here]

theorem updHire_some {id : Nat} {h : Hire} (f : Hire → Hire) (e : hireAt s id = some h) :
    updHire s id f = updFair s (id % 2) fun k => { k with hires := sset k.hires (hireEntry id) (f h) } := by
  simp only [updHire, e]
theorem updHire_none {id : Nat} (f : Hire → Hire) (e : hireAt s id = none) : updHire s id f = s := by
  simp only [updHire, e]

theorem hireAt_updHire_self {id : Nat} {h : Hire} {f : Hire → Hire} (e : hireAt s id = some h) (keeps : (f h).id = h.id) :
    hireAt (updHire s id f) id = some (f h) := by
  have same : (f h).id = id := keeps.trans (id_of_hireAt e)
  rw [updHire_some f e, hireAt_eq, fairAt_updFair_self]
  dsimp only
  rw [find_sset_self _ _ _ fun x : Hire => x.id == id]
  simp [same]

/-- After a hire is written, its entry holds no other. -/
theorem hireAt_updHire_shared {id j : Nat} {h : Hire} {f : Hire → Hire} (e : hireAt s id = some h) (keeps : (f h).id = h.id)
    (floor : j % 2 = id % 2) (entry : hireEntry j = hireEntry id) (ne : j ≠ id) : hireAt (updHire s id f) j = none := by
  have other : (f h).id ≠ j := by rw [keeps, id_of_hireAt e]; exact ne.symm
  rw [updHire_some f e, hireAt_eq, floor, fairAt_updFair_self, entry]
  dsimp only
  rw [find_sset_self _ _ _ fun x : Hire => x.id == j]
  simp [other]

/-- A hire of another entry or another floor is left. -/
theorem hireAt_updHire_apart (s : State) {id j : Nat} (f : Hire → Hire) (apart : j % 2 ≠ id % 2 ∨ hireEntry j ≠ hireEntry id) :
    hireAt (updHire s id f) j = hireAt s j := by
  cases e : hireAt s id with
  | none => rw [updHire_none f e]
  | some h =>
    rw [updHire_some f e, hireAt_eq, hireAt_eq]
    by_cases floor : j % 2 = id % 2
    · rw [floor, fairAt_updFair_self]
      dsimp only
      rw [find_sset_ne _ _ (fun x : Hire => x.id == j) (apart.resolve_left (· floor))]
    · rw [fairAt_updFair_ne _ _ floor]

theorem updHire_fields (s : State) (id : Nat) (f : Hire → Hire) : { updHire s id f with fairs := s.fairs } = s := by
  unfold updHire
  cases hireAt s id <;> rfl

theorem keepsRun_updHire (s : State) (id : Nat) (f : Hire → Hire) : KeepsRun s (updHire s id f) := by
  have fields := updHire_fields s id f
  have crofts := congrArg State.crofts fields
  have mem := congrArg State.mem fields
  have cur := congrArg State.cur fields
  exact keepsRun_of_crofts crofts mem cur

end Sys2Proof.Machine
end

section
namespace Sys2Proof.Machine

variable {s t : State}

/-! ## FAIRCTL .resume and .drop (R202, R215) -/

/-- The hire of a floor is found by its own id. -/
theorem hireAt_of_floorHire {a : GReg} {f : Bool} {x : Hire} (e : floorHire s a f = some x) : hireAt s x.id = some x := by
  rw [floorHire] at e
  cases found : hireAt s (rdG s a).toNat with
  | none => simp only [found, reduceCtorEq] at e
  | some y =>
    simp only [found, Option.ite_none_right_eq_some, Option.some.injEq] at e
    obtain ⟨-, rfl⟩ := e
    rw [id_of_hireAt found]; exact found

theorem floorHire_sealOf (q : Quiet s) (a : GReg) (f : Bool) : floorHire (sealOf s) a f = floorHire s a f := by
  rw [floorHire, floorHire, rdG_sealOf q, hireAt_congr (sealOf_fairs q)]

theorem hireAt_sealOf (q : Quiet s) (id : Nat) : hireAt (sealOf s) id = hireAt s id := hireAt_congr (sealOf_fairs q) id

/-- The status word of a hire (R202). -/
def statusOf (st : Nat) (lf : Bool) (x : Hire) : W64 :=
  BitVec.ofNat 64 (st + x.bad.toNat * 2 ^ 8 + x.clamp.toNat * 2 ^ 9 + lf.toNat * 2 ^ 10 + x.sent % 2 ^ 16 * 2 ^ 16)

theorem hireStatus_of {id : Nat} {x : Hire} (e : hireAt s id = some x) : BitVec.ofNat 64 (hireStatus s id) = statusOf x.state x.lfault x := by
  rw [hireStatus, e]; rfl

/-- The end of a run with g[d] written leaves every fair, and so every hire. -/
theorem retireRunNext_fairs (u : State) (d : GReg) (v : W64) : (retireRunNext (wrG u d v)).fairs = u.fairs := rfl
theorem hireAt_retireRunNext (u : State) (d : GReg) (v : W64) (id : Nat) : hireAt (retireRunNext (wrG u d v)) id = hireAt u id :=
  hireAt_congr (retireRunNext_fairs u d v) id

/-- Packets sent one after another stand on the way in their order. -/
theorem foldl_send {α : Type} (g : α → Flight) (l : List α) (u : State) :
    l.foldl (fun s e => send s (g e)) u = { u with net := u.net ++ l.map g } := by
  induction l generalizing u with
  | nil => simp
  | cons e l ih => rw [List.foldl_cons, ih]; simp [send]

/-! ### .resume -/

/-- A hire that stands is queued again; its parked packets have gone home (R215, R267). -/
theorem resumeHire_standing {id : Nat} {x : Hire} (e : hireAt s id = some x) (stands : x.state = 3) (kept : x.dropping = false) :
    ∃ y, KeepsRun s (resumeHire s id) ∧ hireAt (resumeHire s id) id = some y ∧ y.state = 1 ∧ y.resumed = true ∧ y.parked = [] ∧
      statusOf y.state y.lfault y = statusOf 1 false x := by
  have at_ : hireAt (bayDiscard s id) id = some x := e
  simp only [resumeHire, e, stands, kept, bne_self_eq_false, Bool.or_self, Bool.false_eq_true, if_false]
  rw [foldl_send fun r : Req => ⟨[5, r.res.chan], .home r, none⟩]
  have sends (u : State) (l : List Flight) : KeepsRun u { u with net := u.net ++ l } := keepsRun_of_crofts rfl rfl rfl
  have bay : KeepsRun s (bayDiscard s id) := keepsRun_of_crofts rfl rfl rfl
  refine ⟨_, (bay.trans (keepsRun_updHire ..)).trans (sends _ _), (hireAt_congr rfl id).trans (hireAt_updHire_self at_ rfl), ?_⟩
  exact ⟨rfl, rfl, rfl, rfl⟩

theorem resumeHire_other {id : Nat} {x : Hire} (e : hireAt s id = some x) (moves : x.state ≠ 3) : resumeHire s id = s := by
  have ne : (x.state != 3) = true := bne_iff_ne.mpr moves
  simp only [resumeHire, e, ne, Bool.true_or, if_true]

section
variable {h : Hdr} {d a : GReg} {f : Bool} (c : Issues h [.g d, .g a] s) (p : (me s).priv = true) (q : Quiet s)
include c p q

theorem fairctlResume_none (absent : floorHire s a f = none) :
    ∃ t, exec (.fairctlResume h d a f) s = .next t ∧ NextRun s t (putG (me s).regs d 0) := by
  refine ⟨_, (exec_fairctlResume h d a f s).trans (privileged_seal p q c), ?_⟩
  simp only [floorHire_sealOf q, absent]
  exact nextRun_wrG (keepsRun_seal q) ..

theorem fairctlResume_standing {x : Hire} (e : floorHire s a f = some x) (stands : x.state = 3) (kept : x.dropping = false) :
    ∃ t y, exec (.fairctlResume h d a f) s = .next t ∧ NextRun s t (putG (me s).regs d (statusOf 1 false x)) ∧
      hireAt t x.id = some y ∧ y.state = 1 ∧ y.resumed = true ∧ y.parked = [] := by
  obtain ⟨y, run, found, state, resumed, parked, status⟩ :=
    resumeHire_standing ((hireAt_sealOf q x.id).trans (hireAt_of_floorHire e)) stands kept
  refine ⟨_, y, (exec_fairctlResume h d a f s).trans (privileged_seal p q c), ?_, ?_, state, resumed, parked⟩
  · simp only [floorHire_sealOf q, e, hireStatus_of found, status]
    exact nextRun_wrG ((keepsRun_seal q).trans run) ..
  · simp only [floorHire_sealOf q, e, hireAt_retireRunNext]
    exact found

theorem fairctlResume_other {x : Hire} (e : floorHire s a f = some x) (moves : x.state ≠ 3) :
    ∃ t, exec (.fairctlResume h d a f) s = .next t ∧ NextRun s t (putG (me s).regs d (statusOf x.state x.lfault x)) ∧
      t.fairs = s.fairs := by
  have found : hireAt (sealOf s) x.id = some x := (hireAt_sealOf q x.id).trans (hireAt_of_floorHire e)
  refine ⟨_, (exec_fairctlResume h d a f s).trans (privileged_seal p q c), ?_, ?_⟩
  · simp only [floorHire_sealOf q, e, resumeHire_other found moves, hireStatus_of found]
    exact nextRun_wrG (keepsRun_seal q) ..
  · simp only [floorHire_sealOf q, e, resumeHire_other found moves]
    exact (retireRunNext_fairs ..).trans (sealOf_fairs q)
end

/-! ### The drop of a hire (R202, R264) -/

/-- Hire x is being dropped: it is found with what it issued and counted, and its entry holds no other hire. -/
structure Dropping (x : Hire) (s : State) : Prop where
  found : ∃ y, hireAt s x.id = some y ∧ y.dropping = true ∧ y.issued = x.issued ∧ y.counted = x.counted
  alone : ∀ j, j ≠ x.id → j % 2 = x.id % 2 → hireEntry j = hireEntry x.id → hireAt s j = none

/-- A part of the drop of hire x: the acting run stands, and so does the drop. -/
structure DropStep (x : Hire) (s t : State) : Prop where
  run : KeepsRun s t
  hire : Dropping x s → Dropping x t

variable {x : Hire}

theorem DropStep.refl (x : Hire) (s : State) : DropStep x s s := ⟨.refl s, id⟩
theorem DropStep.trans {u : State} (a : DropStep x s t) (b : DropStep x t u) : DropStep x s u :=
  ⟨a.run.trans b.run, b.hire ∘ a.hire⟩

theorem dropStep_foldl {α : Type} {step : State → α → State} (keeps : ∀ t y, DropStep x t (step t y)) (l : List α) :
    ∀ t, DropStep x t (l.foldl step t) := by
  induction l with
  | nil => exact .refl x
  | cons y l ih => exact fun t => (keeps t y).trans (ih _)

theorem dropStep_of_hires (run : KeepsRun s t) (hires : ∀ id, hireAt t id = hireAt s id) : DropStep x s t :=
  ⟨run, fun d => ⟨by simpa only [hires] using d.found, by simpa only [hires] using d.alone⟩⟩

theorem dropStep_of_fairs (run : KeepsRun s t) (fairs : t.fairs = s.fairs) : DropStep x s t :=
  dropStep_of_hires run (hireAt_congr fairs)

theorem dropStep_updFair (s : State) (f : Nat) {k : Fair → Fair} (keeps : ∀ y, (k y).hires = y.hires) : DropStep x s (updFair s f k) :=
  dropStep_of_hires (keepsRun_of_crofts rfl rfl rfl) (hireAt_updFair s f keeps)

/-- A write of any hire that leaves what a drop reads of it: another hire of x's entry is not there to be written. -/
theorem dropStep_updHire (s : State) (id : Nat) {f : Hire → Hire}
    (keeps : ∀ y, ((f y).id, (f y).dropping, (f y).issued, (f y).counted) = (y.id, y.dropping, y.issued, y.counted)) :
    DropStep x s (updHire s id f) := by
  refine ⟨keepsRun_updHire .., fun ⟨⟨y, found, dropping, issued, counted⟩, alone⟩ => ?_⟩
  by_cases same : id = x.id
  · subst same
    have kept := keeps y
    simp only [Prod.mk.injEq] at kept
    obtain ⟨kId, kDropping, kIssued, kCounted⟩ := kept
    exact ⟨⟨f y, hireAt_updHire_self found kId, kDropping.trans dropping, kIssued.trans issued, kCounted.trans counted⟩,
      fun j ne floor entry => hireAt_updHire_shared found kId floor entry ne⟩
  by_cases shares : id % 2 = x.id % 2 ∧ hireEntry id = hireEntry x.id
  · rw [updHire_none f (alone id same shares.1 shares.2)]
    exact ⟨⟨y, found, dropping, issued, counted⟩, alone⟩
  · have apart {j : Nat} (floor : j % 2 = x.id % 2) (entry : hireEntry j = hireEntry x.id) :
        hireAt (updHire s id f) j = hireAt s j :=
      hireAt_updHire_apart s f (by rw [floor, entry]; exact not_and_or.mp fun h => shares ⟨h.1.symm, h.2.symm⟩)
    exact ⟨⟨y, (apart rfl rfl).trans found, dropping, issued, counted⟩,
      fun j ne floor entry => (apart floor entry).trans (alone j ne floor entry)⟩

/-- The write that begins the drop. -/
theorem dropping_updHire {f : Hire → Hire} (e : hireAt s x.id = some x)
    (drops : ((f x).id, (f x).dropping, (f x).issued, (f x).counted) = (x.id, true, x.issued, x.counted)) :
    Dropping x (updHire s x.id f) := by
  simp only [Prod.mk.injEq] at drops
  obtain ⟨kId, dropping, issued, counted⟩ := drops
  exact ⟨⟨f x, hireAt_updHire_self e kId, dropping, issued, counted⟩,
    fun j ne floor entry => hireAt_updHire_shared e kId floor entry ne⟩

theorem dropStep_freeRingOf (s : State) (h : Hire) : DropStep x s (freeRingOf s h) :=
  dropStep_of_fairs (keepsRun_of_crofts rfl rfl rfl) rfl

theorem keepsRun_endHire (s : State) (h : Hire) : KeepsRun s (endHire s h) := by
  rw [endHire]
  cases findName s h.req.who.ten h.req.who.name with
  | none => exact keepsRun_of_crofts rfl rfl rfl
  | some _ => exact keepsRun_updCtx fun _ => rfl

theorem endHire_fairs (s : State) (h : Hire) : (endHire s h).fairs = s.fairs := by
  rw [endHire]
  cases findName s h.req.who.ten h.req.who.name <;> rfl

theorem dropStep_endHire (s : State) (h : Hire) : DropStep x s (endHire s h) :=
  dropStep_of_fairs (keepsRun_endHire s h) (endHire_fairs s h)

/-- A hire of a dropped chain, as it is written. -/
def stoppedHire (h : Hire) : Hire :=
  { h with state := 6, thr := none, summed := false, stopped := true, blocksA := [], blocksB := [] }
/-- A hire of a dropped chain is stopped and ends. -/
def stopHire (s : State) (h : Hire) : State :=
  endHire (if isQueued h then freeRingOf (updHire s h.id stoppedHire) h else updHire s h.id stoppedHire) h

theorem dropStep_stopHire (s : State) (h : Hire) : DropStep x s (stopHire s h) := by
  have out : DropStep x s (updHire s h.id stoppedHire) := dropStep_updHire s h.id fun _ => rfl
  refine DropStep.trans ?_ (dropStep_endHire ..)
  split
  · exact out.trans (dropStep_freeRingOf ..)
  · exact out

theorem dropStep_dropChain (s : State) (f id : Nat) : DropStep x s (dropChain s f id) := by
  have chains : DropStep x s (updFair s f fun k => { k with chains := k.chains.filter fun c => c.id != id }) :=
    dropStep_updFair s f fun _ => rfl
  have stops := chains.trans (dropStep_foldl dropStep_stopHire
    ((hiresOf (fairAt s f)).filter fun h => h.chain == id && !h.dropping && (isQueued h || h.state == 2)) _)
  exact stops.trans (dropStep_updFair _ f fun _ => rfl)

/-- One that waits for the drop of hire id is answered with the n packets counted. -/
def answerDrop (id n : Nat) (s : State) (a : Agent) : State :=
  match (findAgent s a).filter fun x => (ctxAt s x.1 x.2).sub == subDrop id with
  | some (c, i) => updCtx s c i fun k => { k with sub := subDropped n }
  | none => send s ⟨[], .reply a (okReply 0 8 n), none⟩

theorem answerDrops_some {id : Nat} {h : Hire} (e : hireAt s id = some h) :
    answerDrops s id = updHire (h.waiters.foldl (answerDrop id h.counted.length) s) id fun h => { h with waiters := [] } := by
  simp only [answerDrops, e]; rfl

/-- A context that waits for no drop is left as it is. -/
theorem dropStep_answerDrop (id n : Nat) (a : Agent) (idle : (me s).sub = 0) : DropStep x s (answerDrop id n s a) := by
  rw [answerDrop]
  cases turn : (findAgent s a).filter fun x => (ctxAt s x.1 x.2).sub == subDrop id with
  | none => exact dropStep_of_fairs (keepsRun_of_crofts rfl rfl rfl) rfl
  | some at_ =>
    refine dropStep_of_fairs (keepsRun_updCtx fun here => ?_) rfl
    obtain ⟨-, waits⟩ := Option.filter_eq_some_iff.mp turn
    have sub : (ctxAt s at_.1 at_.2).sub = subDrop id := by simpa using waits
    have mine : (me s).sub = subDrop id := by rw [me, ← here]; exact sub
    rw [idle, subDrop] at mine
    omega

theorem dropStep_answerDrops {id : Nat} (idle : (me s).sub = 0) : DropStep x s (answerDrops s id) := by
  cases e : hireAt s id with
  | none => simp only [answerDrops, e]; exact .refl x s
  | some h =>
    have answers : ∀ l : List Agent, ∀ u, (me u).sub = 0 → DropStep x u (l.foldl (answerDrop id h.counted.length) u) := by
      intro l
      induction l with
      | nil => exact fun u _ => .refl x u
      | cons a l ih =>
        intro u still
        have one : DropStep x u (answerDrop id h.counted.length u a) := dropStep_answerDrop id _ a still
        exact one.trans (ih _ (one.run.sub.trans still))
    rw [answerDrops_some e]
    exact (answers h.waiters s idle).trans (dropStep_updHire _ _ fun _ => rfl)

/-- The drop of a hire that has issued nothing ends at once. -/
theorem settleDrop_settles (drop : Dropping x s) (nothing : x.issued = []) (idle : (me s).sub = 0) :
    ∃ y, KeepsRun s (settleDrop s x.id) ∧ hireAt (settleDrop s x.id) x.id = some y ∧ y.state = 6 ∧ y.dropping = false ∧
      y.counted = x.counted := by
  obtain ⟨y, found, dropping, issued, -⟩ := drop.found
  have answered : DropStep x s (answerDrops s x.id) := dropStep_answerDrops idle
  obtain ⟨z, foundZ, -, -, countedZ⟩ := (answered.hire drop).found
  simp only [settleDrop, found, dropping, issued, nothing, List.all_nil, Bool.and_self, if_true]
  refine ⟨_, (answered.run.trans (keepsRun_updHire ..)).trans (keepsRun_endHire ..),
    (hireAt_congr (endHire_fairs ..) x.id).trans (hireAt_updHire_self foundZ rfl), ?_⟩
  exact ⟨rfl, rfl, countedZ⟩

theorem dropHire_ended {id : Nat} (e : hireAt s id = some x) (ended : x.live = false) : dropHire s id = s := by
  simp only [dropHire, e, ended, Bool.not_false, Bool.true_or, if_true]

/-- Hire x as its drop begins. -/
def begunDrop (s : State) (x : Hire) (h : Hire) : Hire :=
  { h with dropping := true, stopped := true, summed := false, lfault := false, parked := h.parked ++ bayOf s x.id
           state := if h.state = 1 && !h.resumed then 6 else h.state }
/-- The state in which the drop of hire x has begun. -/
def dropBegins (s : State) (x : Hire) : State := updHire s x.id (begunDrop s x)
/-- The state in which the drop of hire x waits only for its issued packets: its ring entry, its chain and its parked packets are gone. -/
def dropAwaits (s : State) (x : Hire) : State :=
  bayDiscard (dropChain (if isQueued x then freeRingOf (dropBegins s x) x else dropBegins s x) (x.id % 2) x.chain) x.id

theorem dropHire_live (e : hireAt s x.id = some x) (lives : x.live = true) (kept : x.dropping = false) :
    dropHire s x.id = settleDrop (dropAwaits s x) x.id := by
  simp only [dropHire, e, lives, kept, Bool.not_true, Bool.or_self, Bool.false_eq_true, if_false]; rfl

theorem dropStep_dropAwaits (s : State) (x : Hire) : DropStep x (dropBegins s x) (dropAwaits s x) := by
  have ring : DropStep x (dropBegins s x) (if isQueued x then freeRingOf (dropBegins s x) x else dropBegins s x) := by
    split
    · exact dropStep_freeRingOf ..
    · exact .refl ..
  exact (ring.trans (dropStep_dropChain ..)).trans (dropStep_of_fairs (keepsRun_of_crofts rfl rfl rfl) rfl)

theorem dropHire_drops (e : hireAt s x.id = some x) (lives : x.live = true) (kept : x.dropping = false) (nothing : x.issued = [])
    (idle : (me s).sub = 0) :
    ∃ y, KeepsRun s (dropHire s x.id) ∧ hireAt (dropHire s x.id) x.id = some y ∧ y.state = 6 ∧ y.dropping = false ∧
      y.counted = x.counted := by
  have steps := dropStep_dropAwaits s x
  have run : KeepsRun s (dropAwaits s x) := (keepsRun_updHire s x.id _).trans steps.run
  have drop : Dropping x (dropAwaits s x) := steps.hire (dropping_updHire e rfl)
  obtain ⟨y, settles, found⟩ := settleDrop_settles drop nothing (run.sub.trans idle)
  rw [dropHire_live e lives kept]
  exact ⟨y, run.trans settles, found⟩

section
variable {h : Hdr} {d a : GReg} {f : Bool} (c : Issues h [.g d, .g a] s) (p : (me s).priv = true) (q : Quiet s)
include c p q

/-- A FAIRCTL .drop that has just come to its seal point: what it does, by its hire. -/
theorem exec_fairctlDrop_begins : exec (.fairctlDrop h d a f) s = .next (
    match floorHire s a f with
    | none => retireRunNext (wrG (sealOf s) d 0)
    | some x =>
      let u := dropHire (sealOf s) x.id
      match hireAt u x.id with
      | some y =>
        if y.dropping then
          waitTurn (setSub (subDrop y.id) (updHire u y.id fun h => { h with waiters := h.waiters ++ [meAgent u] }))
        else retireRunNext (wrG u d (BitVec.ofNat 64 y.counted.length))
      | none => retireRunNext (wrG u d 0)) := by
  have fresh : ¬ subDropped 0 ≤ 0 := by rw [subDropped]; omega
  rw [exec_fairctlDrop, execFairctlDrop, privileged_seal p q c]
  simp only [sub_sealOf q, fresh, if_false, bne_self_eq_false, Bool.false_eq_true, floorHire_sealOf q]
  cases floorHire s a f with
  | none => rfl
  | some x => cases hireAt (dropHire (sealOf s) x.id) x.id <;> rfl

theorem fairctlDrop_none (absent : floorHire s a f = none) :
    ∃ t, exec (.fairctlDrop h d a f) s = .next t ∧ NextRun s t (putG (me s).regs d 0) := by
  refine ⟨_, exec_fairctlDrop_begins c p q, ?_⟩
  simp only [absent]
  exact nextRun_wrG (keepsRun_seal q) ..

theorem fairctlDrop_ended (e : floorHire s a f = some x) (ended : x.live = false) (kept : x.dropping = false) :
    ∃ t, exec (.fairctlDrop h d a f) s = .next t ∧ NextRun s t (putG (me s).regs d (BitVec.ofNat 64 x.counted.length)) ∧
      t.fairs = s.fairs := by
  have found : hireAt (sealOf s) x.id = some x := (hireAt_sealOf q x.id).trans (hireAt_of_floorHire e)
  refine ⟨_, exec_fairctlDrop_begins c p q, ?_⟩
  simp only [e, dropHire_ended found ended, found, kept, Bool.false_eq_true, if_false]
  exact ⟨nextRun_wrG (keepsRun_seal q) .., (retireRunNext_fairs ..).trans (sealOf_fairs q)⟩

theorem fairctlDrop_drops (e : floorHire s a f = some x) (lives : x.live = true) (kept : x.dropping = false)
    (nothing : x.issued = []) :
    ∃ t y, exec (.fairctlDrop h d a f) s = .next t ∧ NextRun s t (putG (me s).regs d (BitVec.ofNat 64 x.counted.length)) ∧
      hireAt t x.id = some y ∧ y.state = 6 := by
  have idle := sub_sealOf q
  obtain ⟨y, run, found, state, dropping, counted⟩ :=
    dropHire_drops ((hireAt_sealOf q x.id).trans (hireAt_of_floorHire e)) lives kept nothing idle
  refine ⟨_, y, exec_fairctlDrop_begins c p q, ?_⟩
  simp only [e, found, dropping, Bool.false_eq_true, if_false, hireAt_retireRunNext, counted]
  exact ⟨nextRun_wrG ((keepsRun_seal q).trans run) .., trivial, state⟩
end

end Sys2Proof.Machine
end

section
namespace Sys2Proof.Machine

variable {s t u : State}

/-! ## SHOOT (R349) -/

/-- A range that covers an address by numbers of one range only. -/
theorem inRange_one (r : Nat × Nat) (g : W32) (va : Nat) : inRange ⟨[r], g⟩ va = true ↔ r.1 ≤ va ∧ va < r.2 := by
  simp [inRange]

/-- A part of a SHOOT that touches no run, no set, no barn and no translation. -/
structure ShootStep (s t : State) : Prop where
  run : KeepsRun s t
  sets : t.sets = s.sets
  banks : t.banks = s.banks
  tlbs : t.chans.map (fun e => e.2.tlb) = s.chans.map fun e => e.2.tlb

theorem ShootStep.trans (a : ShootStep s t) (b : ShootStep t u) : ShootStep s u :=
  ⟨a.run.trans b.run, b.sets.trans a.sets, b.banks.trans a.banks, b.tlbs.trans a.tlbs⟩

/-- A map of the crofts that leaves every context's run. -/
theorem keepsRun_mapCrofts {g : Croft → Croft} (crofts : t.crofts = s.crofts.map fun e => (e.1, g e.2)) (mem : t.mem = s.mem)
    (cur : t.cur = s.cur) (empty : g Croft.empty = Croft.empty)
    (keeps : ∀ k i, runPart (sread Context.empty (g k).ctxs i) = runPart (sread Context.empty k.ctxs i)) : KeepsRun s t := by
  refine ⟨?_, mem, cur⟩
  have croft : croftAt t s.cur.1 = g (croftAt s s.cur.1) := by rw [croftAt, crofts, sread_map g empty]; rfl
  rw [me, me, ctxAt, ctxAt, cur, croft]
  exact keeps ..

theorem runPart_mapCtxs {g : Context → Context} (empty : g Context.empty = Context.empty) (keeps : ∀ k, runPart (g k) = runPart k)
    (m : Sparse Context) (i : Nat) :
    runPart (sread Context.empty (m.map fun e => (e.1, g e.2)) i) = runPart (sread Context.empty m i) := by
  rw [sread_map g empty]; exact keeps _

/-- Clean lines are not written back. -/
theorem foldl_writeBack_clean {ls : List Line} (clean : ∀ l ∈ ls, l.dirty = false) : ls.foldl writeBack s = s := by
  induction ls with
  | nil => rfl
  | cons l ls ih =>
    rw [List.forall_mem_cons] at clean
    rw [List.foldl_cons, writeBack, clean.1]
    exact ih clean.2

/-- A line that a SHOOT of a space drops, as the barns test it. -/
def shootHits (asid : Nat) (sh : Shoot) (l : Line) : Bool := (l.asid == asid || l.asid == 0xFFFF) && inRange sh (l.la * 64)

theorem shootHits_iff (asid : Nat) (r : Nat × Nat) (g : W32) (l : Line) :
    shootHits asid ⟨[r], g⟩ l = true ↔ inShoot asid r l.asid l.la := by
  simp only [shootHits, Bool.and_eq_true, Bool.or_eq_true, beq_iff_eq, inRange_one, inShoot]

/-- The barns without the lines that a SHOOT drops. -/
def barnsShot (asid : Nat) (sh : Shoot) (s : State) : State :=
  { s with banks := s.banks.map fun e => (e.1, { e.2 with lines := e.2.lines.filter fun l => !shootHits asid sh l }) }

theorem shootBanks_clean {asid : Nat} {sh : Shoot} (clean : ∀ e ∈ s.banks, ∀ l ∈ e.2.lines, shootHits asid sh l = true → l.dirty = false) :
    shootBanks s asid sh = barnsShot asid sh s := by
  have back : ∀ bs : Sparse Bank, (∀ e ∈ bs, ∀ l ∈ e.2.lines, shootHits asid sh l = true → l.dirty = false) →
      bs.foldl (fun s e => (e.2.lines.filter (shootHits asid sh)).foldl writeBack s) s = s := by
    intro bs
    induction bs with
    | nil => exact fun _ => rfl
    | cons e bs ih =>
      intro clean
      rw [List.forall_mem_cons] at clean
      rw [List.foldl_cons, foldl_writeBack_clean fun l m => clean.1 l (List.mem_filter.mp m).1 (List.mem_filter.mp m).2]
      exact ih clean.2
  exact congrArg (barnsShot asid sh) (back s.banks clean)

/-- A context without the fills on their way whose addresses are hit. -/
def shootCtx (hit : Nat → Bool) (x : Context) : Context :=
  { x with await := x.await.map fun a =>
      { a with fills := a.fills.filter fun l => !hit (l * (if a.left = 1 && a.fin == .none then 64 else 32)) } }
/-- A croft as a SHOOT of set b leaves it: its lines of the range and the fills of those on their way are gone. -/
def shootCroft (s : State) (b : Nat) (sh : Shoot) (k : Croft) : Croft :=
  let hit (va : Nat) : Bool := inRange sh va && !(coverOf (setAtId s b).windows va).elim false Window.g
  if k.tenant.elim false (inSet s b) then
    { k with l1 := k.l1.filter fun l => !(l.asid == (setAtId s b).asid && inRange sh (l.la * 32))
             icache := k.icache.filter fun l => !hit (l.la * 64), prefs := k.prefs.filter fun l => !hit (l.1 * 32)
             ctxs := k.ctxs.map fun e => (e.1, shootCtx hit e.2) }
  else k

theorem shootStep_shootCrofts (s : State) (b : Nat) (sh : Shoot) : ShootStep s (shootCrofts s b sh) := by
  have crofts : (shootCrofts s b sh).crofts = s.crofts.map fun e => (e.1, shootCroft s b sh e.2) := rfl
  refine ⟨keepsRun_mapCrofts crofts rfl rfl rfl fun k i => ?_, rfl, rfl, rfl⟩
  rw [shootCroft]
  split
  · exact runPart_mapCtxs (g := shootCtx _) rfl (fun _ => rfl) ..
  · rfl

theorem shootStep_shootNames (s : State) (asid : Nat) (sh : Shoot) : ShootStep s (shootNames s asid sh) :=
  ⟨keepsRun_of_crofts rfl rfl rfl, rfl, rfl, List.map_map⟩

/-- A wait that no resident report ends. -/
theorem reportPark_other {sh : Shoot} {p : Park} (kind : p.kind ≠ .resident) : reportPark sh p = p := by
  rw [reportPark, if_neg]
  simp [kind]

/-- A context, and a croft, as the resident reports of a SHOOT of set b leave it. -/
def reportCtx (sh : Shoot) (x : Context) : Context :=
  { x with park := x.park.map (reportPark sh)
           abp := x.abp.map fun a => if inRange sh a.1 && olderGen a.2.1 sh.gen then (a.1, a.2.1, true) else a }
def reportCroft (s : State) (b : Nat) (sh : Shoot) (k : Croft) : Croft :=
  if k.tenant.elim false (inSet s b) then { k with ctxs := k.ctxs.map fun x => (x.1, reportCtx sh x.2) } else k

/-- The resident reports to the contexts and the packets on their way. -/
def reportRuns (s : State) (b : Nat) (sh : Shoot) : State :=
  { s with crofts := s.crofts.map fun e => (e.1, reportCroft s b sh e.2)
           net := s.net.map fun f => { f with msg := reportMsg s b sh f.msg } }

theorem shootStep_reportRuns (s : State) (b : Nat) (sh : Shoot) : ShootStep s (reportRuns s b sh) := by
  refine ⟨keepsRun_mapCrofts rfl rfl rfl rfl fun k i => ?_, rfl, rfl, rfl⟩
  rw [reportCroft]
  split
  · exact runPart_mapCtxs (g := reportCtx sh) rfl (fun _ => rfl) ..
  · rfl

/-- A parked operation that the resident reports of a SHOOT send home again. -/
def reportsBay (asid : Nat) (sh : Shoot) (e : Bay) : Bool :=
  e.hire.isNone && e.req.res.asid == asid && inRange sh e.req.va && olderGen e.gen sh.gen

/-- The resident reports to the fault bays: their operations go home. -/
def reportBays (s : State) (asid : Nat) (sh : Shoot) : State :=
  (s.chans.flatMap fun e => (e.2.bay.filter (reportsBay asid sh)).map fun x => (e.1, x)).foldl
    (fun s e => send s ⟨[5, e.1], .home e.2.req, none⟩)
    { s with chans := s.chans.map fun e => (e.1, { e.2 with bay := e.2.bay.filter fun x => !reportsBay asid sh x }) }

theorem shootStep_reportBays (s : State) (asid : Nat) (sh : Shoot) : ShootStep s (reportBays s asid sh) := by
  rw [reportBays, foldl_send fun e : Nat × Bay => ⟨[5, e.1], .home e.2.req, none⟩]
  exact ⟨keepsRun_of_crofts rfl rfl rfl, rfl, rfl, List.map_map⟩

/-- Where no evicted continuation waits for a report, the contexts and the bays alone get one. -/
theorem shootReports_eq {b asid : Nat} {sh : Shoot}
    (parked : ∀ e ∈ s.tenants, ∀ x ∈ e.2.slots, ∀ p, x.2.evicted = some p → p.kind ≠ .resident) :
    shootReports s b asid sh = reportBays (reportRuns s b sh) asid sh := by
  have names : (s.tenants.filter fun e => inSet s b e.1).flatMap (fun e =>
      (e.2.slots.filter fun x => x.2.evicted.any fun p => (reportPark sh p).served && !p.served).map fun x => (e.1, x.1)) = [] := by
    rw [List.flatMap_eq_nil_iff]
    intro e m
    rw [List.map_eq_nil_iff, List.filter_eq_nil_iff]
    intro x mx
    cases was : x.2.evicted with
    | none => simp
    | some p => simp [reportPark_other (parked e (List.mem_filter.mp m).1 x mx p was)]
  have tell := congrArg (fun l : List (Nat × Nat) => reportBays (l.foldl (fun s n =>
    testEvicted (updSlot s n.1 n.2 fun k => { k with evicted := k.evicted.map (reportPark sh) }) n.1 n.2) (reportRuns s b sh)) asid sh) names
  exact tell

/-! ### The SHOOT completes -/

/-- The part of a SHOOT after its barns: crofts, frame names and reports. -/
def shootDrops (b asid : Nat) (sh : Shoot) (s : State) : State :=
  shootReports (shootNames (shootCrofts s b sh) asid sh) b asid sh
/-- A set in which a SHOOT has ended. -/
def endShoot (sh : Shoot) (x : TSet) : TSet :=
  { x with shoots := x.shoots.filter fun y => y.gen != sh.gen, stale := x.stale.flatMap (shootStale sh) }

theorem finishShoot_eq (s : State) (b : Nat) (sh : Shoot) : finishShoot s b sh =
    updSet (shootDrops b (setAtId s b).asid sh (shootBanks s (setAtId s b).asid sh)) b (endShoot sh) := rfl

theorem shootStep_shootDrops {b asid : Nat} {sh : Shoot}
    (parked : ∀ e ∈ s.tenants, ∀ x ∈ e.2.slots, ∀ p, x.2.evicted = some p → p.kind ≠ .resident) :
    ShootStep s (shootDrops b asid sh s) := by
  rw [shootDrops, shootReports_eq (s := shootNames (shootCrofts s b sh) asid sh) parked]
  exact (((shootStep_shootCrofts ..).trans (shootStep_shootNames ..)).trans (shootStep_reportRuns ..)).trans (shootStep_reportBays ..)

/-- A completed SHOOT of set b: the run stands, its entry and its lines are gone, the translations are as they stood. -/
structure ShootEnded (s t : State) (b : Nat) (r : Nat × Nat) : Prop where
  run : KeepsRun s t
  gen : (setAtId t b).gen = (setAtId s b).gen
  ended : (setAtId t b).shoots = []
  lines : ∀ e ∈ t.banks, ∀ l ∈ e.2.lines, ¬ inShoot (setAtId s b).asid r l.asid l.la
  tlbs : t.chans.map (fun e => e.2.tlb) = s.chans.map fun e => e.2.tlb

theorem finishShoot_ends {b : Nat} {r : Nat × Nat} {g : W32} (shoots : (setAtId s b).shoots = [⟨[r], g⟩])
    (clean : ∀ e ∈ s.banks, ∀ l ∈ e.2.lines, inShoot (setAtId s b).asid r l.asid l.la → l.dirty = false)
    (parked : ∀ e ∈ s.tenants, ∀ x ∈ e.2.slots, ∀ p, x.2.evicted = some p → p.kind ≠ .resident) :
    ShootEnded s (finishShoot s b ⟨[r], g⟩) b r := by
  have banks : shootBanks s (setAtId s b).asid ⟨[r], g⟩ = barnsShot (setAtId s b).asid ⟨[r], g⟩ s :=
    shootBanks_clean fun e me l ml hit => clean e me l ml ((shootHits_iff ..).mp hit)
  have drops : ShootStep (barnsShot (setAtId s b).asid ⟨[r], g⟩ s)
      (shootDrops b (setAtId s b).asid ⟨[r], g⟩ (barnsShot (setAtId s b).asid ⟨[r], g⟩ s)) := shootStep_shootDrops parked
  rw [finishShoot_eq, banks]
  generalize shootDrops b (setAtId s b).asid ⟨[r], g⟩ (barnsShot (setAtId s b).asid ⟨[r], g⟩ s) = v at drops ⊢
  have set : setAtId v b = setAtId s b := by rw [setAtId, drops.sets]; rfl
  have barns : KeepsRun s (barnsShot (setAtId s b).asid ⟨[r], g⟩ s) := keepsRun_of_crofts rfl rfl rfl
  have ends : KeepsRun v (updSet v b (endShoot ⟨[r], g⟩)) := keepsRun_of_crofts rfl rfl rfl
  refine ⟨(barns.trans drops.run).trans ends, ?gen, ?ended, ?lines, drops.tlbs⟩
  case gen => rw [setAtId_updSet_self, set]; rfl
  case ended => rw [setAtId_updSet_self, set, endShoot, shoots]; simp
  case lines =>
    rw [updSet_banks, drops.banks]
    intro e m l ml here
    obtain ⟨k, -, rfl⟩ := List.mem_map.mp m
    have stays := (List.mem_filter.mp ml).2
    rw [(shootHits_iff _ r g l).mpr here] at stays
    exact Bool.noConfusion stays

/-! ### The SHOOT begins -/

theorem shootClear_sealOf {b : Nat} {r : Nat × Nat} (q : Quiet s) (clear : ShootClear s b r) : ShootClear (sealOf s) b r := by
  have set : setAtId (sealOf s) b = setAtId s b := by rw [setAtId, setAtId, sealOf_sets q]
  exact {
    alone := by rw [set]; exact clear.alone
    walks := by rw [set, sealOf_chans q]; exact clear.walks
    fills := by rw [set, sealOf_net q]; exact clear.fills
    clean := by rw [set, sealOf_banks q]; exact clear.clean
    parked := by rw [sealOf_tenants q]; exact clear.parked }

theorem mySetId_sealOf (q : Quiet s) : mySetId (sealOf s) = mySetId s := by
  have cur : (sealOf s).cur = s.cur := (keepsRun_seal q).cur
  have whole := congrArg Croft.tenant (sealRun_croft s q.held)
  have tenant : (croftAt (sealOf s) s.cur.1).tenant = (croftAt s s.cur.1).tenant := whole
  rw [mySetId, mySetId, myTen, myTen, myCroft, myCroft, cur, tenant, tenAt, tenAt, sealOf_tenants q]

/-- The next generation of a set (R349). -/
def nextGen (s : State) (b : Nat) : W32 := (setAtId s b).gen + 1
/-- A SHOOT of set b has begun, and its context knows its generation. -/
def shootBegun (s : State) (b : Nat) (r : Nat × Nat) : State := setSub (subShoot (nextGen s b)) (beginShoot s b [r])

theorem setAtId_beginShoot (s : State) (b : Nat) (r : Nat × Nat) : setAtId (beginShoot s b [r]) b =
    { setAtId s b with gen := nextGen s b, shoots := (setAtId s b).shoots ++ [⟨[r], nextGen s b⟩] } := by
  show setAtId (updSet s b fun x => { x with gen := x.gen + 1, shoots := x.shoots ++ [⟨[r], nextGen s b⟩] }) b = _
  rw [setAtId_updSet_self]; rfl

theorem setAtId_shootBegun {b : Nat} {r : Nat × Nat} (alone : (setAtId s b).shoots = []) :
    setAtId (shootBegun s b r) b = { setAtId s b with gen := nextGen s b, shoots := [⟨[r], nextGen s b⟩] } := by
  show setAtId (beginShoot s b [r]) b = _
  rw [setAtId_beginShoot, alone]; rfl

/-- Only the progress of the instruction differs from the run before the SHOOT. -/
theorem keepsRun_shootBegun (s : State) (b : Nat) (r : Nat × Nat) :
    KeepsRun (setSub (subShoot (nextGen s b)) s) (shootBegun s b r) := keepsRun_of_crofts rfl rfl rfl

theorem shootDrained_begun {b : Nat} {r : Nat × Nat} (clear : ShootClear s b r) :
    shootDrained (shootBegun s b r) (setAtId s b).asid ⟨[r], nextGen s b⟩ = true := by
  rw [shootDrained, Bool.and_eq_true]
  constructor
  · rw [List.all_eq_true]
    intro e m
    obtain ⟨k, mk, rfl⟩ := List.mem_map.mp m
    simp only [List.all_eq_true]
    intro w mw
    simp [clear.walks k mk w mw]
  · rw [List.all_eq_true]
    intro f m
    split
    · rename_i k c tag la pa g ro asid bad msg
      obtain ⟨space, apart⟩ := clear.fills f m _ _ _ _ _ _ _ _ _ msg
      have out : ¬ (tag = 0xFFFF ∧ inRange ⟨[r], nextGen s b⟩ (la * 64) = true) := by
        rw [inRange_one]; exact fun ⟨glob, within⟩ => apart ⟨.inr glob, within⟩
      simpa [space, -not_and, not_and_or] using out
    · rfl

theorem tryShoot_begun {b : Nat} {r : Nat × Nat} (clear : ShootClear s b r) :
    tryShoot (shootBegun s b r) b (nextGen s b) = some (finishShoot (shootBegun s b r) b ⟨[r], nextGen s b⟩) := by
  have drained := shootDrained_begun clear
  simp [tryShoot, setAtId_shootBegun clear.alone, drained]

/-- A SHOOT with nothing under way that it waits for is over at once. -/
theorem shotDown_at_once {b : Nat} {r : Nat × Nat} (clear : ShootClear s b r) :
    let t := finishShoot (shootBegun s b r) b ⟨[r], nextGen s b⟩
    KeepsRun (setSub (subShoot (nextGen s b)) s) t ∧ ShotDown s t b r := by
  intro t
  have set := setAtId_shootBegun (r := r) clear.alone
  have asid : (setAtId (shootBegun s b r) b).asid = (setAtId s b).asid := by rw [set]
  have ends : ShootEnded (shootBegun s b r) t b r :=
    finishShoot_ends (by rw [set]) (by rw [asid]; exact clear.clean) clear.parked
  refine ⟨(keepsRun_shootBegun s b r).trans ends.run, ?gen, ends.ended, ?lines, ?tlb⟩
  case gen => rw [ends.gen, set]; rfl
  case lines => rw [← asid]; exact ends.lines
  case tlb =>
    intro e m x mx here
    have there : e.2.tlb ∈ (shootBegun s b r).chans.map fun e => e.2.tlb := by
      rw [← ends.tlbs]; exact List.mem_map_of_mem m
    obtain ⟨k, mk, same⟩ := List.mem_map.mp there
    obtain ⟨c, -, rfl⟩ := List.mem_map.mp mk
    rw [← same] at mx
    have stays := (List.mem_filter.mp mx).2
    have hit : inRange ⟨[r], (setAtId s b).gen + 1⟩ (x.vp * 4096) = true := (inRange_one ..).mpr here.2
    simp only [here.1, hit, beq_self_eq_true, Bool.and_self, Bool.not_true, Bool.false_eq_true] at stays

/-- The same progress written to runs that agree. -/
theorem keepsRun_setSub (k : KeepsRun s t) (n : Nat) : KeepsRun (setSub n s) (setSub n t) := by
  refine ⟨?_, k.mem, k.cur⟩
  have parts : runPart { me t with sub := n } = runPart { me s with sub := n } := congrArg (fun p : RunPart => { p with sub := n }) k.run
  rw [me_setSub, me_setSub]
  exact parts

/-- The end of a run does not read the progress of its last instruction. -/
theorem nextRun_wrG_setSub {n : Nat} (k : KeepsRun (setSub n s) t) (d : GReg) (x : W64) :
    NextRun s (retireRunNext (wrG t d x)) (putG (me s).regs d x) := by
  have same := me_setSub s n
  have mode : (me (setSub n s)).mode = (me s).mode := by rw [same]
  have regs : (me (setSub n s)).regs = (me s).regs := by rw [same]
  have seq : (me (setSub n s)).runseq = (me s).runseq := by rw [same]
  have slot : nextSlot (setSub n s) = nextSlot s := by rw [nextSlot, nextSlot, same]
  have e := nextRun_wrG k d x
  rw [regs] at e
  exact ⟨e.mode.trans mode, e.regs, e.shadow, e.pc.trans slot, e.start.trans slot, e.runseq.trans (congrArg (· + 1) seq), e.mem, e.cur⟩

theorem subShoot_gen (g : W32) : BitVec.ofNat 32 (subShoot g - subShoot 0) = g := by
  have n : subShoot g - subShoot 0 = g.toNat := by simp [subShoot]
  rw [n, BitVec.ofNat_toNat, BitVec.setWidth_eq]

theorem updMe_beginShoot (s : State) (b : Nat) (r : Nat × Nat) :
    updMe (beginShoot s b [r]) (fun x => { x with sub := subShoot (setAtId (beginShoot s b [r]) b).gen }) = shootBegun s b r := by
  have gen : (setAtId (beginShoot s b [r]) b).gen = nextGen s b := by rw [setAtId_beginShoot]
  rw [gen]; rfl

theorem sub_shootBegun (s : State) (b : Nat) (r : Nat × Nat) : (me (shootBegun s b r)).sub = subShoot (nextGen s b) :=
  congrArg Context.sub (me_setSub ..)

theorem shotDown_of_sealOf {b : Nat} {r : Nat × Nat} (q : Quiet s) (shot : ShotDown (sealOf s) t b r) : ShotDown s t b r := by
  have set : setAtId (sealOf s) b = setAtId s b := by rw [setAtId, setAtId, sealOf_sets q]
  obtain ⟨gen, ended, lines, tlb⟩ := shot
  rw [set] at gen lines tlb
  exact ⟨gen, ended, lines, tlb⟩

/-- The end of a run with g[d] written leaves what a SHOOT has done. -/
theorem shotDown_retireRunNext {b : Nat} {r : Nat × Nat} (shot : ShotDown s t b r) (d : GReg) (v : W64) :
    ShotDown s (retireRunNext (wrG t d v)) b r := ⟨shot.gen, shot.ended, shot.lines, shot.tlb⟩

theorem exec_shoot_at_once {h : Hdr} {d a b : GReg} {r : Nat × Nat} (c : Issues h [.g d, .g a, .g b] s) (p : (me s).priv = true)
    (q : Quiet s) (range : shootRange (rdG s a).toNat (rdG s b).toNat = r) (clear : ShootClear (sealOf s) (mySetId s) r) :
    exec (.shoot h d a b) s = .next (retireRunNext (wrG
      (finishShoot (shootBegun (sealOf s) (mySetId s) r) (mySetId s) ⟨[r], nextGen (sealOf s) (mySetId s)⟩) d
      ((nextGen (sealOf s) (mySetId s)).setWidth 64))) := by
  rw [exec_shoot, execShoot, privileged_seal p q c]
  simp only [sub_sealOf q, if_true, mySetId_sealOf q, rdG_sealOf q, range, updMe_beginShoot, sub_shootBegun, subShoot_gen,
    tryShoot_begun clear]

theorem shoot_completes {h : Hdr} {d a b : GReg} (c : Issues h [.g d, .g a, .g b] s) (p : (me s).priv = true) (q : Quiet s)
    (clear : ShootClear s (mySetId s) (shootRange (rdG s a).toNat (rdG s b).toNat)) :
    ∃ t, exec (.shoot h d a b) s = .next t ∧ NextRun s t (putG (me s).regs d (((mySet s).gen + 1).setWidth 64)) ∧
      ShotDown s t (mySetId s) (shootRange (rdG s a).toNat (rdG s b).toNat) := by
  have here := shootClear_sealOf q clear
  obtain ⟨run, shot⟩ := shotDown_at_once here
  refine ⟨_, exec_shoot_at_once c p q rfl here, ?_, shotDown_retireRunNext (shotDown_of_sealOf q shot) ..⟩
  have gen : nextGen (sealOf s) (mySetId s) = (mySet s).gen + 1 := by rw [nextGen, setAtId, sealOf_sets q]; rfl
  have settled : KeepsRun (setSub (subShoot (nextGen (sealOf s) (mySetId s))) s)
      (setSub (subShoot (nextGen (sealOf s) (mySetId s))) (sealOf s)) := keepsRun_setSub (keepsRun_seal q) _
  rw [← gen]
  exact nextRun_wrG_setSub (settled.trans run) ..

end Sys2Proof.Machine
end

section
namespace Sys2Proof.Machine

/-- Settles O35: an unprivileged context faults PRIV before the seal point; in a privileged one each form acts on the state that the
seal of its run leaves, whose fairs, dies and sets are those it began with. -/
theorem privilegedInstructions : Obligations.PrivilegedInstructions := by
  unfold Obligations.PrivilegedInstructions
  refine ⟨?unprivileged, ?writes, ?reads, ?hires, ?counts, ?shoot⟩
  case unprivileged => exact fun h d a b f n z s p => exec_unprivileged h d a b f n z p
  case writes =>
    intro h d b n s c p q
    have operand : rdG (sealOf s) b = rdG s b := rdG_sealOf q b
    refine ⟨?_, ?_, ?_⟩
    · exact swapctl_writes (f := fun s k => { k with window := Max.max 1 (Min.min (rdG s b).toNat (2 ^ 24)) }) c p q (by rw [operand])
    · exact swapctl_writes (f := fun s k => { k with theta := (rdG s b).toNat % 2 ^ 32 }) c p q (by rw [operand])
    · exact swapctl_writes (f := fun s k => { k with enable := (rdG s b).getLsbD 0 }) c p q (by rw [operand])
  case reads =>
    intro h d n s c p q
    obtain ⟨t, acts, next⟩ := swapctlRead_reads c p q
    exact ⟨t, _, acts, next, swapWord_fields _⟩
  case hires =>
    intro h d a f s c p q
    refine ⟨fun absent => ⟨fairctlResume_none c p q absent, fairctlDrop_none c p q absent⟩, fun x e => ⟨?_, ?_, ?_, ?_⟩⟩
    · exact fairctlResume_standing c p q e
    · exact fairctlResume_other c p q e
    · exact fairctlDrop_ended c p q e
    · exact fairctlDrop_drops c p q e
  case counts => exact fun h d f s c p q => fairctlStat_counts c p q
  case shoot => exact fun h d a b s c p q clear => shoot_completes c p q clear

end Sys2Proof.Machine
end

section
namespace Sys2Proof.Machine

/-! ## Scalar instructions that write one register -/

variable {h : Hdr} {rs : List Rn} {s : State}

theorem scalar_wrG (d : GReg) (f : State → W64) (c : Issues h rs s) :
    ∃ t, scalar h rs (fun s => retire (wrG s d (f s))) s = .next t ∧ Retired s t (putG (me s).regs d (f s)) :=
  ⟨_, scalar_act s _ c, retired_updRegs s _⟩
theorem scalar_wrP (d : PReg) (f : State → PWord) (c : Issues h rs s) :
    ∃ t, scalar h rs (fun s => retire (wrP s d (f s))) s = .next t ∧ Retired s t (putP (me s).regs d (f s)) :=
  ⟨_, scalar_act s _ c, retired_updRegs s _⟩
theorem scalar_wrB (d : BReg) (f : State → W32) (c : Issues h rs s) :
    ∃ t, scalar h rs (fun s => retire (wrB s d (f s))) s = .next t ∧ Retired s t (putB (me s).regs d (f s)) :=
  ⟨_, scalar_act s _ c, retired_updRegs s _⟩

end Sys2Proof.Machine
end

section
namespace Sys2Proof.Machine

/-! ## Operands and results at a width (R97, R98) -/

theorem toInt_ofInt_eq_toS (N : Nat) (r : Int) : (BitVec.ofInt N r).toInt = toS N (ofS N r) := by
  have e : BitVec.ofInt N r = BitVec.ofNat N (ofS N r) := BitVec.eq_of_toNat_eq (by
    rw [BitVec.toNat_ofInt, BitVec.toNat_ofNat, ofS, Nat.mod_eq_of_lt]
    · push_cast; rfl
    · have := Int.emod_lt_of_pos r (show (0 : Int) < 2 ^ N by positivity)
      have := Int.emod_nonneg r (show (2 : Int) ^ N ≠ 0 by positivity)
      zify; omega)
  rw [e, toInt_ofNat_eq_toS]

/-- A result is written modulo 2^N and sign-extended from bit N − 1. -/
theorem putN_eq_signExtend (N : Nat) (r : Int) : putN N r = (BitVec.ofInt N r).signExtend 64 := by
  rw [putN, BitVec.signExtend, toInt_ofInt_eq_toS]

/-- An operand of width N as its row reads it: as a signed number or an unsigned one. -/
def asRead (signed : Bool) {N : Nat} (x : BitVec N) : Int := if signed then x.toInt else x.toNat

@[simp] theorem asRead_true {N : Nat} (x : BitVec N) : asRead true x = x.toInt := rfl
@[simp] theorem asRead_false {N : Nat} (x : BitVec N) : asRead false x = x.toNat := rfl

theorem readN_eq_asRead (signed : Bool) (N : Nat) (x : W64) : readN signed N x = asRead signed (x.setWidth N) := by
  cases signed with
  | false => simp [readN]
  | true => rw [asRead_true, readN, if_pos rfl, ← toInt_ofNat_eq_toS, BitVec.ofNat_toNat]

theorem asRead_eq_zero {signed : Bool} {N : Nat} (y : BitVec N) : asRead signed y = 0 ↔ y = 0 := by
  cases signed with
  | false => simp [← BitVec.toNat_inj]
  | true => simp [← BitVec.toInt_inj]

/-- A shift count is the same however the operand is read, at a width that divides 2^N. -/
theorem shN_asRead {signed : Bool} {N : Nat} (h : N ∣ 2 ^ N) (y : BitVec N) : shN (asRead signed y) N = y.toNat % N := by
  have count : asRead signed y % (N : Int) = ((y.toNat % N : Nat) : Int) := by
    cases signed with
    | false => simp
    | true =>
      have divides : (N : Int) ∣ ((2 ^ N : Nat) : Int) := by exact_mod_cast h
      rw [asRead_true, BitVec.toInt_eq_toNat_bmod, ← Int.emod_emod_of_dvd _ divides, Int.bmod_emod,
        Int.emod_emod_of_dvd _ divides, Int.natCast_emod]
  rw [shN, count, Int.toNat_natCast]

theorem ofInt_eq_of_toInt {N : Nat} {z : Int} {r : BitVec N} (h : z = r.toInt) : BitVec.ofInt N z = r := by
  rw [h, BitVec.ofInt_toInt]
theorem ofInt_eq_of_toNat {N : Nat} {z : Int} {r : BitVec N} (h : z = r.toNat) : BitVec.ofInt N z = r := by
  rw [h, BitVec.ofInt_natCast, BitVec.ofNat_toNat, BitVec.setWidth_eq]

/-- 2^k as a word of width N. -/
theorem ofInt_two_pow (N k : Nat) : BitVec.ofInt N (2 ^ k) = BitVec.twoPow N k := BitVec.eq_of_toNat_eq (by
  rw [← Nat.cast_ofNat, ← Nat.cast_pow, BitVec.ofInt_natCast, BitVec.toNat_twoPow, BitVec.toNat_ofNat])

/-- A number lies outside the signed range of N bits where N bits do not hold it. -/
theorem outOfRange_iff {N : Nat} (h : 0 < N) (r : Int) : outOfRange N r = true ↔ (BitVec.ofInt N r).toInt ≠ r := by
  have lo : -(2 ^ (N - 1)) ≤ (BitVec.ofInt N r).toInt := BitVec.le_toInt _
  have hi : (BitVec.ofInt N r).toInt < 2 ^ (N - 1) := BitVec.toInt_lt
  simp only [outOfRange, Bool.or_eq_true, decide_eq_true_eq]
  constructor
  · intro out e
    rw [e] at lo hi
    omega
  · intro ne
    by_contra inside
    push Not at inside
    obtain ⟨above, below⟩ := inside
    exact ne (BitVec.toInt_ofInt_eq_self h above below)

/-- The one quotient that N bits do not hold. -/
theorem tdiv_eq_bound_iff {a b : Int} {m : Nat} (pos : 0 < m) (lo : -(m : Int) ≤ a) (hi : a < m) :
    a.tdiv b = m ↔ a = -m ∧ b = -1 := by
  constructor
  · intro top
    have abs : m * b.natAbs ≤ a.natAbs := by
      rw [show m = a.natAbs / b.natAbs from by rw [← Int.natAbs_natCast m, ← top]; exact Int.natAbs_tdiv ..]
      exact Nat.div_mul_le_self ..
    have nz : b ≠ 0 := by rintro rfl; simp at top; omega
    have one : b.natAbs = 1 := by
      have : m * b.natAbs ≤ m * 1 := by omega
      have := Nat.le_of_mul_le_mul_left this pos
      omega
    have bottom : a = -m := by
      rw [one] at abs
      omega
    refine ⟨bottom, (Int.natAbs_eq_iff.mp one).resolve_left ?_⟩
    rintro rfl
    simp [bottom] at top
    omega
  · rintro ⟨rfl, rfl⟩
    simp

theorem tdiv_overflows_iff {N : Nat} (h : 0 < N) (x y : BitVec N) :
    x.toInt.tdiv y.toInt = 2 ^ (N - 1) ↔ x = BitVec.intMin N ∧ y.toInt = -1 := by
  have bound := tdiv_eq_bound_iff (a := x.toInt) (b := y.toInt) (m := 2 ^ (N - 1)) (by positivity)
    (by push_cast; exact BitVec.le_toInt x) (by push_cast; exact BitVec.toInt_lt)
  push_cast at bound
  rw [bound, ← BitVec.toInt_inj, BitVec.toInt_intMin_of_pos h]

end Sys2Proof.Machine
end

section
namespace Sys2Proof.Machine

/-! ## The rows of op 0x10 (R96) -/

/-- A row's exact result f, brought into N bits, is g; and its overflow condition is p. At every width that divides 2^N, as 32 and 64 do. -/
def RowGives (signed : Bool) (f : Int → Int → Nat → Int) (g : (n : Nat) → BitVec n → BitVec n → BitVec n) : Prop :=
  ∀ N, N ∣ 2 ^ N → ∀ x y : BitVec N, BitVec.ofInt N (f (asRead signed x) (asRead signed y) N) = g N x y
def RowOverflows (signed : Bool) (f : Int → Int → Nat → Int) (ovf : Int → Int → Int → Nat → Bool)
    (p : (n : Nat) → BitVec n → BitVec n → Prop) : Prop :=
  ∀ N, N ∣ 2 ^ N → ∀ x y : BitVec N,
    ovf (asRead signed x) (asRead signed y) (f (asRead signed x) (asRead signed y) N) N = true ↔ p N x y

theorem pos_of_dvd_two_pow {N : Nat} (h : N ∣ 2 ^ N) : 0 < N := Nat.pos_of_dvd_of_pos h (by positivity)

theorem gives_add : RowGives true (fun x y _ => x + y) (fun _ x y => x + y) := fun N _ x y => by
  simp [BitVec.ofInt_add]
theorem gives_sub : RowGives true (fun x y _ => x - y) (fun _ x y => x - y) := fun N _ x y => by
  simp [Int.sub_eq_add_neg, BitVec.ofInt_add, BitVec.ofInt_neg, BitVec.sub_eq_add_neg]
theorem gives_mul : RowGives true (fun x y _ => x * y) (fun _ x y => x * y) := fun N _ x y => by
  simp [BitVec.ofInt_mul]
theorem gives_mulh : RowGives true (fun x y _ => x * y / 2 ^ 64) (fun n x y => BitVec.ofInt n (x.toInt * y.toInt / 2 ^ 64)) :=
  fun _ _ _ _ => rfl
theorem gives_mulhn : RowGives false (fun x y _ => x * y / 2 ^ 64) (fun n x y => BitVec.ofNat n (x.toNat * y.toNat / 2 ^ 64)) :=
  fun N _ x y => by
    refine Eq.trans ?_ (BitVec.ofInt_natCast N _)
    push_cast; rfl
theorem gives_div : RowGives true (fun x y _ => if y = 0 then -1 else x.tdiv y)
    (fun n x y => if y = 0 then BitVec.allOnes n else x.sdiv y) := fun N _ x y => by
  simp only [asRead_eq_zero]
  split
  · rw [← BitVec.neg_one_eq_allOnes, BitVec.ofInt_neg]; rfl
  · apply BitVec.eq_of_toInt_eq
    rw [BitVec.toInt_sdiv, BitVec.toInt_ofInt]; rfl
theorem gives_divn : RowGives false (fun x y N => if y = 0 then 2 ^ N - 1 else x / y)
    (fun n x y => if y = 0 then BitVec.allOnes n else x.udiv y) := fun N _ x y => by
  simp only [asRead_eq_zero]
  split
  · exact ofInt_eq_of_toNat (by rw [BitVec.toNat_allOnes, Nat.cast_sub Nat.one_le_two_pow]; push_cast; rfl)
  · exact ofInt_eq_of_toNat (Int.natCast_ediv ..).symm
theorem gives_rem : RowGives true (fun x y _ => if y = 0 then x else x - y * x.tdiv y)
    (fun _ x y => if y = 0 then x else x.srem y) := fun N _ x y => by
  simp only [asRead_eq_zero]
  split
  · exact BitVec.ofInt_toInt
  · exact ofInt_eq_of_toInt (by rw [← Int.tmod_def, BitVec.toInt_srem]; rfl)
theorem gives_remn : RowGives false (fun x y _ => if y = 0 then x else x % y)
    (fun _ x y => if y = 0 then x else x.umod y) := fun N _ x y => by
  simp only [asRead_eq_zero]
  split
  · exact ofInt_eq_of_toNat rfl
  · exact ofInt_eq_of_toNat (Int.natCast_emod ..).symm

theorem gives_and : RowGives false (bitwise (· &&& ·)) (fun _ x y => x &&& y) :=
  fun _ _ _ _ => ofInt_eq_of_toNat (by simp [bitwise])
theorem gives_or : RowGives false (bitwise (· ||| ·)) (fun _ x y => x ||| y) :=
  fun _ _ _ _ => ofInt_eq_of_toNat (by simp [bitwise])
theorem gives_xor : RowGives false (bitwise (· ^^^ ·)) (fun _ x y => x ^^^ y) :=
  fun _ _ _ _ => ofInt_eq_of_toNat (by simp [bitwise])
theorem gives_andn : RowGives false (fun x y _ => ((x.toNat ^^^ (x.toNat &&& y.toNat) : Nat) : Int)) (fun _ x y => x &&& ~~~y) :=
  fun N _ x y => by
    have e : x &&& ~~~y = x ^^^ (x &&& y) := by ext i; simp; cases x[i] <;> simp
    exact ofInt_eq_of_toNat (by simp [e])

theorem gives_shl : RowGives true (fun x y N => x * 2 ^ shN y N) (fun n x y => x <<< (y.toNat % n)) := fun N h x y => by
  simp only [shN_asRead h]
  rw [BitVec.shiftLeft_eq_mul_twoPow, BitVec.ofInt_mul, ofInt_two_pow, asRead_true, BitVec.ofInt_toInt]
theorem gives_shr : RowGives false (fun x y N => x / 2 ^ shN y N) (fun n x y => x >>> (y.toNat % n)) := fun N h x y => by
  simp only [shN_asRead h]
  exact ofInt_eq_of_toNat (by rw [BitVec.toNat_ushiftRight, Nat.shiftRight_eq_div_pow]; push_cast; rfl)
theorem gives_sha : RowGives true (fun x y N => x / 2 ^ shN y N) (fun n x y => x.sshiftRight (y.toNat % n)) := fun N h x y => by
  simp only [shN_asRead h]
  exact ofInt_eq_of_toInt (by rw [BitVec.toInt_sshiftRight, Int.shiftRight_eq_div_pow]; push_cast; rfl)

/-- A rotation by k puts the top k bits below the others: the two parts have no bit in common. -/
theorem toNat_rotateLeft_eq_add {N k : Nat} (hk : k < N) (x : BitVec N) :
    (x.rotateLeft k).toNat = x.toNat * 2 ^ k % 2 ^ N + x.toNat / 2 ^ (N - k) := by
  have low : x.toNat / 2 ^ (N - k) < 2 ^ k := by
    rw [Nat.div_lt_iff_lt_mul (by positivity), ← pow_add, Nat.add_sub_cancel' hk.le]; exact x.isLt
  have high : x.toNat * 2 ^ k % 2 ^ N = 2 ^ k * (x.toNat % 2 ^ (N - k)) := by
    rw [Nat.mul_comm, ← Nat.mul_mod_mul_left, ← pow_add, Nat.add_sub_cancel' hk.le]
  rw [BitVec.toNat_rotateLeft, Nat.mod_eq_of_lt hk, Nat.shiftLeft_eq, Nat.shiftRight_eq_div_pow, high,
    Nat.two_pow_add_eq_or_of_lt low]
theorem gives_rol : RowGives false (fun x y N => x * 2 ^ shN y N % 2 ^ N + x / 2 ^ (N - shN y N))
    (fun n x y => x.rotateLeft (y.toNat % n)) := fun N h x y => by
  simp only [shN_asRead h]
  refine ofInt_eq_of_toNat ?_
  rw [toNat_rotateLeft_eq_add (Nat.mod_lt _ (pos_of_dvd_two_pow h))]
  push_cast; rfl

theorem gives_min : RowGives true (fun x y _ => Min.min x y) (fun _ x y => if x.sle y then x else y) := fun N _ x y => by
  simp only [asRead_true, BitVec.sle_eq_decide, decide_eq_true_eq, min_def]
  split <;> exact BitVec.ofInt_toInt
theorem gives_max : RowGives true (fun x y _ => Max.max x y) (fun _ x y => if x.sle y then y else x) := fun N _ x y => by
  simp only [asRead_true, BitVec.sle_eq_decide, decide_eq_true_eq, max_def]
  split <;> exact BitVec.ofInt_toInt
theorem gives_minn : RowGives false (fun x y _ => Min.min x y) (fun _ x y => if x.ule y then x else y) := fun N _ x y => by
  simp only [asRead_false, BitVec.ule_eq_decide, decide_eq_true_eq, min_def, Nat.cast_le]
  split <;> exact ofInt_eq_of_toNat rfl
theorem gives_maxn : RowGives false (fun x y _ => Max.max x y) (fun _ x y => if x.ule y then y else x) := fun N _ x y => by
  simp only [asRead_false, BitVec.ule_eq_decide, decide_eq_true_eq, max_def, Nat.cast_le]
  split <;> exact ofInt_eq_of_toNat rfl
theorem gives_abs : RowGives true (fun x _ _ => (x.natAbs : Int)) (fun _ x _ => if x.toInt < 0 then -x else x) := fun N _ x y => by
  simp only [asRead_true]
  split
  case isTrue negative => rw [Int.ofNat_natAbs_of_nonpos negative.le, BitVec.ofInt_neg, BitVec.ofInt_toInt]
  case isFalse positive => exact ofInt_eq_of_toInt (Int.natAbs_of_nonneg (by omega))

/-! ### Overflow conditions -/

/-- A row with the range condition overflows where its result in N bits is not the exact one. -/
theorem overflows_range {signed : Bool} {f : Int → Int → Nat → Int} {g : (n : Nat) → BitVec n → BitVec n → BitVec n}
    (k : RowGives signed f g) :
    RowOverflows signed f rangeOvf fun n x y => (g n x y).toInt ≠ f (asRead signed x) (asRead signed y) n := fun N h x y => by
  rw [rangeOvf, outOfRange_iff (pos_of_dvd_two_pow h), k N h x y]
theorem overflows_shl : RowOverflows true (fun x y N => x * 2 ^ shN y N) rangeOvf
    fun n x y => (x <<< (y.toNat % n)).toInt ≠ x.toInt * 2 ^ (y.toNat % n) := fun N h x y => by
  have range := overflows_range gives_shl N h x y
  simp only [shN_asRead h] at range ⊢
  exact range
theorem overflows_zero (signed : Bool) (f : Int → Int → Nat → Int) : RowOverflows signed f zeroOvf fun _ _ y => y = 0 :=
  fun N _ x y => by rw [zeroOvf, decide_eq_true_eq, asRead_eq_zero]
theorem overflows_div : RowOverflows true (fun x y _ => if y = 0 then -1 else x.tdiv y)
    (fun _ y r N => decide (y = 0) || decide (r = 2 ^ (N - 1)))
    fun n x y => y = 0 ∨ (x = BitVec.intMin n ∧ y.toInt = -1) := fun N h x y => by
  simp only [Bool.or_eq_true, decide_eq_true_eq, asRead_eq_zero]
  by_cases zero : y = 0
  · simp [zero]
  · rw [if_neg zero, asRead_true, asRead_true, tdiv_overflows_iff (pos_of_dvd_two_pow h)]
theorem overflows_abs : RowOverflows true (fun x _ _ => (x.natAbs : Int)) (fun x _ _ N => decide (x = -(2 ^ (N - 1))))
    fun n x _ => x = BitVec.intMin n := fun N h x y => by
  refine decide_eq_true_iff.trans ?_
  simp only [asRead_true, ← BitVec.toInt_inj, BitVec.toInt_intMin_of_pos (pos_of_dvd_two_pow h)]

/-! ### What a row does -/

/-- The width of a row, and a condition on its operands at that width (R98). -/
def rowWidth (w : Bool) : Nat := if w then 32 else 64
def overflowsAt (w : Bool) (p : (n : Nat) → BitVec n → BitVec n → Prop) (x y : W64) : Prop :=
  if w then p 32 (x.setWidth 32) (y.setWidth 32) else p 64 x y

theorem rowWidth_dvd (w : Bool) : rowWidth w ∣ 2 ^ rowWidth w := by cases w <;> decide
theorem overflowsAt_iff (w : Bool) (p : (n : Nat) → BitVec n → BitVec n → Prop) (x y : W64) :
    overflowsAt w p x y ↔ p (rowWidth w) (x.setWidth _) (y.setWidth _) := by
  cases w with
  | false => show p 64 x y ↔ p 64 (x.setWidth 64) (y.setWidth 64); rw [BitVec.setWidth_eq, BitVec.setWidth_eq]
  | true => exact Iff.rfl
theorem atWidth_eq (w : Bool) (g : (n : Nat) → BitVec n → BitVec n → BitVec n) (x y : W64) :
    atWidth w g x y = (g (rowWidth w) (x.setWidth _) (y.setWidth _)).signExtend 64 := by
  cases w with
  | false =>
    show g 64 x y = (g 64 (x.setWidth 64) (y.setWidth 64)).signExtend 64
    rw [BitVec.setWidth_eq, BitVec.setWidth_eq, BitVec.signExtend_eq]
  | true => rfl

section
variable {signed : Bool} {f : Int → Int → Nat → Int} {ovf : Int → Int → Int → Nat → Bool}
  {g : (n : Nat) → BitVec n → BitVec n → BitVec n} {p : (n : Nat) → BitVec n → BitVec n → Prop} {h : Hdr} {o : Alu} {s : State}

/-- A row that issues, on the numbers it reads. -/
theorem aluRow_act (c : Issues h ([.g o.d, .g o.a] ++ srcRn o.b) s) :
    let x := asRead signed ((rdG s o.a).setWidth (rowWidth o.w))
    let y := asRead signed ((rdSrc s o.b).setWidth (rowWidth o.w))
    aluRow signed f ovf h o s = .next (if o.chk && ovf x y (f x y (rowWidth o.w)) (rowWidth o.w) then raiseOp cOVF 0 0 s
      else retire (wrG s o.d (putN (rowWidth o.w) (f x y (rowWidth o.w))))) := by
  intro x y
  simp only [x, y, ← readN_eq_asRead]
  exact scalar_act s _ c

theorem aluRow_unchecked (k : RowGives signed f g) (c : Issues h ([.g o.d, .g o.a] ++ srcRn o.b) s) (chk : o.chk = false) :
    ∃ t, aluRow signed f ovf h o s = .next t ∧ Retired s t (putG (me s).regs o.d (atWidth o.w g (rdG s o.a) (rdSrc s o.b))) := by
  rw [aluRow_act c, chk, Bool.false_and, if_neg Bool.false_ne_true, putN_eq_signExtend, k _ (rowWidth_dvd o.w), atWidth_eq]
  exact ⟨_, rfl, retired_updRegs s _⟩

theorem aluRow_overflows (k : RowOverflows signed f ovf p) (c : Issues h ([.g o.d, .g o.a] ++ srcRn o.b) s) (chk : o.chk = true)
    (overflow : overflowsAt o.w p (rdG s o.a) (rdSrc s o.b)) : aluRow signed f ovf h o s = .next (raiseOp cOVF 0 0 s) := by
  rw [overflowsAt_iff, ← k _ (rowWidth_dvd o.w)] at overflow
  rw [aluRow_act c, chk, overflow]; rfl

/-- A row that does not overflow does what it does without .chk. -/
theorem aluRow_fits (k : RowOverflows signed f ovf p) (c : Issues h ([.g o.d, .g o.a] ++ srcRn o.b) s)
    (fits : ¬ overflowsAt o.w p (rdG s o.a) (rdSrc s o.b)) (chk : Bool) :
    aluRow signed f ovf h { o with chk := chk } s = aluRow signed f ovf h { o with chk := false } s := by
  rw [overflowsAt_iff, ← k _ (rowWidth_dvd o.w), Bool.not_eq_true] at fits
  rw [aluRow_act (o := { o with chk := chk }) c, aluRow_act (o := { o with chk := false }) c]
  simp only [fits, Bool.and_false]
end

/-- An instruction is a row of the table. -/
def IsRow (i : Hdr → Alu → Instr) (signed : Bool) (f : Int → Int → Nat → Int) (ovf : Int → Int → Int → Nat → Bool) : Prop :=
  ∀ h o s, exec (i h o) s = aluRow signed f ovf h o s

theorem aluMeanings_rows : ∀ p ∈ aluMeanings, ∃ signed f ovf, IsRow p.1 signed f ovf ∧ RowGives signed f p.2 := by
  simp only [aluMeanings, List.forall_mem_cons, List.not_mem_nil, false_imp_iff, implies_true, and_true]
  exact ⟨⟨_, _, _, exec_add, gives_add⟩, ⟨_, _, _, exec_sub, gives_sub⟩, ⟨_, _, _, exec_mul, gives_mul⟩,
    ⟨_, _, _, exec_mulh, gives_mulh⟩, ⟨_, _, _, exec_mulhn, gives_mulhn⟩, ⟨_, _, _, exec_div, gives_div⟩,
    ⟨_, _, _, exec_divn, gives_divn⟩, ⟨_, _, _, exec_rem, gives_rem⟩, ⟨_, _, _, exec_remn, gives_remn⟩,
    ⟨_, _, _, exec_and, gives_and⟩, ⟨_, _, _, exec_or, gives_or⟩, ⟨_, _, _, exec_xor, gives_xor⟩,
    ⟨_, _, _, exec_andn, gives_andn⟩, ⟨_, _, _, exec_shl, gives_shl⟩, ⟨_, _, _, exec_shr, gives_shr⟩,
    ⟨_, _, _, exec_sha, gives_sha⟩, ⟨_, _, _, exec_rol, gives_rol⟩, ⟨_, _, _, exec_min, gives_min⟩,
    ⟨_, _, _, exec_max, gives_max⟩, ⟨_, _, _, exec_minn, gives_minn⟩, ⟨_, _, _, exec_maxn, gives_maxn⟩⟩

theorem aluOverflows_rows : ∀ p ∈ aluOverflows, ∃ signed f ovf, IsRow p.1 signed f ovf ∧ RowOverflows signed f ovf p.2 := by
  simp only [aluOverflows, List.forall_mem_cons, List.not_mem_nil, false_imp_iff, implies_true, and_true]
  exact ⟨⟨_, _, _, exec_add, overflows_range gives_add⟩, ⟨_, _, _, exec_sub, overflows_range gives_sub⟩,
    ⟨_, _, _, exec_mul, overflows_range gives_mul⟩, ⟨_, _, _, exec_div, overflows_div⟩, ⟨_, _, _, exec_divn, overflows_zero _ _⟩,
    ⟨_, _, _, exec_rem, overflows_zero _ _⟩, ⟨_, _, _, exec_remn, overflows_zero _ _⟩, ⟨_, _, _, exec_shl, overflows_shl⟩⟩

/-- Settles O1: each instruction is a row whose exact result, brought into its width, is that of the table. -/
theorem aluResults : Obligations.AluResults := by
  unfold Obligations.AluResults
  intro p hp h o s _ chk c
  obtain ⟨signed, f, ovf, row, gives⟩ := aluMeanings_rows p hp
  rw [row]
  exact aluRow_unchecked gives c chk

/-- Settles O2: each row's overflow condition is that of the table, and without it .chk makes no difference. -/
theorem aluOverflowFaults : Obligations.AluOverflowFaults := by
  unfold Obligations.AluOverflowFaults
  intro p hp h o s c
  obtain ⟨signed, f, ovf, row, overflows⟩ := aluOverflows_rows p hp
  refine ⟨fun overflow => ⟨?_, froze_raiseOp s ..⟩, fun fits => ?_⟩
  · rw [row]
    exact aluRow_overflows (o := { o with chk := true }) overflows c rfl overflow
  · rw [row, row]
    exact aluRow_fits overflows c fits true

/-- ABS as a row, which reads its first operand alone. -/
def absRow (o : AluU) : Alu := ⟨o.chk, o.w, o.d, o.a, .imm 0⟩

/-- Settles O3: the row of ABS overflows at the most negative number, and elsewhere does what it does without .chk. -/
theorem absResults : Obligations.AbsResults := by
  unfold Obligations.AbsResults
  intro h o s c
  rw [exec_abs]
  refine ⟨fun quiet => ?_, fun ⟨chk, overflow⟩ => aluRow_overflows (o := absRow o) overflows_abs c chk overflow⟩
  rcases quiet with chk | fits
  · exact aluRow_unchecked (o := absRow o) gives_abs c chk
  · rw [show execAbs h o s = _ from aluRow_fits (o := absRow o) overflows_abs c fits o.chk]
    exact aluRow_unchecked (o := { absRow o with chk := false }) gives_abs c rfl

end Sys2Proof.Machine
end

section
namespace Sys2Proof.Machine

/-! ## Comparisons (R85, R99, R100) -/

theorem cond64_iff_holds (c : Cond) (x y : W64) : cond64 c x y = true ↔ Cond.holds c x y := by
  cases c <;> simp [cond64, Cond.holds, BitVec.slt_eq_decide, BitVec.sle_eq_decide, BitVec.ult_eq_decide, BitVec.ule_eq_decide]

/-- A choice by a condition code is the choice by the condition. -/
theorem ite_cond64_of_holds {α : Type} {c : Cond} {x y : W64} (k : Cond.holds c x y) (u v : α) : (if cond64 c x y then u else v) = u :=
  if_pos ((cond64_iff_holds c x y).mpr k)
theorem ite_cond64_of_not_holds {α : Type} {c : Cond} {x y : W64} (k : ¬ Cond.holds c x y) (u v : α) :
    (if cond64 c x y then u else v) = v :=
  if_neg fun t => k ((cond64_iff_holds c x y).mp t)

/-- Settles O4: both write the value that their condition chooses. -/
theorem compareResults : Obligations.CompareResults := by
  unfold Obligations.CompareResults
  refine ⟨fun h o s c => ?_, fun h o s c => ?_⟩
  · rw [exec_cmpp]
    obtain ⟨t, acts, retired⟩ := scalar_wrP o.d (fun s => if cond64 o.c (rdG s o.a) (rdSrc s o.b) then BitVec.allOnes 128 else 0) c
    exact ⟨t, _, acts, retired, fun k => ite_cond64_of_holds k _ _, fun k => ite_cond64_of_not_holds k _ _⟩
  · rw [exec_setc]
    obtain ⟨t, acts, retired⟩ := scalar_wrG o.d (fun s => if cond64 o.c (rdG s o.a) (rdSrc s o.b) then 1 else 0) c
    exact ⟨t, _, acts, retired, fun k => ite_cond64_of_holds k _ _, fun k => ite_cond64_of_not_holds k _ _⟩

end Sys2Proof.Machine
end

section
namespace Sys2Proof.Machine

/-! ## Bit operations (R101, R102) -/

/-- A bit of the low N bits of a register. -/
theorem testBit_lowBits {N i : Nat} (x : W64) (h : i < N) : (x.toNat % 2 ^ N).testBit i = x.getLsbD i := by
  simp [Nat.testBit_mod_two_pow, h, BitVec.getLsbD]

theorem countLz_bits {N y : Nat} (hy : y < 2 ^ N) :
    countLz N y ≤ N ∧ (∀ i < countLz N y, y.testBit (N - 1 - i) = false) ∧
      (countLz N y < N → y.testBit (N - 1 - countLz N y) = true) := by
  unfold countLz
  split
  case isTrue zero => simp [zero]
  case isFalse nz =>
    have top : y.log2 < N := (Nat.log2_lt nz).mpr hy
    refine ⟨by omega, fun i hi => Nat.testBit_lt_two_pow ?_, fun _ => ?_⟩
    · exact (Nat.log2_lt nz).mp (by omega)
    · rw [show N - 1 - (N - 1 - y.log2) = y.log2 by omega]
      exact Nat.testBit_log2 nz

theorem countTz_bits (n y : Nat) :
    countTz n y ≤ n ∧ (∀ i < countTz n y, y.testBit i = false) ∧ (countTz n y < n → y.testBit (countTz n y) = true) := by
  induction n generalizing y with
  | zero => simp [countTz]
  | succ n ih =>
    obtain ⟨le, below, at_⟩ := ih (y / 2)
    rw [countTz]
    split
    case isTrue odd => simp [Nat.testBit_zero, odd]
    case isFalse even =>
      refine ⟨by omega, fun i hi => ?_, fun hn => ?_⟩
      · cases i with
        | zero => simpa [Nat.testBit_zero] using even
        | succ i => rw [Nat.testBit_succ]; exact below i (by omega)
      · rw [Nat.add_comm, Nat.testBit_succ]; exact at_ (by omega)

theorem popCount_eq_length (n y : Nat) : popCount n y = ((List.range n).filter fun i => y.testBit i).length := by
  induction n generalizing y with
  | zero => simp [popCount]
  | succ n ih =>
    have shifted : (y.testBit ∘ Nat.succ) = (y / 2).testBit := funext fun i => Nat.testBit_succ y i
    rw [popCount, ih, List.range_succ_eq_map, List.filter_cons, List.filter_map, shifted]
    rcases Nat.mod_two_eq_zero_or_one y with even | odd
    · simp [Nat.testBit_zero, even]
    · simp [Nat.testBit_zero, odd, Nat.add_comm]

/-- The digits in base 2^k, from the last to the first; above them the accumulator. -/
theorem testBit_reverseDigits (k n x acc : Nat) :
    (∀ i, (reverseDigits (2 ^ k) n x acc).testBit (k * n + i) = acc.testBit i) ∧
    ∀ j < n, ∀ t < k, (reverseDigits (2 ^ k) n x acc).testBit (k * j + t) = x.testBit (k * (n - 1 - j) + t) := by
  induction n generalizing x acc with
  | zero => simp [reverseDigits]
  | succ n ih =>
    obtain ⟨above, digits⟩ := ih (x / 2 ^ k) (acc * 2 ^ k + x % 2 ^ k)
    have split (i : Nat) : (acc * 2 ^ k + x % 2 ^ k).testBit i = if i < k then (x % 2 ^ k).testBit i else acc.testBit (i - k) := by
      rw [Nat.mul_comm]; exact Nat.testBit_two_pow_mul_add _ (Nat.mod_lt _ (by positivity)) _
    rw [reverseDigits]
    refine ⟨fun i => ?_, fun j hj t ht => ?_⟩
    · rw [Nat.mul_succ, Nat.add_assoc, above, split]; simp
    · obtain rfl | hj : j = n ∨ j < n := by omega
      · rw [above, split, if_pos ht, Nat.testBit_mod_two_pow]; simp [ht]
      · rw [digits j hj t ht, Nat.testBit_div_two_pow]
        congr 1
        rw [show n + 1 - 1 - j = n - 1 - j + 1 by omega]; ring

theorem reverseDigits_lt (k n x : Nat) : reverseDigits (2 ^ k) n x 0 < 2 ^ (k * n) :=
  Nat.lt_pow_two_of_testBit _ fun i hi => by
    obtain ⟨d, rfl⟩ := Nat.exists_eq_add_of_le hi
    rw [(testBit_reverseDigits k n x 0).1 d, Nat.zero_testBit]

theorem clzIs_countLz (N : Nat) (x : W64) : clzIs N x (countLz N (x.toNat % 2 ^ N)) := by
  obtain ⟨le, above, at_⟩ := countLz_bits (Nat.mod_lt x.toNat (show 0 < 2 ^ N by positivity))
  exact ⟨le, fun i hi => (testBit_lowBits x (by omega)).symm.trans (above i hi),
    fun h => (testBit_lowBits x (by omega)).symm.trans (at_ h)⟩
theorem ctzIs_countTz (N : Nat) (x : W64) : ctzIs N x (countTz N (x.toNat % 2 ^ N)) := by
  obtain ⟨le, below, at_⟩ := countTz_bits N (x.toNat % 2 ^ N)
  exact ⟨le, fun i hi => (testBit_lowBits x (by omega)).symm.trans (below i hi),
    fun h => (testBit_lowBits x h).symm.trans (at_ h)⟩
theorem popcIs_popCount (N : Nat) (x : W64) : popcIs N x (popCount N (x.toNat % 2 ^ N)) := by
  rw [popcIs, popCount_eq_length]
  exact congrArg List.length (List.filter_congr fun i hi => testBit_lowBits x (List.mem_range.mp hi))
theorem brevIs_reverseDigits (N : Nat) (x : W64) : brevIs N x (reverseDigits 2 N (x.toNat % 2 ^ N) 0) := by
  refine ⟨by simpa using reverseDigits_lt 1 N _, fun i hi => ?_⟩
  have digit := (testBit_reverseDigits 1 N (x.toNat % 2 ^ N) 0).2 i hi 0 Nat.one_pos
  rw [testBit_lowBits x (by omega)] at digit
  simpa using digit
theorem bswapIs_reverseDigits {N : Nat} (h : 8 ∣ N) (x : W64) :
    bswapIs N x (reverseDigits 256 (N / 8) (x.toNat % 2 ^ N) 0) := by
  refine ⟨?_, fun j hj t ht => ?_⟩
  · have below := reverseDigits_lt 8 (N / 8) (x.toNat % 2 ^ N)
    rwa [Nat.mul_div_cancel' h] at below
  · have digit := (testBit_reverseDigits 8 (N / 8) (x.toNat % 2 ^ N) 0).2 j hj t ht
    rwa [testBit_lowBits x (by omega)] at digit

theorem bitMeanings_rows : ∀ p ∈ bitMeanings, ∃ f, (∀ h o s, exec (p.1 h o) s = bitRow f h o s) ∧
    ∀ N, 8 ∣ N → ∀ x : W64, p.2 N x (f N (x.toNat % 2 ^ N)) := by
  simp only [bitMeanings, List.forall_mem_cons, List.not_mem_nil, false_imp_iff, implies_true, and_true]
  exact ⟨⟨_, exec_clz, fun N _ => clzIs_countLz N⟩, ⟨_, exec_ctz, fun N _ => ctzIs_countTz N⟩,
    ⟨_, exec_popc, fun N _ => popcIs_popCount N⟩, ⟨_, exec_brev, fun N _ => brevIs_reverseDigits N⟩,
    ⟨_, exec_bswap, fun N hN => bswapIs_reverseDigits hN⟩⟩

/-- A natural number as a row of width 32 or 64 writes it. -/
theorem putN_rowWidth (w : Bool) (r : Nat) :
    putN (rowWidth w) (r : Int) = if w then (BitVec.ofNat 32 r).signExtend 64 else BitVec.ofNat 64 r := by
  rw [putN_eq_signExtend, BitVec.ofInt_natCast]
  cases w with
  | false => exact BitVec.signExtend_eq _
  | true => rfl

/-- Settles O5: each instruction writes a function of the low bits, which is what the table says of them. -/
theorem bitOperationResults : Obligations.BitOperationResults := by
  unfold Obligations.BitOperationResults
  intro p hp h o s c
  obtain ⟨f, row, meaning⟩ := bitMeanings_rows p hp
  have bytes : 8 ∣ rowWidth o.w := by cases o.w <;> decide
  obtain ⟨t, acts, retired⟩ := scalar_wrG o.d
    (fun s => putN (rowWidth o.w) (f (rowWidth o.w) ((rdG s o.a).toNat % 2 ^ rowWidth o.w) : Nat)) c
  rw [putN_rowWidth] at retired
  exact ⟨t, _, (row h o s).trans acts, meaning _ bytes _, retired⟩

end Sys2Proof.Machine
end

section
namespace Sys2Proof.Machine

/-! ## Fields and selection (R103 to R105) -/

theorem testBit_fieldOfWord (x ctl : W64) (i : Nat) :
    (fieldOfWord x ctl).testBit i = (decide (i < fieldLen ctl) && x.getLsbD (fieldPos ctl + i)) := by
  rw [fieldOfWord, Nat.testBit_mod_two_pow, Nat.testBit_div_two_pow, Nat.add_comm]; rfl

/-- BFX repeats the last bit of its field. -/
theorem getLsbD_bfx (x ctl : W64) {i : Nat} (h : i < 64) :
    (if fieldLen ctl = 0 then 0 else putN (fieldLen ctl) (fieldOfWord x ctl : Nat)).getLsbD i =
      if i < fieldLen ctl then x.getLsbD (fieldPos ctl + i)
      else fieldLen ctl != 0 && x.getLsbD (fieldPos ctl + fieldLen ctl - 1) := by
  by_cases empty : fieldLen ctl = 0
  · simp [empty]
  · have pos : 0 < fieldLen ctl := Nat.pos_of_ne_zero empty
    have last : fieldPos ctl + fieldLen ctl - 1 = fieldPos ctl + (fieldLen ctl - 1) := by omega
    rw [if_neg empty, putN_eq_signExtend, BitVec.ofInt_natCast, BitVec.getLsbD_signExtend, BitVec.msb_eq_getLsbD_last, last]
    simp only [BitVec.getLsbD_ofNat, testBit_fieldOfWord, h, pos, decide_true, Bool.true_and, Nat.sub_lt, Nat.one_pos]
    split <;> simp_all

theorem getLsbD_bfxn (x ctl : W64) {i : Nat} (h : i < 64) :
    (BitVec.ofNat 64 (fieldOfWord x ctl)).getLsbD i = (decide (i < fieldLen ctl) && x.getLsbD (fieldPos ctl + i)) := by
  simp only [BitVec.getLsbD_ofNat, testBit_fieldOfWord, h, decide_true, Bool.true_and]

/-- The bits of a field, and the word of old whose field holds the low bits of x. -/
def fieldMask (ctl : W64) : W64 := BitVec.ofNat 64 ((2 ^ fieldLen ctl - 1) * 2 ^ fieldPos ctl)
def insertField (x old ctl : W64) : W64 := (old &&& ~~~fieldMask ctl) ||| ((x <<< fieldPos ctl) &&& fieldMask ctl)

theorem getLsbD_fieldMask (ctl : W64) {i : Nat} (h : i < 64) :
    (fieldMask ctl).getLsbD i = decide (fieldPos ctl ≤ i ∧ i < fieldPos ctl + fieldLen ctl) := by
  rw [fieldMask, BitVec.getLsbD_ofNat, Nat.testBit_mul_two_pow, Nat.testBit_two_pow_sub_one, Bool.eq_iff_iff]
  simp [h]
  omega

theorem getLsbD_insertField (x old ctl : W64) {i : Nat} (h : i < 64) :
    (insertField x old ctl).getLsbD i =
      if fieldPos ctl ≤ i ∧ i < fieldPos ctl + fieldLen ctl then x.getLsbD (i - fieldPos ctl) else old.getLsbD i := by
  simp only [insertField, BitVec.getLsbD_or, BitVec.getLsbD_and, BitVec.getLsbD_not, BitVec.getLsbD_shiftLeft, getLsbD_fieldMask ctl h, h,
    decide_true, Bool.true_and]
  by_cases inside : fieldPos ctl ≤ i ∧ i < fieldPos ctl + fieldLen ctl
  · simp [inside]
  · simp [inside]

/-- Settles O6: each writes the word whose bits are given above. -/
theorem fieldAndSelectResults : Obligations.FieldAndSelectResults := by
  unfold Obligations.FieldAndSelectResults
  refine ⟨fun h d a b s c => ⟨?_, ?_⟩, fun h d a b r s c => ?_, fun h d a b r s c => ?_⟩
  · rw [exec_bfx]
    obtain ⟨t, acts, retired⟩ := scalar_wrG d (fun s => if fieldLen (rdSrc s b) = 0 then 0
      else putN (fieldLen (rdSrc s b)) (fieldOfWord (rdG s a) (rdSrc s b) : Nat)) c
    exact ⟨t, _, acts, retired, fun i hi => getLsbD_bfx (rdG s a) (rdSrc s b) hi⟩
  · rw [exec_bfxn]
    obtain ⟨t, acts, retired⟩ := scalar_wrG d (fun s => BitVec.ofNat 64 (fieldOfWord (rdG s a) (rdSrc s b))) c
    exact ⟨t, _, acts, retired, fun i hi => getLsbD_bfxn (rdG s a) (rdSrc s b) hi⟩
  · rw [exec_bfi]
    obtain ⟨t, acts, retired⟩ := scalar_wrG d (fun s => insertField (rdG s a) (rdG s r) (rdSrc s b)) c
    exact ⟨t, _, acts, retired, fun i hi => getLsbD_insertField (rdG s a) (rdG s r) (rdSrc s b) hi⟩
  · rw [exec_sel]
    exact scalar_wrG d (fun s => if (rdP s r).getLsbD 0 then rdG s a else rdSrc s b) c

end Sys2Proof.Machine
end

section
namespace Sys2Proof.Machine

/-! ## Moves (R106, R107, R111 to R113) -/

/-- LIH replaces the high half. -/
theorem toNat_lih (i : W32) (old : W64) :
    (i ++ old.extractLsb' 0 32).toNat / 2 ^ 32 = i.toNat ∧ (i ++ old.extractLsb' 0 32).toNat % 2 ^ 32 = old.toNat % 2 ^ 32 := by
  have low : (old.extractLsb' 0 32).toNat = old.toNat % 2 ^ 32 := by simp
  rw [BitVec.toNat_append, ← Nat.shiftLeft_add_eq_or_of_lt (BitVec.isLt _), Nat.shiftLeft_eq, low]
  omega

/-- MFP reads one half. -/
theorem getLsbD_mfp (hi : Bool) (x : PWord) {i : Nat} (h : i < 64) :
    (x.extractLsb' (if hi then 64 else 0) 64).getLsbD i = x.getLsbD (if hi then 64 + i else i) := by
  cases hi <;> simp [h]

theorem getLsbD_append_low (x y : W64) {i : Nat} (h : i < 64) : (x ++ y).getLsbD i = y.getLsbD i := by
  rw [BitVec.getLsbD_append, if_pos h]
theorem getLsbD_append_high (x y : W64) (i : Nat) : (x ++ y).getLsbD (64 + i) = x.getLsbD i := by
  rw [BitVec.getLsbD_append, if_neg (by omega), Nat.add_sub_cancel_left]

/-- MTP replaces one half. -/
theorem getLsbD_mtp (hi : Bool) (x : W64) (old : PWord) {i : Nat} (h : i < 64) :
    let p : PWord := if hi then x ++ old.extractLsb' 0 64 else old.extractLsb' 64 64 ++ x
    p.getLsbD (if hi then 64 + i else i) = x.getLsbD i ∧
      p.getLsbD (if hi then i else 64 + i) = old.getLsbD (if hi then i else 64 + i) := by
  have half (lo : Nat) : (old.extractLsb' lo 64).getLsbD i = old.getLsbD (lo + i) := by
    rw [BitVec.getLsbD_extractLsb', decide_eq_true h, Bool.true_and]
  cases hi with
  | false => exact ⟨getLsbD_append_low _ x h, (getLsbD_append_high _ x i).trans (half 64)⟩
  | true => exact ⟨getLsbD_append_high x _ i, (getLsbD_append_low x _ h).trans ((half 0).trans (by simp))⟩

/-- An effective address is the sum of its parts, modulo 2^64 (R79). -/
theorem ea_eq_ofInt (s : State) (a : Addr) :
    ea s a = BitVec.ofInt 64 ((rdG s a.base).toNat + (rdG s a.index).toNat * 2 ^ a.xs.val + a.disp.toInt) := by
  have reg (x : W64) : BitVec.ofInt 64 (x.toNat : Int) = x := ofInt_eq_of_toNat rfl
  rw [ea, BitVec.ofInt_add, BitVec.ofInt_add, BitVec.ofInt_mul, reg, reg, ofInt_two_pow, BitVec.shiftLeft_eq_mul_twoPow]
  rfl

/-- Settles O7: each writes one register with a word whose value or bits are given above. -/
theorem moveResults : Obligations.MoveResults := by
  unfold Obligations.MoveResults
  refine ⟨?mov, ?immediates, ?mfb, ?mtb, ?mfp, ?mtp, ?lea⟩
  case mov =>
    intro h d a s c
    rw [exec_mov]
    exact scalar_wrG d (fun s => rdG s a) c
  case immediates =>
    intro h d i s c
    refine ⟨?_, ?_⟩
    · rw [exec_li]
      exact scalar_wrG d (fun _ => sext32 i) c
    · rw [exec_lih]
      obtain ⟨t, acts, retired⟩ := scalar_wrG d (fun s => i ++ (rdG s d).extractLsb' 0 32) c
      exact ⟨t, _, acts, retired, toNat_lih i (rdG s d)⟩
  case mfb =>
    intro h d a s c
    rw [exec_mfb]
    exact scalar_wrG d (fun s => (rdB s a).setWidth 64) c
  case mtb =>
    intro h d b s c
    rw [exec_mtb]
    exact scalar_wrB d (fun s => (rdSrc s b).setWidth 32) c
  case mfp =>
    intro h hi d a s c
    rw [exec_mfp]
    obtain ⟨t, acts, retired⟩ := scalar_wrG d (fun s => (rdP s a).extractLsb' (if hi then 64 else 0) 64) c
    exact ⟨t, _, acts, retired, fun i hi' => getLsbD_mfp hi (rdP s a) hi'⟩
  case mtp =>
    intro h hi d a s c
    rw [exec_mtp]
    obtain ⟨t, acts, retired⟩ := scalar_wrP d (fun s => if hi then rdG s a ++ (getP (me s).regs d).extractLsb' 0 64
      else (getP (me s).regs d).extractLsb' 64 64 ++ rdG s a) c
    exact ⟨t, _, acts, retired, fun i hi' => getLsbD_mtp hi (rdG s a) (getP (me s).regs d) hi'⟩
  case lea =>
    intro h d base index xs disp s c
    rw [exec_lea]
    obtain ⟨t, acts, retired⟩ := scalar_wrG d (fun s => ea s ⟨base, index, xs, disp, .virt⟩) c
    rw [ea_eq_ofInt] at retired
    exact ⟨t, acts, retired⟩

end Sys2Proof.Machine
end

section
namespace Sys2Proof.Machine

/-! ## Transfers (R114 to R119) -/

section
variable {fn : Nat} {disp : BitVec 50} {pre : State → State} {s : State}

theorem takeRel_eq : takeRel fn disp pre s = if relTarget s disp < 0 || lmax < relTarget s disp
    then raiseOp cBTGT fn (disp.signExtend 64).toNat s else jumpTo fn (slotAddr (relTarget s disp).toNat) (pre s) := rfl
/-- A relative transfer to a slot, and one out of the slots (R115, R119). -/
theorem takeRel_inside (lo : 0 ≤ relTarget s disp) (hi : relTarget s disp < 5 * 2 ^ 58) :
    takeRel fn disp pre s = jumpTo fn (slotAddr (relTarget s disp).toNat) (pre s) := by
  have inside : ¬ (relTarget s disp < 0 ∨ lmax < relTarget s disp) := by unfold lmax; omega
  rw [takeRel_eq, if_neg (by simpa using inside)]
theorem takeRel_outside (out : relTarget s disp < 0 ∨ 5 * 2 ^ 58 ≤ relTarget s disp) :
    takeRel fn disp pre s = raiseOp cBTGT fn (disp.signExtend 64).toNat s := by
  have outside : relTarget s disp < 0 ∨ lmax < relTarget s disp := by unfold lmax; omega
  rw [takeRel_eq, if_pos (by simpa using outside)]

/-- A transfer to the address in a register, a slot address or not (R118). -/
theorem takeReg_slot {a : GReg} (k : slotOk (rdG s a).toNat = true) : takeReg fn a none s = jumpTo fn (rdG s a).toNat s := if_pos k
theorem takeReg_link_slot {a b : GReg} (k : slotOk (rdG s a).toNat = true) :
    takeReg fn a (some b) s = jumpTo fn (rdG s a).toNat (wrG s b (BitVec.ofNat 64 (nextSlot s))) := if_pos k
theorem takeReg_no_slot {a : GReg} {link : Option GReg} (k : slotOk (rdG s a).toNat = false) :
    takeReg fn a link s = raiseOp cBTGT fn (rdG s a).toNat s := if_neg (by simp [k])
end

theorem passed_jumpTo (s : State) (fn a : Nat) : Passed s (jumpTo fn a s) (me s).regs a (some fn) where
  same := (setMe_same s _).trans (setMe_same _ _)
  ctx := by simp [jumpTo, me_retire]

/-- What issues with some register fields issues with the first of them alone. -/
theorem issues_head {h : Hdr} {r : Rn} {rs : List Rn} {s : State} (k : Issues h (r :: rs) s) : Issues h [r] s := by
  obtain ⟨budget, gate, guard⟩ := k
  rw [List.all_cons, Bool.and_eq_true] at budget
  obtain ⟨first, -⟩ := budget
  exact ⟨by simpa using first, gate, guard⟩

/-! ### What each transfer does once it issues -/

section
variable {h : Hdr} {a b : GReg} {disp : BitVec 50} {s : State}

theorem br_act (k : Issues h [] s) : exec (.br h disp) s = .next (takeRel 0 disp id s) := scalar_act s _ k

theorem bc_taken {c : Cond} (k : Issues h [.g a] s) (holds : Cond.holds c (rdG s a) 0) :
    exec (.bc h c a disp) s = .next (takeRel 1 disp id s) := by
  rw [exec_bc, execBc, scalar_act s _ k, ite_cond64_of_holds holds]
theorem bc_not_taken {c : Cond} (k : Issues h [.g a] s) (fails : ¬ Cond.holds c (rdG s a) 0) :
    exec (.bc h c a disp) s = .next (retire s) := by
  rw [exec_bc, execBc, scalar_act s _ k, ite_cond64_of_not_holds fails]

theorem bcmp_taken {o : JCond} (k : Issues h [.g o.a, .g o.b] s) (holds : Cond.holds o.c (rdG s o.a) (rdG s o.b)) :
    exec (.bcmp h o) s = .next (takeRel 2 o.disp id s) := by
  rw [exec_bcmp, execBcmp, scalar_act s _ k, ite_cond64_of_holds holds]
theorem bcmp_not_taken {o : JCond} (k : Issues h [.g o.a, .g o.b] s) (fails : ¬ Cond.holds o.c (rdG s o.a) (rdG s o.b)) :
    exec (.bcmp h o) s = .next (retire s) := by
  rw [exec_bcmp, execBcmp, scalar_act s _ k, ite_cond64_of_not_holds fails]

theorem loop_taken (k : Issues h [.g a] s) (more : rdG s a ≠ 1) :
    exec (.loop h a disp) s = .next (takeRel 7 disp (fun u => wrG u a (rdG s a - 1)) s) := by
  have left : rdG s a - 1 ≠ 0 := sub_ne_zero.mpr more
  rw [exec_loop, execLoop, scalar_act s _ k]
  exact congrArg Host.Outcome.next (if_pos (bne_iff_ne.mpr left))
theorem loop_ends (k : Issues h [.g a] s) (last : rdG s a = 1) : exec (.loop h a disp) s = .next (retire (wrG s a 0)) := by
  have zero : rdG s a - 1 = 0 := by rw [last]; rfl
  rw [exec_loop, execLoop, scalar_act s _ k]
  simp only [zero]; rfl

theorem call_act (k : Issues h [.g b] s) :
    exec (.call h b disp) s = .next (takeRel 3 disp (fun u => wrG u b (BitVec.ofNat 64 (nextSlot u))) s) := scalar_act s _ k
theorem jmp_act (k : Issues h [.g a] s) : exec (.jmp h a) s = .next (takeReg 4 a none s) := scalar_act s _ k
theorem jmpl_act (k : Issues h [.g a, .g b] s) : exec (.jmpl h a b) s = .next (takeReg 5 a (some b) s) := scalar_act s _ k
theorem ret_act (k : Issues h [.g a] s) : exec (.ret h a) s = .next (takeReg 6 a none s) := scalar_act s _ k
end

/-- Settles O11: the transfer that issues, by whether it is taken; a target inside the slots is jumped to. -/
theorem transfersTaken : Obligations.TransfersTaken := by
  unfold Obligations.TransfersTaken
  refine ⟨?br, ?bc, ?bcmp, ?loop, ?call, ?register, ?jmpl⟩
  case br => exact fun h disp s k lo hi => ⟨_, br_act k, takeRel_inside lo hi ▸ passed_jumpTo s 0 _⟩
  case bc =>
    exact fun h c a disp s k => ⟨fun holds lo hi => ⟨_, bc_taken k holds, takeRel_inside lo hi ▸ passed_jumpTo s 1 _⟩,
      fun fails => ⟨_, bc_not_taken k fails, retired_retire s⟩⟩
  case bcmp =>
    exact fun h o s k => ⟨fun holds lo hi => ⟨_, bcmp_taken k holds, takeRel_inside lo hi ▸ passed_jumpTo s 2 _⟩,
      fun fails => ⟨_, bcmp_not_taken k fails, retired_retire s⟩⟩
  case loop =>
    exact fun h a disp s k =>
      ⟨fun more lo hi => ⟨_, loop_taken k more, takeRel_inside lo hi ▸ passed_jumpTo_updRegs s _ 7 _⟩,
        fun last => ⟨_, loop_ends k last, retired_updRegs s _⟩⟩
  case call => exact fun h b disp s k lo hi => ⟨_, call_act k, takeRel_inside lo hi ▸ passed_jumpTo_updRegs s _ 3 _⟩
  case register =>
    exact fun h a s k slot => ⟨⟨_, jmp_act k, takeReg_slot slot ▸ passed_jumpTo s 4 _⟩,
      ⟨_, ret_act k, takeReg_slot slot ▸ passed_jumpTo s 6 _⟩⟩
  case jmpl => exact fun h a b s k slot => ⟨_, jmpl_act k, takeReg_link_slot slot ▸ passed_jumpTo_updRegs s _ 5 _⟩

/-- Settles O12: the same transfers to a target that is no slot, and the freeze. -/
theorem transferFaults : Obligations.TransferFaults := by
  unfold Obligations.TransferFaults
  refine ⟨?br, ?bc, ?bcmp, ?loop, ?call, ?register, ?freeze⟩
  case br => exact fun h disp s k out => (br_act k).trans (congrArg _ (takeRel_outside out))
  case bc => exact fun h c a disp s k holds out => (bc_taken k holds).trans (congrArg _ (takeRel_outside out))
  case bcmp => exact fun h o s k holds out => (bcmp_taken k holds).trans (congrArg _ (takeRel_outside out))
  case loop => exact fun h a disp s k more out => (loop_taken k more).trans (congrArg _ (takeRel_outside out))
  case call => exact fun h b disp s k out => (call_act k).trans (congrArg _ (takeRel_outside out))
  case register =>
    exact fun h a b s k bad => ⟨(jmp_act (issues_head k)).trans (congrArg _ (takeReg_no_slot bad)),
      (jmpl_act k).trans (congrArg _ (takeReg_no_slot bad)), (ret_act (issues_head k)).trans (congrArg _ (takeReg_no_slot bad))⟩
  case freeze => exact fun code aux addr s => froze_raiseOp s code aux addr

end Sys2Proof.Machine
end

section
namespace Sys2Proof.Machine

/-! ## Integer element-wise results (R37, R38, R122 to R127) -/

theorem elem_lt (w : Nat) (x : VWord) (i : Nat) : elem w x i < 2 ^ w := Nat.mod_lt _ (Nat.two_pow_pos w)

theorem immElem_of_isInt {t : ElemType} (int : ElemType.isInt t = true) (k : W32) : immElem t k = ofS t.width (toS 32 k.toNat) := if_pos int

/-- On an integer type both forms of the second operand fit the type: an element of v[b], and imm32 brought into the width (R122). -/
theorem vsrcElem_lt {t : ElemType} (int : t.inI = true) (s : State) (b : VSrc) (i : Nat) : vsrcElem s t b i < 2 ^ t.width := by
  cases b with
  | reg r => exact elem_lt _ _ i
  | imm k => exact (immElem_of_isInt (isInt_of_inI int) k).trans_lt (wrapTo_lt _ _)

theorem ofS_eq_wrapTo (w : Nat) (z : Int) : ofS w z = wrapTo w z := rfl
theorem wrapTo_mod (w : Nat) (z : Int) : wrapTo w z % 2 ^ w = wrapTo w z := Nat.mod_eq_of_lt (wrapTo_lt w z)
theorem wrapTo_natCast (w x : Nat) : wrapTo w x = x % 2 ^ w := by rw [wrapTo]; norm_cast

theorem inI_of_inS {t : ElemType} (h : t.inS = true) : t.inI = true := by cases t <;> simp_all [ElemType.inS, ElemType.inI]

theorem clampI_eq_clampTo {t : ElemType} (int : t.inI = true) (z : Int) : clampI t z = clampTo t z := by
  rw [clampI_eq_intClamp (isInt_of_inI int)]
  cases t <;> simp_all [intClamp, ElemType.inI]

/-- A signed element shifted right arithmetically by at least its width leaves copies of its sign (R127). -/
theorem sgn_div_two_pow_min (w x n : Nat) :
    sgn w x / 2 ^ Nat.min n w = if n < w then sgn w x / 2 ^ n else if sgn w x < 0 then -1 else 0 := by
  by_cases lt : n < w
  · rw [if_pos lt, show Nat.min n w = n from Nat.min_eq_left lt.le]
  · have lo : -(2 ^ w : Int) ≤ 2 * sgn w x := BitVec.le_two_mul_toInt
    have hi : 2 * sgn w x < 2 ^ w := BitVec.two_mul_toInt_lt
    have pos : (0 : Int) < 2 ^ w := by positivity
    rw [if_neg lt, show Nat.min n w = w from Nat.min_eq_right (Nat.le_of_not_lt lt)]
    split
    · rw [Int.ediv_eq_iff_of_pos pos]; omega
    · exact Int.ediv_eq_zero_of_lt (by omega) (by omega)

/-- On elements of an integer type the operation f of an instruction gives the integer r brought into the type's width, and no flag. -/
def IntRow (f : ElemType → FMode → Nat → Nat → Nat × Nat) (r : ElemType → Nat → Nat → Int) : Prop :=
  ∀ t md x y, t.inI = true → x < 2 ^ t.width → y < 2 ^ t.width → f t md x y = (wrapTo t.width (r t x y), 0)

/-- VADD, VSUB, VMUL, VMIN and VMAX: the integer side of an instruction that is also floating. -/
theorem intRow_intOr (fi : Int → Int → Int) (ff : Fmt → FMode → Nat → Nat → Nat × Nat) :
    IntRow (fun t => intOr t fi ff) fun t x y => fi (asInt t x) (asInt t y) := by
  intro t md x y int hx hy
  dsimp only
  rw [intOr, if_pos (isInt_of_inI int), readI_eq_asInt int hx, readI_eq_asInt int hy, ofS_eq_wrapTo]

theorem intRow_vmulh : IntRow (fun t _ x y => (ofS t.width (readI t x * readI t y / 2 ^ t.width), 0))
    fun t x y => asInt t x * asInt t y / 2 ^ t.width := by
  intro t md x y int hx hy
  dsimp only
  rw [readI_eq_asInt int hx, readI_eq_asInt int hy, ofS_eq_wrapTo]

/-- VADDS and VSUBS: an exact result brought into the range of the type. -/
theorem intRow_clampI (fi : Int → Int → Int) : IntRow (fun t _ x y => (ofS t.width (clampI t (fi (readI t x) (readI t y))), 0))
    fun t x y => clampTo t (fi (asInt t x) (asInt t y)) := by
  intro t md x y int hx hy
  dsimp only
  rw [readI_eq_asInt int hx, readI_eq_asInt int hy, clampI_eq_clampTo int, ofS_eq_wrapTo]

theorem natCast_shiftLeft (x n : Nat) : ((x * 2 ^ n : Nat) : Int) = x * 2 ^ n := by push_cast; rfl
theorem natCast_shiftRight (x n : Nat) : ((x / 2 ^ n : Nat) : Int) = x / 2 ^ n := by push_cast; rfl

/-- VSHL and VSHR: a count of the width or more gives 0 (R127). -/
theorem intRow_shift {g : Nat → Nat → Nat} {r : Nat → Nat → Int} (cast : ∀ x n, (g x n : Int) = r x n) :
    IntRow (fun t _ x n => ((if t.width ≤ n then 0 else g x n) % 2 ^ t.width, 0)) fun t x n => if n < t.width then r x n else 0 := by
  intro t md x n int hx hn
  dsimp only
  rw [← wrapTo_natCast, ← ite_not, ← cast, Nat.cast_ite, Nat.cast_zero]
  simp only [Nat.not_le]

theorem intRow_vsha : IntRow (fun t _ x n => (ofS t.width (toS t.width x / 2 ^ Nat.min n t.width) % 2 ^ t.width, 0))
    fun t x n => if n < t.width then sgn t.width x / 2 ^ n else if sgn t.width x < 0 then -1 else 0 := by
  intro t md x n int hx hn
  dsimp only
  rw [ofS_eq_wrapTo, wrapTo_mod, toS_eq_sgn, sgn_div_two_pow_min]

/-- A row of the integers, on the elements of its operands. -/
theorem vbinOp_int_retires {f : ElemType → FMode → Nat → Nat → Nat × Nat} {r : ElemType → Nat → Nat → Int} (row : IntRow f r) {h : Hdr}
    {o : VBin} {s : State} (int : o.t.inI = true) (k : VIssues h o.t.width (.v o.d :: .v o.a :: vsrcRn o.b) s) :
    ∃ t, vbinOp f h o s = .next t ∧ VecRetired s t o.t.width (guardBits h s) o.d fun i =>
      (wrapTo o.t.width (r o.t (elem o.t.width (rdV s o.a) i) (vsrcElem s o.t o.b i)), 0) :=
  (vbinOp_retires rfl k).imp fun _ u => ⟨u.1, u.2.congr fun i _ =>
    row _ _ _ _ int (elem_lt _ _ i) (vsrcElem_lt int s o.b i)⟩

theorem vbitOp_retires {f : ElemType → Nat → Nat → Nat} {h : Hdr} {o : VBin} {s : State}
    (k : VIssues h o.t.width (.v o.d :: .v o.a :: vsrcRn o.b) s) :
    ∃ t, vbitOp f h o s = .next t ∧ VecRetired s t o.t.width (guardBits h s) o.d fun i =>
      (f o.t (elem o.t.width (rdV s o.a) i) (vsrcElem s o.t o.b i) % 2 ^ o.t.width, 0) :=
  vbinOp_retires rfl k

/-- VABS and VNEG on a signed type: what the integer side makes of the number an element stands for. -/
theorem vunOp_int_retires {fi : Int → Int} {ff : ElemType → FMode → Nat → Nat × Nat} {h : Hdr} {o : VUn} {s : State}
    (sd : o.t.inS = true) (k : VIssues h o.t.width [.v o.d, .v o.a] s) :
    ∃ t, vunOp (fun t md x => if ElemType.isInt t then (ofS t.width (fi (readI t x)), 0) else ff t md x) h o s = .next t ∧
      VecRetired s t o.t.width (guardBits h s) o.d fun i =>
        (wrapTo o.t.width (fi (sgn o.t.width (elem o.t.width (rdV s o.a) i))), 0) :=
  (vunOp_retires rfl k).imp fun _ u => ⟨u.1, u.2.congr fun i _ => by
    have int := inI_of_inS sd
    rw [if_pos (isInt_of_inI int), readI_eq_asInt int (elem_lt _ _ i), asInt, if_pos sd, ofS_eq_wrapTo]⟩

/-- Settles O14: each row of the table is an integer row, VABS and VNEG are the integer side of a unary form, and the bitwise rows have
the same operation on both sides. -/
theorem vectorIntegerResults : Obligations.VectorIntegerResults := by
  unfold Obligations.VectorIntegerResults
  refine ⟨fun p hp h o s _ int k => ?ints, fun h o s sd k => ⟨?abs, ?neg⟩, fun p hp h o s k => ?bits⟩
  case ints =>
    simp only [vecInts, List.mem_cons, List.not_mem_nil, or_false] at hp
    rcases hp with rfl | rfl | rfl | rfl | rfl | rfl | rfl | rfl | rfl | rfl | rfl
    · rw [exec_vadd]; exact vbinOp_int_retires (intRow_intOr (· + ·) addF) int k
    · rw [exec_vsub]; exact vbinOp_int_retires (intRow_intOr (· - ·) subF) int k
    · rw [exec_vmul]; exact vbinOp_int_retires (intRow_intOr (· * ·) mulF) int k
    · rw [exec_vmin]; exact vbinOp_int_retires (intRow_intOr Min.min _) int k
    · rw [exec_vmax]; exact vbinOp_int_retires (intRow_intOr Max.max _) int k
    · rw [exec_vmulh]; exact vbinOp_int_retires intRow_vmulh int k
    · rw [exec_vadds]; exact vbinOp_int_retires (intRow_clampI (· + ·)) int k
    · rw [exec_vsubs]; exact vbinOp_int_retires (intRow_clampI (· - ·)) int k
    · rw [exec_vshl]; exact vbinOp_int_retires (intRow_shift natCast_shiftLeft) int k
    · rw [exec_vshr]; exact vbinOp_int_retires (intRow_shift natCast_shiftRight) int k
    · rw [exec_vsha]; exact vbinOp_int_retires intRow_vsha int k
  case abs =>
    rw [exec_vabs, execVabs]
    simp only [Int.abs_eq_natAbs]
    exact vunOp_int_retires (fi := fun z => (z.natAbs : Int)) sd k
  case neg => rw [exec_vneg]; exact vunOp_int_retires (fi := (- ·)) sd k
  case bits =>
    simp only [vecBits, List.mem_cons, List.not_mem_nil, or_false] at hp
    rcases hp with rfl | rfl | rfl | rfl
    · rw [exec_vand]; exact vbitOp_retires (f := fun _ x y => x &&& y) k
    · rw [exec_vor]; exact vbitOp_retires (f := fun _ x y => x ||| y) k
    · rw [exec_vxor]; exact vbitOp_retires (f := fun _ x y => x ^^^ y) k
    · rw [exec_vandn]; exact vbitOp_retires (f := fun _ x y => x ^^^ (x &&& y)) k

end Sys2Proof.Machine
end

section
namespace Sys2Proof.Machine

/-! ## Permutes and moves (R133 to R137) -/

/-- What an element-wise result says depends on the elements that a register has room for. -/
theorem EachElem.congr {w : Nat} {g : PWord} {old new : VWord} {f f' : Nat → Nat} (e : EachElem w g old new f)
    (same : ∀ i < 1024 / w, f i = f' i) : EachElem w g old new f' :=
  fun i hi => same i hi ▸ e i hi

/-- An instruction that issues and fills the active elements of v[d], raising nothing. -/
theorem vector_vput_retires {h : Hdr} {w : Nat} {rs : List Rn} {s : State} {d : VReg} {f : State → Nat → Nat} (c : VIssues h w rs s) :
    ∃ t x, vector h w rs (fun s => vput w h d (f s) s) s = .next t ∧ Retired s t (putV (me s).regs d x) ∧
      EachElem w (guardBits h s) (getV (me s).regs d) x (f s) := by
  obtain ⟨x, r, e⟩ := vput_retires s w h d (f s)
  exact ⟨_, x, vector_act s _ c, r, e⟩

/-- The two halves of a register have as many elements each. -/
theorem two_mul_half_numElems (t : ElemType) : 2 * (numElems t.width / 2) = numElems t.width := by cases t <;> decide

/-- Element i of VSHUF in each mode, from the elements a and b of its operands (R134). -/
def shufElem (n : Nat) (a b : Nat → Nat) (mode i : Nat) : Nat :=
  match mode with
  | 0 => if i % 2 = 0 then a (i / 2) else b (i / 2)
  | 1 => if i % 2 = 0 then a (n / 2 + i / 2) else b (n / 2 + i / 2)
  | 2 => if i < n / 2 then a (2 * i) else b (2 * (i - n / 2))
  | _ => if i < n / 2 then a (2 * i + 1) else b (2 * (i - n / 2) + 1)

/-- The upper half of an unzip counts the elements of b from its own start. -/
theorem shufElem_unzip {n : Nat} (even : 2 * (n / 2) = n) (a b : Nat → Nat) (i : Nat) :
    shufElem n a b 2 i = (if i < n / 2 then a (2 * i) else b (2 * i - n)) ∧
    shufElem n a b 3 i = (if i < n / 2 then a (2 * i + 1) else b (2 * i + 1 - n)) := by
  by_cases low : i < n / 2
  · simp only [shufElem, low, if_true, and_self]
  · have evenIdx : 2 * (i - n / 2) = 2 * i - n := by omega
    have oddIdx : 2 * (i - n / 2) + 1 = 2 * i + 1 - n := by omega
    simp only [shufElem, low, if_false, evenIdx, ← oddIdx, and_self]

theorem vshuf_retires {h : Hdr} {o : VPermO} {s : State} (mode : Fin 4) (k : VIssues h o.t.width [.v o.d, .v o.a, .v o.b] s) :
    ∃ t x, exec (.vshuf h mode o) s = .next t ∧ Retired s t (putV (me s).regs o.d x) ∧
      EachElem o.t.width (guardBits h s) (getV (me s).regs o.d) x
        (shufElem (numElems o.t.width) (elem o.t.width (rdV s o.a)) (elem o.t.width (rdV s o.b)) mode.val) := by
  rw [exec_vshuf, execVshuf]; exact vector_vput_retires k

theorem vperm_retires {h : Hdr} {o : VPermO} {s : State} (k : VIssues h o.t.width [.v o.d, .v o.a, .v o.b] s) :
    ∃ t x, exec (.vperm h o) s = .next t ∧ Retired s t (putV (me s).regs o.d x) ∧
      EachElem o.t.width (guardBits h s) (getV (me s).regs o.d) x fun i =>
        if elem o.t.width (rdV s o.b) i < 1024 / o.t.width then elem o.t.width (rdV s o.a) (elem o.t.width (rdV s o.b) i) else 0 := by
  rw [exec_vperm, execVperm]; exact vector_vput_retires k

/-- A signed element as VEXT extends it: 10 in a t2 stands for 0 (R38). -/
theorem readI_of_isSigned {t : ElemType} (sd : ElemType.isSigned t = true) {x : Nat} (lt : x < 2 ^ t.width) :
    readI t x = if t = .t2 ∧ x = 2 then 0 else sgn t.width x := by
  have int : ElemType.isInt t = true := by cases t <;> simp_all [ElemType.isSigned, ElemType.isInt]
  rw [readI_eq_intVal int lt]
  cases t <;> simp_all [intVal, asInt, ElemType.isSigned, ElemType.inS, ElemType.width]

theorem isSigned_iff (t : ElemType) : ElemType.isSigned t = true ↔ t.inS = true ∨ t = .s4 ∨ t = .t2 := by cases t <;> decide

/-- What VEXT writes of an element (R136). -/
theorem extend_elem {t : ElemType} {x : Nat} (lt : x < 2 ^ t.width) :
    (if ElemType.isSigned t then BitVec.ofInt 64 (readI t x) else BitVec.ofNat 64 x) =
      if t = .t2 ∧ x = 2 then 0
      else if t.inS ∨ t = .s4 ∨ t = .t2 then BitVec.ofInt 64 (sgn t.width x) else BitVec.ofNat 64 x := by
  simp only [← isSigned_iff]
  by_cases sd : ElemType.isSigned t = true
  · rw [if_pos sd, if_pos sd, readI_of_isSigned sd lt]
    split <;> rfl
  · have t2 : ¬ (t = .t2 ∧ x = 2) := fun ⟨e, _⟩ => sd (e ▸ rfl)
    rw [if_neg sd, if_neg sd, if_neg t2]

theorem vext_retires {h : Hdr} {o : VExtO} {s : State} (k : VIssues h o.t.width ([.g o.d, .v o.a] ++ srcRn o.b) s) :
    ∃ t x, exec (.vext h o) s = .next t ∧ Retired s t (putG (me s).regs o.d x) ∧
      (1024 / o.t.width ≤ (rdSrc s o.b).toNat → x = 0) ∧
      ((rdSrc s o.b).toNat < 1024 / o.t.width →
        let e := elem o.t.width (rdV s o.a) (rdSrc s o.b).toNat
        x = if o.t = .t2 ∧ e = 2 then 0
          else if o.t.inS ∨ o.t = .s4 ∨ o.t = .t2 then BitVec.ofInt 64 (sgn o.t.width e) else BitVec.ofNat 64 e) := by
  rw [exec_vext, execVext]
  refine ⟨_, _, vector_act s _ k, retired_updRegs s fun r => putG r o.d _, fun outside => ?_, fun inside => ?_⟩
  · rw [if_neg (show ¬ _ < numElems o.t.width from Nat.not_lt.mpr outside), extend_elem (Nat.two_pow_pos _)]
    simp [sgn]
  · rw [if_pos (show _ < numElems o.t.width from inside), extend_elem (elem_lt _ _ _)]

theorem vins_retires {h : Hdr} {o : VInsO} {s : State} (k : VIssues h o.t.width ([.v o.d, .g o.a] ++ srcRn o.b) s) :
    ∃ t x, exec (.vins h o) s = .next t ∧ Retired s t (putV (me s).regs o.d x) ∧
      ∀ i < 1024 / o.t.width, elem o.t.width x i =
        if i = (rdSrc s o.b).toNat ∧ active (guardBits h s) o.t.width i then (rdG s o.a).toNat % 2 ^ o.t.width
        else elem o.t.width (getV (me s).regs o.d) i := by
  have whole (i : Nat) : elem o.t.width (getV (me s).regs o.d) i % 2 ^ o.t.width = elem o.t.width (getV (me s).regs o.d) i :=
    Nat.mod_eq_of_lt (elem_lt _ _ i)
  rw [exec_vins, execVins]
  obtain ⟨t, x, e, r, elems⟩ := vector_vput_retires (d := o.d) (f := fun s i => if i = (rdSrc s o.b).toNat then
    (rdG s o.a).toNat % 2 ^ o.t.width else elem o.t.width (getV (me s).regs o.d) i) k
  refine ⟨t, x, e, r, fun i hi => (elems i hi).trans ?_⟩
  by_cases at_ : i = (rdSrc s o.b).toNat
  · simp only [at_, if_true, true_and, Nat.mod_mod]
  · simp only [at_, if_false, false_and, whole, ite_self]

/-- Settles O18: each permute fills the active elements; VEXT writes the extended element, VINS one element. -/
theorem permuteResults : Obligations.PermuteResults := by
  unfold Obligations.PermuteResults
  refine ⟨fun h d a b s k => ?permb, fun h o s k => ⟨?perm, vshuf_retires 0 k, vshuf_retires 1 k, ?unzipEven, ?unzipOdd⟩,
    fun h o c s k => ?slide, fun h o s k => ⟨fun r hr => ?bcastReg, fun i hi => ?bcastImm, ?idx⟩, fun h o s k => ?mov,
    fun h o s k => vext_retires k, fun h o s k => vins_retires k⟩
  case permb =>
    simp only [← Nat.not_le, ite_not]
    rw [exec_vpermb, execVpermb]; exact vector_vput_retires k
  case perm => exact vperm_retires k
  case unzipEven =>
    obtain ⟨t, x, e, r, elems⟩ := vshuf_retires 2 k
    exact ⟨t, x, e, r, elems.congr fun i _ => (shufElem_unzip (two_mul_half_numElems _) _ _ i).1⟩
  case unzipOdd =>
    obtain ⟨t, x, e, r, elems⟩ := vshuf_retires 3 k
    exact ⟨t, x, e, r, elems.congr fun i _ => (shufElem_unzip (two_mul_half_numElems _) _ _ i).2⟩
  case slide => rw [exec_vslide, execVslide]; exact vector_vput_retires k
  case bcastReg => rw [exec_vbcast, execVbcast, hr]; exact vector_vput_retires (hr ▸ k)
  case bcastImm => rw [exec_vbcast, execVbcast, hi]; exact vector_vput_retires (hi ▸ k)
  case idx => rw [exec_vidx, execVidx]; exact vector_vput_retires k
  case mov => rw [exec_vmov, execVmov]; exact vector_vput_retires k

end Sys2Proof.Machine
end

section
namespace Sys2Proof.Machine

/-! ## Stores to own croft memory where a class count is full (R14, R150) -/

/-- An own store too waits in the rotation while a class count stands above 255. -/
theorem doStore_full {s : State} {a : Nat} {m : Option Mark} {ps : List (List Piece)} (full : 255 < (me s).o1) (fresh : (me s).sub = 0)
    (ok : markBad s m = false) (nonempty : ps ≠ []) : doStore a m ps s = waitTurn s := by
  have some_left : ps.isEmpty = false := by simpa using nonempty
  simp [doStore, ok, fresh, some_left, postsFit_full full]

theorem st_own_full {h : Hdr} {o : StO} {s : State} {off : Nat} (c : Issues h ([.g o.d] ++ addrRn o.a ++ emRn o.em) s)
    (at_ : placeOf o.a.space (ea s o.a).toNat = some (.own off)) (fits : off + 2 ^ o.size.val ≤ 0x10000) (fresh : (me s).sub = 0)
    (unmarked : o.em = none) (full : 255 < (me s).o1) :
    exec (.st h o) s = .next (waitTurn s) := by
  have checks : checkEls s (scalarNeed needW) o.a.space [((ea s o.a).toNat, 2 ^ o.size.val)] = .ok [.own off] :=
    checkEls_own (els := [0]) (addr := fun _ => (ea s o.a).toNat) (off := fun _ => off) fun _ _ => ⟨at_, fits⟩
  have mark : markOf s o.em = none := by rw [unmarked]; rfl
  rw [exec_st, execSt, scalarStore, scalar_act s _ c, withPlaces_ok _ checks, doStore_full full fresh (by rw [mark]; exact markBad_none s)]
  simp [mark, storesOf]

/-- A store of a byte to the first byte of own croft memory. -/
def firstByte : StO := ⟨0, firstMark.a, 0, none⟩
theorem firstByte_issues : Issues ⟨0, false, 0⟩ ([.g firstByte.d] ++ addrRn firstByte.a ++ emRn firstByte.em) fullState where
  budget := by rw [me_fullState]; decide
  gate := firstMark_issues.gate
  guard := firstMark_issues.guard

/-- Refutes O22: in a state whose count of class 1 is 256, which no hypothesis of the statement excludes, a store to own croft memory does
not finish in its turn, though it is counted in no class and nothing of its context is on its way: the model waits until every count is at
most 255. -/
theorem not_ownStores : ¬ Obligations.OwnStores := by
  rintro ⟨scalar, -⟩
  have fresh : (me fullState).sub = 0 := by rw [me_fullState]; rfl
  have full : 255 < (me fullState).o1 := by rw [me_fullState]; decide
  have behind : NoneBehind fullState := by
    intro q m
    rw [me_fullState] at m
    exact absurd m List.not_mem_nil
  obtain ⟨-, finishes, -⟩ := scalar _ firstByte fullState 0 firstByte_issues firstMark_place (by decide)
  obtain ⟨t, runs, stored⟩ := finishes fresh (markBad_none _) behind
  rw [st_own_full firstByte_issues firstMark_place (by decide) fresh rfl full] at runs
  obtain rfl : waitTurn fullState = t := by injection runs
  have turn := congrArg Context.turn stored.ctx
  rw [me_waitTurn, me_retire] at turn
  exact Turn.noConfusion turn

end Sys2Proof.Machine
end

section
namespace Sys2Proof.Machine

/-! ## A store that begins ahead of a posted atomic (R151, R275, R303) -/

/-- Bank 0 holds the first line of address space 0; a posted write of a function's stream, which carries a released atomic of the
context for the next line, waits there, and a store of two units of the same context, issued before that atomic, is on its way. -/
def aheadAgent : Agent := ⟨0, 0, 0, 0, 0, 0, 0, 0, 0⟩
def aheadRes : Res := ⟨0, 0, 0, false, false, false, false⟩
def aheadUnits : List (Nat × List Byte) := [(0, [0]), (16, [0])]
def aheadStore : Req := ⟨aheadAgent, .store, aheadRes, 0, .store aheadUnits none, none, .cls 1 1⟩
def aheadAtom : Req := ⟨aheadAgent, .atomic, aheadRes, 64, .atom 4 (.int .add) (.one aheadAgent 0 0 false 0 1 2), none, .stream 0⟩
def aheadLine : Line := ⟨0, 0, 0, 0, false, false, 0⟩
def aheadState : State :=
  { State.reset with net := [⟨[], .home aheadStore, none⟩], banks := [(0, ⟨[aheadLine], [aheadAtom]⟩)], arg := [0, 0, 0] }

theorem aheadStore_arrives : deliverable aheadState (argN aheadState 0) = some (.home aheadStore) := rfl
theorem aheadStore_heldBack : heldBack aheadState 0 1 aheadStore = false := rfl
theorem aheadStore_bayBefore : bayBefore aheadState aheadStore = false := rfl
theorem aheadStore_inTurn : outOfTurn aheadState 0 aheadStore = false := rfl
theorem aheadStore_line : lineAt aheadState 0 (tagOf false 0) 0 = some aheadLine := rfl

/-- The rest of the store goes ahead of the atomic, whose number in the context's stream is the higher. -/
theorem aheadStore_queue : ∃ t, exec .homeStore aheadState = .next t ∧ (bankAt t 0).queue.map Req.va = [0, 64] := ⟨_, rfl, rfl⟩

/-- Refutes O48: a store of several units that begins performing does not always join behind those that wait at its bank. A posted write
of a function's stream that carries a released atomic is in the stream of the function alone, so the store is not held back by it, and is
yet in the order of the atomic's context, so the store's rest goes ahead of it; no hypothesis of the statement excludes such a write. -/
theorem not_homeEvents : ¬ Obligations.HomeEvents := by
  rintro ⟨performs, -⟩
  obtain ⟨-, -, begins, -⟩ := performs aheadState aheadStore aheadLine rfl aheadStore_arrives rfl rfl aheadStore_line aheadStore_heldBack
    aheadStore_bayBefore rfl
  obtain ⟨t, runs, -, -, queue, -⟩ := begins aheadUnits (0, [0]) (by decide) rfl rfl rfl rfl rfl aheadStore_inTurn
  obtain ⟨t', runs', places⟩ := aheadStore_queue
  obtain rfl : t = t' := by rw [runs] at runs'; injection runs'
  have order : [0, 64] = [64, 0] := places.symm.trans (congrArg (List.map Req.va) queue)
  exact absurd order (by decide)

end Sys2Proof.Machine
end

section
namespace Sys2Proof.Machine

/-! ## Leaving the rotation for replies (R149) -/

/-- State u is state s with the packets fs sent: the acting context's slots and registers, every byte of memory and the other crofts
stand as in s. -/
structure HasSent (s u : State) (fs : List Flight) : Prop where
  cur : u.cur = s.cur
  grp : (me u).grp = (me s).grp
  pc : (me u).pc = (me s).pc
  regs : (me u).regs = (me s).regs
  net : u.net = s.net ++ fs
  mem : u.mem = s.mem
  croftMem : ∀ n, (tenAt u n).mem = (tenAt s n).mem
  crofts : ∀ c, c ≠ s.cur.1 → croftAt u c = croftAt s c

theorem HasSent.refl (s : State) : HasSent s s [] := ⟨rfl, rfl, rfl, rfl, (List.append_nil _).symm, rfl, fun _ => rfl, fun _ _ => rfl⟩

theorem HasSent.trans {s t u : State} {fs gs : List Flight} (a : HasSent s t fs) (b : HasSent t u gs) : HasSent s u (fs ++ gs) where
  cur := b.cur.trans a.cur
  grp := b.grp.trans a.grp
  pc := b.pc.trans a.pc
  regs := b.regs.trans a.regs
  net := by rw [b.net, a.net, List.append_assoc]
  mem := b.mem.trans a.mem
  croftMem n := (b.croftMem n).trans (a.croftMem n)
  crofts c other := (b.crofts c (a.cur ▸ other)).trans (a.crofts c other)

theorem HasSent.nextSlot_eq {s u : State} {fs : List Flight} (a : HasSent s u fs) : nextSlot u = nextSlot s := by
  simp only [nextSlot, a.grp, a.pc]
theorem HasSent.thisSlot_eq {s u : State} {fs : List Flight} (a : HasSent s u fs) : thisSlot u = thisSlot s := by
  simp only [thisSlot, a.grp, a.pc]

theorem hasSent_send (s : State) (f : Flight) : HasSent s (send s f) [f] := ⟨rfl, rfl, rfl, rfl, rfl, rfl, fun _ => rfl, fun _ _ => rfl⟩

/-- A change of the acting context's record that keeps its slots and registers. -/
theorem hasSent_updMe {s : State} {f : Context → Context} (grp : (f (me s)).grp = (me s).grp) (pc : (f (me s)).pc = (me s).pc)
    (regs : (f (me s)).regs = (me s).regs) : HasSent s (updMe s f) [] where
  cur := rfl
  grp := by rw [me_updMe, grp]
  pc := by rw [me_updMe, pc]
  regs := by rw [me_updMe, regs]
  net := (List.append_nil _).symm
  mem := rfl
  croftMem _ := rfl
  crofts c other := (setMe_same s _).crofts c other

/-- The seal of a quiet context sends nothing. -/
theorem hasSent_seal {s : State} (q : Quiet s) : HasSent s (sealOf s) [] := by
  have run := keepsRun_seal q
  refine ⟨run.cur, congrArg RunPart.grp run.run, congrArg RunPart.pc run.run, congrArg RunPart.regs run.run, ?_, run.mem, fun n => ?_,
    fun c other => ?_⟩
  · rw [sealOf_net q, List.append_nil]
  · simp only [tenAt, sealOf_tenants q]
  · rw [sealOf, sealRun, releaseHeld_none s _ _ q.held]
    exact (croftAt_setCroft_ne _ _ other).trans (croftAt_setCroft_ne _ _ other)

theorem me_awaitMe (w : Await) (u : State) : me (awaitMe w u) = { me u with
    mode := .awaiting, turn := .issued, stage := .open, pc := nextSlot u, await := some { w with slot := thisSlot u, base := baseSlot u } } :=
  me_updMe u _

/-- What awaits its replies once its packets are sent. -/
theorem HasSent.awaits {s u : State} {fs : List Flight} (a : HasSent s u fs) {w : Await} (left : w.left = fs.length) :
    Awaits s (awaitMe w u) fs w.fin w.run where
  mode := by rw [me_awaitMe]
  pc := by rw [me_awaitMe]; exact a.nextSlot_eq
  await := ⟨{ w with slot := thisSlot u, base := baseSlot u }, by rw [me_awaitMe], left, rfl, rfl, a.thisSlot_eq⟩
  regs := by rw [me_awaitMe]; exact a.regs
  net := a.net
  mem := a.mem
  croftMem := a.croftMem
  crofts c other := ((setMe_same u _).crofts c (a.cur ▸ other)).trans (a.crofts c other)
  cur := a.cur

end Sys2Proof.Machine
end

section
namespace Sys2Proof.Machine

/-! ## Atomics at issue (R175 to R179) -/

theorem placeOf_device {va : Nat} (below : va < vaEnd) : placeOf .virt va = some (.virt va) := by
  have own : va / 2 ^ 16 ≠ 0x01FFFF000000 := by unfold vaEnd at below; omega
  have rem : va / 2 ^ 40 ≠ 0x01FE00 := by unfold vaEnd at below; omega
  have dbg : va / 2 ^ 40 ≠ 0x01FE01 := by unfold vaEnd at below; omega
  have inside : va < 2 ^ 57 := by unfold vaEnd at below; omega
  simp only [placeOf, own, rem, dbg, inside, if_false, if_true]

/-- An address of device memory that an atomic of n bytes may use (R147, R176). -/
def AtomAdmitted (s : State) (va n : Nat) : Prop := va % n = 0 ∧ va < vaEnd ∧ rangeOk (winsOf s) Window.rw va n = true

theorem atomFault_none {s : State} {n : Nat} {as : List Nat} (ok : ∀ a ∈ as, AtomAdmitted s a n) : atomFault s n as = none := by
  induction as with
  | nil => rfl
  | cons a as ih =>
    obtain ⟨aligned, below, covered⟩ := ok a List.mem_cons_self
    rw [atomFault_admitted as aligned fun y => ?_]
    · exact ih fun b m => ok b (List.mem_cons_of_mem _ m)
    · simp [AtomDenied, placeOf_device below, covered]

/-- The request of element e = (index, address, operand, expected), numbered id, sent from state u (R177, R178). -/
def atomFlight (u : State) (n : Nat) (f : AtomF) (e : Nat × Nat × Nat × Nat) (id : Nat) : Flight :=
  ⟨[4, (meAgent u).ten, (meAgent u).name, e.2.1], .home ⟨meAgent u, .atomic, resOf u e.2.1, e.2.1,
    .atom n f (.one (meAgent u) e.2.2.1 e.2.2.2 true (e.1 * n) 0 id), none, .reply (e.1 * n)⟩, none⟩
def atomFlights (u : State) (n : Nat) (f : AtomF) (els : List (Nat × Nat × Nat × Nat)) (id : Nat) : List Flight :=
  els.zipIdx.map fun j => atomFlight u n f j.1 (id + j.2)

theorem atomFlights_cons (u : State) (n : Nat) (f : AtomF) (e : Nat × Nat × Nat × Nat) (els : List (Nat × Nat × Nat × Nat)) (id : Nat) :
    atomFlights u n f (e :: els) id = atomFlight u n f e id :: atomFlights u n f els (id + 1) := by
  have place (k : Nat) : id + (k + 1) = id + 1 + k := by omega
  rw [atomFlights, zipIdx_cons_succ, List.map_cons, List.map_map]
  exact congrArg (atomFlight u n f e id :: ·) (List.map_congr_left fun j _ => congrArg (atomFlight u n f j.1) (place j.2))

/-- The state in which the requests of the elements, numbered from its own number on, have been sent. -/
def sentAtoms (u : State) (n : Nat) (f : AtomF) (els : List (Nat × Nat × Nat × Nat)) : State :=
  { u with now := u.now + els.length, net := u.net ++ atomFlights u n f els (u.now + 1) }

/-- One request after the other. -/
theorem foldl_sendAtom (n : Nat) (f : AtomF) (els : List (Nat × Nat × Nat × Nat)) (u : State) :
    els.foldl (fun s e => send (tick s) ⟨[4, (meAgent u).ten, (meAgent u).name, e.2.1], .home ⟨meAgent u, .atomic, resOf s e.2.1, e.2.1,
      .atom n f (.one (meAgent u) e.2.2.1 e.2.2.2 true (e.1 * n) 0 (tick s).now), none, .reply (e.1 * n)⟩, none⟩) u = sentAtoms u n f els := by
  induction els generalizing u with
  | nil => simp [sentAtoms, atomFlights]
  | cons e els ih =>
    refine (ih (send (tick u) (atomFlight u n f e (u.now + 1)))).trans ?_
    have now : u.now + 1 + els.length = u.now + (els.length + 1) := by omega
    have net : u.net ++ atomFlights u n f (e :: els) (u.now + 1) =
        (u.net ++ [atomFlight u n f e (u.now + 1)]) ++ atomFlights u n f els (u.now + 1 + 1) := by
      rw [atomFlights_cons, List.append_assoc, List.singleton_append]
    show _ = ({ u with now := u.now + (els.length + 1), net := u.net ++ atomFlights u n f (e :: els) (u.now + 1) } : State)
    rw [net, ← now]
    rfl

variable {s : State} {n : Nat} {f : AtomF} {o : Ord} {fin : Done} {els : List (Nat × Nat × Nat × Nat)}

theorem hasSent_runFromSeal (q : Quiet s) : HasSent s (runFromSeal s) [] :=
  (hasSent_seal q).trans (hasSent_updMe rfl rfl rfl)
theorem sealOf_now (q : Quiet s) : (sealOf s).now = s.now := by
  have rest := congrArg State.now (sealRun_rest s q.held)
  exact rest
theorem baseSlot_sealOf (q : Quiet s) : baseSlot (sealOf s) = baseSlot s := by
  simp only [baseSlot, (hasSent_seal q).grp, (hasSent_seal q).pc]

/-- A returning atomic of a quiet context sends a request for each element, from the run that begins with it. -/
theorem sendAtoms_eq (q : Quiet s) : sendAtoms n f o fin els s =
    awaitMe { Await.plain els.length 0 fin .restart with acq := wideAcq o } (sentAtoms (runFromSeal s) n f els) := by
  rw [sendAtoms, sealThen_quiet s _ _ q]
  exact congrArg (awaitMe { Await.plain els.length 0 fin .restart with acq := wideAcq o }) (foldl_sendAtom n f els (runFromSeal s))

theorem sendAtoms_awaits (q : Quiet s) :
    Awaits s (sendAtoms n f o fin els s) (atomFlights (runFromSeal s) n f els (s.now + 1)) fin .restart := by
  have now : (runFromSeal s).now = s.now := sealOf_now q
  have sent : HasSent (runFromSeal s) (sentAtoms (runFromSeal s) n f els) (atomFlights (runFromSeal s) n f els (s.now + 1)) :=
    ⟨rfl, rfl, rfl, rfl, by rw [← now]; rfl, rfl, fun _ => rfl, fun _ _ => rfl⟩
  rw [sendAtoms_eq q]
  exact ((hasSent_runFromSeal q).trans sent).awaits (w := { Await.plain els.length 0 fin .restart with acq := wideAcq o })
    (by simp [atomFlights, Await.plain])

/-- The run that begins with it (R182). -/
theorem sendAtoms_run (q : Quiet s) :
    (me (sendAtoms n f o fin els s)).runseq = (me s).runseq + 1 ∧ (me (sendAtoms n f o fin els s)).runStart = baseSlot s := by
  have run : me (runFromSeal s) = runAt (src (sealOf s)) (baseSlot (sealOf s)) (me (sealOf s)) := me_updMe _ _
  have seq : (me (sealOf s)).runseq = (me s).runseq := congrArg RunPart.runseq (keepsRun_seal q).run
  rw [sendAtoms_eq q, me_awaitMe]
  show (me (runFromSeal s)).runseq = _ ∧ (me (runFromSeal s)).runStart = _
  rw [run, ← seq, ← baseSlot_sealOf q]
  exact ⟨rfl, rfl⟩

/-- A no-return atomic of a quiet context joins the held ones in its turn (R179). -/
theorem holdAtoms_holds {hs : List Held} (q : Quiet s) (few : hs.length ≤ Config.heldMax) :
    SameElsewhere s (holdAtoms hs s) ∧
      me (holdAtoms hs s) = { me s with held := hs, pc := nextSlot s, turn := .issued, stage := .open, sub := 0 } := by
  have form : holdAtoms hs s = retire (updMe s fun k => { k with held := k.held ++ hs }) := by
    simp [holdAtoms, q.open_, q.held, few]
  have next : nextSlot (updMe s fun k => { k with held := k.held ++ hs }) = nextSlot s := by simp [nextSlot]
  rw [form, me_retire, next, me_updMe, q.held]
  exact ⟨(setMe_same s _).trans (setMe_same _ _), rfl⟩

/-- An admitted atomic is held or sent. -/
theorem doAtoms_admitted (nr : Bool) (ok : ∀ e ∈ els, AtomAdmitted s e.2.1 n) :
    doAtoms n f nr o fin els s = if nr then holdAtoms (els.map fun e =>
      ⟨e.2.1, n, f, e.2.2.1, resOf s e.2.1, classTo s.cur.1 (bankField (resOf s e.2.1).bank)⟩) s else sendAtoms n f o fin els s := by
  have none : atomFault s n (els.map fun e => e.2.1) = none := atomFault_none fun a m => by
    obtain ⟨e, mem, rfl⟩ := List.mem_map.mp m
    exact ok e mem
  simp only [doAtoms, none]

/-- A form that does an admitted no-return atomic. -/
theorem doAtoms_held {i : Instr} (form : exec i s = .next (doAtoms n f true o fin els s)) (q : Quiet s)
    (ok : ∀ e ∈ els, AtomAdmitted s e.2.1 n) (few : els.length ≤ Config.heldMax) :
    ∃ t, exec i s = .next t ∧ (me t).regs = (me s).regs ∧ (me t).pc = nextSlot s ∧ SameElsewhere s t ∧
      (me t).held = els.map fun e => ⟨e.2.1, n, f, e.2.2.1, resOf s e.2.1, classTo s.cur.1 (bankField (resOf s e.2.1).bank)⟩ := by
  rw [doAtoms_admitted true ok, if_pos rfl] at form
  obtain ⟨same, ctx⟩ := holdAtoms_holds (hs := els.map fun e =>
    ⟨e.2.1, n, f, e.2.2.1, resOf s e.2.1, classTo s.cur.1 (bankField (resOf s e.2.1).bank)⟩) q (by simpa using few)
  exact ⟨_, form, by rw [ctx], by rw [ctx], same, by rw [ctx]⟩

/-- A form that does an admitted returning atomic. -/
theorem doAtoms_sent {i : Instr} (form : exec i s = .next (doAtoms n f false o fin els s)) (q : Quiet s)
    (ok : ∀ e ∈ els, AtomAdmitted s e.2.1 n) :
    ∃ t, exec i s = .next t ∧ Awaits s t (atomFlights (runFromSeal s) n f els (s.now + 1)) fin .restart ∧
      (me t).runseq = (me s).runseq + 1 ∧ (me t).runStart = baseSlot s := by
  rw [doAtoms_admitted false ok] at form
  exact ⟨_, form, sendAtoms_awaits q, sendAtoms_run q⟩

/-- The request of a scalar form. -/
theorem atomFlights_one (va x e : Nat) :
    atomFlights (runFromSeal s) n f [(0, va, x, e)] (s.now + 1) =
      [⟨[4, (meAgent (runFromSeal s)).ten, (meAgent (runFromSeal s)).name, va], .home ⟨meAgent (runFromSeal s), .atomic,
        resOf (runFromSeal s) va, va, .atom n f (.one (meAgent (runFromSeal s)) x e true 0 0 (s.now + 1)), none, .reply 0⟩, none⟩] := by
  simp [atomFlights, atomFlight]

/-- The elements of an element mask. -/
theorem maskIs_elMask {w : Nat} (pos : 0 < w) (is : List Nat) : MaskIs (elMask w is) w is := by
  intro i lt
  have ones : (2 ^ w - 1).testBit (i % w) = true := by
    rw [Nat.testBit_two_pow_sub_one]; exact decide_eq_true (Nat.mod_lt i pos)
  have bit := testBit_lanes (Nat.mod_lt i pos) (fun _ => 2 ^ w - 1) is (i / w)
  rw [Nat.div_add_mod] at bit
  rw [elMask_eq, BitVec.getLsbD_ofNat, Bool.eq_iff_iff, Bool.and_eq_true, bit]
  simp [lt, ones]

/-- A scalar form that does an admitted no-return atomic. -/
theorem doAtom_held {i : Instr} {va x e : Nat} (form : exec i s = .next (doAtoms n f true o fin [(0, va, x, e)] s)) (q : Quiet s)
    (ok : AtomAdmitted s va n) :
    ∃ t, exec i s = .next t ∧ (me t).regs = (me s).regs ∧ (me t).pc = nextSlot s ∧ SameElsewhere s t ∧
      ∃ k, (me t).held = [k] ∧ k.va = va ∧ k.n = n ∧ k.f = f ∧ k.x = x := by
  obtain ⟨t, runs, regs, pc, same, held⟩ := doAtoms_held form q (fun e m => by rw [List.mem_singleton.mp m]; exact ok) (by decide : 1 ≤ 64)
  exact ⟨t, runs, regs, pc, same, _, held, rfl, rfl, rfl, rfl⟩
/-- A scalar form that does an admitted returning atomic. -/
theorem doAtom_sent {i : Instr} {va x e : Nat} (form : exec i s = .next (doAtoms n f false o fin [(0, va, x, e)] s)) (q : Quiet s)
    (ok : AtomAdmitted s va n) :
    ∃ t, exec i s = .next t ∧
      Awaits s t [⟨[4, (meAgent (runFromSeal s)).ten, (meAgent (runFromSeal s)).name, va], .home ⟨meAgent (runFromSeal s), .atomic,
        resOf (runFromSeal s) va, va, .atom n f (.one (meAgent (runFromSeal s)) x e true 0 0 (s.now + 1)), none, .reply 0⟩, none⟩] fin .restart ∧
      (me t).runseq = (me s).runseq + 1 ∧ (me t).runStart = baseSlot s := by
  rw [← atomFlights_one]
  exact doAtoms_sent form q fun e m => by rw [List.mem_singleton.mp m]; exact ok

theorem fsBytes_eq (z : FSize) : fsBytes z = (match z with | .bf => 2 | .f => 4 | .bf2 => 4 | .d => 8 | .f2 => 8) := by cases z <;> rfl
theorem vopF_eq (p : VOp) : vopF p = (match p with | .int q _ => .int q | .flt q z => .flt q z) := by cases p <;> rfl

theorem vopBytes_cases (p : VOp) : vopBytes p = 2 ∨ vopBytes p = 4 ∨ vopBytes p = 8 := by
  rcases p with ⟨q, _ | _⟩ | ⟨q, z⟩
  · exact .inr (.inl rfl)
  · exact .inr (.inr rfl)
  · rw [vopBytes, fsBytes_eq]; cases z <;> decide
/-- A vector atomic holds at most 64 elements (R179). -/
theorem vamo_few (p : VOp) (g : PWord) : ((List.range (1024 / (8 * vopBytes p))).filter (active g (8 * vopBytes p))).length ≤ Config.heldMax := by
  refine (List.length_filter_le _ _).trans ?_
  rw [List.length_range]
  rcases vopBytes_cases p with e | e | e <;> rw [e] <;> decide
theorem vopBytes_pos (p : VOp) : 0 < 8 * vopBytes p := by
  rcases vopBytes_cases p with e | e | e <;> omega

/-- The elements of a vector atomic: index, address, operand (R175). -/
def vamoEls (s : State) (h : Hdr) (o : VamoO) : List (Nat × Nat × Nat × Nat) :=
  ((List.range (1024 / (8 * vopBytes o.op))).filter (active (guardBits h s) (8 * vopBytes o.op))).map fun i =>
    (i, (rdG s o.base + (BitVec.ofInt 64 (sgn (8 * vopBytes o.op) (elem (8 * vopBytes o.op) (rdV s o.x) i)) <<< o.xs.val) +
      o.disp.signExtend 64).toNat, elem (8 * vopBytes o.op) (rdV s o.d) i, 0)

theorem vamo_doAtoms {h : Hdr} {o : VamoO} {s : State} (c : VIssues h (8 * vopBytes o.op) [.v o.d, .g o.base, .v o.x] s) :
    exec (.vamo h o) s = .next (doAtoms (vopBytes o.op) (vopF o.op) o.nr o.ord
      (.v o.d.val (elMask (8 * vopBytes o.op) (actives (guardBits h s) (8 * vopBytes o.op))) 0) (vamoEls s h o) s) := by
  have els : (offsetEls s (8 * vopBytes o.op) o.base o.x o.xs.val (o.disp.signExtend 64) (actives (guardBits h s) (8 * vopBytes o.op))).map
      (fun e => (e.1, e.2, elem (8 * vopBytes o.op) (rdV s o.d) e.1, 0)) = vamoEls s h o := by
    rw [offsetEls_eq, List.map_map]; rfl
  rw [exec_vamo, execVamo, ← els]
  exact vector_act s _ c

/-- Settles O28: an admitted atomic is held or sent, element by element. -/
theorem atomicsIssue : Obligations.AtomicsIssue := by
  unfold Obligations.AtomicsIssue
  refine ⟨fun h o s c q => ?amo, fun h o s c q => ?amof, fun h o s c q => ?cas, fun h o s c q => ?cas2, fun h o s => ?vamo⟩
  case amo =>
    intro n va ok
    have form := (exec_amo h o s).trans (scalar_act s _ c)
    rw [asBytes_eq, asFin, asBytes_eq] at form
    refine ⟨fun nr => ?_, fun nr => ?_⟩ <;> rw [nr] at form
    · exact doAtom_held form q ok
    · exact doAtom_sent form q ok
  case amof =>
    intro n va ok
    have form := (exec_amof h o s).trans (scalar_act s _ c)
    rw [fsBytes_eq] at form
    refine ⟨fun nr => ?_, fun nr => ?_⟩ <;> rw [nr] at form
    · obtain ⟨t, runs, regs, pc, same, k, held, at_, bytes, op, -⟩ := doAtom_held form q ok
      exact ⟨t, runs, regs, pc, same, k, held, at_, bytes, op⟩
    · obtain ⟨t, runs, awaits, -⟩ := doAtom_sent form q ok
      exact ⟨t, runs, awaits⟩
  case cas =>
    intro n va ok
    have form := (exec_cas h o s).trans (scalar_act s _ c)
    rw [asBytes_eq, asFin, asBytes_eq] at form
    obtain ⟨t, runs, awaits, -⟩ := doAtom_sent form q ok
    exact ⟨t, runs, awaits⟩
  case cas2 =>
    intro va ok
    obtain ⟨t, runs, awaits, -⟩ := doAtom_sent ((exec_cas2 h o s).trans (scalar_act s _ c)) q ok
    exact ⟨t, runs, awaits⟩
  case vamo =>
    intro n c q addr x f is ok
    have form := vamo_doAtoms c
    have admitted : ∀ e ∈ vamoEls s h o, AtomAdmitted s e.2.1 (vopBytes o.op) := by
      intro e m
      obtain ⟨i, mem, rfl⟩ := List.mem_map.mp m
      exact ok i mem
    refine ⟨fun nr => ?_, fun nr => ?_⟩ <;> rw [nr] at form
    · obtain ⟨t, runs, regs, pc, same, held⟩ := doAtoms_held form q admitted (by rw [vamoEls, List.length_map]; exact vamo_few o.op _)
      refine ⟨t, runs, regs, pc, same, ?_⟩
      rw [held, vamoEls, List.map_map, List.map_map, vopF_eq]
      rfl
    · obtain ⟨t, runs, awaits, -⟩ := doAtoms_sent form q admitted
      refine ⟨t, _, runs, ?_, maskIs_elMask (vopBytes_pos o.op) _⟩
      rw [atomFlights, vamoEls, List.zipIdx_map, List.map_map, vopF_eq] at awaits
      exact awaits

end Sys2Proof.Machine
end

section
namespace Sys2Proof.Machine

/-! ## Words of croft memory (R162, R163) -/

section
variable (s : State) (t : Nat)

@[simp] theorem me_updTen (f : Tenant → Tenant) : me (updTen s t f) = me s := rfl
@[simp] theorem tenAt_cmPut (off : Nat) (bs : List Byte) :
    tenAt (cmPut s t off bs) t = { tenAt s t with mem := storeBytes (tenAt s t).mem off bs } := tenAt_updTen_self ..
@[simp] theorem tenAt_cmSetFull (off : Nat) (b : Bool) :
    tenAt (cmSetFull s t off b) t = { tenAt s t with fe := swrite false (tenAt s t).fe (off / 8) b } := tenAt_updTen_self ..
/-- A filled word: its bytes, and its bit. -/
theorem tenAt_feFill (off : Nat) (x : W64) : tenAt (feFill s t off x) t =
    { tenAt s t with mem := storeBytes (tenAt s t).mem off (toBytes 8 x.toNat), fe := swrite false (tenAt s t).fe (off / 8) true } := by
  rw [feFill, tenAt_cmSetFull, tenAt_cmPut]

@[simp] theorem waiters_feFill (off : Nat) (x : W64) : (tenAt (feFill s t off x) t).waiters = (tenAt s t).waiters := by rw [tenAt_feFill]
theorem cmFull_feFill_self (off : Nat) (x : W64) : cmFull (feFill s t off x) t off = true := by
  simp only [cmFull, tenAt_feFill, sread_swrite_self]
theorem cmFull_feFill_ne {off j : Nat} (x : W64) (other : j / 8 ≠ off / 8) : cmFull (feFill s t off x) t j = cmFull s t j := by
  simp only [cmFull, tenAt_feFill]; exact sread_swrite_ne false _ _ other
theorem cmGet_feFill_self (off : Nat) (x : W64) : cmGet (feFill s t off x) t off 8 = x.toNat := by
  rw [cmGet, tenAt_feFill]
  exact (loadBytes_storeBytes _ _ _ _).trans (Nat.mod_eq_of_lt (by have := x.isLt; omega))
theorem cmGet_feFill_out {off a n : Nat} (x : W64) (apart : a + n ≤ off ∨ off + 8 ≤ a) :
    cmGet (feFill s t off x) t a n = cmGet s t a n := by
  rw [cmGet, tenAt_feFill]
  exact loadBytes_storeBytes_out _ _ _ _ _ (by rwa [toBytes_length])
theorem mem_feFill_out {off a : Nat} (x : W64) (out : a < off ∨ off + 8 ≤ a) :
    sread 0 (tenAt (feFill s t off x) t).mem a = sread 0 (tenAt s t).mem a := by
  rw [tenAt_feFill]
  exact sread_storeBytes_out _ _ _ _ (by rwa [toBytes_length])

/-- A word outside the job ring, and not the summary word, only loses its bit. -/
theorem feEmpty_plain {off : Nat} (plain : off < 0xFC00) : feEmpty s t off = cmSetFull s t off false := by
  have word : off ≠ summaryOff := by unfold summaryOff; omega
  simp [feEmpty, word, plain]
theorem cmFull_cmSetFull_self (off : Nat) (b : Bool) : cmFull (cmSetFull s t off b) t off = b := by
  rw [cmFull, tenAt_cmSetFull]; exact sread_swrite_self false _ _ _

/-- The end of a re-fetch job leaves the croft's words and their waiters. -/
theorem endRefetch_words : (tenAt (endRefetch s t) t).mem = (tenAt s t).mem ∧ (tenAt (endRefetch s t) t).fe = (tenAt s t).fe ∧
    (tenAt (endRefetch s t) t).marks = (tenAt s t).marks ∧ (tenAt (endRefetch s t) t).waiters = (tenAt s t).waiters := by
  rw [endRefetch, tenAt_updTen_self]
  split <;> exact ⟨rfl, rfl, rfl, rfl⟩

/-! ## Service where nothing waits (R163, R165) -/

variable {s t}
variable (alone : (tenAt s t).waiters = [])
include alone

theorem serveWord_alone (off : Nat) : serveWord s t off = (s, []) := by
  rw [serveWord, alone]
  show feServe 1 s t off [] = _
  rw [feServe, alone]
  simp [feNext]
theorem feMay_alone (off : Nat) (op : FeOp) (who : Agent) : feMay s t off op who = feReady op (cmFull s t off) := by
  simp [feMay, alone]
theorem feLeave_alone (who : Agent) : feLeave s t who = s := by simp [feLeave, alone]
theorem waiters_feJoin_alone (w : FeWaiter) : (tenAt (feJoin s t w) t).waiters = [w] := by
  rw [feJoin, tenAt_updTen_self]
  simp [alone]
/-- A bit joins the summary word, which is full then (R209). -/
theorem kickSummary_alone (b : Nat) :
    kickSummary s t [b] = feFill s t summaryOff (BitVec.ofNat 64 (cmGet s t summaryOff 8 ||| 2 ^ b)) := by
  rw [kickSummary, if_neg (by simp)]
  exact congrArg Prod.fst (serveWord_alone (by rw [waiters_feFill, alone]) _)

omit alone in
theorem fePerform_keep (off : Nat) (x : W64) : fePerform s t off .keep x = (s, cmGet s t off 8) := by
  simp [fePerform, feStep, kickSummary]
theorem fePerform_ldfe {off : Nat} (plain : off < 0xFC00) (x : W64) :
    fePerform s t off .ldfe x = (cmSetFull s t off false, cmGet s t off 8) := by
  have still : (tenAt (cmSetFull s t off false) t).waiters = [] := by rw [tenAt_cmSetFull]; exact alone
  simp [fePerform, feStep, feEmpty_plain s t plain, serveWord_alone still, kickSummary]
theorem fePerform_store (force : Bool) (off : Nat) (x : W64) :
    fePerform s t off (if force then .force else .stfe) x = (feFill s t off x, cmGet s t off 8) := by
  have still : (tenAt (feFill s t off x) t).waiters = [] := by rw [waiters_feFill, alone]
  cases force <;> simp [fePerform, feStep, serveWord_alone still, kickSummary]
theorem fePerform_kick (off : Nat) (x : W64) : (fePerform s t off .kick x).1 =
    kickSummary (feFill s t off x) t [(off - 0xFF00) / 8] := by
  have still : (tenAt (feFill s t off x) t).waiters = [] := by rw [waiters_feFill, alone]
  simp [fePerform, feStep, serveWord_alone still]
end

/-! ## Own operations where nothing waits (R163, R165) -/

/-- An own operation first ends the re-fetch job of a wain that asks for its next word (R269). -/
def atWord (op : FeOp) (s : State) : State := if op = .ldfe && s.cur.2 = 15 then endRefetch s (myTen s) else s

section
variable (op : FeOp) (s : State)

theorem atWord_words : (tenAt (atWord op s) (myTen s)).mem = (tenAt s (myTen s)).mem ∧
    (tenAt (atWord op s) (myTen s)).fe = (tenAt s (myTen s)).fe ∧ (tenAt (atWord op s) (myTen s)).marks = (tenAt s (myTen s)).marks ∧
    (tenAt (atWord op s) (myTen s)).waiters = (tenAt s (myTen s)).waiters := by
  unfold atWord
  split
  · exact endRefetch_words s _
  · exact ⟨rfl, rfl, rfl, rfl⟩
theorem atWord_crofts : (atWord op s).crofts = s.crofts := by unfold atWord; split <;> rfl
theorem atWord_cur : (atWord op s).cur = s.cur := by unfold atWord; split <;> rfl
theorem me_atWord : me (atWord op s) = me s := by rw [me, me, ctxAt, ctxAt, croftAt, croftAt, atWord_crofts, atWord_cur]
theorem nextSlot_atWord : nextSlot (atWord op s) = nextSlot s := by simp only [nextSlot, me_atWord]
theorem cmFull_atWord (off : Nat) : cmFull (atWord op s) (myTen s) off = cmFull s (myTen s) off := by
  rw [cmFull, (atWord_words op s).2.1]; rfl
theorem cmGet_atWord (off n : Nat) : cmGet (atWord op s) (myTen s) off n = cmGet s (myTen s) off n := by
  rw [cmGet, (atWord_words op s).1]; rfl
theorem atWord_other (h : op ≠ .ldfe) : atWord op s = s := by simp [atWord, h]
end

section
variable {s : State} {off d : Nat} {op : FeOp} {x : W64} {kind : Wake} {sealed : Bool}
variable (alone : (tenAt s (myTen s)).waiters = []) (clean : fePoison s (myTen s) off op = none)
include alone clean

omit alone in
theorem fePoison_atWord : fePoison (atWord op s) (myTen s) off op = none := by
  rw [← clean]; unfold fePoison cmMark; rw [(atWord_words op s).2.2.1]

/-- It performs where its condition holds: a load writes its register, and the context passes on. -/
theorem feOwn_ready (ready : feReady op (cmFull s (myTen s) off) = true) : feOwn off op x d kind sealed s =
    (if sealed then retireRunNext else retire) (if op = .ldfe || op = .keep
      then updRegs (fePerform (atWord op s) (myTen s) off op x).1 fun r => putGn r d (fePerform (atWord op s) (myTen s) off op x).2
      else (fePerform (atWord op s) (myTen s) off op x).1) := by
  have still : (tenAt (atWord op s) (myTen s)).waiters = [] := (atWord_words op s).2.2.2.trans alone
  have may : feMay (atWord op s) (myTen s) off op (meAgent s) = true := by rw [feMay_alone still, cmFull_atWord, ready]
  have here := fePoison_atWord clean
  unfold atWord at may here still ⊢
  simp only [feOwn, here, may, feLeave_alone still, if_true]
  cases sealed <;> rfl
theorem feOwn_load (loads : op = .ldfe ∨ op = .keep) (ready : feReady op (cmFull s (myTen s) off) = true) :
    feOwn off op x d kind sealed s = (if sealed then retireRunNext else retire) (updRegs (fePerform (atWord op s) (myTen s) off op x).1
      fun r => putGn r d (fePerform (atWord op s) (myTen s) off op x).2) := by
  rw [feOwn_ready alone clean ready]
  exact congrArg _ (if_pos (by simpa using loads))
theorem feOwn_store (load : op ≠ .ldfe) (keeps : op ≠ .keep) (ready : feReady op (cmFull s (myTen s) off) = true) :
    feOwn off op x d kind true s = retireRunNext (fePerform s (myTen s) off op x).1 := by
  rw [feOwn_ready alone clean ready, atWord_other op s load, if_pos rfl, if_neg (by simp [load, keeps])]

/-- Where it does not hold the context parks on the word, its operation listed. -/
theorem feOwn_parks (waits : feReady op (cmFull s (myTen s) off) = false) (idle : (me s).busy = false) :
    feOwn off op x d kind sealed s = parkMe kind 0 (ownBase + off) d 0
      (feJoin (atWord op s) (myTen s) ⟨off, op, x, meAgent s, false, .listed, false⟩) := by
  have still : (tenAt (atWord op s) (myTen s)).waiters = [] := (atWord_words op s).2.2.2.trans alone
  have may : feMay (atWord op s) (myTen s) off op (meAgent s) = false := by rw [feMay_alone still, cmFull_atWord, waits]
  have here := fePoison_atWord clean
  have free : (me (atWord op s)).busy = false := by rw [me_atWord, idle]
  unfold atWord at may here still free ⊢
  simp only [feOwn, here, may, free, if_false, Bool.false_eq_true]
end

theorem me_parkMe (kind : Wake) (param count d a : Nat) (s : State) : me (parkMe kind param count d a s) = { me s with
    mode := .parked, pc := nextSlot s, turn := .issued, stage := .open, sub := 0
    park := some { Park.plain kind param count d a false (s.now + 1) with acc := (me s).acc, slot := thisSlot s, base := baseSlot s } } :=
  me_updMe (tick s) _

/-! ## After the seal (R223) -/

section
variable {s : State} (q : Quiet s)
include q

theorem sealThen_sealOf (rel : Bool) (k : State → State) : sealThen rel k s = k (sealOf s) := sealThen_quiet s rel k q
theorem tenAt_sealOf (n : Nat) : tenAt (sealOf s) n = tenAt s n := by simp only [tenAt, sealOf_tenants q]
theorem tenant_sealOf : (myCroft (sealOf s)).tenant = (myCroft s).tenant := by
  have croft := congrArg Croft.tenant (sealRun_croft s q.held)
  rw [myCroft, sealOf, sealRun_cur s q.held]
  exact croft
theorem myTen_sealOf : myTen (sealOf s) = myTen s := by rw [myTen, tenant_sealOf q, myTen]
theorem cmFull_sealOf (n off : Nat) : cmFull (sealOf s) n off = cmFull s n off := by rw [cmFull, tenAt_sealOf q]; rfl
theorem cmGet_sealOf (n off k : Nat) : cmGet (sealOf s) n off k = cmGet s n off k := by rw [cmGet, tenAt_sealOf q]; rfl
theorem fePoison_sealOf (n off : Nat) (op : FeOp) : fePoison (sealOf s) n off op = fePoison s n off op := by
  unfold fePoison cmMark; rw [tenAt_sealOf q]
theorem me_sealOf : me (sealOf s) = { me s with stage := .sealed, held := [] } := me_sealRun s q.held
theorem meAgent_sealOf : meAgent (sealOf s) = meAgent s := by
  have parts (u : State) : meAgent u = ⟨(myCroft u).tenant.getD 0, (me u).name, u.cur.1, u.cur.2, (me u).epoch, (me u).acc, (me u).cnt,
      (me u).runseq, (me u).runStart⟩ := rfl
  have cur : (sealOf s).cur = s.cur := sealRun_cur s q.held
  rw [parts, tenant_sealOf q, me_sealOf q, cur]
  rfl
end

/-- A served own operation: the context passed on with registers r and began its next run, its croft's tenant in state k. -/
structure Served (s t : State) (k : Tenant) (r : Regs) : Prop where
  regs : (me t).regs = r
  pc : (me t).pc = nextSlot s
  runseq : (me t).runseq = (me s).runseq + 1
  tenant : tenAt t (myTen s) = k

/-- The run ends at a state whose acting context stands as the seal left it, but for registers r. -/
theorem served_retireRunNext {s u : State} {r : Regs} (q : Quiet s) (ctx : me u = { me (sealOf s) with regs := r }) :
    Served s (retireRunNext u) (tenAt u (myTen s)) r := by
  have next : nextSlot u = nextSlot s := by rw [← (keepsRun_seal q).nextSlot]; simp only [nextSlot, ctx]
  have form : me (retireRunNext u) = runStartOf { me u with pc := nextSlot u, turn := .issued, stage := .open, sub := 0 } := by
    rw [retireRunNext, beginRun, me_updMe, me_retire]
  rw [me_sealOf q] at ctx
  exact ⟨by rw [form, ctx]; rfl, by rw [form]; exact next, by rw [form, ctx]; rfl, rfl⟩

/-! ## LDFE and STFE of own words (R162, R163, R165) -/

section
variable {s : State} {h : Hdr} {o : GAddr} {off : Nat}

theorem ldfe_own (keep : Bool) (c : Issues h (.g o.d :: addrRn o.a) s) (aligned : (ea s o.a).toNat % 8 = 0)
    (at_ : placeOf o.a.space (ea s o.a).toNat = some (.own off)) (fits : off + 8 ≤ 0x10000) :
    exec (.ldfe h keep o) s = .next (
      let op := if keep then FeOp.keep else .ldfe
      if keep && (me s).stage == .open && feMay s (myTen s) off op (meAgent s) then feOwn off op 0 o.d.val .feFull false s
      else sealThen keep (feOwn off op 0 o.d.val .feFull true) s) := by
  rw [exec_ldfe, execLdfe]
  exact (scalar_act s _ c).trans (congrArg _ (withWord_at _ aligned (checkEl_own at_ fits)))
theorem stfe_own (force : Bool) (c : Issues h (.g o.d :: addrRn o.a) s) (aligned : (ea s o.a).toNat % 8 = 0)
    (at_ : placeOf o.a.space (ea s o.a).toNat = some (.own off)) (fits : off + 8 ≤ 0x10000) :
    exec (.stfe h force o) s = .next (sealThen true
      (feOwn off (if force then .force else .stfe) (rdG s o.d) 0 .feEmpty true) s) := by
  rw [exec_stfe, execStfe, scalar_act s _ c, withWord_at _ aligned (checkEl_own at_ fits)]
  rfl

/-- A load meets no poison; a store meets none at all (R154). -/
theorem fePoison_load {op : FeOp} (clean : poisonIn (fun b => cmMark s (myTen s) b) off 8 = none) : fePoison s (myTen s) off op = none := by
  unfold fePoison; split
  · exact clean
  · rfl
theorem fePoison_store (n : Nat) {op : FeOp} (stores : op ≠ .ldfe) (st : op ≠ .keep) : fePoison s n off op = none := by
  simp [fePoison, stores, st]

variable (q : Quiet s) (alone : (tenAt s (myTen s)).waiters = [])
include q alone

/-- LDFE of a full word takes it and empties it. -/
theorem ldfe_takes {d : GReg} (clean : poisonIn (fun b => cmMark s (myTen s) b) off 8 = none) (plain : off < 0xFC00)
    (full : cmFull s (myTen s) off = true) :
    Served s (feOwn off .ldfe 0 d.val .feFull true (sealOf s)) (tenAt (cmSetFull (atWord .ldfe (sealOf s)) (myTen s) off false) (myTen s))
      (putG (me s).regs d (BitVec.ofNat 64 (cmGet s (myTen s) off 8))) := by
  have ten := myTen_sealOf q
  have still : (tenAt (atWord .ldfe (sealOf s)) (myTen s)).waiters = [] := by
    rw [← ten, (atWord_words _ _).2.2.2, ten, tenAt_sealOf q, alone]
  have word : cmGet (atWord .ldfe (sealOf s)) (myTen s) off 8 = cmGet s (myTen s) off 8 := by
    rw [← ten, cmGet_atWord, ten, cmGet_sealOf q]
  rw [feOwn_load (by rw [ten, tenAt_sealOf q, alone]) (by rw [ten, fePoison_sealOf q]; exact fePoison_load clean) (.inl rfl)
    (by rw [ten, cmFull_sealOf q]; exact full), ten, fePerform_ldfe still plain, word, if_pos rfl]
  refine served_retireRunNext q ?_ 
  rw [me_updRegs, cmSetFull, me_updTen, me_atWord, me_sealOf q, putGn_val]

omit alone in
/-- It leaves every byte, and its word empty. -/
theorem ldfe_word : cmFull (cmSetFull (atWord .ldfe (sealOf s)) (myTen s) off false) (myTen s) off = false ∧
    (tenAt (cmSetFull (atWord .ldfe (sealOf s)) (myTen s) off false) (myTen s)).mem = (tenAt s (myTen s)).mem := by
  refine ⟨cmFull_cmSetFull_self .., ?_⟩
  rw [tenAt_cmSetFull, ← myTen_sealOf q, ← tenAt_sealOf q]
  exact (atWord_words _ _).1

omit q in
/-- LDFE.keep of a full word reads it in its turn, without a seal. -/
theorem ldfeKeep_reads {d : GReg} (clean : poisonIn (fun b => cmMark s (myTen s) b) off 8 = none)
    (full : cmFull s (myTen s) off = true) :
    Retired s (feOwn off .keep 0 d.val .feFull false s) (putG (me s).regs d (BitVec.ofNat 64 (cmGet s (myTen s) off 8))) := by
  rw [feOwn_load alone (fePoison_load clean) (.inr rfl) full, atWord_other .keep s (by decide), fePerform_keep, ← putGn_val]
  exact retired_updRegs s _

/-- A store that its word lets through writes it. -/
theorem stfe_writes {force : Bool} {x : W64} (lets : force = true ∨ cmFull s (myTen s) off = false) :
    Served s (feOwn off (if force then .force else .stfe) x 0 .feEmpty true (sealOf s)) (tenAt (feFill (sealOf s) (myTen s) off x) (myTen s))
      (me s).regs := by
  have ten := myTen_sealOf q
  have still : (tenAt (sealOf s) (myTen s)).waiters = [] := by rw [tenAt_sealOf q, alone]
  have ready : feReady (if force then .force else .stfe) (cmFull s (myTen s) off) = true := by
    cases force with
    | true => rfl
    | false => simpa [feReady] using lets
  have ops : (if force then FeOp.force else .stfe) ≠ .ldfe ∧ (if force then FeOp.force else .stfe) ≠ .keep := by cases force <;> decide
  rw [feOwn_store (by rw [ten, still]) (fePoison_store _ ops.1 ops.2) ops.1 ops.2 (by rw [ten, cmFull_sealOf q]; exact ready), ten,
    fePerform_store still]
  exact served_retireRunNext q (by show me (sealOf s) = _; rw [me_sealOf q])

/-- An operation whose condition does not hold parks the context on the word. -/
theorem feOwn_waits {op : FeOp} {x : W64} {d : Nat} {kind : Wake} (clean : fePoison s (myTen s) off op = none)
    (waits : feReady op (cmFull s (myTen s) off) = false) :
    let t := feOwn off op x d kind true (sealOf s)
    (me t).mode = .parked ∧ (me t).pc = nextSlot s ∧ (∃ p, (me t).park = some p ∧ p.kind = kind ∧ p.d = d) ∧
      ∃ w, (tenAt t (myTen s)).waiters = [w] ∧ w.off = off ∧ w.op = op := by
  intro t
  have ten := myTen_sealOf q
  have still : (tenAt (atWord op (sealOf s)) (myTen s)).waiters = [] := by
    rw [← ten, (atWord_words _ _).2.2.2, ten, tenAt_sealOf q, alone]
  have form : t = parkMe kind 0 (ownBase + off) d 0
      (feJoin (atWord op (sealOf s)) (myTen s) ⟨off, op, x, meAgent (sealOf s), false, .listed, false⟩) := by
    have parks := feOwn_parks (x := x) (d := d) (kind := kind) (sealed := true) (by rw [ten, tenAt_sealOf q, alone])
      (by rw [ten, fePoison_sealOf q]; exact clean) (by rw [ten, cmFull_sealOf q]; exact waits) (by rw [me_sealOf q]; exact q.idle)
    rwa [ten] at parks
  have next : nextSlot (feJoin (atWord op (sealOf s)) (myTen s) ⟨off, op, x, meAgent (sealOf s), false, .listed, false⟩) = nextSlot s :=
    (nextSlot_atWord op (sealOf s)).trans (keepsRun_seal q).nextSlot
  have ctx := me_parkMe kind 0 (ownBase + off) d 0
    (feJoin (atWord op (sealOf s)) (myTen s) ⟨off, op, x, meAgent (sealOf s), false, .listed, false⟩)
  rw [← form, next] at ctx
  refine ⟨by rw [ctx], by rw [ctx], ⟨_, by rw [ctx], rfl, rfl⟩, ⟨off, op, x, meAgent (sealOf s), false, .listed, false⟩, ?_, rfl, rfl⟩
  rw [form]
  exact waiters_feJoin_alone still _

/-- WKICK fills its mailbox word, and sets the bit of its context in the summary word (R209). -/
theorem kick_fills {c : Nat} {x : W64} (in16 : c < 16) (empty : cmFull s (myTen s) (0xFF00 + 8 * c) = false) :
    let t := feOwn (0xFF00 + 8 * c) .kick x 0 .kick true (sealOf s)
    Served s t (tenAt t (myTen s)) (me s).regs ∧ cmFull t (myTen s) (0xFF00 + 8 * c) = true ∧ cmFull t (myTen s) 0xFF80 = true ∧
      cmGet t (myTen s) (0xFF00 + 8 * c) 8 = x.toNat ∧ (cmGet t (myTen s) 0xFF80 8).testBit c = true := by
  intro t
  have ten := myTen_sealOf q
  have still : (tenAt (sealOf s) (myTen s)).waiters = [] := by rw [tenAt_sealOf q, alone]
  have bit : (0xFF00 + 8 * c - 0xFF00) / 8 = c := by omega
  have form : t = retireRunNext (feFill (feFill (sealOf s) (myTen s) (0xFF00 + 8 * c) x) (myTen s) summaryOff
      (BitVec.ofNat 64 (cmGet (feFill (sealOf s) (myTen s) (0xFF00 + 8 * c) x) (myTen s) summaryOff 8 ||| 2 ^ c))) := by
    have one := feOwn_store (x := x) (d := 0) (kind := .kick) (by rw [ten, still]) (fePoison_store (op := .kick) (myTen (sealOf s)) (by decide) (by decide))
      (by decide) (by decide) (by rw [ten, cmFull_sealOf q, empty]; rfl)
    rw [ten, fePerform_kick still, bit, kickSummary_alone (by rw [waiters_feFill, still])] at one
    exact one
  generalize hv : cmGet (feFill (sealOf s) (myTen s) (0xFF00 + 8 * c) x) (myTen s) summaryOff 8 = v at form
  generalize hu : feFill (sealOf s) (myTen s) (0xFF00 + 8 * c) x = u at form
  have ctx : me (feFill u (myTen s) summaryOff (BitVec.ofNat 64 (v ||| 2 ^ c))) = { me (sealOf s) with regs := (me s).regs } := by
    rw [me_sealOf q, ← hu]; exact me_sealOf q
  have served := served_retireRunNext q ctx
  rw [← form] at served
  have fullAt (off : Nat) : cmFull t (myTen s) off = cmFull (feFill u (myTen s) summaryOff (BitVec.ofNat 64 (v ||| 2 ^ c))) (myTen s) off := by
    rw [cmFull, served.tenant]; rfl
  have getAt (off : Nat) : cmGet t (myTen s) off 8 = cmGet (feFill u (myTen s) summaryOff (BitVec.ofNat 64 (v ||| 2 ^ c))) (myTen s) off 8 := by
    rw [cmGet, served.tenant]; rfl
  refine ⟨{ served with tenant := rfl }, ?_, ?_, ?_, ?_⟩
  · rw [fullAt, cmFull_feFill_ne _ _ _ (by unfold summaryOff; omega), ← hu, cmFull_feFill_self]
  · rw [fullAt]; exact cmFull_feFill_self ..
  · rw [getAt, cmGet_feFill_out _ _ _ (by unfold summaryOff; omega), ← hu, cmGet_feFill_self]
  · rw [getAt]
    refine (congrArg (Nat.testBit · c) (cmGet_feFill_self u (myTen s) summaryOff _)).trans ?_
    rw [BitVec.toNat_ofNat, Nat.testBit_mod_two_pow, Nat.testBit_or, Nat.testBit_two_pow_self]
    simp; omega
end

/-! ## FESTAT (R163) -/

/-- A word of bits, one for each place. -/
theorem testBit_foldl_bits (f : Nat → Bool) (n : Nat) :
    (List.range n).foldl (fun m j => if f j then m + 2 ^ j else m) 0 < 2 ^ n ∧
      ∀ j < n, ((List.range n).foldl (fun m j => if f j then m + 2 ^ j else m) 0).testBit j = f j := by
  induction n with
  | zero => simp
  | succ n ih =>
    obtain ⟨small, bits⟩ := ih
    rw [List.range_succ, List.foldl_append]
    generalize (List.range n).foldl (fun m j => if f j then m + 2 ^ j else m) 0 = m at small bits
    have top : m.testBit n = false := Nat.testBit_lt_two_pow small
    simp only [List.foldl_cons, List.foldl_nil]
    cases here : f n with
    | false =>
      refine ⟨by rw [if_neg (by decide)]; omega, fun j lt => ?_⟩
      rcases Nat.lt_succ_iff_lt_or_eq.mp lt with below | rfl
      · exact bits j below
      · rw [here]; exact top
    | true =>
      refine ⟨by rw [if_pos rfl]; omega, fun j lt => ?_⟩
      rw [if_pos rfl, Nat.add_comm]
      rcases Nat.lt_succ_iff_lt_or_eq.mp lt with below | rfl
      · rw [Nat.testBit_two_pow_add_gt below]; exact bits j below
      · rw [Nat.testBit_two_pow_add_eq, top, here]; rfl

theorem poisonIn_byte (s : State) (n off : Nat) :
    poisonIn (fun b => cmMark s n b) off 1 = if poisoned (cmMark s n off) then some (off / 64 * 64) else none := by
  have block : cmMark s n (off / 64 * 64) = cmMark s n off := by
    rw [cmMark, cmMark, Nat.mul_div_cancel _ (by decide)]
  have count : (off + 1 - 1) / 64 + 1 - off / 64 = 1 := by omega
  rw [poisonIn, count]
  simp only [List.range_one, List.map_cons, List.map_nil, List.find?_singleton, Nat.add_zero, block]

theorem festat_own {s : State} {h : Hdr} {o : GAddr} {off : Nat} (c : Issues h (.g o.d :: addrRn o.a) s)
    (at_ : placeOf o.a.space (ea s o.a).toNat = some (.own off)) (fits : off + 1 ≤ 0x10000) :
    exec (.festat h o) s = .next (match poisonIn (fun b => cmMark s (myTen s) b) off 1 with
      | some b => raiseOp cUE 0 (ownBase + b) s
      | none => retire (updRegs s fun r => putGn r o.d.val (feBits s (myTen s) off))) := by
  have ok : checkEls s needCroft o.a.space [((ea s o.a).toNat, 1)] = .ok [.own off] := by
    simp only [checkEls, checkEl_own at_ fits]
  rw [exec_festat, execFestat, scalar_act s _ c, withPlaces_ok _ ok]
  rfl

/-! ## Words of other crofts (R149, R164) -/

theorem countMsgs_crofts (s : State) (c t n : Nat) : (countMsgs s c t n).crofts = s.crofts := by
  have pairs (ps : List Nat) (f : State → Pair → Pair) (u : State) : (ps.foldl (fun u p => updPair u p (f u)) u).crofts = u.crofts := by
    induction ps generalizing u with
    | nil => rfl
    | cons p ps ih => exact ih _
  induction n generalizing s with
  | zero => rfl
  | succ n ih =>
    refine (ih (countMsg s c t)).trans ?_
    unfold countMsg
    split
    · rfl
    · split
      · rfl
      · exact (pairs _ (fun u => bumpPair (dieAt u (dieOf c)).window u.now) _).trans rfl

/-- The request of a croft operation. -/
def croftAsk (s : State) (n : Nat) (op : CroftOp) (ack : AckTo) : Flight :=
  ⟨[2, (meAgent s).ten, (meAgent s).name, n], .croft n (tenAt s n).epoch (meAgent s) op none ack false, none⟩

theorem hasSent_sendCroft (s : State) (n k : Nat) (op : CroftOp) (ack : AckTo) :
    HasSent s (sendCroft s s.cur.1 s.cur.2 n k op none ack) [croftAsk s n op ack] := by
  obtain ⟨sent, net⟩ := sent_sendCroft s n k op none ack
  have crofts : (sendCroft s s.cur.1 s.cur.2 n k op none ack).crofts = s.crofts := countMsgs_crofts ..
  exact ⟨sent.cur, sent.bare.part Context.grp, sent.bare.part Context.pc, sent.bare.part Context.regs, net, sent.mem,
    fun m => sent.bare.ten m Tenant.mem, fun c _ => by rw [croftAt, crofts]; rfl⟩

theorem checkEl_remote {s : State} {nd : Need} {sp : Space} {a k n off : Nat} (at_ : placeOf sp a = some (.rem n off))
    (fits : off + k ≤ 0x10000) (member : inSet s (mySetId s) n = true) : checkEl s nd sp a k = .ok (.rem n off) := by
  simp [checkEl, at_, placeOk, fits, member]

section
variable {s : State} {h : Hdr} {o : GAddr} {n off : Nat} (c : Issues h (.g o.d :: addrRn o.a) s)
variable (at_ : placeOf o.a.space (ea s o.a).toNat = some (.rem n off)) (member : inSet s (mySetId s) n = true)
include c at_ member

theorem festat_remote (fits : off < 0x10000) :
    ∃ t, exec (.festat h o) s = .next t ∧ Awaits s t [croftAsk s n (.festat off) (.reply 0)] (.g o.d.val 8 false) .keep := by
  have ok : checkEls s needCroft o.a.space [((ea s o.a).toNat, 1)] = .ok [.rem n off] := by
    simp only [checkEls, checkEl_remote (k := 1) at_ fits member]
  rw [exec_festat, execFestat, scalar_act s _ c, withPlaces_ok _ ok]
  exact ⟨_, rfl, (hasSent_sendCroft s n 1 (.festat off) (.reply 0)).awaits (w := Await.plain 1 0 (.g o.d.val 8 false) .keep) rfl⟩

omit c at_ member in
/-- A request sent past the seal of a quiet context. -/
theorem feRemote_awaits (q : Quiet s) (op : FeOp) (x : W64) (fin : Done) (kind : Wake) (acq : Bool) :
    Awaits s (feRemote n off op x fin kind acq (sealOf s)) [croftAsk s n (.fe op off x) (.reply 0)] fin .begin := by
  have sent := (hasSent_seal q).trans (hasSent_sendCroft (sealOf s) n 1 (.fe op off x) (.reply 0))
  have ask : croftAsk (sealOf s) n (.fe op off x) (.reply 0) = croftAsk s n (.fe op off x) (.reply 0) := by
    rw [croftAsk, meAgent_sealOf q, tenAt_sealOf q]; rfl
  rw [ask] at sent
  exact sent.awaits (w := { Await.plain 1 0 fin .begin with
    acq := acq, again := some (n, .fe op off x), wake := (kind, 0, remBase + n * 2 ^ 16 + off) }) rfl

theorem ldfe_remote (q : Quiet s) (keep : Bool) (fits : off + 8 ≤ 0x10000) (aligned : (ea s o.a).toNat % 8 = 0) :
    ∃ t, exec (.ldfe h keep o) s = .next t ∧
      Awaits s t [croftAsk s n (.fe (if keep then .keep else .ldfe) off 0) (.reply 0)] (.g o.d.val 8 false) .begin := by
  rw [exec_ldfe, execLdfe, scalar_act s _ c, withWord_at _ aligned (checkEl_remote at_ fits member)]
  refine ⟨_, rfl, ?_⟩
  show Awaits s (sealThen false _ s) _ _ _
  rw [sealThen_sealOf q]
  exact feRemote_awaits q _ _ _ _ _
theorem stfe_remote (q : Quiet s) (force : Bool) (fits : off + 8 ≤ 0x10000) (aligned : (ea s o.a).toNat % 8 = 0) :
    ∃ t, exec (.stfe h force o) s = .next t ∧
      Awaits s t [croftAsk s n (.fe (if force then .force else .stfe) off (rdG s o.d)) (.reply 0)] .none .begin := by
  rw [exec_stfe, execStfe, scalar_act s _ c, withWord_at _ aligned (checkEl_remote at_ fits member)]
  exact ⟨_, rfl, by rw [sealThen_sealOf q _ _]; exact feRemote_awaits q _ _ _ _ _⟩
end

theorem withWord_misaligned {s : State} {a : W64} {sp : Space} (k : Place → State → State) (bad : a.toNat % 8 ≠ 0) :
    withWord a sp k s = raiseOp cALIGN 0 ((placeOf sp a.toNat).elim a.toNat Place.addr) s := by
  simp [withWord, bad]

/-- Settles O27: own words serve or park, mailbox words kick, and the words of other crofts are asked for. -/
theorem fullEmptyWords : Obligations.FullEmptyWords := by
  unfold Obligations.FullEmptyWords
  refine ⟨fun h o s off c q own aligned plain alone => ⟨fun full => ?take, fun full => ?keep, fun empty => ?park⟩,
    fun h force o s off c q at_ fits aligned alone => ⟨fun lets => ?write, fun ⟨weak, full⟩ => ?block⟩,
    fun h o s off c at_ fits => ⟨fun sound => ?bits, fun bad => ?ue⟩, ?kick, fun h o s n off c at_ member => ?remote,
    fun h keep force o s c bad => ?align⟩
  case take =>
    obtain ⟨regs, pc, run, ten⟩ := ldfe_takes (d := o.d) q alone own.clean plain full
    obtain ⟨empty, mem⟩ := ldfe_word (off := off) q
    have form := (ldfe_own false c aligned own.place own.inside).trans (congrArg _ (sealThen_sealOf q _ _))
    refine ⟨feOwn off .ldfe 0 o.d.val .feFull true (sealOf s), form, regs, pc, run, ?_, fun a => ?_⟩
    · rw [cmFull, ten]; exact empty
    · rw [ten, mem]
  case keep =>
    have may : feMay s (myTen s) off .keep (meAgent s) = true := by rw [feMay_alone alone]; exact full
    refine ⟨_, (ldfe_own true c aligned own.place own.inside).trans (congrArg _ (if_pos ?_)), ldfeKeep_reads alone own.clean full⟩
    simp [q.open_, may]
  case park =>
    obtain ⟨mode, pc, park, waiter⟩ := feOwn_waits (op := .ldfe) (x := 0) (d := o.d.val) (kind := .feFull) q alone (fePoison_load own.clean) empty
    exact ⟨_, (ldfe_own false c aligned own.place own.inside).trans (congrArg _ (sealThen_sealOf q _ _)), mode, pc, park, waiter⟩
  case write =>
    obtain ⟨regs, pc, run, ten⟩ := stfe_writes (off := off) (x := rdG s o.d) q alone lets
    refine ⟨_, (stfe_own force c aligned at_ fits).trans (congrArg _ (sealThen_sealOf q _ _)), regs, pc, run, ?_, ?_, fun a out => ?_⟩
    · rw [cmFull, ten]; exact cmFull_feFill_self ..
    · rw [cmGet, ten]; exact cmGet_feFill_self ..
    · rw [ten, mem_feFill_out _ _ _ out, tenAt_sealOf q]
  case block =>
    obtain ⟨mode, -, ⟨p, park, kind, -⟩, -⟩ := feOwn_waits (off := off) (op := .stfe) (x := rdG s o.d) (d := 0) (kind := .feEmpty) q alone
      (fePoison_store _ (by decide) (by decide)) (by rw [full]; rfl)
    rw [weak]
    exact ⟨_, (stfe_own false c aligned at_ fits).trans (congrArg _ (sealThen_sealOf q _ _)), mode, p, park, kind⟩
  case bits =>
    have form := festat_own c at_ fits
    rw [poisonIn_byte, sound, if_neg (by decide)] at form
    obtain ⟨small, bits⟩ := testBit_foldl_bits (fun j => cmFull s (myTen s) (off / 64 * 64 + 8 * j)) 8
    refine ⟨_, BitVec.ofNat 64 (feBits s (myTen s) off), form, ?_, ?_, fun j lt => ?_⟩
    · rw [← putGn_val]; exact retired_updRegs s _
    · rw [BitVec.toNat_ofNat]; exact (Nat.mod_le _ _).trans_lt small
    · rw [BitVec.getLsbD_ofNat, ← bits j lt, decide_eq_true (by omega : j < 64)]; rfl
  case ue =>
    have form := festat_own c at_ fits
    rw [poisonIn_byte, bad, if_pos rfl] at form
    exact form
  case kick =>
    intro h d base disp own s c q a at_ aligned in16 alone empty
    obtain ⟨⟨-, pc, run, -⟩, full, summary, word, bit⟩ := kick_fills (c := s.cur.2)
      (x := BitVec.ofNat 64 ((rdG s d).toNat % 2 ^ 16 + (me s).name * 2 ^ 16)) q alone in16 empty
    have fits : 0xFF00 + 8 * s.cur.2 + 8 ≤ 0x10000 := by omega
    refine ⟨_, ?_, pc, run, full, summary, word.trans (BitVec.toNat_ofNat ..), bit⟩
    rw [exec_wkick, execWkick, scalar_act s _ c, withWord_at _ aligned (checkEl_own at_ fits)]
    exact congrArg _ ((if_pos rfl).trans (sealThen_sealOf q true _))
  case remote =>
    intro ask
    exact ⟨fun fits => festat_remote c at_ member fits, fun q fits aligned =>
      ⟨fun keep => ldfe_remote c at_ member q keep fits aligned, fun force => stfe_remote c at_ member q force fits aligned⟩⟩
  case align =>
    intro x
    rw [exec_ldfe, execLdfe, exec_stfe, execStfe, scalar_act s _ c, scalar_act s _ c]
    exact ⟨congrArg _ (withWord_misaligned _ bad), congrArg _ (withWord_misaligned _ bad)⟩

end Sys2Proof.Machine
end

section
namespace Sys2Proof.Machine

/-! ## Bytes cut at multiples of a unit (R149, R245) -/

section
variable {u a n : Nat}

theorem pieces_ne_nil (nonempty : n ≠ 0) : pieces u a n ≠ [] := by
  have le : a / u ≤ (a + n - 1) / u := Nat.div_le_div_right (by omega)
  simp only [pieces, nonempty, if_false, ne_eq, List.map_eq_nil_iff, List.range_eq_nil]
  omega

/-- Bytes within one unit are one piece. -/
theorem pieces_single (nonempty : n ≠ 0) (within : a % u + n ≤ u) : pieces u a n = [(a, n)] := by
  have pos : 0 < u := by omega
  have split := Nat.div_add_mod a u
  have last : (a + n - 1) / u = a / u := by
    rw [show a + n - 1 = (a % u + n - 1) + u * (a / u) by omega, Nat.add_mul_div_left _ _ pos, Nat.div_eq_of_lt (by omega), Nat.zero_add]
  have lo : a / u * u ≤ a := Nat.div_mul_le_self a u
  have hi : a + n ≤ (a / u + 1) * u := by rw [Nat.succ_mul, Nat.mul_comm]; omega
  have count : a / u + 1 - a / u = 1 := by omega
  simp only [pieces, nonempty, if_false, last, count, List.range_one, List.map_cons, List.map_nil, Nat.add_zero, Nat.max_eq_left lo,
    Nat.min_eq_left hi, Nat.add_sub_cancel_left]

/-- A cut at a multiple of the unit is a cut between pieces. -/
theorem pieces_append {m : Nat} (pos : 0 < u) (first : m ≠ 0) (rest : n ≠ 0) (cut : u ∣ a + m) :
    pieces u a (m + n) = pieces u a m ++ pieces u (a + m) n := by
  obtain ⟨k, cut⟩ := cut
  have start : (a + m) / u = k := by rw [cut, Nat.mul_div_cancel_left _ pos]
  have low : a / u < k := (Nat.div_lt_iff_lt_mul pos).mpr (by rw [Nat.mul_comm]; omega)
  have high : k ≤ (a + m + n - 1) / u := (Nat.le_div_iff_mul_le pos).mpr (by rw [Nat.mul_comm]; omega)
  have stop : (a + m - 1) / u + 1 = k := by
    obtain ⟨j, rfl⟩ := Nat.exists_eq_succ_of_ne_zero (Nat.ne_zero_of_lt low)
    rw [Nat.mul_succ] at cut
    rw [show a + m - 1 = (u - 1) + u * j by omega, Nat.add_mul_div_left _ _ pos, Nat.div_eq_of_lt (by omega), Nat.zero_add]
  have count : (a + (m + n) - 1) / u + 1 - a / u = (k - a / u) + ((a + m + n - 1) / u + 1 - k) := by
    rw [show a + (m + n) - 1 = a + m + n - 1 by omega]; omega
  have both : m + n ≠ 0 := by omega
  simp only [pieces, first, rest, both, if_false, stop, start, count, List.range_add, List.map_append, List.map_map]
  congr 1
  · refine List.map_congr_left fun i lt => ?_
    have inside : (a / u + i + 1) * u ≤ a + m := by
      rw [cut, Nat.mul_comm]
      exact Nat.mul_le_mul_left u (by have := List.mem_range.mp lt; omega)
    have inside' : (a / u + i + 1) * u ≤ a + (m + n) := by omega
    exact congrArg (fun hi => (Nat.max a ((a / u + i) * u), hi - Nat.max a ((a / u + i) * u)))
      ((Nat.min_eq_right inside').trans (Nat.min_eq_right inside).symm)
  · refine List.map_congr_left fun i _ => ?_
    have at_ : a / u + (k - a / u + i) = k + i := by omega
    have from_ : a + m ≤ (k + i) * u := by rw [cut, Nat.mul_comm]; exact Nat.mul_le_mul_right u (Nat.le_add_right k i)
    simp only [Function.comp, at_, ← Nat.add_assoc, Nat.max_eq_right from_, Nat.max_eq_right (by omega : a ≤ (k + i) * u)]

/-- A piece lies within the bytes. -/
theorem pieces_inside {q : Nat × Nat} (mem : q ∈ pieces u a n) (pos : 0 < u) : a ≤ q.1 ∧ q.2 ≠ 0 := by
  unfold pieces at mem
  split at mem
  · exact absurd mem List.not_mem_nil
  · rename_i nonempty
    obtain ⟨i, lt, rfl⟩ := List.mem_map.mp mem
    have reach : (a / u + i) * u ≤ a + n - 1 := by
      refine (Nat.mul_le_mul_right u (?_ : a / u + i ≤ (a + n - 1) / u)).trans (Nat.div_mul_le_self _ _)
      have := List.mem_range.mp lt
      omega
    have past : a < (a / u + i + 1) * u := by
      refine (Nat.lt_mul_div_succ a pos).trans_le ?_
      rw [Nat.mul_comm]
      exact Nat.mul_le_mul_right u (by omega)
    refine ⟨Nat.le_max_left _ _, ?_⟩
    have step : (a / u + i + 1) * u = (a / u + i) * u + u := Nat.succ_mul _ _
    show Nat.min (a + n) ((a / u + i + 1) * u) - Nat.max a ((a / u + i) * u) ≠ 0
    rw [Nat.sub_ne_zero_iff_lt]
    exact Nat.lt_min.mpr ⟨Nat.max_lt.mpr ⟨by omega, by omega⟩, Nat.max_lt.mpr ⟨past, by omega⟩⟩

end

/-- The pieces of the lines are the pieces of the bytes. -/
theorem pieces_pieces (a n : Nat) : ((pieces 32 a n).flatMap fun q => pieces 16 q.1 q.2) = pieces 16 a n := by
  induction n using Nat.strong_induction_on generalizing a with
  | _ n ih =>
    rcases Nat.eq_zero_or_pos n with rfl | some_
    · rfl
    · by_cases within : a % 32 + n ≤ 32
      · rw [pieces_single some_.ne' within, List.flatMap_cons, List.flatMap_nil, List.append_nil]
      · obtain ⟨k, hk⟩ : ∃ k, k = 32 - a % 32 := ⟨_, rfl⟩
        obtain ⟨r, rfl⟩ : ∃ r, n = k + r := ⟨n - k, by omega⟩
        rw [pieces_append (by decide) (by omega) (by omega) (by omega : 32 ∣ a + k), List.flatMap_append, ih r (by omega),
          pieces_single (by omega) (by omega : a % 32 + k ≤ 32), List.flatMap_cons, List.flatMap_nil, List.append_nil,
          ← pieces_append (by decide) (by omega) (by omega) (by omega : 16 ∣ a + k)]

/-! ## The requests of a load (R149, R151) -/

/-- The request of a part that is not here. -/
def partFlight (s : State) : Part → Flight
  | .home va n pos fill => ⟨[], .home ⟨meAgent s, .load, resOf s va, va, .load n fill, none, .reply pos⟩, none⟩
  | .remote t off n pos => croftAsk s t (.load [(off, n, pos)]) (.reply pos)
  | .debug t off n pos => croftAsk s t (.debugLoad off n) (.reply pos)
  | _ => ⟨[], .ack (meAgent s) 0 0, none⟩

theorem Sent.partFlight_eq {s t : State} (a : Sent Context.quiet s t) (p : Part) : partFlight t p = partFlight s p := by
  have b := a.bare
  cases p <;> simp only [partFlight, croftAsk, b.meAgent_eq, b.resOf_eq, b.ten _ Tenant.epoch]

theorem sent_sendPart {s : State} {p : Part} (pending : partPending p = true) :
    Sent Context.quiet s (sendPart s p) ∧ HasSent s (sendPart s p) [partFlight s p] := by
  cases p with
  | home va n pos fill => exact ⟨sent_send _ _ _, hasSent_send _ _⟩
  | remote t off n pos => exact ⟨(sent_sendCroft s t 1 _ none _).1, hasSent_sendCroft s t 1 _ _⟩
  | debug t off n pos => exact ⟨(sent_sendCroft s t 1 _ none _).1, hasSent_sendCroft s t 1 _ _⟩
  | now | poison | blocked => cases pending

theorem hasSent_parts {ps : List Part} (pending : ∀ p ∈ ps, partPending p = true) (s : State) :
    HasSent s (ps.foldl sendPart s) (ps.map (partFlight s)) := by
  induction ps generalizing s with
  | nil => exact HasSent.refl s
  | cons p ps ih =>
    obtain ⟨sent, has⟩ := sent_sendPart (s := s) (pending p List.mem_cons_self)
    have rest := ih (fun q m => pending q (List.mem_cons_of_mem _ m)) (sendPart s p)
    rw [List.map_congr_left fun q _ => sent.partFlight_eq q] at rest
    exact has.trans rest

/-- Free values used up are no packet. -/
theorem sent_drawStale (s : State) (b : Nat) : Sent Context.quiet s (drawStale s b) ∧ HasSent s (drawStale s b) [] := by
  unfold drawStale
  split
  · exact ⟨Sent.refl _ s, HasSent.refl s⟩
  · exact ⟨{ Sent.refl _ s with tens := fun _ => rfl }, ⟨rfl, rfl, rfl, rfl, (List.append_nil _).symm, rfl, fun _ => rfl, fun _ _ => rfl⟩⟩

/-- The state whose free values the elements of a load have used up. -/
def drawnFor (els : List (Place × Nat × Nat)) (s : State) : State := if els.any elVirtual then drawStale s (mySetId s) else s
theorem sent_drawnFor (els : List (Place × Nat × Nat)) (s : State) :
    Sent Context.quiet s (drawnFor els s) ∧ HasSent s (drawnFor els s) [] := by
  unfold drawnFor
  split
  · exact sent_drawStale s _
  · exact ⟨Sent.refl _ s, HasSent.refl s⟩

/-- A load whose parts are all away asks for each of them. -/
theorem doLoad_away {s : State} {na : Bool} {fin : Done} {els : List (Place × Nat × Nat)} {ps : List Part}
    (parts : (els.flatMap fun e => loadParts s na e.1 e.2.1 e.2.2) = ps) (pending : ∀ p ∈ ps, partPending p = true) (some_ : ps ≠ []) :
    Awaits (drawnFor els s) (doLoad na fin els s) (ps.map (partFlight s)) fin .keep := by
  have going : Part.blocked ∉ ps := fun m => Bool.false_ne_true (pending _ m)
  have clean : ps.findSome? poisonOf = none := by
    refine List.findSome?_eq_none_iff.mpr fun p m => ?_
    cases p with
    | poison a => exact absurd (pending _ m) Bool.false_ne_true
    | now | blocked | home | remote | debug => rfl
  have all : ps.filter partPending = ps := List.filter_eq_self.mpr pending
  have asks : doLoad na fin els s = awaitMe { Await.plain ps.length (ps.foldl addNow 0) fin .keep with fills := ps.filterMap partFill }
      (ps.foldl sendPart (drawnFor els s)) := by
    rw [doLoad_eq, parts]
    simp only [List.contains_eq_mem, going, clean, all, decide_false, Bool.false_eq_true, if_false, List.isEmpty_iff, some_]
    rfl
  have sent := hasSent_parts pending (drawnFor els s)
  rw [List.map_congr_left fun p _ => (sent_drawnFor els s).1.partFlight_eq p] at sent
  rw [asks]
  exact sent.awaits (w := { Await.plain ps.length (ps.foldl addNow 0) fin .keep with fills := ps.filterMap partFill }) (by simp [Await.plain])

/-- What awaits its replies from a state that a quiet step has reached. -/
theorem HasSent.awaits_from {s u t : State} {fs : List Flight} {fin : Done} {run : RunEnd} (a : HasSent s u [])
    (b : Awaits u t fs fin run) : Awaits s t fs fin run where
  mode := b.mode
  pc := b.pc.trans a.nextSlot_eq
  await := by
    obtain ⟨w, await, left, fin, run, slot⟩ := b.await
    exact ⟨w, await, left, fin, run, slot.trans a.thisSlot_eq⟩
  regs := b.regs.trans a.regs
  net := by rw [b.net, a.net, List.append_nil]
  mem := b.mem.trans a.mem
  croftMem n := (b.croftMem n).trans (a.croftMem n)
  crofts c other := (b.crofts c (a.cur ▸ other)).trans (a.crofts c other)
  cur := b.cur.trans a.cur

/-! ## The parts of a load that nothing serves -/

section
variable {s : State} {na debug : Bool} {p : Place} {n : Nat}

/-- The parts of a load that neither a posted store nor the L1 serves. -/
def awayParts (na : Bool) (p : Place) (n pos : Nat) : List Part :=
  match p with
  | .own _ => []
  | .virt va => if na then homeParts va n pos false else (pieces 32 va n).flatMap fun q => homeParts q.1 q.2 (pos + (q.1 - va)) true
  | .rem t off => (pieces 16 off n).map fun q => .remote t q.1 q.2 (pos + (q.1 - off))
  | .dbg t off => (pieces 16 off n).map fun q => .debug t q.1 q.2 (pos + (q.1 - off))

theorem loadParts_unserved (away : Unserved s na debug p n) (pos : Nat) : loadParts s na p n pos = awayParts na p n pos := by
  unfold Unserved at away
  cases p with
  | own off => exact absurd away id
  | rem t off =>
    obtain ⟨-, -, none_⟩ := away
    simp only [loadParts, Place.space, none_, awayParts]
  | dbg t off =>
    obtain ⟨-, -, -, -, none_⟩ := away
    simp only [loadParts, Place.space, none_, awayParts]
  | virt va =>
    obtain ⟨-, none_, lines⟩ := away
    cases na with
    | true => simp only [loadParts, none_, awayParts, if_true]
    | false =>
      simp only [loadParts, none_, awayParts, Bool.false_eq_true, if_false]
      refine List.flatMap_congr fun q m => ?_
      simp only [lineParts, (lines.resolve_left Bool.false_ne_true) q m]

theorem homeParts_pending (va k pos : Nat) (fill : Bool) : ∀ q ∈ homeParts va k pos fill, partPending q = true := by
  intro q m
  obtain ⟨r, -, rfl⟩ := List.mem_map.mp m
  rfl
theorem awayParts_pending (pos : Nat) : ∀ q ∈ awayParts na p n pos, partPending q = true := by
  intro q m
  cases p with
  | own off => exact absurd m List.not_mem_nil
  | rem t off => obtain ⟨r, -, rfl⟩ := List.mem_map.mp m; rfl
  | dbg t off => obtain ⟨r, -, rfl⟩ := List.mem_map.mp m; rfl
  | virt va =>
    cases na with
    | true => exact homeParts_pending _ _ _ _ q m
    | false =>
      obtain ⟨r, -, m⟩ := List.mem_flatMap.mp m
      exact homeParts_pending _ _ _ _ q m

theorem awayParts_ne_nil (away : Unserved s na debug p n) (nonempty : n ≠ 0) (pos : Nat) : awayParts na p n pos ≠ [] := by
  unfold Unserved at away
  cases p with
  | own off => exact absurd away id
  | rem t off => simpa [awayParts] using pieces_ne_nil nonempty
  | dbg t off => simpa [awayParts] using pieces_ne_nil nonempty
  | virt va =>
    have home : homeParts va n pos false ≠ [] := by simpa [homeParts] using pieces_ne_nil nonempty
    obtain ⟨q, m⟩ := List.exists_mem_of_ne_nil _ (pieces_ne_nil (u := 32) (a := va) nonempty)
    have line : homeParts q.1 q.2 (pos + (q.1 - va)) true ≠ [] := by
      simpa [homeParts] using pieces_ne_nil (pieces_inside m (by decide)).2
    cases na with
    | true => exact home
    | false =>
      obtain ⟨r, mr⟩ := List.exists_mem_of_ne_nil _ line
      exact List.ne_nil_of_mem (List.mem_flatMap.mpr ⟨q, m, mr⟩)

/-- Their requests: one for each unit. -/
theorem awayParts_requests (s : State) (na : Bool) (p : Place) (n pos : Nat) :
    (awayParts na p n pos).map (partFlight s) = loadRequests s na p n pos := by
  cases p with
  | own off => rfl
  | rem t off => simp only [awayParts, loadRequests, List.map_map]; rfl
  | dbg t off => simp only [awayParts, loadRequests, List.map_map]; rfl
  | virt va =>
    cases na with
    | true =>
      simp only [awayParts, loadRequests, if_true, homeParts, ← pieces_pieces va n, List.map_flatMap, List.map_map]
      rfl
    | false =>
      simp only [awayParts, loadRequests, Bool.false_eq_true, if_false, List.map_flatMap, homeParts, List.map_map]
      refine List.flatMap_congr fun q m => List.map_congr_left fun r mr => ?_
      have before := (pieces_inside m (by decide)).1
      have inside := (pieces_inside mr (by decide)).1
      have at_ : pos + (q.1 - va) + (r.1 - q.1) = pos + (r.1 - va) := by omega
      simp only [Function.comp, partFlight, at_, Bool.not_false, Bool.true_and]

theorem checkEl_unserved {nd : Need} {sp : Space} {a : Nat} (right : nd.right = Window.r) (virt : nd.virt = true)
    (at_ : placeOf sp a = some p) (away : Unserved s na nd.debug p n) : checkEl s nd sp a n = .ok p := by
  unfold Unserved at away
  cases p with
  | own off => exact absurd away id
  | virt va => simp [checkEl, at_, virt, right, placeOk, away]
  | rem t off => simp [checkEl, at_, placeOk, away]
  | dbg t off =>
    obtain ⟨form, priv, fits, mem, -⟩ := away
    simp [checkEl, at_, placeOk, form, priv, fits, mem]
end

/-! ## A load of one line of device memory (R149, R151, R336) -/

theorem ofBytes_lt (bs : List Byte) : ofBytes bs < 2 ^ (8 * bs.length) := by
  induction bs with
  | nil => exact Nat.one_pos
  | cons b bs ih =>
    have byte : b.toNat < 2 ^ 8 := b.isLt
    rw [ofBytes, List.length_cons, Nat.mul_succ, Nat.pow_add]
    omega
theorem undefAt_lt {s : State} {b va n v : Nat} (lt : v < 2 ^ (8 * n)) : undefAt s b va n v < 2 ^ (8 * n) := by
  unfold undefAt
  split
  · exact lt
  · exact (ofBytes_lt _).trans_eq (by rw [List.length_map, List.length_range])

section
variable {s : State} {na : Bool} {d : GReg} {size : Fin 7} {va n : Nat}

theorem lineParts_single {pos : Nat} (nonempty : n ≠ 0) (within : va % 32 + n ≤ 32) (none_ : forward s 0 va n = none) :
    loadParts s false (.virt va) n pos = lineParts s va n pos := by
  simp only [loadParts, none_, Bool.false_eq_true, if_false, pieces_single nonempty within, List.flatMap_cons, List.flatMap_nil,
    List.append_nil, Nat.sub_self, Nat.add_zero]

/-- Bytes that are here are the result in the turn. -/
theorem doLoad_here {v : Nat} (lt : v < 2 ^ (8 * n)) (parts : loadParts s na (.virt va) n 0 = [.now 0 n v]) :
    Retired (drawStale s (mySetId s)) (doLoad na (.g d.val n (4 ≤ size.val)) [(.virt va, n, 0)] s)
      (putG (me s).regs d (if size.val < 4 then BitVec.ofNat 64 v else BitVec.ofInt 64 (sgn (8 * n) v))) := by
  have regs : (me (drawStale s (mySetId s))).regs = (me s).regs := (sent_drawStale s (mySetId s)).2.regs
  have value : addNow 0 (.now 0 n v) = v := by simp [addNow, Nat.mod_eq_of_lt lt]
  have form : doLoad na (.g d.val n (4 ≤ size.val)) [(.virt va, n, 0)] s =
      retire (updRegs (drawStale s (mySetId s)) (applyDone (.g d.val n (4 ≤ size.val)) v)) := by
    rw [doLoad_eq, List.flatMap_cons, List.flatMap_nil, List.append_nil, parts]
    show retire (updRegs (drawStale s (mySetId s)) (applyDone _ (addNow 0 (.now 0 n v)))) = _
    rw [value]
  rw [form, ← applyDone_ld lt, ← regs]
  exact retired_updRegs _ _

/-- A line that is not there, or that the form passes by, is asked for. -/
theorem doLoad_line {fin : Done} (nonempty : n ≠ 0) (within : va % 32 + n ≤ 32) (none_ : forward s 0 va n = none)
    (passes : na = true ∨ l1Find s s.cur.1 (tagOf (resOf s va).glob (resOf s va).asid) (va / 32) = none) :
    Awaits (drawStale s (mySetId s)) (doLoad na fin [(.virt va, n, 0)] s) ((pieces 16 va n).map fun q => ⟨[], .home ⟨meAgent s, .load,
      resOf s q.1, q.1, .load q.2 (!na && q.1 == va), none, .reply (q.1 - va)⟩, none⟩) fin .keep := by
  have parts : loadParts s na (.virt va) n 0 = homeParts va n 0 (!na) := by
    cases na with
    | true => simp only [loadParts, none_, if_true, Bool.not_true]
    | false =>
      rw [lineParts_single nonempty within none_, lineParts]
      simp only [passes.resolve_left Bool.false_ne_true, Bool.not_false]
  have asks := doLoad_away (s := s) (na := na) (fin := fin) (els := [(.virt va, n, 0)]) (ps := homeParts va n 0 (!na))
    (by rw [List.flatMap_cons, List.flatMap_nil, List.append_nil, parts]) (homeParts_pending _ _ _ _)
    (by simpa [homeParts] using pieces_ne_nil nonempty)
  simp only [homeParts, List.map_map, Function.comp_def, partFlight, Nat.zero_add] at asks
  exact asks

end

/-! ## The forms (R149, R156 to R161) -/

/-- A form whose elements nothing serves asks for them all. -/
theorem doLoad_unserved {s : State} {na debug : Bool} {fin : Done} {n : Nat} {els : List Nat} {p : Nat → Place} {pos : Nat → Nat}
    (nonempty : n ≠ 0) (some_ : els ≠ []) (away : ∀ j ∈ els, Unserved s na debug (p j) n) :
    Awaits s (doLoad na fin (els.map fun j => (p j, n, pos j)) s) (els.flatMap fun j => loadRequests s na (p j) n (pos j)) fin .keep := by
  have parts : ((els.map fun j => (p j, n, pos j)).flatMap fun e => loadParts s na e.1 e.2.1 e.2.2) =
      els.flatMap fun j => awayParts na (p j) n (pos j) := by
    rw [List.flatMap_map]
    exact List.flatMap_congr fun j m => loadParts_unserved (away j m) (pos j)
  have pending : ∀ q ∈ els.flatMap fun j => awayParts na (p j) n (pos j), partPending q = true := by
    intro q m
    obtain ⟨j, -, m⟩ := List.mem_flatMap.mp m
    exact awayParts_pending _ q m
  have any : (els.flatMap fun j => awayParts na (p j) n (pos j)) ≠ [] := by
    obtain ⟨j, m⟩ := List.exists_mem_of_ne_nil _ some_
    obtain ⟨q, mq⟩ := List.exists_mem_of_ne_nil _ (awayParts_ne_nil (away j m) nonempty (pos j))
    exact List.ne_nil_of_mem (List.mem_flatMap.mpr ⟨j, m, mq⟩)
  have asks := (sent_drawnFor _ s).2.awaits_from (doLoad_away (fin := fin) parts pending any)
  simp only [List.map_flatMap, awayParts_requests] at asks
  exact asks

theorem checkEls_unserved {s : State} {na : Bool} {nd : Need} {sp : Space} {n : Nat} {els : List Nat} {addr : Nat → Nat} {p : Nat → Place}
    (right : nd.right = Window.r) (virt : nd.virt = true)
    (ok : ∀ i ∈ els, placeOf sp (addr i) = some (p i) ∧ Unserved s na nd.debug (p i) n) :
    checkEls s nd sp (els.map fun i => (addr i, n)) = .ok (els.map p) := by
  induction els with
  | nil => rfl
  | cons i els ih =>
    obtain ⟨at_, away⟩ := ok i List.mem_cons_self
    have rest := ih fun j m => ok j (List.mem_cons_of_mem _ m)
    simp only [List.map_cons, checkEls, checkEl_unserved right virt at_ away, rest]

/-- A scalar form of a place that nothing serves. -/
theorem scalar_unserved {s : State} {i : Instr} {sp : Space} {a n : Nat} {na : Bool} {fin : Done} {p : Place}
    (acts : exec i s = .next (withPlaces (scalarNeed needR) sp [(a, n)] (fun ps s => doLoad na fin (ps.map fun p => (p, n, 0)) s) s))
    (at_ : placeOf sp a = some p) (nonempty : n ≠ 0) (away : Unserved s na true p n) :
    ∃ t, exec i s = .next t ∧ Awaits s t (loadRequests s na p n 0) fin .keep := by
  have checks : checkEls s (scalarNeed needR) sp [(a, n)] = .ok [p] :=
    checkEls_unserved (els := [0]) (addr := fun _ => a) (p := fun _ => p) rfl rfl fun _ _ => ⟨at_, away⟩
  have asks := doLoad_unserved (els := [0]) (p := fun _ => p) (pos := fun _ => 0) (fin := fin) nonempty (by decide) fun _ _ => away
  rw [List.flatMap_cons, List.flatMap_nil, List.append_nil] at asks
  rw [acts, withPlaces_ok _ checks]
  exact ⟨_, rfl, asks⟩

theorem ldBytes_eq (z : Nat) : ldBytes z = if z < 4 then 2 ^ z else 2 ^ (z - 4) := rfl
theorem ldBytes_ne_zero (z : Nat) : ldBytes z ≠ 0 := by
  rw [ldBytes]; split <;> exact (Nat.two_pow_pos _).ne'

section
variable {h : Hdr} {w : Nat} {s : State} {i : Instr} {na : Bool} {sp : Space} {d : VReg} {addr : Nat → Nat} {p : Nat → Place}
variable (ok : ∀ j ∈ activeEls h w s, placeOf sp (addr j) = some (p j) ∧ Unserved s na false (p j) (w / 8))
variable (bytes : w / 8 ≠ 0) (some_ : activeEls h w s ≠ [])
include ok bytes some_

/-- A vector form whose elements nothing serves asks for each, or for the first of a stride of 0. -/
theorem vecLoad_unserved (form : exec i s = .next (vecLoad na sp w d.val false ((activeEls h w s).map fun j => (j, addr j)) s)) :
    ∃ t, exec i s = .next t ∧ Awaits s t ((activeEls h w s).flatMap fun j => loadRequests s na (p j) (w / 8) (j * (w / 8)))
      (.v d.val (elMask w (activeEls h w s)) 0) .keep := by
  have ids : ((activeEls h w s).map fun j => (j, addr j)).map Prod.fst = activeEls h w s := by
    rw [List.map_map]; exact List.map_id _
  have loads : vecLoad na sp w d.val false ((activeEls h w s).map fun j => (j, addr j)) s =
      doLoad na (.v d.val (elMask w (activeEls h w s)) 0) ((activeEls h w s).map fun j => (p j, w / 8, j * (w / 8))) s := by
    rw [vecLoad, List.map_map]
    refine (withPlaces_ok _ (checkEls_unserved rfl rfl ok)).trans ?_
    dsimp only
    rw [ids, List.zip_map', List.map_map]
    rfl
  exact ⟨_, form.trans (congrArg _ loads), doLoad_unserved bytes some_ fun j m => (ok j m).2⟩
theorem vecLoad_unservedOnce (form : exec i s = .next (vecLoad na sp w d.val true ((activeEls h w s).map fun j => (j, addr j)) s)) :
    ∃ t, exec i s = .next t ∧ Awaits s t (((activeEls h w s).take 1).flatMap fun j => loadRequests s na (p j) (w / 8) 0)
      (.v d.val (elMask w (activeEls h w s)) w) .keep := by
  have ids : ((activeEls h w s).map fun j => (j, addr j)).map Prod.fst = activeEls h w s := by
    rw [List.map_map]; exact List.map_id _
  have loads : vecLoad na sp w d.val true ((activeEls h w s).map fun j => (j, addr j)) s =
      doLoad na (.v d.val (elMask w (activeEls h w s)) w) (((activeEls h w s).take 1).map fun j => (p j, w / 8, 0)) s := by
    rw [vecLoad, List.map_map]
    refine (withPlaces_ok _ (checkEls_unserved rfl rfl ok)).trans ?_
    dsimp only
    rw [ids, ← List.map_take, List.map_map]
    rfl
  have first : (activeEls h w s).take 1 ≠ [] := by simp [List.take_eq_nil_iff, some_]
  exact ⟨_, form.trans (congrArg _ loads), doLoad_unserved bytes first fun j m => (ok j (List.mem_of_mem_take m)).2⟩
end

/-- Settles O23: by the parts of the load, bytes that are here or requests. -/
theorem virtualLoads : Obligations.VirtualLoads := by
  unfold Obligations.VirtualLoads
  refine ⟨fun h o s va c => ?line, fun h o s p c => ?ld, fun h o s p _ c at_ away => ?ldq, fun h o s p => ?ldv, fun h o s p _ => ?ldvs,
    fun h o s p _ => ?gath⟩
  case line =>
    intro n res at_ covered within r u
    have nonempty : n ≠ 0 := ldBytes_ne_zero o.size.val
    have checks : checkEls s (scalarNeed needR) o.a.space [((ea s o.a).toNat, n)] = .ok [.virt va] := by
      simp [checkEls, checkEl, at_, scalarNeed, needR, placeOk, covered]
    have form : exec (.ld h o) s = .next (doLoad o.na (.g o.d.val n (4 ≤ o.size.val)) [(.virt va, n, 0)] s) := by
      rw [exec_ld, execLd, scalar_act s _ c]
      exact congrArg _ (withPlaces_ok _ checks)
    rw [form]
    refine ⟨fun blocked => ?_, fun v lt covers => ?_, fun l none_ caches hit clean => ?_, fun none_ passes => ?_⟩
    · rw [doLoad_eq, List.flatMap_cons, List.flatMap_nil, List.append_nil]
      simp only [loadParts, blocked]
      rfl
    · refine ⟨_, rfl, doLoad_here (undefAt_lt lt) ?_⟩
      simp only [loadParts, covers]
    · refine ⟨_, rfl, doLoad_here (undefAt_lt (Nat.mod_lt _ (Nat.two_pow_pos _))) ?_⟩
      rw [caches, lineParts_single nonempty within none_, lineParts]
      simp only [r] at hit
      simp only [hit, clean, Bool.false_eq_true, if_false]
    · exact ⟨_, rfl, doLoad_line nonempty within none_ passes⟩
  case ld =>
    intro n at_ away
    exact scalar_unserved ((exec_ld h o s).trans (scalar_act s _ c)) at_ (ldBytes_ne_zero _) away
  case ldq => exact scalar_unserved ((exec_ldq h o s).trans (scalar_act s _ c)) at_ (by decide) away
  case ldv =>
    intro w c ok
    simp only [ldvAddr_eq] at ok
    obtain ⟨t, runs, awaits⟩ := vecLoad_unserved (i := .ldv h o) (d := o.d) ok (vsizeBytes_ne_zero o.size) (activeEls_ne_nil c) (by
      rw [exec_ldv, execLdv]
      exact vector_act s _ c)
    exact ⟨t, _, runs, maskIs_elMask (vsizeWidth_bytes o.size).2 _, awaits⟩
  case ldvs =>
    intro w step c ok
    have form : exec (.ldvs h o) s = .next (vecLoad o.na o.a.space w o.d.val (step == 0)
        ((activeEls h w s).map fun i => (i, strideAddr s o.a i)) s) := by
      rw [exec_ldvs, execLdvs]
      exact vector_act s _ c
    have mask := maskIs_elMask (vsizeWidth_bytes o.size).2 (activeEls h w s)
    by_cases zero : step = 0
    · rw [beq_iff_eq.mpr zero] at form
      obtain ⟨t, runs, awaits⟩ := vecLoad_unservedOnce ok (vsizeBytes_ne_zero o.size) (activeEls_ne_nil c) form
      exact ⟨t, _, runs, mask, fun other => absurd zero other, fun _ => awaits⟩
    · rw [beq_eq_false_iff_ne.mpr zero] at form
      obtain ⟨t, runs, awaits⟩ := vecLoad_unserved ok (vsizeBytes_ne_zero o.size) (activeEls_ne_nil c) form
      exact ⟨t, _, runs, mask, fun _ => awaits, fun is => absurd is zero⟩
  case gath =>
    intro w c ok
    obtain ⟨t, runs, awaits⟩ := vecLoad_unserved (i := .gath h o) (d := o.d) ok (vsizeBytes_ne_zero o.size) (activeEls_ne_nil c) (by
      rw [exec_gath, execGath]
      refine (vector_act s _ c).trans (congrArg _ ?_)
      rw [offsetEls_eq]
      rfl)
    exact ⟨t, _, runs, maskIs_elMask (vsizeWidth_bytes o.size).2 _, awaits⟩

end Sys2Proof.Machine
end

section
namespace Sys2Proof.Machine

/-! ## The context an event names -/

section
variable (s : State) (c i : Nat)

@[simp] theorem ctxAt_updCtx_self (f : Context → Context) : ctxAt (updCtx s c i f) c i = f (ctxAt s c i) := ctxAt_setCtx_self ..
@[simp] theorem ctxAt_tick : ctxAt (tick s) c i = ctxAt s c i := rfl
@[simp] theorem ctxAt_drop (n : Nat) : ctxAt (drop s n) c i = ctxAt s c i := rfl
theorem ctxAt_dropL1 (va n : Nat) :
    ctxAt (dropL1 s c va n) c i = (ctxAt s c i).unfilled fun la => va / 32 ≤ la && la ≤ (va + n - 1) / 32 := by
  rw [ctxAt, dropL1, croftAt_setCroft_self]
  exact sread_map (Context.unfilled fun la => va / 32 ≤ la && la ≤ (va + n - 1) / 32) rfl (croftAt s c).ctxs i

/-- A context none of whose fills is installed. -/
def Context.noFills (k : Context) : Context := { k with await := k.await.map fun a => { a with fills := [] } }
theorem ctxAt_flashL1 : ctxAt (flashL1 s c) c i = (ctxAt s c i).noFills := by
  rw [ctxAt, flashL1, croftAt_setCroft_self]
  exact sread_map Context.noFills rfl (croftAt s c).ctxs i
theorem l1_flashL1 : (croftAt (flashL1 s c) c).l1 = [] := by rw [flashL1, croftAt_setCroft_self]
theorem l1_updCtx (f : Context → Context) : (croftAt (updCtx s c i f) c).l1 = (croftAt s c).l1 := by
  rw [updCtx, setCtx, croftAt_setCroft_self]

/-- A packet that has arrived leaves the network. -/
theorem drop_netNext : drop s (argN s 0) = { s with net := netNext s [] } := by rw [netNext, List.append_nil]; rfl
end

/-! ## The seal of a run (R180, R223) -/

theorem addCount_regs (k n : Nat) (x : Context) : (addCount k n x).regs = x.regs ∧ (addCount k n x).held = x.held := by
  unfold addCount
  split
  · exact ⟨rfl, rfl⟩
  · split <;> exact ⟨rfl, rfl⟩
theorem foldl_addCount (hs : List Held) (x : Context) :
    (hs.foldl (fun k h => addCount h.cls 1 k) x).regs = x.regs ∧ (hs.foldl (fun k h => addCount h.cls 1 k) x).held = x.held := by
  induction hs generalizing x with
  | nil => exact ⟨rfl, rfl⟩
  | cons h hs ih =>
    obtain ⟨regs, held⟩ := ih (addCount h.cls 1 x)
    obtain ⟨regs', held'⟩ := addCount_regs h.cls 1 x
    exact ⟨regs.trans regs', held.trans held'⟩

/-- What a release of n held atomics of context (c, i) leaves: its registers, memory and the count of runs; each of them is sent. -/
structure Released (s t : State) (c i n : Nat) : Prop where
  regs : (ctxAt t c i).regs = (ctxAt s c i).regs
  net : t.net.length = s.net.length + n
  mem : t.mem = s.mem
  period : t.period = s.period

/-- One held atomic is sent. -/
def releaseOne (who : Agent) (c : Nat) (s : State) (h : Held) : State :=
  send (tick (dropL1 s c h.va h.n)) ⟨homeKey who h.res, .home ⟨who, .atomic, h.res, h.va,
    .atom h.n h.f (.one who h.x 0 false 0 h.cls (tick (dropL1 s c h.va h.n)).now), none, .none⟩, none⟩

theorem released_foldl (who : Agent) (c i : Nat) (hs : List Held) (s : State) : Released s (hs.foldl (releaseOne who c) s) c i hs.length := by
  induction hs generalizing s with
  | nil => exact ⟨rfl, rfl, rfl, rfl⟩
  | cons h hs ih =>
    obtain ⟨regs, net, mem, period⟩ := ih (releaseOne who c s h)
    have one : ctxAt (releaseOne who c s h) c i = _ := ctxAt_dropL1 s c i h.va h.n
    refine ⟨regs.trans (by rw [one]; rfl), ?_, mem, period⟩
    have sent : (releaseOne who c s h).net.length = s.net.length + 1 := List.length_append
    rw [List.foldl_cons, net, sent, List.length_cons]
    omega

theorem released_releaseHeld (s : State) (c i : Nat) :
    Released s (releaseHeld s c i) c i (ctxAt s c i).held.length ∧ (ctxAt (releaseHeld s c i) c i).held = [] := by
  have form : releaseHeld s c i = updCtx ((ctxAt s c i).held.foldl (releaseOne (agentOf s c i) c) s) c i
      fun k => k.held.foldl (fun k h => addCount h.cls 1 k) { k with held := [] } := rfl
  obtain ⟨regs, net, mem, period⟩ := released_foldl (agentOf s c i) c i (ctxAt s c i).held s
  rw [form]
  generalize (ctxAt s c i).held.foldl (releaseOne (agentOf s c i) c) s = u at regs net mem period
  obtain ⟨kept, held⟩ := foldl_addCount (ctxAt u c i).held { ctxAt u c i with held := [] }
  exact ⟨⟨by rw [ctxAt_updCtx_self, kept]; exact regs, net, mem, period⟩, by rw [ctxAt_updCtx_self, held]⟩

/-- The seal of any run. -/
theorem sealRun_releases (s : State) (c i : Nat) : let t := sealRun s c i
    (ctxAt t c i).stage = .sealed ∧ (ctxAt t c i).held = [] ∧ (ctxAt t c i).regs = (ctxAt s c i).regs ∧
      t.net.length = s.net.length + (ctxAt s c i).held.length ∧ t.period = s.period + 1 ∧ t.mem = s.mem := by
  intro t
  obtain ⟨⟨regs, net, mem, period⟩, held⟩ := released_releaseHeld s c i
  have ctx : ctxAt t c i = { ctxAt (releaseHeld s c i) c i with stage := .sealed } := ctxAt_updCtx_self ..
  exact ⟨by rw [ctx], by rw [ctx]; exact held, by rw [ctx]; exact regs, net, congrArg (· + 1) period, mem⟩

theorem runSeal_seals {s : State} (ready : (evCtx s).mode = .running ∧ (evCtx s).stage = .sealing ∧ (evCtx s).busy = false) :
    exec .runSeal s = .next (sealRun s (argN s 0) (argN s 1)) := by
  obtain ⟨mode, stage, idle⟩ := ready
  exact congrArg _ (if_pos (by simp [mode, stage, idle]))
theorem runSeal_waits {s : State} (unready : ¬ ((evCtx s).mode = .running ∧ (evCtx s).stage = .sealing ∧ (evCtx s).busy = false)) :
    exec .runSeal s = .next s := by
  refine congrArg _ (if_neg fun ready => unready ?_)
  simpa [and_assoc] using ready

/-! ## Parking and the end of an abort wait (R163, R194, R225) -/

theorem park_parks {s : State} {a : Await} (await : (evCtx s).await = some a) (mode : (evCtx s).mode = .awaiting) (listed : a.listed = true)
    (idle : (evCtx s).busy = false) : exec .park s = .next (parkAwait s (argN s 0) (argN s 1) a) := by
  simp only [exec_park, execPark, await, mode, listed, idle]
  simp
theorem ctxAt_parkAwait (s : State) (c i : Nat) (a : Await) : ctxAt (parkAwait s c i a) c i = { ctxAt s c i with
    mode := .parked, await := none, owe := Owing.none
    park := some { Park.plain a.wake.1 a.wake.2.1 a.wake.2.2 (parkDest a.fin) 0 false (s.now + 1) with
      acc := (ctxAt s c i).acc, slot := a.slot, base := a.base, owe := (ctxAt s c i).owe } } := ctxAt_updCtx_self ..

theorem abortWaitEnd_runs {s : State} {p : Park} (mode : (evCtx s).mode = .parked) (park : (evCtx s).park = some p)
    (kind : p.kind = .resident) (served : p.served = true) (idle : (evCtx s).busy = false) (going : (croftAt s (argN s 0)).stopped = false) :
    exec .abortWaitEnd s = .next (reexecute s (argN s 0) (argN s 1)) := by
  simp [exec_abortWaitEnd, execAbortWaitEnd, mode, park, kind, served, idle, going]

/-! ## Wakes (R189, R191, R196, R221) -/

section
variable {s : State} {p : Park}

theorem parkedWake_wakes (mode : (evCtx s).mode = .parked) (park : (evCtx s).park = some p) (going : (croftAt s (argN s 0)).stopped = false)
    (open_ : (croftAt s (argN s 0)).quiesce = false) (holds : wakeHolds s (argN s 0) (argN s 1) p = true) :
    exec .parkedWake s = .next (completeWake s (argN s 0) (argN s 1) p) := by
  simp [exec_parkedWake, execParkedWake, park, mode, holds, going, open_]
theorem parkedWake_sleeps (park : (evCtx s).park = some p) (fails : wakeHolds s (argN s 0) (argN s 1) p = false) :
    exec .parkedWake s = .next s := by
  simp [exec_parkedWake, execParkedWake, park, fails]

variable {c i : Nat}
theorem wakeHolds_bin (kind : p.kind = .bin) (hb : p.param < 8) :
    wakeHolds s c i p = decide (p.count ≤ (getB (ctxAt s c i).regs ⟨p.param, hb⟩).toNat) := by
  simp only [wakeHolds, kind, hb, dite_true]

/-- A woken context: its next run begins, in the rotation or frozen where a freeze command waits (R380). -/
def Context.woken (p : Park) (k : Context) : Context :=
  runStartOf { k with mode := if k.frz then .frozen else .running, frz := false, park := none, acc := p.acc + 1 }
theorem woken_mode (k : Context) (fresh : k.frz = false) : (k.woken p).mode = .running := by
  show (if k.frz then Mode.frozen else .running) = _
  rw [fresh]; rfl

/-- A wake that meets no poison begins the next run, with what the wake and the pair's other slot wrote. -/
theorem ctxAt_completeWake (clean : p.ue = none) : ctxAt (completeWake s c i p) c i =
    (ctxAt (settleLate (wakeEffect s c i p) c i p.owe.late) c i).woken p := by
  simp only [completeWake, clean]
  exact ctxAt_updCtx_self ..

/-- The bin of a WAITB gives up its count, and the context acquires (R189). -/
def Context.takesBin (p : Park) (hb : p.param < 8) (k : Context) : Context :=
  { k with regs := putB k.regs ⟨p.param, hb⟩ (getB k.regs ⟨p.param, hb⟩ - BitVec.ofNat 32 p.count) }
theorem wakeEffect_bin (kind : p.kind = .bin) (hb : p.param < 8) :
    wakeEffect s c i p = flashL1 (updCtx s c i (Context.takesBin p hb)) c := by
  simp only [wakeEffect, kind, hb, dite_true]
  rfl
theorem ctxAt_wakeEffect_bin (kind : p.kind = .bin) (hb : p.param < 8) :
    ctxAt (wakeEffect s c i p) c i = ((ctxAt s c i).takesBin p hb).noFills := by
  rw [wakeEffect_bin kind hb, ctxAt_flashL1, ctxAt_updCtx_self]

/-- A resumption, a store to a word or a crib record changes nothing but that the context may acquire. -/
theorem wakeEffect_quiet (kind : p.kind = .resume ∨ p.kind = .feEmpty ∨ p.kind = .crib) :
    (wakeEffect s c i p = s ∨ wakeEffect s c i p = flashL1 s c) ∧ wakeHolds s c i p = p.served := by
  rcases kind with kind | kind | kind <;> simp [wakeEffect, wakeHolds, kind]
theorem ctxAt_wakeEffect_quiet (kind : p.kind = .resume ∨ p.kind = .feEmpty ∨ p.kind = .crib) :
    ctxAt (wakeEffect s c i p) c i = ctxAt s c i ∨ ctxAt (wakeEffect s c i p) c i = (ctxAt s c i).noFills := by
  rcases (wakeEffect_quiet (s := s) (c := c) (i := i) kind).1 with same | flash
  · exact .inl (by rw [same])
  · exact .inr (by rw [flash, ctxAt_flashL1])
end

/-- A fault of context (c, i) at a slot: its record as frozen, and no memory changed (R373). -/
theorem ctxAt_freezeAt (s : State) (c i code slot resume aux addr : Nat) : ctxAt (freezeAt s c i code slot resume aux addr) c i =
    { ctxAt s c i with mode := .frozen, pc := resume, stage := .open, sub := 0, await := none, fetched := none, wins := none } := by
  simp only [freezeAt, faultReport]
  rw [ctxAt_report, ctxAt_updCtx_self]
theorem freezeAt_mem (s : State) (c i code slot resume aux addr : Nat) : (freezeAt s c i code slot resume aux addr).mem = s.mem := by
  simp only [freezeAt, faultReport]
  rw [report_mem]
  rfl

/-! ## Acknowledgements (R150, R151) -/

theorem countOf_subCount {cls : Nat} (k : Context) (low : 1 ≤ cls) (high : cls ≤ 3) :
    countOf cls (subCount cls k) = countOf cls k - 1 ∧ (subCount cls k).posted = k.posted ∧ (subCount cls k).regs = k.regs := by
  have which : cls = 1 ∨ cls = 2 ∨ cls = 3 := by omega
  rcases which with rfl | rfl | rfl <;> exact ⟨rfl, rfl, rfl⟩

/-- The posted store that an acknowledgement names leaves the list, and those before it lose the bytes it wrote. -/
theorem unpost_split {p : Posted} {older newer : List Posted} (before : ∀ q ∈ older, q.id ≠ p.id) :
    unpost p (older ++ p :: newer) = older.map (shadowed p) ++ newer := by
  have keep : ∀ q ∈ older, (q.id != p.id) = true := fun q m => by simpa using before q m
  rw [unpost, List.takeWhile_append_of_pos keep, List.dropWhile_append_of_pos keep]
  simp

/-- An acknowledgement leaves all of a context but its class counts and posted stores. -/
theorem ackCtx_bare (cls id : Nat) (k : Context) : (ackCtx cls id k).bare = k.bare := by
  have sub (x : Context) : (subCount cls x).bare = x.bare := by
    unfold subCount
    split
    · rfl
    · split
      · rfl
      · split <;> rfl
  unfold ackCtx
  split
  · exact sub k
  · dsimp only
    split
    · rfl
    · exact sub _
/-- A part of a context that its bare view shows. -/
theorem part_of_bare {α : Type} {k l : Context} (same : k.bare = l.bare) (f : Context → α) (shown : ∀ x : Context, f x = f x.bare := by intro; rfl) :
    f k = f l := by
  rw [shown, same, ← shown]

/-! ### Bytes that a later store wrote (R151) -/

theorem runByte_nil (a : Nat) : runByte [] a = none := rfl
theorem runByte_cons (r : Nat × List Byte) (rs : List (Nat × List Byte)) (a : Nat) :
    runByte (r :: rs) a = if r.1 ≤ a ∧ a < r.1 + r.2.length then nth r.2 (a - r.1) else runByte rs a := by
  by_cases here : r.1 ≤ a ∧ a < r.1 + r.2.length
  · simp [runByte, here]
  · rw [if_neg here]
    have miss : (decide (r.1 ≤ a) && decide (a < r.1 + r.2.length)) = false := by
      rw [← Bool.not_eq_true]; simpa using here
    simp only [runByte, List.find?_cons, miss]

theorem nth_drop_take (l : List Byte) (i : Nat) : nth ((l.drop i).take 1) 0 = nth l i := by
  induction l generalizing i with
  | nil => simp [nth]
  | cons b l ih => cases i with
    | zero => rfl
    | succ i => exact ih i

/-- The bytes of a run that no later store covers, each a run of its own. -/
def uncovered (cov : Nat → Bool) (r : Nat × List Byte) : List (Nat × List Byte) :=
  ((List.range r.2.length).filter fun i => !cov (r.1 + i)).map fun i => (r.1 + i, (r.2.drop i).take 1)

theorem mem_uncovered {cov : Nat → Bool} {r x : Nat × List Byte} : x ∈ uncovered cov r ↔
    ∃ i < r.2.length, cov (r.1 + i) = false ∧ x = (r.1 + i, (r.2.drop i).take 1) := by
  simp only [uncovered, List.mem_map, List.mem_filter, List.mem_range, Bool.not_eq_true', and_assoc, eq_comm (a := x)]

/-- Such a run covers its own address alone. -/
theorem at_of_mem_uncovered {cov : Nat → Bool} {r x : Nat × List Byte} {a : Nat} (mem : x ∈ uncovered cov r)
    (here : (x.1 ≤ a && a < x.1 + x.2.length) = true) :
    r.1 ≤ a ∧ a < r.1 + r.2.length ∧ cov a = false ∧ x = (a, (r.2.drop (a - r.1)).take 1) := by
  obtain ⟨i, lt, clear, rfl⟩ := mem_uncovered.mp mem
  have one : ((r.2.drop i).take 1).length = 1 := by rw [List.length_take, List.length_drop]; omega
  simp only [one, Bool.and_eq_true, decide_eq_true_eq] at here
  have at_ : a = r.1 + i := by omega
  have back : a - r.1 = i := by omega
  exact ⟨by omega, by omega, at_ ▸ clear, by rw [back, at_]⟩

theorem runByte_uncovered (cov : Nat → Bool) (r : Nat × List Byte) (rest : List (Nat × List Byte)) {a : Nat} (clear : cov a = false) :
    runByte (uncovered cov r ++ rest) a = if r.1 ≤ a ∧ a < r.1 + r.2.length then nth r.2 (a - r.1) else runByte rest a := by
  by_cases here : r.1 ≤ a ∧ a < r.1 + r.2.length
  · have back : r.1 + (a - r.1) = a := by omega
    have mem : (a, (r.2.drop (a - r.1)).take 1) ∈ uncovered cov r :=
      mem_uncovered.mpr ⟨a - r.1, by omega, by rw [back]; exact clear, by rw [back]⟩
    have covers : (decide (a ≤ a) && decide (a < a + ((r.2.drop (a - r.1)).take 1).length)) = true := by
      have one : ((r.2.drop (a - r.1)).take 1).length = 1 := by rw [List.length_take, List.length_drop]; omega
      simp [one]
    obtain ⟨x, found⟩ := Option.isSome_iff_exists.mp ((List.find?_isSome (p := fun x : Nat × List Byte => x.1 ≤ a && a < x.1 + x.2.length)).mpr ⟨_, mem, covers⟩)
    obtain ⟨-, -, -, rfl⟩ := at_of_mem_uncovered (a := a) (List.mem_of_find?_eq_some found)
      (List.find?_some (p := fun x : Nat × List Byte => x.1 ≤ a && a < x.1 + x.2.length) found)
    rw [if_pos here, runByte, List.find?_append, found]
    simp only [Option.some_or, Nat.sub_self, nth_drop_take]
  · have none_ : (uncovered cov r).find? (fun x => x.1 ≤ a && a < x.1 + x.2.length) = none :=
      List.find?_eq_none.mpr fun x mem at_ => by
        obtain ⟨low, high, -⟩ := at_of_mem_uncovered mem at_
        exact here ⟨low, high⟩
    rw [if_neg here, runByte, runByte, List.find?_append, none_, Option.none_or]

/-- What is left of the runs forwards a byte just where no later store wrote it. -/
theorem runByte_flatMap_uncovered (cov : Nat → Bool) (rs : List (Nat × List Byte)) (a : Nat) :
    runByte (rs.flatMap (uncovered cov)) a = if cov a then none else runByte rs a := by
  cases covered : cov a with
  | true =>
    have none_ : (rs.flatMap (uncovered cov)).find? (fun x => x.1 ≤ a && a < x.1 + x.2.length) = none := by
      refine List.find?_eq_none.mpr fun x mem at_ => ?_
      obtain ⟨r, -, mem⟩ := List.mem_flatMap.mp mem
      obtain ⟨-, -, clear, -⟩ := at_of_mem_uncovered mem at_
      rw [covered] at clear
      cases clear
    rw [runByte, none_, if_pos rfl]
  | false =>
    rw [if_neg Bool.false_ne_true]
    induction rs with
    | nil => rfl
    | cons r rs ih => rw [List.flatMap_cons, runByte_uncovered cov r _ covered, ih, runByte_cons]

/-- Where none of its bytes was written a store keeps its runs. -/
theorem runByte_none_of_uncovered {cov : Nat → Bool} {rs : List (Nat × List Byte)} {a : Nat} (covered : cov a = true)
    (none_ : (rs.any fun r => (List.range r.2.length).any fun i => cov (r.1 + i)) = false) : runByte rs a = none := by
  have miss : rs.find? (fun r => r.1 ≤ a && a < r.1 + r.2.length) = none := by
    refine List.find?_eq_none.mpr fun r mem at_ => ?_
    simp only [Bool.and_eq_true, decide_eq_true_eq] at at_
    have back : r.1 + (a - r.1) = a := by omega
    have none_ := List.any_eq_false.mp none_ r mem
    exact none_ (List.any_eq_true.mpr ⟨a - r.1, List.mem_range.mpr (by omega), by rw [back]; exact covered⟩)
  rw [runByte, miss]

theorem runByte_shadowed (p q : Posted) (a : Nat) : runByte (shadowed p q).runs a =
    if q.space = p.space ∧ (runByte p.runs a).isSome = true then none else runByte q.runs a := by
  by_cases other : q.space = p.space
  · have left : (shadowed p q).runs = if q.runs.any fun r => (List.range r.2.length).any fun i => (runByte p.runs (r.1 + i)).isSome then
        q.runs.flatMap (uncovered fun a => (runByte p.runs a).isSome) else q.runs := by
      simp only [shadowed, other, bne_self_eq_false, Bool.false_eq_true, if_false, ← Option.not_isSome]
      rfl
    rw [left]
    split
    · rw [runByte_flatMap_uncovered]
      simp only [other, true_and]
    · rename_i clear
      split
      · rename_i covered
        exact runByte_none_of_uncovered (cov := fun a => (runByte p.runs a).isSome) covered.2 (Bool.not_eq_true _ ▸ clear)
      · rfl
  · have away : (q.space != p.space) = true := bne_iff_ne.mpr other
    rw [if_neg fun both => other both.1, shadowed, if_pos away]

/-! ### The acknowledgement arrives -/

section
variable {s : State} {who : Agent} {cls id : Nat} (packet : deliverable s (argN s 0) = some (.ack who cls id))
include packet

theorem postedStoreAck_late (gone : findCounts s who = none) : exec .postedStoreAck s = .next { s with net := netNext s [] } := by
  have gone' : findCounts (drop s (argN s 0)) who = none := gone
  simp only [exec_postedStoreAck, execPostedStoreAck, packet, gone']
  rw [drop_netNext]
theorem postedStoreAck_counts {c i : Nat} (counts : findCounts s who = some (c, i)) :
    exec .postedStoreAck s = .next (updCtx { s with net := netNext s [] } c i (ackCtx cls id)) := by
  have counts' : findCounts (drop s (argN s 0)) who = some (c, i) := counts
  simp only [exec_postedStoreAck, execPostedStoreAck, packet, counts']
  rw [drop_netNext]
end

section
variable {cls id : Nat} {k : Context}

theorem ackCtx_unknown (none_ : k.posted.find? (fun p => p.id == id) = none) : ackCtx cls id k = subCount cls k := by
  simp only [ackCtx, none_]
theorem ackCtx_last {p : Posted} (found : k.posted.find? (fun p => p.id == id) = some p) (left : p.left = [cls]) :
    ackCtx cls id k = subCount cls { k with posted := unpost p k.posted } := by
  simp [ackCtx, found, left]
theorem ackCtx_more {p : Posted} {l : List Nat} (found : k.posted.find? (fun p => p.id == id) = some p) (left : p.left = cls :: cls :: l) :
    ackCtx cls id k = { k with posted := k.posted.map fun q => if q.id = id then { q with left := cls :: l } else q } := by
  simp [ackCtx, found, left]
theorem ackCtx_regs : (ackCtx cls id k).regs = k.regs :=
   part_of_bare (ackCtx_bare cls id k) Context.regs
end

/-! ## Replies (R149, R225, R345) -/

section
variable {s : State} {who : Agent} {r : Reply} (packet : deliverable s (argN s 0) = some (.reply who r))
variable (settled : (tenAt s who.ten).move = .settled)
include packet settled

theorem accessReply_late (plain : r.listed = false ∧ r.refused = false) (gone : findAccess s who = none) (parked : parkedBy s who = false) :
    exec .accessReply s = .next { s with net := netNext s [] } := by
  have gone' : findAccess (drop s (argN s 0)) who = none := gone
  have parked' : parkedBy (drop s (argN s 0)) who = false := parked
  simp only [exec_accessReply, execAccessReply, packet, tenSettled, settled, beq_self_eq_true, gone', plain, serveAgent, parked']
  rw [drop_netNext]
  rfl
theorem accessReply_awaited {c i : Nat} {a : Await} (waits : findAccess s who = some (c, i)) (mode : (ctxAt s c i).mode = .awaiting)
    (await : (ctxAt s c i).await = some a) : exec .accessReply s = .next (replyAwait { s with net := netNext s [] } c i a r) := by
  have waits' : findAccess (drop s (argN s 0)) who = some (c, i) := waits
  simp only [exec_accessReply, execAccessReply, packet, tenSettled, settled, beq_self_eq_true, waits', ctxAt_drop, mode, await]
  rw [drop_netNext]
  rfl
end

/-- A plain value joins what an access has gathered, and no poison. -/
def Await.gathers (a : Await) (v pos : Nat) : Await := { a with left := a.left - 1, buf := a.buf ||| v * 2 ^ (8 * pos), ue := none }
theorem replyAwait_plain {s : State} {c i n v pos blk : Nat} {a : Await} (clean : a.ue = none) :
    replyAwait s c i a ⟨pos, n, v, none, none, none, false, false, blk⟩ =
      if a.left - 1 = 0 then finishAwait s c i (a.gathers v pos) else updCtx s c i fun k => { k with await := some (a.gathers v pos) } := by
  simp only [replyAwait, Bool.false_eq_true, if_false, clean]
  rfl

theorem ctxAt_finishAwait_g {s : State} {c i d n : Nat} {sg : Bool} {a : Await} (fin : a.fin = .g d n sg) (run : a.run = .keep)
    (noAcquire : a.acq = false) (keep : (ctxAt s c i).owe.keep = none) (late : (ctxAt s c i).owe.late = none) :
    finishAwait s c i a = updCtx s c i fun k => { k with
      regs := applyDone (.g d n sg) a.buf k.regs, owe := Owing.none, await := none
      mode := if k.frz then .frozen else .running, frz := false, acc := k.acc + 1 } := by
  simp [finishAwait, fin, run, noAcquire, keep, late, runAfter, settleLate, keepReg]

/-- What a reply of n bytes makes of a g register. -/
theorem applyDone_g {d n v : Nat} {sg : Bool} (lt : v < 2 ^ (8 * n)) (r : Regs) : applyDone (.g d n sg) v r =
    putGn r d (if sg then (BitVec.ofInt 64 (sgn (8 * n) v)).toNat else v) := by
  rw [applyDone, Nat.mod_eq_of_lt lt, sgn, toInt_ofNat_eq_toS]

/-! ## Fault answers (R225, R345) -/

/-- A context of no HIRE and no SHOOT under way abandons nothing. -/
theorem abandon_none {s : State} {c i : Nat} (small : (ctxAt s c i).sub < subShoot 0) : abandon s c i = s := by
  have hire : ¬ subHire 0 ≤ (ctxAt s c i).sub := by
    have : subShoot 0 < subHire 0 := by decide
    omega
  have shoot : ¬ subShoot 0 ≤ (ctxAt s c i).sub := Nat.not_le.mpr small
  simp only [abandon, hire, shoot, decide_false, Bool.false_and, Bool.false_eq_true, if_false]

/-- A run that aborts. -/
def Context.aborted (va : Nat) (gen : W32) (told : Bool) (order : Nat) (k : Context) : Context := { k with
  held := [], regs := restoreRegs k.budget k.regs k.shadow, aborts := Nat.min (k.aborts + 1) 0xFFFF, mode := .parked
  pc := k.runStart, stage := .open, sub := 0, tgt := none, await := none, owe := Owing.none, grp := none, abp := none
  fetched := none, wins := none, acc := k.acc + 1
  park := some { Park.plain .resident 0 va gen.toNat 0 told order with acc := k.acc + 1 } }
theorem abortRun_eq {s : State} {c i : Nat} (va : Nat) (gen : W32) (told : Bool) (small : (ctxAt s c i).sub < subShoot 0) :
    abortRun s c i va gen told = updCtx (tick s) c i (Context.aborted va gen told (s.now + 1)) := by
  rw [abortRun, abandon_none small]; rfl

/-- The context a fault answer is for, its counts lowered where the access was a store. -/
def faulted (s : State) (c i cls id : Nat) : State := if cls = 0 then s else updCtx s c i (ackCtx cls id)
theorem ctxAt_faulted (s : State) (c i cls id : Nat) : (ctxAt (faulted s c i cls id) c i).bare = (ctxAt s c i).bare := by
  unfold faulted
  split
  · rfl
  · rw [ctxAt_updCtx_self]; exact ackCtx_bare cls id _

/-- What the answer makes of the context: a frozen one holds the abort, one in its abort wait stays there, any other run aborts. -/
def answered (c i va : Nat) (gen : W32) (told : Bool) (u : State) : State :=
  if (ctxAt u c i).mode = .frozen then updCtx u c i fun k => { k with abp := if k.abp.isSome then k.abp else some (va, gen, told) }
  else if (ctxAt u c i).mode = .parked && (ctxAt u c i).park.any fun p => p.kind == .resident then u
  else abortRun u c i va gen told

section
variable {s : State} {who : Agent} {cls id code va c i : Nat} {gen : W32} {told : Bool}
variable (packet : deliverable s (argN s 0) = some (.fault who cls id code va gen told)) (settled : (tenAt s who.ten).move = .settled)
variable (found : (if cls = 0 then findAccess s who else findCounts s who) = some (c, i))
include packet settled found

theorem faultAnswer_found :
    exec .faultAnswer s = .next (answered c i va gen told (faulted { s with net := netNext s [] } c i cls id)) := by
  have found' : (if cls = 0 then findAccess (drop s (argN s 0)) who else findCounts (drop s (argN s 0)) who) = some (c, i) := found
  simp only [exec_faultAnswer, execFaultAnswer, packet, tenSettled, settled, beq_self_eq_true, found']
  rw [drop_netNext]
  rfl
end

/-- Settles O46: what each event makes of its context. -/
theorem runEvents : Obligations.RunEvents := by
  unfold Obligations.RunEvents
  refine ⟨fun s => ?own, fun s who cls id c i packet => ?ack, runByte_shadowed, ?reply, ?fault⟩
  case own =>
    intro c i k
    refine ⟨fun ready => ⟨_, runSeal_seals ready, sealRun_releases s c i⟩, runSeal_waits, fun a await mode listed idle => ?park,
      fun p mode park kind served idle fresh going => ?again, fun p mode park fresh going open_ => ?wake⟩
    case park =>
      have ctx := ctxAt_parkAwait s c i a
      exact ⟨_, park_parks await mode listed idle, by rw [ctx], by rw [ctx], by rw [ctx], ⟨_, by rw [ctx], rfl, rfl⟩, rfl⟩
    case again =>
      refine ⟨_, abortWaitEnd_runs mode park kind served idle going, ?_, rfl, rfl⟩
      rw [reexecute, ctxAt_updCtx_self]
      show ({ k with mode := if k.frz then .frozen else .running, frz := false, park := none, shadow := k.regs, pc := k.runStart, tgt := none } : Context) = _
      rw [fresh, if_neg Bool.false_ne_true, ← fresh]
    case wake =>
      have wakes := fun holds => parkedWake_wakes mode park going open_ holds
      refine ⟨fun hb kind clean late enough => ?bin, fun hb j hj x kind clean late enough => ?late, fun hb kind short => ?short,
        fun kind served clean late => ?quiet, fun x kind served bad undo => ?ue⟩
      case bin =>
        have holds : wakeHolds s c i p = true := by rw [wakeHolds_bin kind hb]; exact decide_eq_true enough
        have ctx := ctxAt_completeWake (s := s) (c := c) (i := i) clean
        rw [late, settleLate, ctxAt_wakeEffect_bin kind hb] at ctx
        have l1 : (croftAt (completeWake s c i p) c).l1 = [] := by
          simp only [completeWake, clean, late, settleLate]
          rw [l1_updCtx, wakeEffect_bin kind hb, l1_flashL1]
        refine ⟨_, wakes holds, by rw [ctx]; exact woken_mode _ fresh, by rw [ctx]; rfl, by rw [ctx]; rfl, by rw [ctx]; rfl, l1, by rw [ctx]; rfl,
          by rw [ctx]; rfl⟩
      case late =>
        have holds : wakeHolds s c i p = true := by rw [wakeHolds_bin kind hb]; exact decide_eq_true enough
        have ctx := ctxAt_completeWake (s := s) (c := c) (i := i) clean
        rw [late, settleLate, ctxAt_updCtx_self, ctxAt_wakeEffect_bin kind hb] at ctx
        refine ⟨_, wakes holds, ?_⟩
        rw [ctx]
        simp only [hj, dite_true]
        rfl
      case short =>
        refine parkedWake_sleeps park ?_
        rw [wakeHolds_bin kind hb]
        exact decide_eq_false (Nat.not_le.mpr short)
      case quiet =>
        obtain ⟨effect, holds⟩ := wakeEffect_quiet (s := s) (c := c) (i := i) kind
        have ctx := ctxAt_completeWake (s := s) (c := c) (i := i) clean
        rw [late, settleLate] at ctx
        have mem : (completeWake s c i p).mem = s.mem := by
          simp only [completeWake, clean, late, settleLate]
          rcases effect with same | flash
          · rw [same]; rfl
          · rw [flash]; rfl
        refine ⟨_, wakes (holds.trans served), ?_⟩
        rcases ctxAt_wakeEffect_quiet (s := s) (c := c) (i := i) kind with same | flash
        · rw [same] at ctx
          exact ⟨by rw [ctx]; exact woken_mode _ fresh, by rw [ctx]; rfl, by rw [ctx]; rfl, by rw [ctx]; rfl, mem⟩
        · rw [flash] at ctx
          exact ⟨by rw [ctx]; exact woken_mode _ fresh, by rw [ctx]; rfl, by rw [ctx]; rfl, by rw [ctx]; rfl, mem⟩
      case ue =>
        have holds : wakeHolds s c i p = true := by simp [wakeHolds, kind, served]
        have form : completeWake s c i p = freezeAt (updCtx s c i fun k =>
            runAt k.regs p.base { k with park := none, frz := false, acc := p.acc + 1 }) c i cUE p.slot p.base 0 x := by
          simp only [completeWake, bad, undo, Option.getD_none]
        have ctx := congrArg (fun u => ctxAt u c i) form
        simp only [ctxAt_freezeAt, ctxAt_updCtx_self] at ctx
        refine ⟨_, wakes holds, by rw [ctx], by rw [ctx]; rfl, by rw [ctx]; rfl, by rw [ctx], ?_⟩
        rw [form, freezeAt_mem]; rfl
  case ack =>
    refine ⟨postedStoreAck_late packet, fun counts low high => ?_⟩
    intro k
    have ctx : ctxAt (updCtx { s with net := netNext s [] } c i (ackCtx cls id)) c i = ackCtx cls id k := ctxAt_updCtx_self ..
    refine ⟨_, postedStoreAck_counts packet counts, rfl, by rw [ctx, ackCtx_regs], rfl, fun none_ => ?_, fun p found left => ?_,
      fun p l found left => ?_⟩
    · rw [ctx, ackCtx_unknown none_]
      exact (countOf_subCount k low high).1
    · obtain ⟨count, posted, -⟩ := countOf_subCount { k with posted := unpost p k.posted } low high
      obtain ⟨named, older, newer, split, before⟩ := List.find?_eq_some_iff_append.mp found
      have name : p.id = id := by simpa using named
      have others : ∀ q ∈ older, q.id ≠ id := fun q m => by simpa using before q m
      rw [ctx, ackCtx_last found left]
      refine ⟨count, older, newer, split, others, posted.trans ?_⟩
      rw [split]
      exact unpost_split fun q m => name ▸ others q m
    · rw [ctx, ackCtx_more found left]
      exact ⟨rfl, rfl⟩
  case reply =>
    intro s who v n d pos blk c i sg a _ _ lt packet settled
    refine ⟨accessReply_late packet settled ⟨rfl, rfl⟩, fun waits mode await keep late fresh clean noAcquire => ⟨?last, ?more⟩⟩
    case last =>
      intro one fin empty zero run
      have form := accessReply_awaited packet settled waits mode await
      have value : (a.gathers v pos).buf = v := by simp [Await.gathers, empty, zero]
      rw [replyAwait_plain clean, if_pos (by omega), ctxAt_finishAwait_g (s := { s with net := netNext s [] }) (a := a.gathers v pos) fin run noAcquire keep late, value] at form
      have ctx := ctxAt_updCtx_self { s with net := netNext s [] } c i fun k => { k with
        regs := applyDone (.g d n sg) v k.regs, owe := Owing.none, await := none
        mode := if k.frz then .frozen else .running, frz := false, acc := k.acc + 1 }
      refine ⟨_, form, rfl, ?_, by rw [ctx], ?_, by rw [ctx]; rfl⟩
      · rw [ctx]
        show (if (ctxAt s c i).frz then Mode.frozen else .running) = _
        rw [fresh]; rfl
      · rw [ctx, ← applyDone_g lt]; rfl
    case more =>
      intro several
      have form := accessReply_awaited packet settled waits mode await
      rw [replyAwait_plain clean, if_neg (by omega)] at form
      have ctx := ctxAt_updCtx_self { s with net := netNext s [] } c i fun k => { k with await := some (a.gathers v pos) }
      exact ⟨_, form, rfl, by rw [ctx]; exact mode, by rw [ctx]; rfl, _, by rw [ctx], rfl, rfl⟩
  case fault =>
    intro s who cls id code va c i gen told packet settled found k
    have form := faultAnswer_found packet settled found
    have bare : _ = k.bare := ctxAt_faulted { s with net := netNext s [] } c i cls id
    have mem : (faulted { s with net := netNext s [] } c i cls id).mem = s.mem := by unfold faulted; split <;> rfl
    have net : (faulted { s with net := netNext s [] } c i cls id).net = netNext s [] := by unfold faulted; split <;> rfl
    have same : cls = 0 → faulted { s with net := netNext s [] } c i cls id = { s with net := netNext s [] } := fun access => if_pos access
    generalize faulted { s with net := netNext s [] } c i cls id = u at form bare mem net same
    have mode_ : (ctxAt u c i).mode = k.mode := part_of_bare bare Context.mode
    have park_ : (ctxAt u c i).park = k.park := part_of_bare bare Context.park
    have regs_ : (ctxAt u c i).regs = k.regs := part_of_bare bare Context.regs
    have pc_ : (ctxAt u c i).pc = k.pc := part_of_bare bare Context.pc
    refine ⟨fun small running => ?abort, fun p mode park kind access => ?again, fun frozen none_ => ?frozen⟩
    case abort =>
      have thawed : k.mode ≠ .frozen := by rcases running with m | m | ⟨m, -⟩ <;> rw [m] <;> decide
      have other : (k.mode = .parked && k.park.any fun p => p.kind == .resident) = false := by
        rcases running with m | m | ⟨m, p, park, kind⟩
        · rw [m]; rfl
        · rw [m]; rfl
        · rw [park]; simp [kind]
      have small' : (ctxAt u c i).sub < subShoot 0 := (part_of_bare bare Context.sub : (ctxAt u c i).sub = k.sub) ▸ small
      rw [answered, mode_, if_neg thawed, park_, other, if_neg Bool.false_ne_true, abortRun_eq va gen told small'] at form
      have ctx : ctxAt (updCtx (tick u) c i (Context.aborted va gen told (u.now + 1))) c i = (ctxAt u c i).aborted va gen told (u.now + 1) :=
        ctxAt_updCtx_self ..
      have start : (ctxAt u c i).runStart = k.runStart := part_of_bare bare Context.runStart
      have seq : (ctxAt u c i).runseq = k.runseq := part_of_bare bare Context.runseq
      have budget : (ctxAt u c i).budget = k.budget := part_of_bare bare Context.budget
      have shadow : (ctxAt u c i).shadow = k.shadow := part_of_bare bare Context.shadow
      have aborts : (ctxAt u c i).aborts = k.aborts := part_of_bare bare Context.aborts
      refine ⟨_, form, net, by rw [ctx]; rfl, by rw [ctx]; exact start, by rw [ctx]; exact seq, ?_, by rw [ctx]; rfl, ?_,
        ⟨_, by rw [ctx]; rfl, rfl, rfl, rfl⟩, mem⟩
      · rw [ctx, ← budget, ← regs_, ← shadow]; rfl
      · rw [ctx, ← aborts]; rfl
    case again =>
      have thawed : k.mode ≠ .frozen := by rw [mode]; decide
      rw [answered, mode_, if_neg thawed, park_, mode, park, if_pos (by simp [kind]), same access] at form
      exact form
    case frozen =>
      rw [answered, mode_, if_pos frozen] at form
      have ctx := ctxAt_updCtx_self u c i fun k => { k with abp := if k.abp.isSome then k.abp else some (va, gen, told) }
      have abp : (ctxAt u c i).abp = none := (part_of_bare bare Context.abp : (ctxAt u c i).abp = k.abp).trans none_
      refine ⟨_, form, by rw [ctx]; exact mode_.trans frozen, ?_, by rw [ctx]; exact regs_, by rw [ctx]; exact pc_⟩
      rw [ctx, abp]; rfl

end Sys2Proof.Machine
end

section
namespace Sys2Proof.Machine

/-! ## Packets that arrive at a croft (R148, R237) -/

section
variable {s : State} {n t e : Nat} {who : Agent} {op : CroftOp} {bin : Option Target} {ack : AckTo}

theorem arriving_of (a : ArrivesAt s n t e who op bin ack) : arriving s n = some (.croft t e who op bin ack false) := by
  simp only [arriving, a.packet, croftReady, a.placed, a.settled, Bool.and_self, if_true]
/-- A packet that may arrive stands in the network. -/
theorem nth_of_deliverable {m : Msg} (packet : deliverable s n = some m) : ∃ f, nth s.net n = some f := by
  unfold deliverable at packet
  cases stands : nth s.net n with
  | none => rw [stands] at packet; cases packet
  | some f => exact ⟨f, rfl⟩
end

theorem replace_net {s : State} {n : Nat} {f : Flight} (stands : nth s.net n = some f) (m : Msg) :
    (replace s n m).net = setAt s.net n { f with msg := m } := by
  simp only [replace, stands]

/-! ### Bytes and parts of a tenant (R147, R245) -/

/-- A part of every tenant that a change of one of them keeps. -/
theorem tenAt_updTen_part {α : Type} (f : Tenant → α) {g : Tenant → Tenant} (keeps : ∀ k, f (g k) = f k) (s : State) (n t : Nat) :
    f (tenAt (updTen s n g) t) = f (tenAt s t) := by
  rcases eq_or_ne t n with rfl | other
  · rw [tenAt_updTen_self, keeps]
  · rw [tenAt_updTen_ne _ _ other]

theorem putUnit_plain (s : State) (n : Nat) (u : Nat × List Byte) : putUnit s n u none false = cmPut s n u.1 u.2 := rfl

theorem byteOf_cmPut (s : State) (n off : Nat) (bs : List Byte) (a : Nat) :
    ByteOf (cmPut s n off bs) n a = if off ≤ a ∧ a < off + bs.length then bs.getD (a - off) 0 else ByteOf s n a := by
  rw [ByteOf, tenAt_cmPut]
  by_cases here : off ≤ a ∧ a < off + bs.length
  · obtain ⟨i, rfl⟩ := Nat.exists_eq_add_of_le here.1
    have lt : i < bs.length := by omega
    rw [if_pos here, Nat.add_sub_cancel_left, List.getD_eq_getElem _ _ lt]
    exact sread_storeBytes_in _ _ _ _ lt
  · rw [if_neg here]
    exact sread_storeBytes_out _ _ _ _ (by omega)

/-- Names are found by the crofts and by where the tenants stand. -/
theorem findName_congr {s u : State} (crofts : u.crofts = s.crofts) (core : ∀ t, (tenAt u t).core = (tenAt s t).core) (ten name : Nat) :
    findName u ten name = findName s ten name := by
  simp only [findName, core, croftAt, crofts]
  rfl
/-- Bytes put into a croft memory change nothing else of any tenant. -/
theorem tenAt_cmPut_part {α : Type} (f : Tenant → α) (keeps : ∀ (k : Tenant) m, f { k with mem := m } = f k) (s : State) (n off : Nat)
    (bs : List Byte) (t : Nat) : f (tenAt (cmPut s n off bs) t) = f (tenAt s t) :=
  tenAt_updTen_part f (g := fun k => { k with mem := storeBytes k.mem off bs }) (fun k => keeps k _) s n t
theorem findName_cmPut (s : State) (n off : Nat) (bs : List Byte) (ten name : Nat) :
    findName (cmPut s n off bs) ten name = findName s ten name :=
  findName_congr (s := s) (u := cmPut s n off bs) rfl (tenAt_cmPut_part Tenant.core (fun _ _ => rfl) s n off bs) ten name
theorem slotAt_cmPut (s : State) (n off : Nat) (bs : List Byte) (ten name : Nat) : slotAt (cmPut s n off bs) ten name = slotAt s ten name :=
  congrArg (fun x => sread Slot.empty x name) (tenAt_cmPut_part Tenant.slots (fun _ _ => rfl) s n off bs ten)
theorem core_cmPut (s : State) (n off : Nat) (bs : List Byte) (t : Nat) : (tenAt (cmPut s n off bs) t).core = (tenAt s t).core :=
  tenAt_cmPut_part Tenant.core (fun _ _ => rfl) s n off bs t

/-! ### Landings of live continuations (R187) -/

/-- A landing counts in the live bin, and wherever else the bin stands. -/
def Context.lands (b : BReg) (k : Context) : Context :=
  let land (r : Regs) : Regs := putB r b (getB r b + 1)
  let owing (o : Owing) : Owing := { o with undo := o.undo.map land }
  { k with regs := land k.regs, shadow := land k.shadow, owe := owing k.owe, park := k.park.map fun p => { p with owe := owing p.owe } }

theorem landBin_live {s : State} {b : Target} {c : Nat × Nat} (hb : b.bin < 8) (live : findName s b.ten b.name = some c)
    (here : (slotAt s b.ten b.name).evicted = none) : landBin s b false = updCtx s c.1 c.2 (Context.lands ⟨b.bin, hb⟩) := by
  have count : countBin s b false = updCtx s c.1 c.2 (Context.lands ⟨b.bin, hb⟩) := by
    simp only [countBin, hb, dite_true, live]
    rfl
  have still : (slotAt (updCtx s c.1 c.2 (Context.lands ⟨b.bin, hb⟩)) b.ten b.name).evicted = none := here
  rw [landBin, count]
  simp only [testEvicted, still]

theorem getB_lands (b : BReg) (k : Context) : getB (k.lands b).regs b = getB k.regs b + 1 := by
  show getB (putB k.regs b _) b = _
  rw [getB_putB]; simp

/-! ## Remote accesses, landings and multicasts (R206, R237, R247) -/

section
variable {s : State} {n e : Nat} {who : Agent} {ack : AckTo}

theorem remoteCroftAccess_arrives {op : CroftOp} (a : ArrivesAt s (argN s 0) n e who op none ack) :
    exec .remoteCroftAccess s = .next (applyRemote s (argN s 0) n e who op ack false) := by
  simp only [exec_remoteCroftAccess, execRemoteCroftAccess, arriving_of a]

theorem load_answers {off k pos : Nat} (a : ArrivesAt s (argN s 0) n e who (.load [(off, k, pos)]) none ack)
    (clean : poisonIn (fun b => cmMark s n b) off k = none) : exec .remoteCroftAccess s = .next { s with
      net := dropAt (s.net ++ [replyFlight (some (tenAt s n).core) who pos k (cmGet s n off k) (feBlock n off)]) (argN s 0) } := by
  rw [remoteCroftAccess_arrives a]
  simp only [applyRemote, windowHeld, List.length_singleton, Nat.mod_one, nth, clean, le_refl, if_true, Bool.false_eq_true, if_false]
  rfl

/-- A store of one unit lands and is acknowledged. -/
theorem store_lands {u : Nat × List Byte} (a : ArrivesAt s (argN s 0) n e who (.store [u] none) none ack) :
    exec .remoteCroftAccess s =
      .next (ackTo (drop (cmPut s n u.1 u.2) (argN s 0)) (some (tenAt s n).core) who ack) := by
  rw [remoteCroftAccess_arrives a]
  simp only [applyRemote, windowHeld, List.length_singleton, Nat.mod_one, nth, le_refl, if_true, Bool.false_eq_true, if_false, putUnit_plain]

/-- A landing of one unit counts its bin after its bytes. -/
theorem landing_lands {u : Nat × List Byte} {b : Target} (a : ArrivesAt s (argN s 0) n e who (.store [u] none) (some b) ack) :
    exec .landing s = .next (ackTo (landBin (drop (cmPut s n u.1 u.2) (argN s 0)) b false) (some (tenAt s n).core) who ack) := by
  simp only [exec_landing, execLanding, arriving_of a, List.length_singleton, Nat.mod_one, nth, le_refl, if_true, putUnit_plain, core_cmPut]

section
variable {us : List (Nat × List Byte)} {u : Nat × List Byte} (several : 2 ≤ us.length) (unit : nth us (argN s 1 % us.length) = some u)
include several unit

/-- Of several units one lands, and the packet stays with the others. -/
theorem store_stays (a : ArrivesAt s (argN s 0) n e who (.store us none) none ack) : exec .remoteCroftAccess s =
    .next (replace (cmPut s n u.1 u.2) (argN s 0) (.croft n e who (.store (dropAt us (argN s 1 % us.length)) none) none ack false)) := by
  rw [remoteCroftAccess_arrives a]
  simp only [applyRemote, windowHeld, unit, Nat.not_le.mpr several, if_false, Bool.false_eq_true, putUnit_plain]
theorem landing_stays {b : Target} (a : ArrivesAt s (argN s 0) n e who (.store us none) (some b) ack) : exec .landing s =
    .next (replace (cmPut s n u.1 u.2) (argN s 0) (.croft n e who (.store (dropAt us (argN s 1 % us.length)) none) (some b) ack false)) := by
  simp only [exec_landing, execLanding, arriving_of a, unit, Nat.not_le.mpr several, if_false, putUnit_plain]
end

/-- A receiver that owes no free takes no entry: its way needs no room. -/
theorem find_free_none {tag : Nat} (free : ∀ m ∈ (tenAt s who.ten).frees, m.tag = tag → n ∉ m.left) :
    (tenAt s who.ten).frees.find? (fun m => m.tag == tag && m.left.contains n) = none := by
  refine List.find?_eq_none.mpr fun m mem both => ?_
  simp only [Bool.and_eq_true, beq_iff_eq, List.contains_iff_mem] at both
  exact free m mem both.1 both.2

theorem stcm_stays {name k tag : Nat} {us : List (Nat × List Byte)} {u : Nat × List Byte} (several : 2 ≤ us.length)
    (unit : nth us (argN s 1 % us.length) = some u) (a : ArrivesAt s (argN s 0) n e who (.stcm us name k tag) none ack)
    (free : ∀ m ∈ (tenAt s who.ten).frees, m.tag = tag → n ∉ m.left) : exec .stcmDelivery s =
      .next (replace (cmPut s n u.1 u.2) (argN s 0) (.croft n e who (.stcm (dropAt us (argN s 1 % us.length)) name k tag) none ack false)) := by
  simp only [exec_stcmDelivery, execStcmDelivery, arriving_of a, find_free_none free, unit, if_true, Nat.lt_of_succ_le several, putUnit_plain]
  rfl

/-- The last unit of a multicast at a receiver counts the receiver's bin; the last packet of the multicast is acknowledged. -/
theorem stcm_lands {name k tag : Nat} {u : Nat × List Byte} (a : ArrivesAt s (argN s 0) n e who (.stcm [u] name k tag) none ack)
    (free : ∀ m ∈ (tenAt s who.ten).frees, m.tag = tag → n ∉ m.left) :
    let t := landBin (drop (cmPut s n u.1 u.2) (argN s 0)) ⟨n, name, k⟩ false
    exec .stcmDelivery s = .next (ackTo t (some (tenAt t n).core) who ack) ∨ exec .stcmDelivery s = .next t := by
  simp only [exec_stcmDelivery, execStcmDelivery, arriving_of a, find_free_none free, List.length_singleton, Nat.mod_one, nth, if_true,
    lt_irrefl, if_false, putUnit_plain]
  split
  · exact .inl rfl
  · exact .inr rfl
end

/-! ## Full/empty requests where nothing waits (R163 to R165) -/

section
variable {s : State} {n e off : Nat} {who : Agent} {op : FeOp} {x : W64} {bin : Option Target} {ack : AckTo}
variable (a : ArrivesAt s (argN s 0) n e who (.fe op off x) bin ack) (alone : (tenAt s n).waiters = [])
variable (clean : poisonIn (fun b => cmMark s n b) off 8 = none)
include a alone clean

theorem feRequest_arrives : exec .remoteFeRequest s = .next (
    let u := drop s (argN s 0)
    let reply (r : Reply) (v : State) : State := send v ⟨[], .reply who r, some (tenAt v n).core⟩
    if feReady op (cmFull s n off) then
      reply { okReply 0 8 (fePerform u n off op x).2 with blk := feBlock n off } (fePerform u n off op x).1
    else if parkRoom s n then reply { okReply 0 8 0 with listed := true } (feJoin u n ⟨off, op, x, who, true, .listed, false⟩)
    else reply { okReply 0 8 0 with refused := true } (feJoin u n ⟨off, op, x, who, true, .refused, false⟩)) := by
  have sound : fePoison (drop s (argN s 0)) n off op = none := by
    unfold fePoison; split
    · exact clean
    · rfl
  have alone' : (tenAt (drop s (argN s 0)) n).waiters = [] := alone
  have spoil : feSpoil (drop s (argN s 0)) n off op false = drop s (argN s 0) := rfl
  simp only [exec_remoteFeRequest, execRemoteFeRequest, arriving_of a, sound, feMay_alone alone', feLeave_alone alone', spoil]
  rfl
end

/-- An operation whose condition holds, where nothing waits: what it reads is the word, and what it leaves. -/
theorem fePerform_word {u : State} {n off : Nat} {op : FeOp} {x : W64} (alone : (tenAt u n).waiters = []) (kick : op ≠ .kick)
    (plain : off < 0xFC00) (ready : feReady op (cmFull u n off) = true) : let t := (fePerform u n off op x).1
    (tenAt t n).core = (tenAt u n).core ∧ (t.net = u.net ∧ (fePerform u n off op x).2 = cmGet u n off 8) ∧
      cmFull t n off = (op = .keep ∨ op = .stfe ∨ op = .force) ∧
      cmGet t n off 8 = (if op = .stfe ∨ op = .force then x.toNat else cmGet u n off 8) := by
  have core : (tenAt (feFill u n off x) n).core = (tenAt u n).core := by rw [tenAt_feFill]
  cases op with
  | kick => exact absurd rfl kick
  | keep =>
    have full : cmFull u n off = true := ready
    rw [fePerform_keep]
    exact ⟨rfl, ⟨rfl, rfl⟩, by simp [full], by simp⟩
  | ldfe =>
    rw [fePerform_ldfe alone plain]
    exact ⟨by rw [tenAt_cmSetFull], ⟨rfl, rfl⟩, by simp [cmFull_cmSetFull_self], by simp [cmGet]⟩
  | stfe =>
    rw [show fePerform u n off .stfe x = _ from fePerform_store alone false off x]
    exact ⟨core, ⟨rfl, rfl⟩, by simp [cmFull_feFill_self], by simp [cmGet_feFill_self]⟩
  | force =>
    rw [show fePerform u n off .force x = _ from fePerform_store alone true off x]
    exact ⟨core, ⟨rfl, rfl⟩, by simp [cmFull_feFill_self], by simp [cmGet_feFill_self]⟩

/-! ## Channels, resumptions and frees (R196, R207, R213) -/

theorem physPutLine_kept (s : State) (pa : Nat) (x : LineWord) (m : Mark) :
    (physPutLine s pa x m).crofts = s.crofts ∧ (physPutLine s pa x m).tenants = s.tenants := by
  unfold physPutLine
  dsimp only
  split <;> exact ⟨rfl, rfl⟩
theorem cribPush_kept {s u : State} {c : Nat} {r : BitVec 512} (pushed : cribPush s c r = some u) :
    u.crofts = s.crofts ∧ u.tenants = s.tenants := by
  unfold cribPush at pushed
  dsimp only at pushed
  split at pushed
  · cases pushed; exact ⟨rfl, rfl⟩
  · split at pushed
    · cases pushed; exact physPutLine_kept _ _ _ _
    · cases pushed

/-- State u keeps the crofts of s and the resumptions that wait in its tenants. -/
structure KeepsResumes (s u : State) : Prop where
  crofts : u.crofts = s.crofts
  resumes : ∀ n, (tenAt u n).resumes = (tenAt s n).resumes

theorem keepsResumes_updTen (s : State) (t : Nat) {g : Tenant → Tenant} (keeps : ∀ k, (g k).resumes = k.resumes) :
    KeepsResumes s (updTen s t g) := ⟨rfl, tenAt_updTen_part Tenant.resumes keeps s t⟩
theorem keepsResumes_of_eq {s u : State} (same : u.crofts = s.crofts ∧ u.tenants = s.tenants) : KeepsResumes s u :=
  ⟨same.1, fun n => by rw [tenAt, same.2]; rfl⟩

theorem keepsResumes_pushRecord (s : State) (t : Nat) (r : BitVec 512) : KeepsResumes s (pushRecord s t r) := by
  have later := keepsResumes_updTen s t (g := fun x => { x with backlog := x.backlog ++ [r] }) fun _ => rfl
  unfold pushRecord
  dsimp only
  split
  · exact later
  · split
    · exact ⟨rfl, fun _ => rfl⟩
    · split
      · exact later
      · split
        · rename_i u pushed
          exact keepsResumes_of_eq (cribPush_kept pushed)
        · exact later

theorem keepsResumes_testEvicted (s : State) (t name : Nat) : KeepsResumes s (testEvicted s t name) := by
  have queue := keepsResumes_updTen s t
    (g := fun x => { x with slots := sset x.slots name { sread Slot.empty x.slots name with queued := true } }) fun _ => rfl
  have refl : KeepsResumes s s := ⟨rfl, fun _ => rfl⟩
  unfold testEvicted
  split
  · split
    · unfold enqueue
      split
      · exact refl
      · have push := keepsResumes_pushRecord (updSlot s t name fun x => { x with queued := true }) t
          (BitVec.ofNat 512 (memGet s (recordPa s t name) 64))
        exact ⟨push.crofts.trans queue.crofts, fun n => (push.resumes n).trans (queue.resumes n)⟩
    · exact refl
  · exact refl

/-- A parked continuation on a context is served. -/
theorem serveName_live {s : State} {t name c i : Nat} {p : Park} (live : findName s t name = some (c, i))
    (park : (ctxAt s c i).park = some p) :
    (ctxAt (serveName s t name 0 false) c i).park = some { p with served := true, ue := none } ∧
      ∀ n, (tenAt (serveName s t name 0 false) n).resumes = (tenAt s n).resumes := by
  obtain ⟨crofts, resumes⟩ := keepsResumes_testEvicted (putServed s t name 0 false none) t name
  have served : (ctxAt (putServed s t name 0 false none) c i).park = some { p with served := true, ue := none } := by
    simp only [putServed, live, ctxAt_updCtx_self, park]
  have tenants : (putServed s t name 0 false none).tenants = s.tenants := by simp only [putServed, live]; rfl
  refine ⟨?_, fun n => (resumes n).trans (by rw [tenAt, tenants]; rfl)⟩
  rw [serveName, ctxAt, croftAt, crofts]
  exact served

/-- A sender joins a tenant's park list (R196). -/
def Tenant.lists (w : ChWaiter) (k : Tenant) : Tenant := { k with senders := k.senders ++ [w] }

section
variable {s : State} {n e ch : Nat} {m0 m1 : W64} {who : Agent} {ack : AckTo} {bin : Option Target}
variable (a : ArrivesAt s (argN s 0) n e who (.chsend ch m0 m1) bin ack)
include a

/-- A channel with room takes the message; a full one lists its sender while the park list has room (R196). -/
theorem channelMessage_takes (room : (chanOf (tenAt s n) ch).q.length < Config.channelDepth) :
    exec .channelMessage s = .next (replyTo (setChan (drop s (argN s 0)) n ch
      { chanOf (tenAt s n) ch with q := (chanOf (tenAt s n) ch).q ++ [(m0, m1)] }) (some (tenAt s n).core) who (okReply 0 8 0)) := by
  have core (k : Chan) : (tenAt (setChan (drop s (argN s 0)) n ch k) n).core = (tenAt s n).core := by
    rw [setChan, tenAt_updTen_self]; rfl
  simp only [exec_channelMessage, execChannelMessage, arriving_of a, core]
  exact congrArg _ (if_pos room)
theorem channelMessage_lists (full : Config.channelDepth ≤ (chanOf (tenAt s n) ch).q.length) (park : parkRoom s n = true) :
    exec .channelMessage s = .next (replyTo (updTen (drop s (argN s 0)) n (Tenant.lists ⟨ch, m0, m1, who⟩))
      (some (tenAt s n).core) who { okReply 0 8 0 with listed := true }) := by
  have core : (tenAt (updTen (drop s (argN s 0)) n (Tenant.lists ⟨ch, m0, m1, who⟩)) n).core =
      (tenAt s n).core := by rw [tenAt_updTen_self]; rfl
  unfold Tenant.lists at core ⊢
  simp only [exec_channelMessage, execChannelMessage, arriving_of a, core]
  exact congrArg _ ((if_neg (Nat.not_lt.mpr full)).trans (if_pos park))
end

theorem multicastFree_last {s : State} {sender tag by_ cls id name b : Nat} {ways : List (Nat × List Nat)} {es : List Nat} {who : Agent}
    (packet : deliverable s (argN s 0) = some (.free sender tag by_ who cls id)) (settled : (tenAt s sender).move = .settled)
    (frees : (tenAt s sender).frees = [⟨tag, name, b, ways, [by_], es⟩]) : exec .multicastFree s = .next (send
      (landBin (updTen (drop s (argN s 0)) sender fun k => { k with frees := [] }) ⟨sender, name, b⟩ false)
      (ackFlight (some (tenAt s sender).core) who cls id)) := by
  have frees' : (tenAt (drop s (argN s 0)) sender).frees = [⟨tag, name, b, ways, [by_], es⟩] := frees
  have one : freeOne (drop s (argN s 0)) sender tag by_ =
      landBin (updTen (drop s (argN s 0)) sender fun k => { k with frees := [] }) ⟨sender, name, b⟩ false := by
    simp [freeOne, frees']
  simp only [exec_multicastFree, execMulticastFree, packet, tenSettled, settled, beq_self_eq_true, if_true, one]
  rfl

/-- Settles O49: what each packet makes of the croft it arrives at. -/
theorem croftArrivals : Obligations.CroftArrivals := by
  unfold Obligations.CroftArrivals
  refine ⟨fun s n e off k pos who a clean => load_answers a clean, fun s n e off cls id bs who a => ?store,
    fun s n e off cls id bs who b c a hb live here => ?landing, fun s n e us u who b ack name k tag => ?units,
    fun s n e off x who op ack bin a kick plain aligned alone clean => ?fe, fun s n e ch m0 m1 who ack bin a => ?channel,
    fun s n e tag cls id who bin a none_ fresh => ?resume, fun s n e tag cls id c i name p who bin a one live park => ?serve,
    fun s n e off name b tag cls id bs who c a hb free live here => ?stcm,
    fun s sender tag by_ cls id name b ways es who c packet settled frees hb live here => ?free⟩
  case store =>
    exact ⟨_, store_lands a, rfl, rfl, byteOf_cmPut s n off bs⟩
  case landing =>
    have live' : findName (drop (cmPut s n off bs) (argN s 0)) b.ten b.name = some c := (findName_cmPut s n off bs _ _).trans live
    have here' : (slotAt (drop (cmPut s n off bs) (argN s 0)) b.ten b.name).evicted = none :=
      (congrArg Slot.evicted (slotAt_cmPut s n off bs _ _)).trans here
    refine ⟨_, landing_lands a, ?_⟩
    rw [landBin_live hb live' here']
    refine ⟨rfl, ?_, byteOf_cmPut s n off bs⟩
    show getB (ctxAt (updCtx (drop (cmPut s n off bs) (argN s 0)) c.1 c.2 _) c.1 c.2).regs _ = _
    rw [ctxAt_updCtx_self]
    exact getB_lands _ _
  case units =>
    intro j stays several unit
    have lands {op : CroftOp} {bin : Option Target} (packet : ∃ m, deliverable s (argN s 0) = some m) :
        stays op bin (replace (cmPut s n u.1 u.2) (argN s 0) (.croft n e who op bin ack false)) := by
      obtain ⟨m, packet⟩ := packet
      obtain ⟨f, stands⟩ := nth_of_deliverable packet
      exact ⟨⟨f, stands, replace_net (s := cmPut s n u.1 u.2) stands _⟩, fun _ _ => rfl, byteOf_cmPut s n u.1 u.2⟩
    exact ⟨fun a => ⟨_, store_stays several unit a, lands ⟨_, a.packet⟩⟩, fun a => ⟨_, landing_stays several unit a, lands ⟨_, a.packet⟩⟩,
      fun a free => ⟨_, stcm_stays several unit a free, lands ⟨_, a.packet⟩⟩⟩
  case fe =>
    have form := feRequest_arrives a alone clean
    have alone' : (tenAt (drop s (argN s 0)) n).waiters = [] := alone
    refine ⟨fun ready => ?_, fun waits room => ?_, fun waits crowd => ?_⟩
    · rw [if_pos ready] at form
      obtain ⟨core, ⟨net, read⟩, full, word⟩ := fePerform_word (u := drop s (argN s 0)) (x := x) alone' kick plain ready
      refine ⟨_, form, ?_, full, word⟩
      show (fePerform (drop s (argN s 0)) n off op x).1.net ++ [_] = _
      rw [net, core, read]
      rfl
    · rw [waits, if_neg Bool.false_ne_true, if_pos room] at form
      exact ⟨_, _, form, rfl, ⟨_, rfl, rfl⟩, waiters_feJoin_alone alone' _⟩
    · rw [waits, if_neg Bool.false_ne_true, crowd, if_neg Bool.false_ne_true] at form
      exact ⟨_, _, form, rfl, ⟨_, rfl, rfl⟩, waiters_feJoin_alone alone' _⟩
  case channel =>
    intro k
    refine ⟨fun room => ⟨_, channelMessage_takes a room, ?_, rfl⟩, fun full park => ⟨_, channelMessage_lists a full park, ?_, ?_⟩⟩
    · show sread Chan.empty (tenAt (setChan (drop s (argN s 0)) n ch _) n).chans ch = _
      rw [setChan, tenAt_updTen_self]
      exact sread_sset_self ..
    · show sread Chan.empty (tenAt (updTen (drop s (argN s 0)) n (Tenant.lists ⟨ch, m0, m1, who⟩)) n).chans ch = _
      rw [tenAt_updTen_self]; rfl
    · show (tenAt (updTen (drop s (argN s 0)) n (Tenant.lists ⟨ch, m0, m1, who⟩)) n).senders = _
      rw [tenAt_updTen_self]; rfl
  case resume =>
    have none' : suspended (ackTo (drop s (argN s 0)) (some (tenAt s n).core) who (.cls cls id)) n tag = [] := none_
    refine ⟨updTen (ackTo (drop s (argN s 0)) (some (tenAt s n).core) who (.cls cls id)) n fun k =>
      { k with resumes := if k.resumes.contains tag then k.resumes else k.resumes ++ [tag] }, ?_, rfl, ?_⟩
    · simp only [exec_resumeArrival, execResumeArrival, arriving_of a]
      exact congrArg _ (if_pos (by rw [none']; rfl))
    · rw [tenAt_updTen_self]
      show (if (tenAt s n).resumes.contains tag then _ else _) = _
      rw [if_neg (by simpa using fresh)]
      rfl
  case serve =>
    have one' : suspended (ackTo (drop s (argN s 0)) (some (tenAt s n).core) who (.cls cls id)) n tag = [name] := one
    have live' : findName (ackTo (drop s (argN s 0)) (some (tenAt s n).core) who (.cls cls id)) n name = some (c, i) := live
    obtain ⟨served, resumes⟩ := serveName_live live' park
    refine ⟨_, ?_, served, resumes n⟩
    simp only [exec_resumeArrival, execResumeArrival, arriving_of a]
    refine congrArg _ ((if_neg (by rw [one']; exact Bool.false_ne_true)).trans ?_)
    rw [one']
    rfl
  case stcm =>
    have live' : findName (drop (cmPut s n off bs) (argN s 0)) n name = some c := (findName_cmPut s n off bs _ _).trans live
    have here' : (slotAt (drop (cmPut s n off bs) (argN s 0)) n name).evicted = none :=
      (congrArg Slot.evicted (slotAt_cmPut s n off bs _ _)).trans here
    have count : getB (ctxAt (updCtx (drop (cmPut s n off bs) (argN s 0)) c.1 c.2 (Context.lands ⟨b, hb⟩)) c.1 c.2).regs ⟨b, hb⟩ =
        getB (ctxAt s c.1 c.2).regs ⟨b, hb⟩ + 1 := by
      rw [ctxAt_updCtx_self]; exact getB_lands _ _
    have lands := stcm_lands a free
    rw [landBin_live (b := ⟨n, name, b⟩) hb live' here'] at lands
    rcases lands with last | more
    · refine ⟨_, last, count, byteOf_cmPut s n off bs, .inl ?_⟩
      show dropAt s.net (argN s 0) ++ [ackFlight (some (tenAt (cmPut s n off bs) n).core) who cls id] = _
      rw [core_cmPut]; rfl
    · exact ⟨_, more, count, byteOf_cmPut s n off bs, .inr (List.append_nil _).symm⟩
  case free =>
    have live' : findName (updTen (drop s (argN s 0)) sender fun k => { k with frees := [] }) sender name = some c :=
      (findName_congr (s := s) (u := updTen (drop s (argN s 0)) sender fun k => { k with frees := [] }) rfl
        (tenAt_updTen_part Tenant.core (g := fun k => { k with frees := [] }) (fun _ => rfl) (drop s (argN s 0)) sender) _ _).trans live
    have here' : (slotAt (updTen (drop s (argN s 0)) sender fun k => { k with frees := [] }) sender name).evicted = none := by
      rw [slotAt, tenAt_updTen_self]; exact here
    refine ⟨_, multicastFree_last packet settled frees, ?_⟩
    rw [landBin_live (b := ⟨sender, name, b⟩) hb live' here']
    refine ⟨?_, rfl, ?_⟩
    · show (tenAt (updTen (drop s (argN s 0)) sender fun k => { k with frees := [] }) sender).frees = []
      rw [tenAt_updTen_self]
    · show getB (ctxAt (updCtx (updTen (drop s (argN s 0)) sender fun k => { k with frees := [] }) c.1 c.2 _) c.1 c.2).regs _ = _
      rw [ctxAt_updCtx_self]
      exact getB_lands _ _

end Sys2Proof.Machine
end

section
namespace Sys2Proof.Machine

/-! ## Requests that are sent again (R164, R194) -/

theorem agentOf_updCtx {s : State} {c i : Nat} {f : Context → Context}
    (keeps : ∀ k : Context, (f k).name = k.name ∧ (f k).epoch = k.epoch ∧ (f k).acc = k.acc ∧ (f k).cnt = k.cnt ∧ (f k).runseq = k.runseq ∧
      (f k).runStart = k.runStart) : agentOf (updCtx s c i f) c i = agentOf s c i := by
  obtain ⟨name, epoch, acc, cnt, seq, start⟩ := keeps (ctxAt s c i)
  have tenant : (croftAt (updCtx s c i f) c).tenant = (croftAt s c).tenant := by rw [updCtx, setCtx, croftAt_setCroft_self]
  simp only [agentOf, ctxAt_updCtx_self, tenant, name, epoch, acc, cnt, seq, start]

section
variable {s : State} {a : Await} {due : W64} (mode : (evCtx s).mode = .awaiting) (await : (evCtx s).await = some a) (retry : a.retry = some due)
include mode await retry

/-- The state in which the request no longer waits. -/
def unretried (s : State) (a : Await) : State := updCtx s (argN s 0) (argN s 1) fun k => { k with await := some { a with retry := none } }
omit mode await retry in
theorem agentOf_unretried : agentOf (unretried s a) (argN s 0) (argN s 1) = agentOf s (argN s 0) (argN s 1) :=
  agentOf_updCtx fun _ => ⟨rfl, rfl, rfl, rfl, rfl, rfl⟩

theorem feRetry_sends {n : Nat} {op : CroftOp} (again : a.again = some (n, op)) (now : due.toNat ≤ (croftAt s (argN s 0)).cyc.toNat) :
    exec .feRetry s = .next (sendCroft (unretried s a) (argN s 0) (argN s 1) n 1 op none (.reply 0)) := by
  simp only [exec_feRetry, execFeRetry, mode, await, retry, again, now, if_true, unretried]
theorem crtakeRetry_sends {q : Nat} (crib : a.crib = some q) (now : due.toNat ≤ (croftAt s (argN s 0)).cyc.toNat) :
    exec .crtakeRetry s = .next (send (unretried s a) ⟨[5, (agentOf s (argN s 0) (argN s 1)).ten, (agentOf s (argN s 0) (argN s 1)).name, q],
      .crib (agentOf s (argN s 0) (argN s 1)) (tenAt s (agentOf s (argN s 0) (argN s 1)).ten).set q .take, none⟩) := by
  simp only [exec_crtakeRetry, execCrtakeRetry, mode, await, retry, crib, now, if_true, unretried]
theorem retry_waits (early : (croftAt s (argN s 0)).cyc.toNat < due.toNat) : exec .feRetry s = .next s ∧ exec .crtakeRetry s = .next s := by
  have late : ¬ due.toNat ≤ (croftAt s (argN s 0)).cyc.toNat := Nat.not_le.mpr early
  refine ⟨?_, ?_⟩
  · simp only [exec_feRetry, execFeRetry, mode, await, retry]
    cases a.again with
    | none => rfl
    | some e => exact congrArg _ (if_neg late)
  · simp only [exec_crtakeRetry, execCrtakeRetry, mode, await, retry]
    cases a.crib with
    | none => rfl
    | some q => exact congrArg _ (if_neg late)
end

/-- The packet of a request to a croft, and what its sending leaves of the contexts. -/
theorem sendCroft_sent (s : State) (c i n k : Nat) (op : CroftOp) (ack : AckTo) : let t := sendCroft s c i n k op none ack
    t.crofts = s.crofts ∧ t.net = s.net ++ [⟨remKey (agentOf s c i) n, .croft n (tenAt t n).epoch (agentOf s c i) op none ack false, none⟩] := by
  intro t
  obtain ⟨sent, net⟩ := sent_countMsgs Context.quiet s c n k
  have epoch : (tenAt t n).epoch = (tenAt s n).epoch := sent.bare.ten n Tenant.epoch
  refine ⟨countMsgs_crofts s c n k, ?_⟩
  rw [epoch, ← net]
  rfl

/-! ## Sowing (R220, R311) -/

section
variable (s : State) (c i slot name pop : Nat) (regs : Regs) (b : BitVec 14) (priv : Bool) (o : Origin)

/-- A started continuation: its first run, at its slot, with its registers and budget. -/
theorem ctxAt_startCtx : ctxAt (startCtx s c i slot name regs b priv o pop) c i = { Context.empty with
    mode := .running, regs := regs, shadow := regs, pc := slot, runStart := slot, runseq := 1, budget := b, priv := priv
    name := name, epoch := s.now + 1, cnt := s.now + 1, origin := o, pop := pop, tgt := some 0xF0 } := ctxAt_updCtx_self ..
end

/-- The seeds stand in g1 to g5 as far as the budget admits them. -/
theorem seededRegs_getD (b : BitVec 14) (seeds : List Nat) {j : Nat} (lt : j < 5) : (seededRegs b seeds).g.toList.getD (j + 1) 0 =
    if gAdmitted b (j + 1) then BitVec.ofNat 64 ((nth seeds j).getD 0) else 0 := by
  have inside : j + 1 < 64 := by omega
  have place : (seededRegs b seeds).g.toList.getD (j + 1) 0 = (seededRegs b seeds).g[j + 1] := by
    rw [List.getD_eq_getElem _ _ (by simpa using inside)]
    exact Vector.getElem_toList ..
  rw [place, seededRegs, Vector.getElem_ofFn]
  have first : (1 ≤ j + 1 && j + 1 ≤ 5 && gAdmitted b (j + 1)) = gAdmitted b (j + 1) := by
    rw [decide_eq_true (by omega : 1 ≤ j + 1), decide_eq_true (by omega : j + 1 ≤ 5)]; rfl
  simp only [first, Nat.add_sub_cancel]

/-- The sequencer sows a member into a free hand where its round and its slot allow it (R311). -/
theorem launchSow_sows {s : State} {l : Launch} {k i : Nat}
    (stands : (dieAt s (argN s 0)).launches.find? (fun e => e.1 == argN s 1) = some (argN s 1, l)) (more : l.next < l.size)
    (round : l.next < l.quota * l.count) (settled : (tenAt s (l.t0 + l.next / l.quota % l.count)).move = .settled)
    (tenant : (croftAt s (tenAt s (l.t0 + l.next / l.quota % l.count)).core).tenant = some (l.t0 + l.next / l.quota % l.count))
    (going : (croftAt s (tenAt s (l.t0 + l.next / l.quota % l.count)).core).stopped = false)
    (open_ : (croftAt s (tenAt s (l.t0 + l.next / l.quota % l.count)).core).quiesce = false)
    (awake : sleeperOn s (Config.treeCell (dieOf (tenAt s (l.t0 + l.next / l.quota % l.count)).core))
      (tenAt s (l.t0 + l.next / l.quota % l.count)).core = false)
    (name : freeName s (l.t0 + l.next / l.quota % l.count) = some k)
    (hand : freeHand s (tenAt s (l.t0 + l.next / l.quota % l.count)).core = some i)
    (none_ : hasRecord s (l.t0 + l.next / l.quota % l.count) = false) :
    exec .launchSow s = .next (updDie (sowHand s (tenAt s (l.t0 + l.next / l.quota % l.count)).core i (l.t0 + l.next / l.quota % l.count) k
      l.entry (seededRegs l.budget [l.arg.toNat, l.next, l.size, ownBase, l.next % l.quota]) l.budget l.priv
      (.launch (argN s 0) l.id l.next) l.next 0xF0) (argN s 0) fun x =>
        { x with launches := sset x.launches (argN s 1) { l with next := l.next + 1, live := l.live ++ [l.next] } }) := by
  simp [exec_launchSow, execLaunchSow, stands, more, round, tenSettled, settled, tenant, going, open_, awake, name, hand, none_]

/-! ## Frames (R230) -/

/-- Writes into a frame: offset, bytes and value of each. -/
def memPuts (s : State) (pa : Nat) (ws : List (Nat × Nat × Nat)) : State := ws.foldl (fun s w => memPut s (pa + w.1) w.2.1 w.2.2) s

theorem memPuts_append (s : State) (pa : Nat) (vs ws : List (Nat × Nat × Nat)) : memPuts s pa (vs ++ ws) = memPuts (memPuts s pa vs) pa ws :=
  List.foldl_append
theorem memPuts_cons (s : State) (pa : Nat) (w : Nat × Nat × Nat) (ws : List (Nat × Nat × Nat)) :
    memPuts s pa (w :: ws) = memPuts (memPut s (pa + w.1) w.2.1 w.2.2) pa ws := rfl
theorem memPuts_mem_only (s : State) (pa : Nat) (ws : List (Nat × Nat × Nat)) : { memPuts s pa ws with mem := s.mem } = s := by
  induction ws generalizing s with
  | nil => rfl
  | cons w ws ih =>
    have rest := ih (memPut s (pa + w.1) w.2.1 w.2.2)
    exact congrArg (fun u : State => { u with mem := s.mem }) rest

/-- Bytes that no write touches stand. -/
theorem memPuts_out {s : State} {pa a : Nat} {ws : List (Nat × Nat × Nat)} (out : ∀ w ∈ ws, a < pa + w.1 ∨ pa + w.1 + w.2.1 ≤ a) :
    sread 0 (memPuts s pa ws).mem a = sread 0 s.mem a := by
  induction ws generalizing s with
  | nil => rfl
  | cons w ws ih =>
    rw [memPuts_cons, ih fun v m => out v (List.mem_cons_of_mem _ m)]
    exact sread_storeBytes_out _ _ _ _ (by rw [toBytes_length]; exact out w List.mem_cons_self)

/-- Writes in ascending order, each past the one before it. -/
def Ascending (ws : List (Nat × Nat × Nat)) : Prop := ws.Pairwise fun v w => v.1 + v.2.1 ≤ w.1

/-- Such writes are read back. -/
theorem memGet_memPuts {s : State} {pa : Nat} {ws : List (Nat × Nat × Nat)} (order : Ascending ws) {w : Nat × Nat × Nat} (mem : w ∈ ws) :
    memGet (memPuts s pa ws) (pa + w.1) w.2.1 = w.2.2 % 256 ^ w.2.1 := by
  induction ws generalizing s with
  | nil => cases mem
  | cons v ws ih =>
    obtain ⟨first, order⟩ := List.pairwise_cons.mp order
    rw [memPuts_cons]
    rcases List.mem_cons.mp mem with rfl | later
    · refine (loadBytes_congr _ (memPut s (pa + w.1) w.2.1 w.2.2).mem _ _ fun j low high => memPuts_out fun x m => .inl ?_).trans
        (loadBytes_storeBytes _ _ _ _)
      have := first x m
      omega
    · exact ih order later

/-- The writes of a frame (R230). -/
def frameWrites (b : BitVec 14) (r : Regs) (arr : Nat) : List (Nat × Nat × Nat) :=
  (0, 8, r.fpcsr.toNat) :: (List.finRange 8).map (fun i => (8 + 4 * i.val, 4, r.b[i].toNat)) ++ (48, 10, arr) ::
    ((List.finRange 8).filter fun j => j ≠ 0).map (fun j => (64 + 16 * (j.val - 1), 16, r.p[j].toNat)) ++
    ((List.finRange 64).filter fun i => i != 0 && gAdmitted b i.val).map (fun i => (256 + 8 * i.val, 8, r.g[i].toNat)) ++
    ((List.finRange 32).filter fun j => vAdmitted b j.val).map (fun j => (768 + 128 * j.val, 128, r.v[j].toNat))

theorem memPuts_map {α : Type} (s : State) (pa : Nat) (ls : List α) (f : α → Nat × Nat × Nat) :
    memPuts s pa (ls.map f) = ls.foldl (fun s x => memPut s (pa + (f x).1) (f x).2.1 (f x).2.2) s := List.foldl_map ..
theorem writeFrame_eq (s : State) (pa : Nat) (b : BitVec 14) (r : Regs) (arr : Nat) :
    writeFrame s pa b r arr = memPuts s pa (frameWrites b r arr) := by
  simp only [writeFrame, frameWrites, memPuts_append, memPuts_cons, memPuts_map, List.foldl_filter, Nat.add_assoc, Nat.add_zero,
    decide_eq_true_eq, ne_eq, ite_not]

/-- Writes in ascending order within the offsets from lo to hi. -/
structure Block (ws : List (Nat × Nat × Nat)) (lo hi : Nat) : Prop where
  order : Ascending ws
  inside : ∀ w ∈ ws, lo ≤ w.1 ∧ w.1 + w.2.1 ≤ hi

theorem block_one (o n x : Nat) : Block [(o, n, x)] o (o + n) :=
  ⟨List.pairwise_singleton .., fun w m => by rw [List.mem_singleton.mp m]; exact ⟨le_rfl, le_rfl⟩⟩
theorem Block.append {vs ws : List (Nat × Nat × Nat)} {lo mid mid' hi : Nat} (a : Block vs lo mid) (b : Block ws mid' hi)
    (past : mid ≤ mid') (some_ : lo ≤ mid') (more : mid ≤ hi) : Block (vs ++ ws) lo hi := by
  refine ⟨List.pairwise_append.mpr ⟨a.order, b.order, fun v mv w mw => ?_⟩, fun w m => ?_⟩
  · exact (a.inside v mv).2.trans (past.trans (b.inside w mw).1)
  · rcases List.mem_append.mp m with m | m
    · exact ⟨(a.inside w m).1, (a.inside w m).2.trans more⟩
    · exact ⟨some_.trans (b.inside w m).1, (b.inside w m).2⟩
/-- One write for each number that p selects, rising with it. -/
theorem block_map {m lo hi : Nat} (p : Fin m → Bool) (f : Fin m → Nat × Nat × Nat)
    (step : ∀ i j : Fin m, p i = true → i.val < j.val → (f i).1 + (f i).2.1 ≤ (f j).1)
    (inside : ∀ i : Fin m, p i = true → lo ≤ (f i).1 ∧ (f i).1 + (f i).2.1 ≤ hi) : Block (((List.finRange m).filter p).map f) lo hi := by
  refine ⟨List.pairwise_map.mpr ?_, fun w mem => ?_⟩
  · refine ((List.pairwise_lt_finRange m).filter p).imp_of_mem fun {i j} mi _ lt => step i j (List.mem_filter.mp mi).2 (Fin.lt_def.mp lt)
  · obtain ⟨i, mi, rfl⟩ := List.mem_map.mp mem
    exact inside i (List.mem_filter.mp mi).2

theorem block_frameWrites (b : BitVec 14) (r : Regs) (arr : Nat) : Block (frameWrites b r arr) 0 4864 := by
  have flags := block_one 0 8 r.fpcsr.toNat
  have bins : Block ((List.finRange 8).map fun i => (8 + 4 * i.val, 4, r.b[i].toNat)) 8 40 := by
    have block := block_map (m := 8) (lo := 8) (hi := 40) (fun _ => true) (fun i => (8 + 4 * i.val, 4, r.b[i].toNat))
      (fun i j _ lt => by dsimp only; omega) fun i _ => by dsimp only; omega
    rwa [List.filter_true] at block
  have arrivals := block_one 48 10 arr
  have preds := block_map (m := 8) (lo := 64) (hi := 176) (fun j => j ≠ 0) (fun j => (64 + 16 * (j.val - 1), 16, r.p[j].toNat))
    (fun i j on lt => by
      have pos : i.val ≠ 0 := fun zero => of_decide_eq_true on (Fin.ext zero)
      dsimp only; omega) fun i on => by
      have pos : i.val ≠ 0 := fun zero => of_decide_eq_true on (Fin.ext zero)
      dsimp only; omega
  have scalars := block_map (m := 64) (lo := 256) (hi := 768) (fun i => i != 0 && gAdmitted b i.val) (fun i => (256 + 8 * i.val, 8, r.g[i].toNat))
    (fun i j _ lt => by dsimp only; omega) fun i _ => by dsimp only; omega
  have vectors := block_map (m := 32) (lo := 768) (hi := 4864) (fun j => vAdmitted b j.val) (fun j => (768 + 128 * j.val, 128, r.v[j].toNat))
    (fun i j _ lt => by dsimp only; omega) fun i _ => by dsimp only; omega
  exact ((((flags.append bins (by decide) (by decide) (by decide)).append
    (arrivals.append preds (by decide) (by decide) (by decide)) (by decide) (by decide) (by decide)).append
    scalars (by decide) (by decide) (by decide)).append vectors (by decide) (by decide) (by decide))

end Sys2Proof.Machine
end

section
namespace Sys2Proof.Machine

/-! ## Eviction (R228 to R230) -/

theorem storeBytes_append (m : Sparse Byte) (a : Nat) (xs ys : List Byte) :
    storeBytes m a (xs ++ ys) = storeBytes (storeBytes m a xs) (a + xs.length) ys := by
  induction xs generalizing m a with
  | nil => rfl
  | cons x xs ih =>
    rw [List.cons_append, storeBytes, ih, storeBytes, List.length_cons, Nat.add_assoc, Nat.add_comm 1]

section
variable (slot : Nat) (priv rx sown : Bool) (kind : Wake) (param count frame ten pop : Nat) (bud : BitVec 14) (layout aborts name : Nat) (rseq : W64)

theorem recordOf_length : (recordOf slot priv rx sown kind param count frame ten pop bud layout aborts name rseq).length = 64 := by
  simp [recordOf, toBytes_length]

/-- The first word of a record holds the slot in its low 57 bits. -/
theorem memGet_record (s : State) (pa : Nat) :
    memGet { s with mem := storeBytes s.mem pa (recordOf slot priv rx sown kind param count frame ten pop bud layout aborts name rseq) } pa 8 %
      2 ^ 57 = slot % 2 ^ 57 := by
  have first : ∀ ws : List Nat, ∀ w : Nat, ∀ tail : List Byte,
      loadBytes (storeBytes s.mem pa ((w :: ws).flatMap (toBytes 8) ++ tail)) pa 8 = w % 256 ^ 8 := by
    intro ws w tail
    rw [List.flatMap_cons, List.append_assoc, storeBytes_append, toBytes_length,
      loadBytes_storeBytes_out _ _ _ _ _ (.inl (by omega)), loadBytes_storeBytes]
  rw [memGet, recordOf, first]
  omega
end

section
variable (s : State) (c i n : Nat) (p : Park)

/-- The record that stands for a hand with its park condition. -/
def evictedRecord (k : Context) : List Byte :=
  recordOf k.pc k.priv false false p.kind p.param p.count (framePa s n k.name) n k.pop k.budget s.mgmt.wlayout k.aborts k.name k.runseq
/-- The slot of an evicted hand in the wake table. -/
def evictedSlot (k : Context) (x : Slot) : Slot :=
  { x with evicted := some p, queued := false, arrivals := k.arrivals, hires := k.hires, epoch := k.epoch, frz := k.frz, sealed_ := k.stage == .sealed }
/-- Frame and record stand in the pool. -/
def spilled (k : Context) : State :=
  let f := memPuts s (framePa s n k.name) (frameWrites k.budget k.regs (arrivalBits k.arrivals))
  { f with mem := storeBytes f.mem (recordPa s n k.name) (evictedRecord s n p k) }

omit s n p in
theorem recordPa_memPuts (s : State) (pa : Nat) (ws : List (Nat × Nat × Nat)) (n name : Nat) : recordPa (memPuts s pa ws) n name = recordPa s n name := by
  have same := congrArg (fun u : State => recordPa u n name) (memPuts_mem_only s pa ws)
  exact same

omit s c i n p in
theorem slotAt_updSlot_self (s : State) (n k : Nat) (f : Slot → Slot) : slotAt (updSlot s n k f) n k = f (slotAt s n k) := by
  rw [slotAt, updSlot, tenAt_updTen_self, sread_sset_self, slotAt]
omit s c i n p in
theorem slotAt_updCtx (s : State) (c i : Nat) (f : Context → Context) (n k : Nat) : slotAt (updCtx s c i f) n k = slotAt s n k := rfl

/-- Eviction of a hand whose condition does not hold yet. -/
theorem evict_unserved (tenant : (croftAt s c).tenant = some n) (park : (ctxAt s c i).park = some p) (kind : p.kind = .resume)
    (waits : p.served = false) : evict s c i = updCtx (updSlot (spilled s n p (ctxAt s c i)) n (ctxAt s c i).name
      (evictedSlot p (ctxAt s c i))) c i fun _ => Context.empty := by
  have notPage : (p.kind == Wake.resident) = false := by rw [kind]; rfl
  have test : ∀ u : State, (slotAt u n (ctxAt s c i).name).evicted = some p → testEvicted u n (ctxAt s c i).name = u := by
    intro u slot
    simp only [testEvicted, slot, evictedHolds, kind, waits, Bool.false_eq_true, if_false]
  simp only [evict, tenant, park, Option.getD_some, notPage, Bool.false_eq_true, if_false, writeFrame_eq, recordPa_memPuts, spilled,
    evictedRecord]
  refine test _ ?_
  rw [slotAt_updCtx, slotAt_updSlot_self]

variable {s c i n p}

theorem pool_spilled (k : Context) (a : Nat) (out : (a < recordPa s n k.name ∨ recordPa s n k.name + 64 ≤ a) ∧
    (a < framePa s n k.name ∨ framePa s n k.name + 4864 ≤ a)) : sread 0 (spilled s n p k).mem a = sread 0 s.mem a := by
  obtain ⟨outRecord, outFrame⟩ := out
  have frame : sread 0 (memPuts s (framePa s n k.name) (frameWrites k.budget k.regs (arrivalBits k.arrivals))).mem a = sread 0 s.mem a :=
    memPuts_out fun w m => by
      obtain ⟨-, top⟩ := (block_frameWrites k.budget k.regs (arrivalBits k.arrivals)).inside w m
      omega
  rw [← frame]
  exact sread_storeBytes_out _ _ _ _ (by rw [evictedRecord, recordOf_length]; exact outRecord)

/-- A word of the frame reads back, whole where it fits its place. -/
theorem frame_spilled {k : Context} (name : k.name < 64) {o b x : Nat}
    (mem : (o, b, x) ∈ frameWrites k.budget k.regs (arrivalBits k.arrivals)) (fits : x < 2 ^ (8 * b)) :
    memGet (spilled s n p k) (framePa s n k.name + o) b = x := by
  have past : recordPa s n k.name + 64 ≤ framePa s n k.name := by rw [recordPa, framePa]; omega
  refine (loadBytes_storeBytes_out _ _ _ _ _ (.inr ?_)).trans
    ((memGet_memPuts (block_frameWrites k.budget k.regs (arrivalBits k.arrivals)).order mem).trans (Nat.mod_eq_of_lt (by rwa [Nat.pow_mul] at fits)))
  rw [evictedRecord, recordOf_length]; omega

section
variable (b : BitVec 14) (r : Regs) (arr : Nat)
theorem mem_frameWrites_fpcsr : (0, 8, r.fpcsr.toNat) ∈ frameWrites b r arr := by simp [frameWrites]
theorem mem_frameWrites_arrivals : (48, 10, arr) ∈ frameWrites b r arr := by simp [frameWrites]
omit b r arr in
theorem mem_selected {m : Nat} (q : Fin m → Bool) (f : Fin m → Nat × Nat × Nat) {j : Fin m} (on : q j = true) :
    f j ∈ ((List.finRange m).filter q).map f := List.mem_map_of_mem (List.mem_filter.mpr ⟨List.mem_finRange j, on⟩)
theorem mem_frameWrites_bin (j : Fin 8) : (8 + 4 * j.val, 4, r.b[j].toNat) ∈ frameWrites b r arr := by
  have mem := List.mem_map_of_mem (f := fun i : Fin 8 => (8 + 4 * i.val, 4, r.b[i].toNat)) (List.mem_finRange j)
  rw [frameWrites, List.append_assoc, List.append_assoc]
  exact List.mem_append_left _ (List.mem_cons_of_mem _ mem)
theorem mem_frameWrites_pred {j : Fin 8} (pos : j ≠ 0) : (64 + 16 * (j.val - 1), 16, r.p[j].toNat) ∈ frameWrites b r arr := by
  have mem := mem_selected (fun j : Fin 8 => j ≠ 0) (fun j => (64 + 16 * (j.val - 1), 16, r.p[j].toNat)) (decide_eq_true pos)
  rw [frameWrites]
  exact List.mem_append_left _ (List.mem_append_left _ (List.mem_append_right _ (List.mem_cons_of_mem _ mem)))
theorem mem_frameWrites_scalar {j : Fin 64} (pos : j ≠ 0) (admitted : gAdmitted b j.val = true) :
    (256 + 8 * j.val, 8, r.g[j].toNat) ∈ frameWrites b r arr := by
  have on : (j != 0 && gAdmitted b j.val) = true := by rw [admitted, Bool.and_true]; exact bne_iff_ne.mpr pos
  have mem := mem_selected (fun i : Fin 64 => i != 0 && gAdmitted b i.val) (fun i => (256 + 8 * i.val, 8, r.g[i].toNat)) on
  rw [frameWrites]
  exact List.mem_append_left _ (List.mem_append_right _ mem)
theorem mem_frameWrites_vector {j : Fin 32} (admitted : vAdmitted b j.val = true) :
    (768 + 128 * j.val, 128, r.v[j].toNat) ∈ frameWrites b r arr := by
  have mem := mem_selected (fun j : Fin 32 => vAdmitted b j.val) (fun j => (768 + 128 * j.val, 128, r.v[j].toNat)) admitted
  rw [frameWrites]
  exact List.mem_append_right _ mem
end

/-- An arrival stands in the frame at the bit of its scope and number. -/
theorem testBit_arrivalBits (as : List (Nat × Nat × Nat)) (scopes : ∀ a ∈ as, 2 ≤ a.1 ∧ a.1 ≤ 6 ∧ a.2.1 < 16) {sc id : Nat} (low : 2 ≤ sc)
    (small : id < 16) : (arrivalBits as).testBit ((sc - 2) * 16 + id) = true ↔ ∃ a ∈ as, a.1 = sc ∧ a.2.1 = id := by
  rw [arrivalBits, testBit_foldl_or]
  simp only [Nat.zero_testBit, Bool.false_eq_true, false_or, Nat.testBit_two_pow, decide_eq_true_eq]
  refine exists_congr fun a => and_congr_right fun mem => ?_
  obtain ⟨lo, -, few⟩ := scopes a mem
  omega
theorem arrivalBits_lt (as : List (Nat × Nat × Nat)) (scopes : ∀ a ∈ as, 2 ≤ a.1 ∧ a.1 ≤ 6 ∧ a.2.1 < 16) : arrivalBits as < 2 ^ (8 * 10) := by
  refine Nat.lt_pow_two_of_testBit (n := 80) _ fun b high => ?_
  rw [← Bool.not_eq_true, arrivalBits, testBit_foldl_or]
  simp only [Nat.zero_testBit, Bool.false_eq_true, false_or, Nat.testBit_two_pow, decide_eq_true_eq, not_exists, not_and]
  intro a mem
  obtain ⟨lo, top, few⟩ := scopes a mem
  omega

end

/-- The event evicts the hand parked longest where a record waits and no hand is free. -/
theorem eviction_evicts {s : State} {n i : Nat} (tenant : (croftAt s (argN s 0)).tenant = some n) (waiting : hasRecord s n = true)
    (full : freeHand s (argN s 0) = none) (settled : (tenAt s n).move = .settled) (going : (croftAt s (argN s 0)).stopped = false)
    (oldest : longestParked s (argN s 0) = some i) : exec .eviction s = .next (evict s (argN s 0) i) := by
  simp [exec_eviction, execEviction, tenant, waiting, full, tenSettled, settled, going, oldest]

/-- What an evicted hand leaves in its slot, its frame and its record, and nowhere else in memory. -/
theorem continuationEvents_eviction (s : State) (n i : Nat) (p : Park) : let c := argN s 0
    (croftAt s c).tenant = some n → hasRecord s n = true → freeHand s c = none → (tenAt s n).move = .settled →
    (croftAt s c).stopped = false → longestParked s c = some i →
    let k := ctxAt s c i
    k.park = some p → p.kind = .resume → p.served = false → k.name < 64 → (∀ a ∈ k.arrivals, 2 ≤ a.1 ∧ a.1 ≤ 6 ∧ a.2.1 < 16) →
    ∃ t, exec .eviction s = .next t ∧ (ctxAt t c i).mode = .free ∧ (slotAt t n k.name).evicted = some p ∧
      (slotAt t n k.name).arrivals = k.arrivals ∧ (slotAt t n k.name).frz = k.frz ∧ memGet t (framePa s n k.name) 8 = k.regs.fpcsr.toNat ∧
      (∀ j : Fin 8, memGet t (framePa s n k.name + 8 + 4 * j.val) 4 = k.regs.b[j].toNat) ∧
      (∀ j : Fin 64, j ≠ 0 → gAdmitted k.budget j.val = true →
        memGet t (framePa s n k.name + 256 + 8 * j.val) 8 = k.regs.g[j].toNat) ∧
      (∀ j : Fin 32, vAdmitted k.budget j.val = true → memGet t (framePa s n k.name + 768 + 128 * j.val) 128 = k.regs.v[j].toNat) ∧
      (∀ j : Fin 8, j ≠ 0 → memGet t (framePa s n k.name + 64 + 16 * (j.val - 1)) 16 = k.regs.p[j].toNat) ∧
      (∀ sc id, 2 ≤ sc → sc ≤ 6 → id < 16 → ((memGet t (framePa s n k.name + 48) 10).testBit ((sc - 2) * 16 + id) = true ↔
        ∃ a ∈ k.arrivals, a.1 = sc ∧ a.2.1 = id)) ∧
      (∀ a, (a < recordPa s n k.name ∨ recordPa s n k.name + 64 ≤ a) → (a < framePa s n k.name ∨ framePa s n k.name + 4864 ≤ a) →
        sread 0 t.mem a = sread 0 s.mem a) ∧
      memGet t (recordPa s n k.name) 8 % 2 ^ 57 = k.pc % 2 ^ 57 := by
  intro c tenant waiting full settled going oldest k park kind waits name scopes
  have runs := eviction_evicts tenant waiting full settled going oldest
  rw [evict_unserved s c i n p tenant park kind waits] at runs
  have frame {o b x : Nat} (mem : (o, b, x) ∈ frameWrites k.budget k.regs (arrivalBits k.arrivals)) (fits : x < 2 ^ (8 * b)) :
      memGet (spilled s n p k) (framePa s n k.name + o) b = x := frame_spilled name mem fits
  set t := updCtx (updSlot (spilled s n p k) n k.name (evictedSlot p k)) (argN s 0) i fun _ => Context.empty
  have read (pa b : Nat) : memGet t pa b = memGet (spilled s n p k) pa b := rfl
  have slot : slotAt t n k.name = evictedSlot p k (slotAt (spilled s n p k) n k.name) := slotAt_updSlot_self ..
  have hand : ctxAt t c i = Context.empty := ctxAt_updCtx_self ..
  refine ⟨t, runs, by rw [hand]; rfl, by rw [slot]; rfl, by rw [slot]; rfl, by rw [slot]; rfl, ?_, ?_⟩
  · rw [read, ← Nat.add_zero (framePa s n k.name)]
    exact frame (mem_frameWrites_fpcsr ..) k.regs.fpcsr.isLt
  simp only [read, Nat.add_assoc]
  refine ⟨fun j => ?_, fun j pos on => ?_, fun j on => ?_, fun j pos => ?_, fun sc id low _ small => ?_, ?_, ?_⟩
  · exact frame (mem_frameWrites_bin ..) k.regs.b[j].isLt
  · exact frame (mem_frameWrites_scalar _ _ _ pos on) k.regs.g[j].isLt
  · exact frame (mem_frameWrites_vector _ _ _ on) k.regs.v[j].isLt
  · exact frame (mem_frameWrites_pred _ _ _ pos) k.regs.p[j].isLt
  · rw [frame (mem_frameWrites_arrivals ..) (arrivalBits_lt _ scopes)]
    exact testBit_arrivalBits _ scopes low small
  · exact fun a outRecord outFrame => pool_spilled k a ⟨outRecord, outFrame⟩
  · exact memGet_record ..

end Sys2Proof.Machine
end

section
namespace Sys2Proof.Machine

/-! ## The head of a continuation queue (R194, R228, R280) -/

theorem any_sput {α : Type} (m : Sparse α) (k : Nat) (v : α) (p : Nat × α → Bool) : (sput m k v).any p = (p (k, v) || m.any p) := by
  induction m with
  | nil => simp [sput]
  | cons e m ih =>
    obtain ⟨j, x⟩ := e
    by_cases before : k < j
    · simp only [sput, before, if_true, List.any_cons]
    · simp only [sput, before, if_false, List.any_cons, ih]
      exact Bool.or_left_comm ..
theorem any_key_sdel {α : Type} (m : Sparse α) {k j : Nat} (other : j ≠ k) : (sdel m k).any (fun e => e.1 == j) = m.any fun e => e.1 == j := by
  induction m with
  | nil => rfl
  | cons e m ih =>
    obtain ⟨i, x⟩ := e
    by_cases here : i = k
    · have miss : (i == j) = false := beq_false_of_ne fun same => other (same ▸ here)
      simp only [sdel, here, if_true, List.any_cons, ih]
      rw [← here, miss, Bool.false_or]
    · simp only [sdel, here, if_false, List.any_cons, ih]
/-- A value other than the default stands under a listed key. -/
theorem any_key_of_sread_ne {α : Type} {d : α} {m : Sparse α} {k : Nat} (differs : sread d m k ≠ d) : m.any (fun e => e.1 == k) = true := by
  induction m with
  | nil => exact absurd rfl differs
  | cons e m ih =>
    obtain ⟨j, x⟩ := e
    by_cases here : j = k
    · simp [here]
    · rw [sread, if_neg here] at differs
      rw [List.any_cons, ih differs, Bool.or_true]

/-- An update of a listed tenant lists no other. -/
theorem placed_updTen {s : State} {n : Nat} (listed : placed s n = true) (f : Tenant → Tenant) (t : Nat) :
    placed (updTen s n f) t = placed s t := by
  have put : placed (updTen s n f) t = ((n == t) || (sdel s.tenants n).any fun e => e.1 == t) := any_sput ..
  rw [put]
  rcases eq_or_ne t n with rfl | other
  · rw [listed, beq_self_eq_true, Bool.true_or]
  · rw [any_key_sdel _ other, beq_false_of_ne other.symm, Bool.false_or]; rfl

/-- The records of a tenant's continuation queue, oldest first. -/
def waitingRecords (s : State) (n : Nat) : List (BitVec 512) :=
  (match (tenAt s n).contq with | none => [] | some q => (cribAt s q).q) ++ (tenAt s n).backlog
theorem waitingRecords_unbound {s : State} {n : Nat} (unbound : (tenAt s n).contq = none) : waitingRecords s n = (tenAt s n).backlog := by
  simp only [waitingRecords, unbound, List.nil_append]
theorem waitingRecords_bound {s : State} {n q : Nat} (bound : (tenAt s n).contq = some q) :
    waitingRecords s n = (cribAt s q).q ++ (tenAt s n).backlog := by
  simp only [waitingRecords, bound]

/-- A tenant but for the records that wait behind its queue. -/
def Tenant.queueless (t : Tenant) : Tenant := { t with backlog := [] }

/-- States that agree but for queued records. -/
structure Unqueued (s u : State) : Prop where
  rest : { u with cribs := s.cribs, tenants := s.tenants } = s
  ten : ∀ t, (tenAt u t).queueless = (tenAt s t).queueless
  listed : ∀ t, placed u t = placed s t

theorem unqueued_setCrib (s : State) (q : Nat) (k : Crib) : Unqueued s (setCrib s q k) := ⟨rfl, fun _ => rfl, fun _ => rfl⟩
theorem unqueued_backlog {s : State} {n : Nat} (some_ : (tenAt s n).backlog ≠ []) (rs : List (BitVec 512)) :
    Unqueued s (updTen s n fun x => { x with backlog := rs }) := by
  have listed : placed s n = true := any_key_of_sread_ne fun empty => some_ (congrArg Tenant.backlog empty)
  exact ⟨rfl, tenAt_updTen_part Tenant.queueless (g := fun x => { x with backlog := rs }) (fun _ => rfl) s n, placed_updTen listed _⟩

namespace Unqueued
variable {s u v : State} (same : Unqueued s u)
include same

theorem trans (next : Unqueued u v) : Unqueued s v := by
  refine ⟨?_, fun t => (next.ten t).trans (same.ten t), fun t => (next.listed t).trans (same.listed t)⟩
  have first := congrArg (fun x : State => { x with cribs := s.cribs, tenants := s.tenants }) next.rest
  exact first.trans same.rest
theorem part {α : Type} (f : State → α) (blind : ∀ (x : State) cs ts, f { x with cribs := cs, tenants := ts } = f x) : f u = f s := by
  rw [← blind u s.cribs s.tenants, same.rest]
theorem tenPart {α : Type} (f : Tenant → α) (blind : ∀ x : Tenant, f x.queueless = f x) (t : Nat) : f (tenAt u t) = f (tenAt s t) := by
  rw [← blind, same.ten, blind]

theorem mem : u.mem = s.mem := same.part State.mem fun _ _ _ => rfl
theorem croft (c : Nat) : croftAt u c = croftAt s c := same.part (croftAt · c) fun _ _ _ => rfl
theorem ctx (c i : Nat) : ctxAt u c i = ctxAt s c i := same.part (ctxAt · c i) fun _ _ _ => rfl
theorem get (pa b : Nat) : memGet u pa b = memGet s pa b := same.part (memGet · pa b) fun _ _ _ => rfl
theorem setAt (b : Nat) : setAtId u b = setAtId s b := same.part (setAtId · b) fun _ _ _ => rfl
theorem pool (t : Nat) : (tenAt u t).pool = (tenAt s t).pool := same.tenPart Tenant.pool (fun _ => rfl) t
theorem framePlace (t k : Nat) : framePa u t k = framePa s t k := by rw [framePa, same.pool, framePa]
theorem recordPlace (t k : Nat) : recordPa u t k = recordPa s t k := by rw [recordPa, same.pool, recordPa]
theorem slot (t k : Nat) : slotAt u t k = slotAt s t k := same.tenPart (fun x => sread Slot.empty x.slots k) (fun _ => rfl) t
theorem bytes (t a b : Nat) : cmGet u t a b = cmGet s t a b := same.tenPart (fun x => loadBytes x.mem a b) (fun _ => rfl) t
end Unqueued

section
variable {s : State} {n : Nat} {r : BitVec 512} {rs : List (BitVec 512)}

/-- Where the crib holds none, the oldest record is the backlog's. -/
theorem dequeue_backlog (empty : ∀ q, (tenAt s n).contq = some q → (cribAt s q).q = []) (oldest : (tenAt s n).backlog = r :: rs) :
    dequeue s n = some (r, updTen s n fun x => { x with backlog := rs }) := by
  cases bound : (tenAt s n).contq with
  | none => simp only [dequeue, bound, oldest]
  | some q => simp only [dequeue, bound, cribPop, empty q bound, oldest]

/-- The backlog's oldest record joins the crib's tail where there is room. -/
def refilled (s : State) (n : Nat) : State :=
  match (tenAt s n).contq, (tenAt s n).backlog with
  | some c, r :: rs => match cribPush s c r with
      | some s => updTen s n fun x => { x with backlog := rs }
      | none => s
  | _, _ => s
theorem dequeue_crib {q : Nat} {u : State} (bound : (tenAt s n).contq = some q) (popped : cribPop s q = some (r, u)) :
    dequeue s n = some (r, refilled u n) := by
  simp only [dequeue, bound, popped]
  rfl

theorem cribPop_onChip {q : Nat} {ks : List (BitVec 512)} (onChip : (cribAt s q).held = 0) (head : (cribAt s q).q = r :: ks) :
    cribPop s q = some (r, setCrib s q { cribAt s q with q := ks }) := by
  simp only [cribPop, head, onChip, if_true]
theorem cribPush_onChip {q : Nat} (onChip : (cribAt s q).held = 0) (room : (cribAt s q).q.length < Config.cribOnChip) :
    cribPush s q r = some (setCrib s q { cribAt s q with q := (cribAt s q).q ++ [r] }) := by
  simp only [cribPush, onChip, room, decide_true, Bool.and_self, if_true]
theorem cribAt_setCrib_self (s : State) (q : Nat) (k : Crib) : cribAt (setCrib s q k) q = k := sread_sset_self ..

/-- A refill from the backlog leaves the order of the records as it is. -/
theorem refilled_waits {q : Nat} (bound : (tenAt s n).contq = some q) (onChip : (cribAt s q).held = 0)
    (room : (cribAt s q).q.length < Config.cribOnChip) : Unqueued s (refilled s n) ∧ waitingRecords (refilled s n) n = waitingRecords s n := by
  cases later : (tenAt s n).backlog with
  | nil =>
    have stays : refilled s n = s := by simp only [refilled, bound, later]
    rw [stays]
    exact ⟨⟨rfl, fun _ => rfl, fun _ => rfl⟩, rfl⟩
  | cons x xs =>
    have moves : refilled s n = updTen (setCrib s q { cribAt s q with q := (cribAt s q).q ++ [x] }) n fun t => { t with backlog := xs } := by
      simp only [refilled, bound, later, cribPush_onChip onChip room]
    rw [moves]
    set v := setCrib s q { cribAt s q with q := (cribAt s q).q ++ [x] }
    have behind : (tenAt v n).backlog ≠ [] := fun none_ => List.cons_ne_nil x xs (later.symm.trans none_)
    refine ⟨(unqueued_setCrib ..).trans (unqueued_backlog behind xs), ?_⟩
    have ten : tenAt (updTen v n fun t => { t with backlog := xs }) n = { tenAt s n with backlog := xs } := tenAt_updTen_self ..
    have crib : cribAt (updTen v n fun t => { t with backlog := xs }) q = { cribAt s q with q := (cribAt s q).q ++ [x] } :=
      cribAt_setCrib_self ..
    rw [waitingRecords_bound (q := q) (by rw [ten]; exact bound), waitingRecords_bound bound, ten, crib, later]
    exact List.append_cons .. |>.symm

/-- The oldest record of the continuation queue is taken, and nothing else of the state changes. -/
theorem dequeue_takes (crib : ∀ q, (tenAt s n).contq = some q → (cribAt s q).held = 0 ∧ (cribAt s q).q.length ≤ Config.cribOnChip)
    (oldest : waitingRecords s n = r :: rs) : ∃ u, dequeue s n = some (r, u) ∧ Unqueued s u ∧ waitingRecords u n = rs := by
  have fromBacklog (empty : ∀ q, (tenAt s n).contq = some q → (cribAt s q).q = []) (same : waitingRecords s n = (tenAt s n).backlog) :
      ∃ u, dequeue s n = some (r, u) ∧ Unqueued s u ∧ waitingRecords u n = rs := by
    have backlog := same.symm.trans oldest
    have ten : tenAt (updTen s n fun t => { t with backlog := rs }) n = { tenAt s n with backlog := rs } := tenAt_updTen_self ..
    refine ⟨_, dequeue_backlog empty backlog, unqueued_backlog (by rw [backlog]; exact List.cons_ne_nil r rs) rs, ?_⟩
    cases bound : (tenAt s n).contq with
    | none => rw [waitingRecords_unbound (by rw [ten]; exact bound), ten]
    | some q =>
      rw [waitingRecords_bound (q := q) (by rw [ten]; exact bound), ten]
      exact congrArg (· ++ rs) (empty q bound)
  cases bound : (tenAt s n).contq with
  | none => exact fromBacklog (fun q some_ => by rw [bound] at some_; cases some_) (waitingRecords_unbound bound)
  | some q =>
    obtain ⟨onChip, few⟩ := crib q bound
    rw [waitingRecords_bound bound] at oldest
    cases held : (cribAt s q).q with
    | nil =>
      refine fromBacklog (fun q' some_ => ?_) (by rw [waitingRecords_bound bound, held]; rfl)
      rw [bound] at some_; cases some_; exact held
    | cons x ks =>
      rw [held, List.cons_append] at oldest
      obtain ⟨rfl, rest⟩ := List.cons.inj oldest
      rw [held, List.length_cons] at few
      set v := setCrib s q { cribAt s q with q := ks } with popped
      have crib : cribAt v q = { cribAt s q with q := ks } := cribAt_setCrib_self ..
      have bound' : (tenAt v n).contq = some q := bound
      obtain ⟨same, waits⟩ := refilled_waits bound' (by rw [crib]; exact onChip) (by rw [crib]; exact few)
      refine ⟨_, dequeue_crib bound (cribPop_onChip onChip held), (unqueued_setCrib ..).trans same, waits.trans ?_⟩
      rw [waitingRecords_bound bound', crib]
      exact rest
end

end Sys2Proof.Machine
end

section
namespace Sys2Proof.Machine

/-! ## The record that a free hand takes (R220, R228, R229) -/

theorem field_of_low (x m a b top : Nat) : x / 2 ^ m % 2 ^ (a + (b + top)) / 2 ^ a % 2 ^ b = x / 2 ^ (m + a) % 2 ^ b := by
  rw [Nat.pow_add 2 a, Nat.mod_mul_right_div_self, Nat.div_div_eq_div_mul, ← Nat.pow_add, Nat.pow_add 2 b, Nat.mod_mul_right_mod]
/-- A field of a record within one of its words. -/
theorem field_of_word (x j : Nat) {a b : Nat} (fits : a + b ≤ 64) : x / 2 ^ (64 * j) % 2 ^ 64 / 2 ^ a % 2 ^ b = x / 2 ^ (64 * j + a) % 2 ^ b := by
  obtain ⟨top, width⟩ := Nat.exists_eq_add_of_le fits
  have field := field_of_low x (64 * j) a b top
  rwa [← Nat.add_assoc, ← width] at field
/-- A flag of a record's first word. -/
theorem testBit_word0 (x : Nat) {a : Nat} (inside : a < 64) : (x / 2 ^ (64 * 0) % 2 ^ 64).testBit a = (x / 2 ^ a % 2 ^ 1 == 1) := by
  have field := field_of_word x 0 (a := a) (b := 1) inside
  rw [Nat.mul_zero, Nat.zero_add, Nat.pow_one] at field
  rw [Nat.testBit_eq_decide_div_mod_eq, field]
  rfl

section
variable {s u : State} (same : Unqueued s u)
include same
theorem Unqueued.reports : u.reports = s.reports := same.part State.reports fun _ _ _ => rfl
theorem Unqueued.chan (t c : Nat) : chanOf (tenAt u t) c = chanOf (tenAt s t) c := same.tenPart (chanOf · c) (fun _ => rfl) t
theorem Unqueued.chans (t : Nat) : (tenAt u t).chans = (tenAt s t).chans := same.tenPart Tenant.chans (fun _ => rfl) t
theorem Unqueued.move (t : Nat) : (tenAt u t).move = (tenAt s t).move := same.tenPart Tenant.move (fun _ => rfl) t
theorem Unqueued.route (b : Nat) : routeOf u b = routeOf s b := by rw [routeOf, same.setAt, routeOf]
theorem Unqueued.older (b a : Nat) : olderHeld u b a = olderHeld s b a := by rw [olderHeld, same.setAt, olderHeld]
theorem Unqueued.room (b : Nat) : roomFor u b = roomFor s b := by
  simp only [roomFor, inSet, same.route, same.chan, same.move, same.setAt, same.listed]
  rfl
/-- A packet fares as from the state with the record still queued. -/
theorem Unqueued.sends {t : State} {b who : Nat} {own : Nat → Prop} {r : Report} (sends : Sends u t b who own r) : Sends s t b who own r := by
  unfold Sends at sends ⊢
  simpa only [same.reports, same.setAt, same.route, same.room, same.older, same.chan, same.chans] using sends
end

theorem waitingRecords_congr {s t : State} {n : Nat} (contq : (tenAt t n).contq = (tenAt s n).contq)
    (backlog : (tenAt t n).backlog = (tenAt s n).backlog) (cribs : t.cribs = s.cribs) : waitingRecords t n = waitingRecords s n := by
  simp only [waitingRecords, contq, backlog, cribAt, cribs]
theorem pushReport_part {α : Type} (f : Tenant → α) (blind : ∀ k cs, f { k with chans := cs } = f k) (s : State) (t c : Nat) (r : Report) (n : Nat) :
    f (tenAt (pushReport s t c r) n) = f (tenAt s n) := by
  rw [pushReport, setChan]
  exact tenAt_updTen_part f (fun k => blind k _) s t n
/-- A report leaves the records queued. -/
theorem waitingRecords_report (s : State) (b a : Nat) (y : Bool) (r : Report) (n : Nat) : waitingRecords (report s b a y r) n = waitingRecords s n := by
  rcases report_cases s b a y r with ⟨sets, reports, e⟩ | ⟨t, c, r', sets, reports, e⟩
  · rw [e]; rfl
  · rw [e]
    exact waitingRecords_congr (pushReport_part Tenant.contq (fun _ _ => rfl) { s with sets := sets } t c r' n)
      (pushReport_part Tenant.backlog (fun _ _ => rfl) { s with sets := sets } t c r' n) rfl
theorem updSlot_part {α : Type} (g : Tenant → α) (blind : ∀ x ks, g { x with slots := ks } = g x) (s : State) (t k : Nat) (f : Slot → Slot)
    (n : Nat) : g (tenAt (updSlot s t k f) n) = g (tenAt s n) := by
  rw [updSlot]
  exact tenAt_updTen_part g (fun x => blind x _) s t n
theorem waitingRecords_updSlot (s : State) (t k : Nat) (f : Slot → Slot) (n : Nat) : waitingRecords (updSlot s t k f) n = waitingRecords s n :=
  waitingRecords_congr (updSlot_part Tenant.contq (fun _ _ => rfl) s t k f n) (updSlot_part Tenant.backlog (fun _ _ => rfl) s t k f n) rfl

/-- Where no glean is in flight none is placed. -/
theorem gleaning_nil {s : State} {n : Nat} (none_ : ∀ e < 8, cmGet s n (0xFE00 + 32 * e + 20) 2 = 0) : gleaning s n = [] :=
  List.filter_eq_nil_iff.mpr fun e m => by
    rw [gleanOff, none_ e (List.mem_range.mp m)]
    exact Bool.false_ne_true
theorem placeGleans_none {s : State} {n : Nat} (none_ : gleaning s n = []) : placeGleans s n = (s, 0) := by
  rw [placeGleans, none_, List.foldl_nil]

section
variable {s u : State} {c i n : Nat} {r : BitVec 512}

theorem recordTake_takes (tenant : (croftAt s (argN s 0)).tenant = some n) (hand : freeHand s (argN s 0) = some i)
    (settled : (tenAt s n).move = .settled) (going : (croftAt s (argN s 0)).stopped = false)
    (open_ : (croftAt s (argN s 0)).quiesce = false) (fetched : (tenAt s n).refetch = 0) (ring : (tenAt s n).ring.length ≤ 16)
    (none_ : gleaning s n = []) : exec .recordTake s = .next (takeRecord s (argN s 0) n i) := by
  have room : gleanRoom s n = true := by rw [gleanRoom, none_, List.length_nil, Nat.zero_add]; exact decide_eq_true ring
  simp [exec_recordTake, execRecordTake, tenant, hand, tenSettled, settled, going, open_, fetched, room]

/-- The name in a record. -/
def nameIn (r : BitVec 512) : Nat := r.toNat / 2 ^ 352 % 2 ^ 7
def budgetIn (r : BitVec 512) : BitVec 14 := BitVec.ofNat 14 (r.toNat / 2 ^ 304 % 2 ^ 14)
def Slot.untaken (k : Slot) : Slot := { k with evicted := none, queued := false, arrivals := [], hires := [], frz := false, sealed_ := false }

theorem takeRecord_bad (taken : dequeue s n = some (r, u)) (bad : crc64 ((toBytes 64 r.toNat).take 56) ≠ r.toNat / 2 ^ 448 % 2 ^ 64) :
    takeRecord s c n i = report u (tenAt u n).set (agCroft c) false (mkReport cUE 0 c 0 n 0 0 0 (recordPa u n (nameIn r))) := by
  simp only [takeRecord, taken]
  rw [if_pos (bne_iff_ne.mpr bad)]
  rfl

/-- The seeds in the frame of a sown continuation. -/
def seedsAt (s : State) (pa : Nat) : List Nat := (List.range 5).map fun j => memGet s (pa + 264 + 8 * j) 8
theorem takeRecord_sown (taken : dequeue s n = some (r, u)) (good : crc64 ((toBytes 64 r.toNat).take 56) = r.toNat / 2 ^ 448 % 2 ^ 64)
    (sown : r.toNat / 2 ^ 59 % 2 ^ 1 = 1) : takeRecord s c n i = startCtx (updSlot u n (nameIn r) Slot.untaken) c i (r.toNat / 2 ^ 0 % 2 ^ 57)
      (nameIn r) (seededRegs (budgetIn r) (seedsAt u (framePa u n (nameIn r)))) (budgetIn r) (r.toNat / 2 ^ 57 % 2 ^ 1 == 1)
      (slotAt u n (nameIn r)).origin (r.toNat / 2 ^ 280 % 2 ^ 24) := by
  simp only [takeRecord, taken]
  rw [if_neg (by rw [good, bne_self_eq_false]; exact Bool.false_ne_true), if_pos sown]
  rfl

/-- The context that an evicted continuation comes back as, before its wake. -/
def returned (u : State) (n : Nat) (r : BitVec 512) (p : Park) : Context :=
  let k := nameIn r
  let regs := readFrame u (framePa u n k) (budgetIn r)
  { Context.empty with
    mode := .parked, regs := regs, shadow := regs, pc := r.toNat / 2 ^ 0 % 2 ^ 57, runStart := r.toNat / 2 ^ 0 % 2 ^ 57
    runseq := BitVec.ofNat 64 (r.toNat / 2 ^ 384 % 2 ^ 64), budget := budgetIn r, priv := r.toNat / 2 ^ 57 % 2 ^ 1 == 1, name := k
    epoch := (slotAt u n k).epoch, acc := p.acc, cnt := u.now + 1, origin := (slotAt u n k).origin, pop := r.toNat / 2 ^ 280 % 2 ^ 24
    park := some p, arrivals := (slotAt u n k).arrivals, aborts := r.toNat / 2 ^ 336 % 2 ^ 16, hires := (slotAt u n k).hires
    frz := (slotAt u n k).frz, stage := if (slotAt u n k).sealed_ then .sealed else .open }

theorem takeRecord_evicted {p : Park} (taken : dequeue s n = some (r, u))
    (good : crc64 ((toBytes 64 r.toNat).take 56) = r.toNat / 2 ^ 448 % 2 ^ 64) (evicted : r.toNat / 2 ^ 59 % 2 ^ 1 ≠ 1)
    (met : r.toNat / 2 ^ 58 % 2 ^ 1 ≠ 1) (slot : (slotAt u n (nameIn r)).evicted = some p)
    (none_ : gleaning (updSlot u n (nameIn r) Slot.untaken) n = []) : takeRecord s c n i =
      completeWake (updCtx (tick (updSlot u n (nameIn r) Slot.untaken)) c i fun _ => returned u n r p) c i p := by
  have keeps : placeGleans (updSlot u n (nameIn r) Slot.untaken) n = (updSlot u n (nameIn r) Slot.untaken, 0) := placeGleans_none none_
  simp only [takeRecord, taken]
  rw [if_neg (by rw [good, bne_self_eq_false]; exact Bool.false_ne_true), if_neg evicted, if_neg met]
  simp only [nameIn] at slot keeps ⊢
  unfold Slot.untaken at keeps ⊢
  simp only [slot, Option.getD_some, keeps]
  rfl

/-- A wake with no more to do than to run on. -/
theorem completeWake_ready {p : Park} (kind : p.kind = .ready) (clean : p.ue = none) (late : p.owe.late = none) :
    completeWake s c i p = updCtx s c i (Context.woken p) := by
  simp only [completeWake, clean, wakeEffect, kind, late, settleLate]
  rfl
end

end Sys2Proof.Machine
end

section
namespace Sys2Proof.Machine

section
variable {s u : State} {i n : Nat} {r : BitVec 512} {rs : List (BitVec 512)}

/-- A record with a wrong sum is reported, and its hand stays free. -/
theorem recordTake_bad (runs : exec .recordTake s = .next (takeRecord s (argN s 0) n i)) (taken : dequeue s n = some (r, u))
    (same : Unqueued s u) (left : waitingRecords u n = rs)
    (bad : crc64 ((toBytes 64 r.toNat).take 56) ≠ r.toNat / 2 ^ 448 % 2 ^ 64) : ∃ t, exec .recordTake s = .next t ∧
      waitingRecords t n = rs ∧ ctxAt t (argN s 0) i = ctxAt s (argN s 0) i ∧
      Sends s t (tenAt s n).set (agCroft (argN s 0)) (fun _ => False)
        (mkReport cUE 0 (argN s 0) 0 n 0 0 0 (recordPa s n (nameIn r))) := by
  rw [takeRecord_bad taken bad] at runs
  have set_ : (tenAt u n).set = (tenAt s n).set := same.tenPart Tenant.set (fun _ => rfl) n
  refine ⟨_, runs, (waitingRecords_report ..).trans left, (ctxAt_report ..).trans (same.ctx ..), same.sends ?_⟩
  rw [set_, same.recordPlace]
  exact sends_report u _ _ false _ _ fun _ _ _ _ => rfl

theorem nth_seedsAt (s : State) (pa : Nat) {j : Nat} (lt : j < 5) : nth (seedsAt s pa) j = some (memGet s (pa + 264 + 8 * j) 8) := by
  match j, lt with
  | 0, _ => rfl
  | 1, _ => rfl
  | 2, _ => rfl
  | 3, _ => rfl
  | 4, _ => rfl

/-- A sown record starts its continuation with the seeds of its frame. -/
theorem recordTake_sown (runs : exec .recordTake s = .next (takeRecord s (argN s 0) n i)) (taken : dequeue s n = some (r, u))
    (same : Unqueued s u) (left : waitingRecords u n = rs) (good : crc64 ((toBytes 64 r.toNat).take 56) = r.toNat / 2 ^ 448 % 2 ^ 64)
    (sown : r.toNat / 2 ^ 59 % 2 ^ 1 = 1) : ∃ t, exec .recordTake s = .next t ∧
      (ctxAt t (argN s 0) i).mode = .running ∧ (ctxAt t (argN s 0) i).pc = r.toNat / 2 ^ 0 % 2 ^ 57 ∧
      (ctxAt t (argN s 0) i).name = nameIn r ∧ (ctxAt t (argN s 0) i).budget = budgetIn r ∧
      (ctxAt t (argN s 0) i).priv = (r.toNat / 2 ^ 57 % 2 ^ 1 == 1) ∧ (ctxAt t (argN s 0) i).runseq = 1 ∧
      (∀ j < 5, (ctxAt t (argN s 0) i).regs.g.toList.getD (j + 1) 0 = if gAdmitted (budgetIn r) (j + 1) then
        BitVec.ofNat 64 (memGet s (framePa s n (nameIn r) + 264 + 8 * j) 8) else 0) ∧ waitingRecords t n = rs := by
  rw [takeRecord_sown taken good sown] at runs
  refine ⟨_, runs, ?_⟩
  rw [ctxAt_startCtx]
  refine ⟨rfl, rfl, rfl, rfl, rfl, rfl, fun j lt => ?_, ?_⟩
  · rw [seededRegs_getD _ _ lt, nth_seedsAt _ _ lt, Option.getD_some, same.get, same.framePlace]
  · exact (waitingRecords_updSlot ..).trans left

/-- An evicted record whose condition holds comes back with the registers of its frame, at its next run. -/
theorem recordTake_evicted {p : Park} (runs : exec .recordTake s = .next (takeRecord s (argN s 0) n i)) (taken : dequeue s n = some (r, u))
    (same : Unqueued s u) (left : waitingRecords u n = rs) (none_ : gleaning s n = [])
    (good : crc64 ((toBytes 64 r.toNat).take 56) = r.toNat / 2 ^ 448 % 2 ^ 64) (evicted : r.toNat / 2 ^ 59 % 2 ^ 1 ≠ 1)
    (met : r.toNat / 2 ^ 58 % 2 ^ 1 ≠ 1) (slot : (slotAt s n (nameIn r)).evicted = some p) (kind : p.kind = .ready) (clean : p.ue = none)
    (late : p.owe.late = none) : ∃ t, exec .recordTake s = .next t ∧ ctxAt t (argN s 0) i = (returned u n r p).woken p ∧
      waitingRecords t n = rs ∧ (slotAt t n (nameIn r)).evicted = none ∧ (slotAt t n (nameIn r)).frz = false := by
  have idle : gleaning (updSlot u n (nameIn r) Slot.untaken) n = [] := by
    have bytes (e : Nat) : cmGet (updSlot u n (nameIn r) Slot.untaken) n (gleanOff e + 20) 2 = cmGet s n (gleanOff e + 20) 2 :=
      (updSlot_part (fun x => loadBytes x.mem (gleanOff e + 20) 2) (fun _ _ => rfl) u n (nameIn r) Slot.untaken n).trans (same.bytes ..)
    simpa only [gleaning, bytes] using none_
  rw [takeRecord_evicted taken good evicted met (by rw [same.slot]; exact slot) idle, completeWake_ready kind clean late] at runs
  have freed := slotAt_updSlot_self u n (nameIn r) Slot.untaken
  refine ⟨_, runs, ?_, (waitingRecords_updSlot ..).trans left, congrArg Slot.evicted freed, congrArg Slot.frz freed⟩
  rw [ctxAt_updCtx_self, ctxAt_updCtx_self]
end

end Sys2Proof.Machine
end

section
namespace Sys2Proof.Machine

/-! ## Registers that a frame gives back (R230) -/

section
variable (s : State) (pa : Nat) (b : BitVec 14)
theorem readFrame_bin (j : Fin 8) : (readFrame s pa b).b[j] = BitVec.ofNat 32 (memGet s (pa + 8 + 4 * j.val) 4) := by
  rw [readFrame, Fin.getElem_fin, Vector.getElem_ofFn]
theorem readFrame_scalar {j : Fin 64} (pos : j ≠ 0) (admitted : gAdmitted b j.val = true) :
    (readFrame s pa b).g[j] = BitVec.ofNat 64 (memGet s (pa + 256 + 8 * j.val) 8) := by
  have on : (j != 0 && gAdmitted b j.val) = true := by rw [admitted, Bool.and_true]; exact bne_iff_ne.mpr pos
  rw [readFrame, Fin.getElem_fin, Vector.getElem_ofFn]
  exact if_pos on
theorem readFrame_vector {j : Fin 32} (admitted : vAdmitted b j.val = true) :
    (readFrame s pa b).v[j] = BitVec.ofNat 1024 (memGet s (pa + 768 + 128 * j.val) 128) := by
  rw [readFrame, Fin.getElem_fin, Vector.getElem_ofFn]
  exact if_pos admitted
theorem readFrame_pred {j : Fin 8} (pos : j ≠ 0) :
    (readFrame s pa b).p[j] = BitVec.ofNat 128 (memGet s (pa + 64 + 16 * (j.val - 1)) 16) := by
  rw [readFrame, Fin.getElem_fin, Vector.getElem_ofFn]
  exact if_neg pos
end

/-- The frame read is the one that stood when the record was queued. -/
theorem Unqueued.frame {s u : State} (same : Unqueued s u) (pa : Nat) (b : BitVec 14) : readFrame u pa b = readFrame s pa b := by
  simp only [readFrame, same.get]

/-- What the taking of the oldest record does: R220, R228 and R229. -/
theorem continuationEvents_recordTake (s : State) (n i : Nat) (r : BitVec 512) (rs : List (BitVec 512)) : let c := argN s 0
    let w (j : Nat) : Nat := r.toNat / 2 ^ (64 * j) % 2 ^ 64
    let b := BitVec.ofNat 14 (w 4 / 2 ^ 48)
    let name := w 5 / 2 ^ 32 % 128
    (croftAt s c).tenant = some n → freeHand s c = some i → (tenAt s n).move = .settled → (croftAt s c).stopped = false →
    (croftAt s c).quiesce = false → (tenAt s n).refetch = 0 → (tenAt s n).ring.length ≤ 16 →
    (∀ q, (tenAt s n).contq = some q → (cribAt s q).held = 0 ∧ (cribAt s q).q.length ≤ Config.cribOnChip) → waitingRecords s n = r :: rs →
    (crc64 ((toBytes 64 r.toNat).take 56) ≠ w 7 → (∀ e < 8, cmGet s n (0xFE00 + 32 * e + 20) 2 = 0) →
      ∃ t, exec .recordTake s = .next t ∧ waitingRecords t n = rs ∧ ctxAt t c i = ctxAt s c i ∧
        Sends s t (tenAt s n).set (agCroft c) (fun _ => False) (mkReport cUE 0 c 0 n 0 0 0 (recordPa s n name))) ∧
    (crc64 ((toBytes 64 r.toNat).take 56) = w 7 → (w 0).testBit 59 = true →
      (∀ e < 8, cmGet s n (0xFE00 + 32 * e + 20) 2 = 0) → ∃ t, exec .recordTake s = .next t ∧
      (ctxAt t c i).mode = .running ∧ (ctxAt t c i).pc = w 0 % 2 ^ 57 ∧ (ctxAt t c i).name = name ∧
      (ctxAt t c i).budget = b ∧ (ctxAt t c i).priv = (w 0).testBit 57 ∧ (ctxAt t c i).runseq = 1 ∧
      (∀ j < 5, (ctxAt t c i).regs.g.toList.getD (j + 1) 0 = if gAdmitted b (j + 1) then
        BitVec.ofNat 64 (memGet s (framePa s n name + 264 + 8 * j) 8) else 0) ∧ waitingRecords t n = rs) ∧
    (∀ p, crc64 ((toBytes 64 r.toNat).take 56) = w 7 → (w 0).testBit 59 = false → (w 0).testBit 58 = false →
      (∀ e < 8, cmGet s n (0xFE00 + 32 * e + 20) 2 = 0) → (slotAt s n name).evicted = some p → p.kind = .ready →
      p.ue = none → p.owe.late = none →
      ∃ t, exec .recordTake s = .next t ∧ (ctxAt t c i).pc = w 0 % 2 ^ 57 ∧
        (ctxAt t c i).mode = (if (slotAt s n name).frz then .frozen else .running) ∧
        (ctxAt t c i).runseq = BitVec.ofNat 64 (w 6) + 1 ∧ (ctxAt t c i).budget = b ∧
        (∀ j : Fin 8, (ctxAt t c i).regs.b[j] = BitVec.ofNat 32 (memGet s (framePa s n name + 8 + 4 * j.val) 4)) ∧
        (∀ j : Fin 64, j ≠ 0 → gAdmitted b j.val = true →
          (ctxAt t c i).regs.g[j] = BitVec.ofNat 64 (memGet s (framePa s n name + 256 + 8 * j.val) 8)) ∧
        (∀ j : Fin 32, vAdmitted b j.val = true →
          (ctxAt t c i).regs.v[j] = BitVec.ofNat 1024 (memGet s (framePa s n name + 768 + 128 * j.val) 128)) ∧
        (∀ j : Fin 8, j ≠ 0 → (ctxAt t c i).regs.p[j] = BitVec.ofNat 128 (memGet s (framePa s n name + 64 + 16 * (j.val - 1)) 16)) ∧
        (ctxAt t c i).regs.fpcsr = BitVec.ofNat 64 (memGet s (framePa s n name) 8) &&& 0x11F3 ∧
        (ctxAt t c i).arrivals = (slotAt s n name).arrivals ∧ waitingRecords t n = rs ∧
        (slotAt t n name).evicted = none ∧ (slotAt t n name).frz = false) := by
  intro c w b name tenant hand settled going open_ fetched ring crib oldest
  obtain ⟨u, taken, same, left⟩ := dequeue_takes crib oldest
  have runs (none_ : gleaning s n = []) := recordTake_takes tenant hand settled going open_ fetched ring none_
  have nameField : name = nameIn r := field_of_word r.toNat 5 (a := 32) (b := 7) (by decide)
  have budget : b = budgetIn r := BitVec.eq_of_toNat_eq (by
    simp only [b, w, budgetIn, BitVec.toNat_ofNat, Nat.mod_mod]
    exact field_of_word r.toNat 4 (a := 48) (b := 14) (by decide))
  have entry : w 0 % 2 ^ 57 = r.toNat / 2 ^ 0 % 2 ^ 57 := Nat.mod_mod_of_dvd _ (Nat.pow_dvd_pow 2 (by decide))
  have flag (a : Nat) (inside : a < 64) : (w 0).testBit a = (r.toNat / 2 ^ a % 2 ^ 1 == 1) := testBit_word0 r.toNat inside
  have sum : w 7 = r.toNat / 2 ^ 448 % 2 ^ 64 := rfl
  have run : w 6 = r.toNat / 2 ^ 384 % 2 ^ 64 := rfl
  rw [nameField, budget, entry, sum, run, flag 57 (by decide), flag 58 (by decide), flag 59 (by decide)]
  refine ⟨fun bad none_ => ?_, fun good sown none_ => ?_, fun p good evicted met none_ slot kind clean late => ?_⟩
  · exact recordTake_bad (runs (gleaning_nil none_)) taken same left bad
  · exact recordTake_sown (runs (gleaning_nil none_)) taken same left good (eq_of_beq sown)
  · obtain ⟨t, steps, back, rest, gone, thawed⟩ := recordTake_evicted (runs (gleaning_nil none_)) taken same left (gleaning_nil none_) good
      (ne_of_beq_false evicted) (ne_of_beq_false met) slot kind clean late
    have regs : ((returned u n r p).woken p).regs = readFrame s (framePa s n (nameIn r)) (budgetIn r) := by
      rw [← same.frame, ← same.framePlace]; rfl
    refine ⟨t, steps, ?_⟩
    rw [back, regs]
    refine ⟨rfl, ?_, rfl, rfl, readFrame_bin _ _ _, fun j => readFrame_scalar _ _ _, fun j => readFrame_vector _ _ _,
      fun j => readFrame_pred _ _ _, rfl, ?_, rest, gone, thawed⟩
    · rw [← same.slot]; rfl
    · rw [← same.slot]; rfl

/-- A seed that stands in the list of seeds is the value that the sequencer seeds it with. -/
theorem launchSeeds (l : Launch) {j : Nat} (lt : j < 5) :
    BitVec.ofNat 64 ((nth [l.arg.toNat, l.next, l.size, ownBase, l.next % l.quota] j).getD 0) =
      [l.arg, BitVec.ofNat 64 l.next, BitVec.ofNat 64 l.size, 0x01FFFF0000000000, BitVec.ofNat 64 (l.next % l.quota)].getD j 0 := by
  match j, lt with
  | 0, _ => exact BitVec.ofNat_toNat ..
  | 1, _ => rfl
  | 2, _ => rfl
  | 3, _ => rfl
  | 4, _ => rfl

section
variable {s : State} {c i n k slot pop : Nat} {regs : Regs} {b : BitVec 14} {priv : Bool} {o : Origin} {tgt : Nat}
/-- A sown hand runs its continuation from the entry. -/
theorem ctxAt_sowHand : ∃ e f, ctxAt (sowHand s c i n k slot regs b priv o pop tgt) c i = { Context.empty with
    mode := .running, regs := regs, shadow := regs, pc := slot, runStart := slot, runseq := 1, budget := b, priv := priv
    name := k, epoch := e, cnt := f, origin := o, pop := pop, tgt := some tgt } := by
  simp only [sowHand, ctxAt_updCtx_self, ctxAt_startCtx]
  exact ⟨_, _, rfl⟩
end

theorem ctxAt_updDie (s : State) (d : Nat) (f : Die → Die) (c i : Nat) : ctxAt (updDie s d f) c i = ctxAt s c i := rfl
theorem await_unretried (s : State) (a : Await) : (ctxAt (unretried s a) (argN s 0) (argN s 1)).await = some { a with retry := none } := by
  rw [unretried, ctxAt_updCtx_self]

/-! ## Continuations -/

/-- Settles O47: a hand that is evicted stands in its slot, its record and its frame (`continuationEvents_eviction`), a record that is
taken comes back from there with nothing else of the queue changed (`continuationEvents_recordTake`), the sequencer's seeds stand in the
first registers, and a refused request goes out as it was sent. -/
theorem continuationEvents : Obligations.ContinuationEvents := by
  refine ⟨continuationEvents_eviction, continuationEvents_recordTake, ?_, ?_⟩
  · intro s l k i d n c stands more round settled tenant going open_ awake name hand none_
    refine ⟨_, launchSow_sows stands more round settled tenant going open_ awake name hand none_, ?_⟩
    obtain ⟨e, f, started⟩ := ctxAt_sowHand (s := s) (c := c) (i := i) (n := n) (k := k) (slot := l.entry) (pop := l.next) (b := l.budget)
      (regs := seededRegs l.budget [l.arg.toNat, l.next, l.size, ownBase, l.next % l.quota]) (priv := l.priv) (o := .launch d l.id l.next)
      (tgt := 0xF0)
    rw [ctxAt_updDie, started]
    refine ⟨rfl, rfl, rfl, rfl, rfl, rfl, fun j lt => ?_, ?_, rfl⟩
    · exact (seededRegs_getD _ _ lt).trans (by rw [launchSeeds l lt])
    · rw [dieAt_updDie_self, sread_sset_self]
  · intro s a due c i mode await retry
    refine ⟨fun m op again now => ?_, fun q crib now => ?_, retry_waits mode await retry⟩
    · obtain ⟨crofts, net⟩ := sendCroft_sent (unretried s a) c i m 1 op (.reply 0)
      have hand : ctxAt (sendCroft (unretried s a) c i m 1 op none (.reply 0)) c i = ctxAt (unretried s a) c i :=
        congrArg (fun cs => sread Context.empty (sread Croft.empty cs c).ctxs i) crofts
      refine ⟨_, feRetry_sends mode await retry again now, ?_, ?_⟩
      · rw [hand]; exact await_unretried s a
      · rw [agentOf_unretried] at net
        exact net
    · exact ⟨_, crtakeRetry_sends mode await retry crib now, await_unretried s a, rfl⟩

end Sys2Proof.Machine
end
